-- ==== Sys2Proof/Word.lean ====
section
/-! DEFINITION. The word types of the Follon FX-96 (R6) and nothing more. -/

namespace Sys2Proof

/-- A byte (R6). -/
abbrev Byte := BitVec 8
/-- A 32-bit word: an instruction word (R26) or a register's data bits (R16). -/
abbrev Word := BitVec 32
/-- A pair: 64 bits (R6). -/
abbrev DWord := BitVec 64
/-- A quad: 128 bits (R6). -/
abbrev QWord := BitVec 128
/-- A 64-byte coherence unit (R19). -/
abbrev Unit64 := BitVec 512
/-- A general-register field, an index from 0 to 127 (R28). -/
abbrev RegField := BitVec 7
/-- A guard or predicate field (R29). -/
abbrev PredField := BitVec 3

end Sys2Proof
end

