-- ==== Sys2Proof/Syntax.lean ====
section
/-! DEFINITION. The whole opcode table of the FX-96: one constructor for each row of spec/opcode_table.json.
The first 242 constructors are instruction words; their arguments are the word's variable fields (R27), from the high bit down,
named as the table names them (d destination, a and b sources, g guard, t type or tag, o offset, c map or Carousel, m qualifier).
The other 90 are the device's own steps and what reaches it from outside: their arguments are what the agent that causes the
step supplies (the host, the driver, the link, an engine's own free choice), so that one deterministic step function shows every run. -/

namespace Sys2Proof

/-- Who sends a response over the link: an agent, 0 the device's own L2, and the TAG of its header (R361, R362). -/
structure Sender where
  id  : Nat
  tag : Nat := 0
  deriving DecidableEq, Repr, Inhabited

/-- A scan-out surface: its address, and the bytes that it takes (R369). -/
structure Surface where
  addr : BitVec 64
  size : Nat
  deriving DecidableEq, Repr, Inhabited

/-- An instruction word of the FX-96, or one of its events. -/
inductive Instr where
  /-- R36: Clause header: waits until the selected completion flags are clear, then records the clause position and the result and source flags. -/
  | clause (w : BitVec 12) (a : BitVec 4) (b : BitVec 4) (l : BitVec 4) (y : BitVec 1)
  /-- R44: Loads an immediate payload into the hint latch for the modified instruction. -/
  | hintImm (p : BitVec 24)
  /-- R45: Loads the modifier fields (neg, abs, guard negate, sat, sx, order, scope, shift, rounding) into the hint latch. -/
  | hintMod (p : BitVec 19)
  /-- R46: Supplies a fourth register operand c, with optional negate and absolute value, to the modified instruction. -/
  | hintC (c : BitVec 7) (n : BitVec 1) (a : BitVec 1)
  /-- R47: Supplies operand holds, transient marking, issue gap and defer to the modified instruction. -/
  | hintSched (x : BitVec 1) (y : BitVec 1) (z : BitVec 1) (t : BitVec 1) (g : BitVec 4) (f : BitVec 1)
  /-- R135: PC-relative branch to the address of the word plus 4 times off23. -/
  | bra (g : BitVec 3) (o : BitVec 23)
  /-- R135: Pushes the return address on the call stack and branches PC-relative. -/
  | call (g : BitVec 3) (o : BitVec 23)
  /-- R144: Does nothing and takes one issue in slot C. -/
  | nop (g : BitVec 3)
  /-- R136: Indirect branch checked against a permitted-target table; records a regroup point. -/
  | brx (d : BitVec 7) (a : BitVec 7) (g : BitVec 3)
  /-- R136: Indirect call checked against a permitted-target table; pushes the return address and records a regroup point. -/
  | callx (d : BitVec 7) (a : BitVec 7) (g : BitVec 3)
  /-- R135: Pops a return address from the call stack and transfers to it. -/
  | ret (g : BitVec 3)
  /-- R140: Rendezvous that writes the mask of the named threads still alive. -/
  | split (d : BitVec 7) (a : BitVec 7) (g : BitVec 3)
  /-- R140: Rendezvous at which the named threads meet and continue together. -/
  | join (a : BitVec 7) (g : BitVec 3)
  /-- R142: Ends the thread unless work is pending; the last exit of an ensemble frees or hands on its resources. -/
  | exit (g : BitVec 3)
  /-- R143: Ends the thread as EXIT and names successor entry k, which is read and checked at the first such exit. -/
  | exitS (k : BitVec 3) (g : BitVec 3)
  /-- R144: Ends any persisting bundle; the thread is not a candidate in the next ac. -/
  | yield (g : BitVec 3)
  /-- R144: Makes the thread not ready for n to n+64 ac. -/
  | sleep (a : BitVec 7) (g : BitVec 3)
  /-- R344: Traps BREAKPOINT with code k. -/
  | bkpt (k : BitVec 7) (g : BitVec 3)
  /-- R344: Traps TRAP_INSTRUCTION with code k. -/
  | trap (k : BitVec 7) (g : BitVec 3)
  /-- R344: Returns from the trap handler to sr.hpc, restoring clause position and hint latch where they apply and arming step or skip. -/
  | eret (g : BitVec 3)
  /-- R344: Raises the context's halt line with HALT_REQUEST. -/
  | halt (g : BitVec 3)
  /-- R141: Rendezvous that sets a predicate in the contributor with the lowest lane. -/
  | elect (k : BitVec 3) (a : BitVec 7) (g : BitVec 3)
  /-- R93: Writes a sign-extended 16-bit immediate, or a 32-bit one with HINT.IMM. -/
  | movi (d : BitVec 7) (i : BitVec 16) (g : BitVec 3)
  /-- R94: Integer add with optional saturation; writes sr.carry. -/
  | iadd (d : BitVec 7) (a : BitVec 7) (b : BitVec 7) (g : BitVec 3)
  /-- R94: Integer subtract with optional saturation; writes sr.carry. -/
  | isub (d : BitVec 7) (a : BitVec 7) (b : BitVec 7) (g : BitVec 3)
  /-- R94: Low 32 bits of the integer product, with optional saturation. -/
  | imul (d : BitVec 7) (a : BitVec 7) (b : BitVec 7) (g : BitVec 3)
  /-- R94: High 32 bits of the signed or unsigned 64-bit product. -/
  | imulh (d : BitVec 7) (a : BitVec 7) (b : BitVec 7) (g : BitVec 3)
  /-- R95: Integer multiply-add into the old x[d]. -/
  | imad (d : BitVec 7) (a : BitVec 7) (b : BitVec 7) (g : BitVec 3)
  /-- R95: Widening multiply-add into a 64-bit pair. -/
  | imadw (d : BitVec 7) (a : BitVec 7) (b : BitVec 7) (g : BitVec 3)
  /-- R94: Integer add with carry-in from sr.carry; writes sr.carry. -/
  | iadc (d : BitVec 7) (a : BitVec 7) (b : BitVec 7) (g : BitVec 3)
  /-- R95: Adds a scaled 32-bit offset to a 64-bit address pair. -/
  | lea (d : BitVec 7) (a : BitVec 7) (b : BitVec 7) (g : BitVec 3)
  /-- R96: Signed minimum. -/
  | imin (d : BitVec 7) (a : BitVec 7) (b : BitVec 7) (g : BitVec 3)
  /-- R96: Unsigned minimum. -/
  | iminN (d : BitVec 7) (a : BitVec 7) (b : BitVec 7) (g : BitVec 3)
  /-- R96: Signed maximum. -/
  | imax (d : BitVec 7) (a : BitVec 7) (b : BitVec 7) (g : BitVec 3)
  /-- R96: Unsigned maximum. -/
  | imaxN (d : BitVec 7) (a : BitVec 7) (b : BitVec 7) (g : BitVec 3)
  /-- R97: Bitwise AND. -/
  | and (d : BitVec 7) (a : BitVec 7) (b : BitVec 7) (g : BitVec 3)
  /-- R97: Bitwise OR. -/
  | or (d : BitVec 7) (a : BitVec 7) (b : BitVec 7) (g : BitVec 3)
  /-- R97: Bitwise exclusive OR. -/
  | xor (d : BitVec 7) (a : BitVec 7) (b : BitVec 7) (g : BitVec 3)
  /-- R97: Bitwise a AND NOT b. -/
  | andn (d : BitVec 7) (a : BitVec 7) (b : BitVec 7) (g : BitVec 3)
  /-- R99: Shift left by a register count. -/
  | shl (d : BitVec 7) (a : BitVec 7) (b : BitVec 7) (g : BitVec 3)
  /-- R99: Logical shift right by a register count. -/
  | shr (d : BitVec 7) (a : BitVec 7) (b : BitVec 7) (g : BitVec 3)
  /-- R99: Arithmetic shift right by a register count. -/
  | sar (d : BitVec 7) (a : BitVec 7) (b : BitVec 7) (g : BitVec 3)
  /-- R99: Rotate left by a register count. -/
  | rot (d : BitVec 7) (a : BitVec 7) (b : BitVec 7) (g : BitVec 3)
  /-- R100: Zero-extending bit-field extract. -/
  | bfx (d : BitVec 7) (a : BitVec 7) (b : BitVec 7) (g : BitVec 3)
  /-- R100: Sign-extending bit-field extract. -/
  | bfxS (d : BitVec 7) (a : BitVec 7) (b : BitVec 7) (g : BitVec 3)
  /-- R100: Bit-field insert into the old x[d]. -/
  | bfi (d : BitVec 7) (a : BitVec 7) (b : BitVec 7) (g : BitVec 3)
  /-- R101: Bitwise select of a and b under a mask. -/
  | sel (d : BitVec 7) (a : BitVec 7) (b : BitVec 7) (g : BitVec 3)
  /-- R103: Integer compare writing a predicate. -/
  | icmp (k : BitVec 3) (c : BitVec 4) (a : BitVec 7) (b : BitVec 7) (g : BitVec 3)
  /-- R103: Unsigned integer compare writing a predicate. -/
  | icmpN (k : BitVec 3) (c : BitVec 4) (a : BitVec 7) (b : BitVec 7) (g : BitVec 3)
  /-- R103: Integer compare ANDed into a predicate. -/
  | icmpAnd (k : BitVec 3) (c : BitVec 4) (a : BitVec 7) (b : BitVec 7) (g : BitVec 3)
  /-- R103: Integer compare ORed into a predicate. -/
  | icmpOr (k : BitVec 3) (c : BitVec 4) (a : BitVec 7) (b : BitVec 7) (g : BitVec 3)
  /-- R93: Copies a register's bits and tag. -/
  | mov (d : BitVec 7) (a : BitVec 7) (g : BitVec 3)
  /-- R98: Integer absolute value. -/
  | iabs (d : BitVec 7) (a : BitVec 7) (g : BitVec 3)
  /-- R98: Integer negation. -/
  | ineg (d : BitVec 7) (a : BitVec 7) (g : BitVec 3)
  /-- R97: Bitwise complement. -/
  | not (d : BitVec 7) (a : BitVec 7) (g : BitVec 3)
  /-- R97: Population count. -/
  | popc (d : BitVec 7) (a : BitVec 7) (g : BitVec 3)
  /-- R97: Count of leading zero bits. -/
  | clz (d : BitVec 7) (a : BitVec 7) (g : BitVec 3)
  /-- R97: Bit reversal. -/
  | brev (d : BitVec 7) (a : BitVec 7) (g : BitVec 3)
  /-- R105: Signed 4-way 8-bit dot product accumulated into x[d]. -/
  | idot4 (d : BitVec 7) (a : BitVec 7) (b : BitVec 7) (g : BitVec 3)
  /-- R105: Unsigned 4-way 8-bit dot product accumulated into x[d]. -/
  | idot4N (d : BitVec 7) (a : BitVec 7) (b : BitVec 7) (g : BitVec 3)
  /-- R105: Signed 2-way 16-bit dot product accumulated into x[d]. -/
  | idot2 (d : BitVec 7) (a : BitVec 7) (b : BitVec 7) (g : BitVec 3)
  /-- R105: Signed by unsigned 4-way 8-bit dot product accumulated into x[d]. -/
  | idot4Sn (d : BitVec 7) (a : BitVec 7) (b : BitVec 7) (g : BitVec 3)
  /-- R104: Sets a predicate from a truth table of two predicates. -/
  | pset (k : BitVec 3) (t : BitVec 4) (i : BitVec 3) (j : BitVec 3) (g : BitVec 3)
  /-- R104: Copies the predicates into a general register. -/
  | ptox (d : BitVec 7) (g : BitVec 3)
  /-- R104: Sets p0-p6 from bits of a register. -/
  | xtop (a : BitVec 7) (g : BitVec 3)
  /-- R93: Integer add of a signed immediate; writes sr.carry. -/
  | iaddi (d : BitVec 7) (a : BitVec 7) (i : BitVec 9) (g : BitVec 3)
  /-- R99: Shift left by an immediate count. -/
  | shiftiShl (d : BitVec 7) (a : BitVec 7) (n : BitVec 5) (g : BitVec 3)
  /-- R99: Logical shift right by an immediate count. -/
  | shiftiShr (d : BitVec 7) (a : BitVec 7) (n : BitVec 5) (g : BitVec 3)
  /-- R99: Arithmetic shift right by an immediate count. -/
  | shiftiSar (d : BitVec 7) (a : BitVec 7) (n : BitVec 5) (g : BitVec 3)
  /-- R99: Rotate left by an immediate count. -/
  | shiftiRot (d : BitVec 7) (a : BitVec 7) (n : BitVec 5) (g : BitVec 3)
  /-- R93: Bitwise AND with a zero-extended immediate. -/
  | andi (d : BitVec 7) (a : BitVec 7) (i : BitVec 9) (g : BitVec 3)
  /-- R93: Bitwise OR with a zero-extended immediate. -/
  | ori (d : BitVec 7) (a : BitVec 7) (i : BitVec 9) (g : BitVec 3)
  /-- R113: F32 addition rounded once. -/
  | fadd (d : BitVec 7) (a : BitVec 7) (b : BitVec 7) (g : BitVec 3)
  /-- R113: F32 subtraction rounded once. -/
  | fsub (d : BitVec 7) (a : BitVec 7) (b : BitVec 7) (g : BitVec 3)
  /-- R113: F32 multiplication rounded once. -/
  | fmul (d : BitVec 7) (a : BitVec 7) (b : BitVec 7) (g : BitVec 3)
  /-- R113: Fused F32 multiply-add rounded once. -/
  | ffma (d : BitVec 7) (a : BitVec 7) (b : BitVec 7) (g : BitVec 3)
  /-- R114: F32 minimumNumber. -/
  | fmin (d : BitVec 7) (a : BitVec 7) (b : BitVec 7) (g : BitVec 3)
  /-- R114: F32 maximumNumber. -/
  | fmax (d : BitVec 7) (a : BitVec 7) (b : BitVec 7) (g : BitVec 3)
  /-- R115: Scales an F32 value by a power of two. -/
  | fscl (d : BitVec 7) (a : BitVec 7) (b : BitVec 7) (g : BitVec 3)
  /-- R116: Two packed half-precision products added exactly into an F32 accumulator. -/
  | fdot2 (d : BitVec 7) (a : BitVec 7) (b : BitVec 7) (g : BitVec 3)
  /-- R118: F32 compare writing a predicate. -/
  | fcmp (k : BitVec 3) (c : BitVec 4) (a : BitVec 7) (b : BitVec 7) (g : BitVec 3)
  /-- R118: F32 compare ANDed into a predicate. -/
  | fcmpAnd (k : BitVec 3) (c : BitVec 4) (a : BitVec 7) (b : BitVec 7) (g : BitVec 3)
  /-- R118: F32 compare ORed into a predicate. -/
  | fcmpOr (k : BitVec 3) (c : BitVec 4) (a : BitVec 7) (b : BitVec 7) (g : BitVec 3)
  /-- R119: Sets a predicate from the class of an F32 value against a class mask. -/
  | fcls (k : BitVec 3) (a : BitVec 7) (b : BitVec 7) (g : BitVec 3)
  /-- R123: Rounds to an integral F32 value under a completion flag. -/
  | frnd (d : BitVec 7) (a : BitVec 7) (g : BitVec 3)
  /-- R123: Fractional part of an F32 value. -/
  | ffrc (d : BitVec 7) (a : BitVec 7) (g : BitVec 3)
  /-- R123: Reciprocal estimate. -/
  | frcp (d : BitVec 7) (a : BitVec 7) (g : BitVec 3)
  /-- R123: Reciprocal square root estimate. -/
  | frsq (d : BitVec 7) (a : BitVec 7) (g : BitVec 3)
  /-- R123: Correctly rounded square root. -/
  | fsqrt (d : BitVec 7) (a : BitVec 7) (g : BitVec 3)
  /-- R123: Base-2 exponential. -/
  | fex2 (d : BitVec 7) (a : BitVec 7) (g : BitVec 3)
  /-- R123: Base-2 logarithm. -/
  | flg2 (d : BitVec 7) (a : BitVec 7) (g : BitVec 3)
  /-- R123: Sine of pi times x. -/
  | fsin (d : BitVec 7) (a : BitVec 7) (g : BitVec 3)
  /-- R123: Cosine of pi times x. -/
  | fcos (d : BitVec 7) (a : BitVec 7) (g : BitVec 3)
  /-- R120: Packed half-precision addition. -/
  | hadd2 (d : BitVec 7) (a : BitVec 7) (b : BitVec 7) (g : BitVec 3)
  /-- R120: Packed half-precision multiplication. -/
  | hmul2 (d : BitVec 7) (a : BitVec 7) (b : BitVec 7) (g : BitVec 3)
  /-- R120: Packed half-precision fused multiply-add. -/
  | hfma2 (d : BitVec 7) (a : BitVec 7) (b : BitVec 7) (g : BitVec 3)
  /-- R120: Packed half-precision subtraction. -/
  | hsub2 (d : BitVec 7) (a : BitVec 7) (b : BitVec 7) (g : BitVec 3)
  /-- R121: Packed half-precision minimumNumber. -/
  | hmin2 (d : BitVec 7) (a : BitVec 7) (b : BitVec 7) (g : BitVec 3)
  /-- R121: Packed half-precision maximumNumber. -/
  | hmax2 (d : BitVec 7) (a : BitVec 7) (b : BitVec 7) (g : BitVec 3)
  /-- R121: Packed half-precision compare writing two predicates. -/
  | hcmp2 (k : BitVec 3) (c : BitVec 4) (a : BitVec 7) (b : BitVec 7) (g : BitVec 3)
  /-- R82: Converts a register group to the destination tag with optional scale. -/
  | cvt (d : BitVec 7) (a : BitVec 7) (t : BitVec 4) (r : BitVec 3) (g : BitVec 3)
  /-- R82: Converts the upper half of the element group. -/
  | cvtHi (d : BitVec 7) (a : BitVec 7) (t : BitVec 4) (r : BitVec 3) (g : BitVec 3)
  /-- R82: Conversion reading or writing B32 as unsigned. -/
  | cvtN (d : BitVec 7) (a : BitVec 7) (t : BitVec 4) (r : BitVec 3) (g : BitVec 3)
  /-- R85: Packs two 16-bit halves into one register. -/
  | pack16 (d : BitVec 7) (a : BitVec 7) (b : BitVec 7) (g : BitVec 3)
  /-- R85: Packs two bytes above the old high half of x[d]. -/
  | pack8 (d : BitVec 7) (a : BitVec 7) (b : BitVec 7) (g : BitVec 3)
  /-- R85: Unpacks two 16-bit halves into a pair. -/
  | unpk16 (d : BitVec 7) (a : BitVec 7) (g : BitVec 3)
  /-- R85: Unpacks four bytes into a quad. -/
  | unpk8 (d : BitVec 7) (a : BitVec 7) (g : BitVec 3)
  /-- R86: Copies bits and sets the named tag without conversion. -/
  | tag (d : BitVec 7) (a : BitVec 7) (t : BitVec 4) (g : BitVec 3)
  /-- R86: Writes the tag of a register as a B32 value. -/
  | tagq (d : BitVec 7) (a : BitVec 7) (g : BitVec 3)
  /-- R87: 2:4 sparsity compression of four 16-bit elements. -/
  | spcH (d : BitVec 7) (a : BitVec 7) (g : BitVec 3)
  /-- R87: 2:4 sparsity compression of four 8-bit elements. -/
  | spcB (d : BitVec 7) (a : BitVec 7) (g : BitVec 3)
  /-- R88: Expands kept elements back to four with zeros. -/
  | spx (d : BitVec 7) (a : BitVec 7) (b : BitVec 7) (g : BitVec 3)
  /-- R141: Crew shuffle taking a value from a picked lane. -/
  | shflPick (d : BitVec 7) (a : BitVec 7) (b : BitVec 7) (g : BitVec 3)
  /-- R141: Crew shuffle rotating values toward lower lanes. -/
  | shflRotl (d : BitVec 7) (a : BitVec 7) (b : BitVec 7) (g : BitVec 3)
  /-- R141: Crew shuffle rotating values toward higher lanes. -/
  | shflRotr (d : BitVec 7) (a : BitVec 7) (b : BitVec 7) (g : BitVec 3)
  /-- R141: Crew shuffle exchanging with lane i XOR k. -/
  | shflSwap (d : BitVec 7) (a : BitVec 7) (b : BitVec 7) (g : BitVec 3)
  /-- R141: Sets a predicate true when every contributor's predicate is true. -/
  | voteAll (k : BitVec 3) (j : BitVec 3) (b : BitVec 7) (g : BitVec 3)
  /-- R141: Sets a predicate true when some contributor's predicate is true. -/
  | voteAny (k : BitVec 3) (j : BitVec 3) (b : BitVec 7) (g : BitVec 3)
  /-- R141: Writes the mask of contributors whose predicate is true. -/
  | voteBallot (d : BitVec 7) (j : BitVec 3) (b : BitVec 7) (g : BitVec 3)
  /-- R141: Writes the mask of contributors holding equal bits. -/
  | voteMatch (d : BitVec 7) (a : BitVec 7) (b : BitVec 7) (g : BitVec 3)
  /-- R141: Exact crew sum reduction. -/
  | reduxAdd (d : BitVec 7) (a : BitVec 7) (b : BitVec 7) (g : BitVec 3)
  /-- R141: Signed crew minimum reduction. -/
  | reduxMin (d : BitVec 7) (a : BitVec 7) (b : BitVec 7) (g : BitVec 3)
  /-- R141: Signed crew maximum reduction. -/
  | reduxMax (d : BitVec 7) (a : BitVec 7) (b : BitVec 7) (g : BitVec 3)
  /-- R141: Crew bitwise OR reduction. -/
  | reduxOr (d : BitVec 7) (a : BitVec 7) (b : BitVec 7) (g : BitVec 3)
  /-- R183: Global load of one register by type. -/
  | ld (d : BitVec 7) (s : BitVec 7) (t : BitVec 4) (o : BitVec 5) (g : BitVec 3)
  /-- R183: Global load of a pair. -/
  | ldw (d : BitVec 7) (s : BitVec 7) (t : BitVec 4) (o : BitVec 5) (g : BitVec 3)
  /-- R183: Global load of a quad. -/
  | ldq (d : BitVec 7) (s : BitVec 7) (t : BitVec 4) (o : BitVec 5) (g : BitVec 3)
  /-- R183: Global store of one register. -/
  | st (d : BitVec 7) (s : BitVec 7) (t : BitVec 4) (o : BitVec 5) (g : BitVec 3)
  /-- R183: Global store of a pair. -/
  | stw (d : BitVec 7) (s : BitVec 7) (t : BitVec 4) (o : BitVec 5) (g : BitVec 3)
  /-- R183: Global store of a quad. -/
  | stq (d : BitVec 7) (s : BitVec 7) (t : BitVec 4) (o : BitVec 5) (g : BitVec 3)
  /-- R183: Scratch load of one register. -/
  | lds (d : BitVec 7) (s : BitVec 7) (t : BitVec 4) (o : BitVec 5) (g : BitVec 3)
  /-- R183: Scratch store of one register. -/
  | sts (d : BitVec 7) (s : BitVec 7) (t : BitVec 4) (o : BitVec 5) (g : BitVec 3)
  /-- R183: Scratch load of a quad. -/
  | ldsq (d : BitVec 7) (s : BitVec 7) (t : BitVec 4) (o : BitVec 5) (g : BitVec 3)
  /-- R183: Scratch store of a quad. -/
  | stsq (d : BitVec 7) (s : BitVec 7) (t : BitVec 4) (o : BitVec 5) (g : BitVec 3)
  /-- R185: Waits for a full granule and loads it, leaving it full. -/
  | ldfeK (d : BitVec 7) (s : BitVec 7) (o : BitVec 5) (g : BitVec 3)
  /-- R185: Waits for a full granule, loads it and marks it empty. -/
  | ldfeC (d : BitVec 7) (s : BitVec 7) (o : BitVec 5) (g : BitVec 3)
  /-- R185: Stores a granule and marks it full. -/
  | stfe (d : BitVec 7) (s : BitVec 7) (o : BitVec 5) (g : BitVec 3)
  /-- R180: Loads one MX block and its scale atomically. -/
  | ldmx (d : BitVec 7) (s : BitVec 7) (t : BitVec 4) (o : BitVec 5) (g : BitVec 3)
  /-- R180: Stores one MX block and its scale atomically. -/
  | stmx (d : BitVec 7) (s : BitVec 7) (t : BitVec 4) (o : BitVec 5) (g : BitVec 3)
  /-- R193: Prefetches a block into the named cache level, never faulting. -/
  | pref (a : BitVec 7) (g : BitVec 3) (m : BitVec 2)
  /-- R193: Invalidates every line of the core's L1. -/
  | cctlInv (g : BitVec 3)
  /-- R193: Writes dirty data of a 64-byte unit back to memory. -/
  | cctlCln (a : BitVec 7) (g : BitVec 3)
  /-- R193: Cleans and invalidates a 64-byte unit. -/
  | cctlFlush (a : BitVec 7) (g : BitVec 3)
  /-- R193: Applies INV, CLN or FLUSH to every unit of a range. -/
  | cctlRange (d : BitVec 7) (a : BitVec 7) (g : BitVec 3) (m : BitVec 2)
  /-- R177: Constant-space load from the parameter block or .rodata. -/
  | ldc (d : BitVec 7) (s : BitVec 7) (t : BitVec 4) (o : BitVec 5) (g : BitVec 3)
  /-- R211: Atomic add returning the old value. -/
  | atomAdd (d : BitVec 7) (s : BitVec 7) (o : BitVec 5) (g : BitVec 3)
  /-- R211: Atomic signed minimum returning the old value. -/
  | atomMin (d : BitVec 7) (s : BitVec 7) (o : BitVec 5) (g : BitVec 3)
  /-- R211: Atomic signed maximum returning the old value. -/
  | atomMax (d : BitVec 7) (s : BitVec 7) (o : BitVec 5) (g : BitVec 3)
  /-- R211: Atomic unsigned minimum returning the old value. -/
  | atomMinN (d : BitVec 7) (s : BitVec 7) (o : BitVec 5) (g : BitVec 3)
  /-- R211: Atomic unsigned maximum returning the old value. -/
  | atomMaxN (d : BitVec 7) (s : BitVec 7) (o : BitVec 5) (g : BitVec 3)
  /-- R211: Atomic AND returning the old value. -/
  | atomAnd (d : BitVec 7) (s : BitVec 7) (o : BitVec 5) (g : BitVec 3)
  /-- R211: Atomic OR returning the old value. -/
  | atomOr (d : BitVec 7) (s : BitVec 7) (o : BitVec 5) (g : BitVec 3)
  /-- R211: Atomic XOR returning the old value. -/
  | atomXor (d : BitVec 7) (s : BitVec 7) (o : BitVec 5) (g : BitVec 3)
  /-- R211: Atomic exchange returning the old value. -/
  | atomExch (d : BitVec 7) (s : BitVec 7) (o : BitVec 5) (g : BitVec 3)
  /-- R211: Atomic wrapping increment returning the old value. -/
  | atomInc (d : BitVec 7) (s : BitVec 7) (o : BitVec 5) (g : BitVec 3)
  /-- R211: Atomic wrapping decrement returning the old value. -/
  | atomDec (d : BitVec 7) (s : BitVec 7) (o : BitVec 5) (g : BitVec 3)
  /-- R211: Atomic F32 add returning the old value. -/
  | atomFadd (d : BitVec 7) (s : BitVec 7) (o : BitVec 5) (g : BitVec 3)
  /-- R211: Atomic packed half-precision add returning the old value. -/
  | atomHadd2 (d : BitVec 7) (s : BitVec 7) (o : BitVec 5) (g : BitVec 3)
  /-- R211: Atomic add without return. -/
  | redAdd (d : BitVec 7) (s : BitVec 7) (o : BitVec 5) (g : BitVec 3)
  /-- R211: Atomic signed minimum without return. -/
  | redMin (d : BitVec 7) (s : BitVec 7) (o : BitVec 5) (g : BitVec 3)
  /-- R211: Atomic signed maximum without return. -/
  | redMax (d : BitVec 7) (s : BitVec 7) (o : BitVec 5) (g : BitVec 3)
  /-- R211: Atomic unsigned minimum without return. -/
  | redMinN (d : BitVec 7) (s : BitVec 7) (o : BitVec 5) (g : BitVec 3)
  /-- R211: Atomic unsigned maximum without return. -/
  | redMaxN (d : BitVec 7) (s : BitVec 7) (o : BitVec 5) (g : BitVec 3)
  /-- R211: Atomic AND without return. -/
  | redAnd (d : BitVec 7) (s : BitVec 7) (o : BitVec 5) (g : BitVec 3)
  /-- R211: Atomic OR without return. -/
  | redOr (d : BitVec 7) (s : BitVec 7) (o : BitVec 5) (g : BitVec 3)
  /-- R211: Atomic XOR without return. -/
  | redXor (d : BitVec 7) (s : BitVec 7) (o : BitVec 5) (g : BitVec 3)
  /-- R211: Atomic exchange without return. -/
  | redExch (d : BitVec 7) (s : BitVec 7) (o : BitVec 5) (g : BitVec 3)
  /-- R211: Atomic wrapping increment without return. -/
  | redInc (d : BitVec 7) (s : BitVec 7) (o : BitVec 5) (g : BitVec 3)
  /-- R211: Atomic wrapping decrement without return. -/
  | redDec (d : BitVec 7) (s : BitVec 7) (o : BitVec 5) (g : BitVec 3)
  /-- R211: Atomic F32 add without return. -/
  | redFadd (d : BitVec 7) (s : BitVec 7) (o : BitVec 5) (g : BitVec 3)
  /-- R211: Atomic packed half-precision add without return. -/
  | redHadd2 (d : BitVec 7) (s : BitVec 7) (o : BitVec 5) (g : BitVec 3)
  /-- R212: 32-bit compare-and-swap. -/
  | atomc (d : BitVec 7) (s : BitVec 7) (o : BitVec 5) (g : BitVec 3)
  /-- R212: 64-bit compare-and-swap. -/
  | atomc64 (d : BitVec 7) (s : BitVec 7) (o : BitVec 5) (g : BitVec 3)
  /-- R212: 128-bit compare-and-swap. -/
  | atomq (d : BitVec 7) (s : BitVec 7) (o : BitVec 5) (g : BitVec 3)
  /-- R214: Memory fence of the given order and scope; parks until its conditions hold. -/
  | fence (r : BitVec 2) (p : BitVec 3) (g : BitVec 3)
  /-- R224: Starts an asynchronous tensor copy from global memory to scratch. -/
  | cpyLd (d : BitVec 7) (a : BitVec 7) (c : BitVec 4) (g : BitVec 3) (s : BitVec 1)
  /-- R224: Starts an asynchronous tensor copy from scratch to global memory. -/
  | cpySt (d : BitVec 7) (a : BitVec 7) (c : BitVec 4) (g : BitVec 3) (s : BitVec 1)
  /-- R224: Starts an asynchronous copy from global memory to the tile reservation. -/
  | cpygG (d : BitVec 7) (a : BitVec 7) (c : BitVec 4) (g : BitVec 3) (s : BitVec 1)
  /-- R224: Starts an asynchronous copy from scratch to the tile reservation. -/
  | cpygS (d : BitVec 7) (a : BitVec 7) (c : BitVec 4) (g : BitVec 3) (s : BitVec 1)
  /-- R230: Parks until a range of chunk bits is set or the map's fault latch is set. -/
  | cwait (a : BitVec 7) (c : BitVec 4) (g : BitVec 3)
  /-- R231: Reads chunk bits or the map status word. -/
  | ctest (d : BitVec 7) (a : BitVec 7) (c : BitVec 4) (g : BitVec 3) (s : BitVec 1)
  /-- R240: Starts an asynchronous copy from global memory into an acquired Carousel stage. -/
  | cpyCb (d : BitVec 7) (a : BitVec 7) (c : BitVec 3) (g : BitVec 3) (s : BitVec 1)
  /-- R232: Cancels every in-flight copy of a map and empties its latch. -/
  | cpyc (c : BitVec 4) (g : BitVec 3)
  /-- R237: Configures or uninitialises a Carousel. -/
  | cbinit (a : BitVec 7) (c : BitVec 3) (g : BitVec 3) (v : BitVec 2)
  /-- R238: Parks for the head stage to be FREE and acquires it for the producer. -/
  | cbacq (d : BitVec 7) (c : BitVec 3) (g : BitVec 3) (v : BitVec 2)
  /-- R238: Commits an acquired stage as FULL. -/
  | cbcmt (a : BitVec 7) (c : BitVec 3) (g : BitVec 3) (v : BitVec 2)
  /-- R238: Parks for the tail stage to be FULL or FAULT and takes it. -/
  | cbwait (d : BitVec 7) (c : BitVec 3) (g : BitVec 3) (v : BitVec 2)
  /-- R238: Releases a held stage as FREE. -/
  | cbrel (a : BitVec 7) (c : BitVec 3) (g : BitVec 3) (v : BitVec 2)
  /-- R281: Troupe barrier. -/
  | bar (g : BitVec 3)
  /-- R281: Ensemble barrier. -/
  | ebar (g : BitVec 3)
  /-- R281: Arrives at the split barrier and returns its phase. -/
  | arrive (d : BitVec 7) (g : BitVec 3)
  /-- R281: Parks until the split barrier passes the given phase. -/
  | await (a : BitVec 7) (g : BitVec 3)
  /-- R158: Pushes a word onto a relay queue, parking while it is full. -/
  | qpush (a : BitVec 7) (q : BitVec 3) (g : BitVec 3)
  /-- R158: Pops a word from a relay queue, parking while it is empty. -/
  | qpop (d : BitVec 7) (q : BitVec 3) (g : BitVec 3)
  /-- R158: Reads a relay queue's count. -/
  | qpeek (d : BitVec 7) (q : BitVec 3) (g : BitVec 3)
  /-- R157: Binds or unbinds a relay queue to a scratch region. -/
  | qcfg (a : BitVec 7) (q : BitVec 3) (g : BitVec 3)
  /-- R247: SIMT masked matrix multiply-accumulate as a crew rendezvous. -/
  | mma (d : BitVec 7) (a : BitVec 7) (b : BitVec 7) (g : BitVec 3)
  /-- R248: SIMT matrix multiply-accumulate with a 2:4-sparse A. -/
  | mmas (d : BitVec 7) (a : BitVec 7) (b : BitVec 7) (g : BitVec 3)
  /-- R249: Rendezvous loading a matrix fragment group. -/
  | tld (d : BitVec 7) (a : BitVec 7) (b : BitVec 7) (g : BitVec 3)
  /-- R249: Rendezvous storing a matrix fragment group. -/
  | tst (d : BitVec 7) (a : BitVec 7) (b : BitVec 7) (g : BitVec 3)
  /-- R253: Switches the ensemble's core group into grid arrangement. -/
  | gridOn (g : BitVec 3)
  /-- R253: Drains the grid queue and returns to SIMT arrangement. -/
  | gridOff (g : BitVec 3)
  /-- R255: Writes sr.gang, naming the crews that issue each GMMA jointly. -/
  | gang (a : BitVec 7) (g : BitVec 3)
  /-- R257: Waits for the thread's writes, clears dirty bits and releases to the grid. -/
  | opfence (g : BitVec 3)
  /-- R258: Arrives at the gang latch and, when accepted, queues a grid matrix operation. -/
  | gmma (d : BitVec 7) (a : BitVec 7) (g : BitVec 3)
  /-- R260: GMMA with a triangular fill above a diagonal. -/
  | gmmat (d : BitVec 7) (a : BitVec 7) (g : BitVec 3)
  /-- R261: Queues a move from memory into an accumulator block. -/
  | gtld (d : BitVec 7) (a : BitVec 7) (g : BitVec 3)
  /-- R261: Queues a move from an accumulator block to memory. -/
  | gtst (d : BitVec 7) (a : BitVec 7) (g : BitVec 3)
  /-- R262: Parks until a grid sequence number is done, trapping on a latched fault. -/
  | gwait (a : BitVec 7) (g : BitVec 3)
  /-- R267: Queues a ray-box test of up to 64 rays against one node on the grid. -/
  | rboxG (d : BitVec 7) (a : BitVec 7) (g : BitVec 3)
  /-- R290: Writes a quad into the task troupe's payload staging. -/
  | tpay (d : BitVec 7) (a : BitVec 7) (g : BitVec 3)
  /-- R291: Copies the payload into a ring slot and queues N mesh ensembles. -/
  | tdisp (a : BitVec 7) (g : BitVec 3)
  /-- R294: Writes a vertex slot of the mesh output store. -/
  | mvtx (d : BitVec 7) (a : BitVec 7) (g : BitVec 3)
  /-- R294: Writes a primitive of the mesh output store. -/
  | mprim (d : BitVec 7) (a : BitVec 7) (g : BitVec 3)
  /-- R293: Sets the mesh troupe's vertex, primitive and attribute counts. -/
  | mcnt (a : BitVec 7) (g : BitVec 3)
  /-- R305: Reads the shade thread's captured visibility state or barycentrics. -/
  | visrd (d : BitVec 7) (g : BitVec 3) (m : BitVec 1)
  /-- R306: Interpolates a vertex attribute at the pixel centre. -/
  | attr (d : BitVec 7) (a : BitVec 7) (g : BitVec 3)
  /-- R307: Pixel-quad rendezvous forming a horizontal or vertical difference. -/
  | deriv (d : BitVec 7) (a : BitVec 7) (g : BitVec 3) (m : BitVec 1)
  /-- R311: Loads an image texel's raw bytes. -/
  | imld (d : BitVec 7) (a : BitVec 7) (g : BitVec 3)
  /-- R311: Stores an image texel's raw bytes. -/
  | imst (d : BitVec 7) (a : BitVec 7) (g : BitVec 3)
  /-- R310: Samples a texture with filtering and LOD selection. -/
  | tex (d : BitVec 7) (a : BitVec 7) (g : BitVec 3) (m : BitVec 2)
  /-- R311: Loads and decodes one texel. -/
  | tldi (d : BitVec 7) (a : BitVec 7) (g : BitVec 3)
  /-- R323: Tests a ray against the eight children of a node. -/
  | rbox (d : BitVec 7) (a : BitVec 7) (g : BitVec 3) (s : BitVec 1)
  /-- R325: Tests a ray against a triangle record. -/
  | rtri (d : BitVec 7) (a : BitVec 7) (g : BitVec 3) (s : BitVec 1)
  /-- R324: Reads a child reference from a node. -/
  | rnode (d : BitVec 7) (a : BitVec 7) (g : BitVec 3) (s : BitVec 1)
  /-- R328: Pins the current generation of a structure in a pin slot. -/
  | rpin (d : BitVec 7) (a : BitVec 7) (g : BitVec 3) (h : BitVec 1) (s : BitVec 1)
  /-- R328: Releases a pin slot's own pin and optionally the launch pin. -/
  | runpin (g : BitVec 3) (l : BitVec 1) (s : BitVec 1)
  /-- R328: Reads the root, generation and handle of a pin slot. -/
  | rgen (d : BitVec 7) (g : BitVec 3) (s : BitVec 1)
  /-- R331: Queues a Rigger command from a command block. -/
  | bld (a : BitVec 7) (g : BitVec 3)
  /-- R336: Reads a build status record as an acquire. -/
  | bldq (d : BitVec 7) (a : BitVec 7) (g : BitVec 3)
  /-- R336: Parks until a build command is DONE or FAILED. -/
  | bldw (a : BitVec 7) (g : BitVec 3)
  /-- R355: Posts a system call and waits for its completion. -/
  | syscallB (d : BitVec 7) (a : BitVec 7) (g : BitVec 3)
  /-- R355: Posts a system call without waiting. -/
  | syscallN (a : BitVec 7) (g : BitVec 3)
  /-- R355: Waits for the thread's outstanding system call. -/
  | syswait (d : BitVec 7) (g : BitVec 3)
  /-- R357: Allocates a block of the device heap. -/
  | alloc (d : BitVec 7) (a : BitVec 7) (g : BitVec 3)
  /-- R357: Returns a block to the device heap. -/
  | free (a : BitVec 7) (g : BitVec 3)
  /-- R351: Reads a special register. -/
  | rdsr (d : BitVec 7) (n : BitVec 7) (g : BitVec 3)
  /-- R351: Writes a special register. -/
  | wrsr (n : BitVec 7) (a : BitVec 7) (g : BitVec 3)
  /-- R284: Submits a launch packet from device code and returns its status. -/
  | launch (d : BitVec 7) (a : BitVec 7) (g : BitVec 3)
  /-- R285: Parks until a 64-bit counter reaches a value. -/
  | lwait (a : BitVec 7) (g : BitVec 3)
  /-- R172: Makes a loop head a mapping candidate. -/
  | mapHint (a : BitVec 7) (g : BitVec 3)
  /-- R172: Adds a head to the forbid list, or empties the list with a zero pair. -/
  | mapOff (a : BitVec 7) (g : BitVec 3)
  /-- R272 (event): A 128-byte store to a submission page is checked and answered ACCEPTED, ACCEPTED_DEFERRED, RETRY or REJECTED. -/
  | submission (page : Nat) (whole sameFc : Bool) (pkt : BitVec 1024)
  /-- R272 (event): Ringmaster firmware maps a user queue into a hardware queue slot and reads its pending packets. -/
  | queueMap (queue slot : Nat)
  /-- R272 (event): Ringmaster firmware unmaps a queue, writing its pending packets back to the memory image. -/
  | queueUnmap (queue : Nat)
  /-- R275 (event): The Ringmaster arbitrates among queues and places or restores a placeable ensemble. -/
  | placementOpportunity (cores : List Nat)
  /-- R273 (event): The Ringmaster notices a write to a launch's dependence counter and re-evaluates its placeability. -/
  | dependenceWrite (addr : Nat) (value : BitVec 64)
  /-- R149 (event): A partition's clear engine finishes clearing a troupe's registers and tile share, so its threads may issue. -/
  | registerClear (troupe : Nat)
  /-- R279 (event): When every ensemble of a launch has retired, the completion record and overflow record are written, the counter is released and pins are released. -/
  | launchCompletion (launch : Nat)
  /-- R286 (event): The driver requests pre-emption of a set of cores on a context switch. -/
  | preemptionRequest (ctx : Nat) (cores : List Nat)
  /-- R286 (event): A head ensemble has waited 8,192 fc for resources held by lower levels, and the Ringmaster makes a pre-emption request. -/
  | preemptStarvation (queue : Nat) (cores : List Nat)
  /-- R286 (event): Once victims have drained, their images are written, cores freed, victims charged and returned to their queues. -/
  | victimSave (ens : Nat)
  /-- R286 (event): Pre-emption steps unfinished 2^20 fc after the request halt the context. -/
  | preemptTimeout (ctx : Nat)
  /-- R343 (event): After a trapping thread's obligations complete, it enters the context's trap handler. -/
  | trapEntry (thread : Nat)
  /-- R347 (event): The context's halt line stops every engine within the skid; stop records and halt images are written and queues disabled. -/
  | haltLine (ctx : Nat)
  /-- R341 (event): The driver requests a halt of a context. -/
  | haltRequest (ctx : Nat)
  /-- R341 (event): A debug agent requests a halt through the Gaffer. -/
  | debugHalt (ctx : Nat)
  /-- R339 (event): The driver creates a context; the device reads and checks its descriptor, at an address, and formats the heap. -/
  | contextCreation (asid : BitVec 16) (desc : BitVec 64)
  /-- R339 (event): The driver posts a descriptor update, with the descriptor's address; breakpoints and watchpoints change and configurations are
  invalidated. -/
  | descriptorUpdate (ctx : Nat) (desc : BitVec 64)
  /-- R355 (event): The device notices the service's DONE or ABANDONED store and completes the waiting call. -/
  | syscallDone (thread : Nat) (result : BitVec 64) (status : BitVec 32)
  /-- R285 (event): The device notices a counter write that satisfies a parked LWAIT. -/
  | lwaitCounter (thread : Nat) (value : BitVec 64)
  /-- R186 (event): A thread parked at LDFE for 2^24 ac traps. -/
  | feWaitExpired (thread : Nat)
  /-- R189 (event): No response to a translation or page request within 2^28 fc halts the context. -/
  | translationLinkTimeout (tag : Nat)
  /-- R206 (event): A link acknowledgement or completion missing for 2^28 fc halts the context with LINK_PROTOCOL. -/
  | acknowledgementTimeout (tag : Nat)
  /-- R341 (event): A launch resident longer than WDOG × 2^20 fc halts its context. -/
  | watchdog (launch : Nat)
  /-- R144 (event): A sleeping thread's count has elapsed and it becomes ready. -/
  | sleepExpiry (thread : Nat)
  /-- R47 (event): A thread's HINT.SCHED issue gap has elapsed. -/
  | issueGapExpiry (thread : Nat)
  /-- R132 (event): A regroup hold of 64 ac ends and the thread becomes a candidate. -/
  | regroupHoldExpiry (thread : Nat)
  /-- R164 (event): A heat-table entry's count is cleared 65,536 ac after allocation or last clear. -/
  | heatEntryClear (core : Nat) (head : BitVec 64)
  /-- R165 (event): A refused head leaves the refusal table after 2^20 ac. -/
  | refusalExpiry (core : Nat) (head : BitVec 64)
  /-- R166 (event): Analysis of a candidate ends: it is refused or installed as a configuration, with a place among those that threads have entered
  longer ago. -/
  | mapperAnalysis (core ctx : Nat) (head : BitVec 64) (place : Nat)
  /-- R227 (event): The copy engine moves a granule of a copy, setting full bits and chunk bits as chunks complete. -/
  | copyGranuleWrite (copy granule : Nat)
  /-- R259 (event): The grid completes one K-slice step of a queued operation. -/
  | gridStep (ens : Nat)
  /-- R261 (event): The grid completes a GTLD, GTST or RBOX.G in its queue. -/
  | gridMove (ens : Nat)
  /-- R265 (event): The grid finishes its rows in flight and records NEXT. -/
  | gridDrain (ens : Nat)
  /-- R333 (event): A Rigger engine runs a queued command to publication or failure and writes its status. -/
  | riggerCommand (cmd : Nat) (tree : List (Nat × BitVec 8)) (root : BitVec 64) (memOk : Bool) (stats : List (BitVec 32))
  /-- R330 (event): A reclaiming generation's reads have completed; its record is cleared and its memory returned to the pool. -/
  | reclamation (ctx entry record : Nat)
  /-- R302 (event): A visibility resolver applies one bin record to its tile entries. -/
  | binRecord (pass record : Nat)
  /-- R303 (event): 600 fc after a tile becomes final, its shade threads and helpers are formed into shade ensembles. -/
  | shadeThreadFormation (pass tile : Nat) (order : List Nat) (sizes : List Nat)
  /-- R361 (event): A 256-byte flit is received, with the slots of it that hold payload; a CRC error is replayed by the adapter. -/
  | flit (crcOk recovered : Bool) (slots : List (BitVec 128))
  /-- R360 (event): The link trains at power-up or retrain, disabling modules that fail. -/
  | linkTraining (working : BitVec 16)
  /-- R360 (event): A retrain not complete within 2^24 fc halts every resident context. -/
  | retrainTimeout
  /-- R365 (event): The home receives a read allowing shared state. -/
  | rds (agent tag unit : Nat)
  /-- R365 (event): The home receives a read for ownership. -/
  | rdx (agent tag unit : Nat)
  /-- R366 (event): The home receives an ownership upgrade, served as RdX when the sender is no longer a sharer. -/
  | upg (agent tag unit : Nat)
  /-- R365 (event): The home receives a write-back of a dirty unit's stored granules. -/
  | wbm (agent tag unit : Nat) (granules : BitVec 4) (data : BitVec 512)
  /-- R365 (event): The home receives an uncached read. -/
  | rdu (agent tag unit : Nat)
  /-- R365 (event): The home receives an uncached write with byte enables. -/
  | wru (agent tag unit : Nat) (enables : BitVec 64) (data : BitVec 512)
  /-- R365 (event): The home receives a WC drain with byte enables. -/
  | wrc (agent tag unit : Nat) (enables : BitVec 64) (data : BitVec 512)
  /-- R362 (event): The home receives a system-scope atomic and answers with the old value. -/
  | atoms (agent tag addr : Nat) (op : BitVec 4) (compare new : BitVec 128)
  /-- R365 (event): Memory data arrives at the home and is sent with the granted state. -/
  | memoryData (unit : Nat)
  /-- R366 (event): A caching agent receives an invalidate snoop and answers. -/
  | snpinv (unit tag : Nat)
  /-- R366 (event): A caching agent receives a forward-shared snoop and sends data or RspI. -/
  | snpfwds (unit tag requester : Nat)
  /-- R366 (event): A caching agent receives a forward-exclusive snoop and sends data or RspI. -/
  | snpfwdx (unit tag requester : Nat)
  /-- R363 (event): A completion arrives, acknowledging a request and lowering the acknowledgement counter. -/
  | cmp (tag : Nat)
  /-- R365 (event): The home receives an agent's invalid response, with or without WBP. -/
  | rspi (agent : Sender) (unit : Nat) (wbp : Bool)
  /-- R365 (event): The home receives an agent's shared response. -/
  | rsps (agent : Sender) (unit : Nat)
  /-- R365 (event): The home learns a snooped cache has forwarded data to the requester. -/
  | rspfwd (agent : Sender) (unit : Nat) (kept : BitVec 3)
  /-- R365 (event): The home receives the requester's grant acknowledgement and closes the transaction. -/
  | gntack (agent : Sender) (unit : Nat)
  /-- R363 (event): Data granting S arrives; the requester answers with GntAck. -/
  | dats (tag : Nat) (data : BitVec 512)
  /-- R363 (event): Data granting E arrives; the requester answers with GntAck. -/
  | date (tag : Nat) (data : BitVec 512)
  /-- R363 (event): Data granting M arrives; the requester answers with GntAck. -/
  | datm (tag : Nat) (data : BitVec 512)
  /-- R363 (event): Data with no state arrives, answering RdU or AtomS. -/
  | datu (tag : Nat) (data : BitVec 512)
  /-- R189 (event): A translation response arrives and fills the TLBs, or reports not present. -/
  | xlrsp (tag : Nat) (present : Bool) (frame : Nat) (size : BitVec 3) (perms : BitVec 3) (policy : BitVec 2) (tracked : Bool)
  /-- R367 (event): A page request's response arrives; parked accesses retry or the context halts. -/
  | pgrsp (tag : Nat) (halt : Bool)
  /-- R368 (event): A translation invalidation arrives; matching TLB entries are dropped and overlapping requests marked stale. -/
  | xlinv (tag : Nat) (asid : BitVec 16) (base size : Nat)
  /-- R368 (event): Once every access using a dropped translation is performed, the invalidation completion is sent. -/
  | xlinvcmp (tag : Nat)
  /-- R369 (event): The display engine reports it has latched a presented surface. -/
  | presentcmp (tag : Nat)
  /-- R377 (event): CMD 1 moves the Gaffer from ON to DRAINING, pre-empting every context. -/
  | powerOff
  /-- R377 (event): CMD 2 moves the Gaffer from OFF to VERIFY and reads the firmware image. -/
  | powerOn
  /-- R371 (event): CMD 0 or 3 does nothing. -/
  | cmdNoAction (cmd : BitVec 2)
  /-- R377 (event): Every image is written; queues are unmapped and the compute domain loses power. -/
  | drainDone
  /-- R377 (event): Firmware verification ends: BRINGUP on success, OFF with FWFAIL on failure. -/
  | firmwareVerify (ed25519 mlDsa : Bool) (version floor : BitVec 32)
  /-- R378 (event): A function sets its readiness bit; when all are set the state becomes ON. -/
  | functionReady (which : Nat)
  /-- R371 (event): A write of ones to MBOX clears those mailbox bits. -/
  | mboxClear (ones : BitVec 5)
  /-- R173 (event): Writing 1 to CLEAR zeroes every mapper counter and LASTREF. -/
  | mctrClear (core : Nat) (bit : Bool)
  /-- R371 (event): A write to a register without its own row sets its RW fields, clamped to range. -/
  | gafferRegisterWrite (offset : Nat) (value : BitVec 64)
  /-- R372 (event): Every 1 ms the package arbiter grants power and the Gaffer sets clock, cadence and band gating. -/
  | powerArbitration (grant clock : Nat) (cads : List Nat)
  /-- R374 (event): Every 1 ms the Gaffer moves voltage and frequency toward the replay target. -/
  | replayRateAdjust (voltage clock : Nat)
  /-- R374 (event): A lane detects a timing error and replays the stage, halting if the replay does not clear it. -/
  | timingError (core : Nat) (cleared storage : Bool)
  /-- R375 (event): A compute-rail phase fails; PHASES, ILIM and DERATED change and the grant is capped. -/
  | phaseLoss (phase : Nat)
  /-- R376 (event): A sensor above 105 °C sets the lowest clock and greatest CAD. -/
  | thermalThrottle (sensor : Nat) (temp : BitVec 16)
  /-- R376 (event): A sensor above 110 °C halts every resident context. -/
  | thermalEmergency (sensor : Nat) (temp : BitVec 16)
  /-- R194 (event): An uncorrectable on-core SRAM error halts the context. -/
  | sramUncorrectable (core : Nat)
  /-- R32 (event): A fetched word whose major opcode is 0x3F, or whose sub, minor, kind or operation code is unassigned, traps ILLEGAL_OPCODE. -/
  | illegalOpcode
  /-- R37 (event): A flagged obligation completes some time after issue: a load's data or a FUNARY, matrix or fragment result is written, or a source is read, and the clause's completion flag count falls by 1. -/
  | obligationMet (thread index : Nat) (fromL1 : Bool)
  /-- R198 (event): A store, atomic or STMX is performed at its home L2 slice or scratch bank and reaches its visibility point, which lets parked fences and releases proceed. -/
  | visibilityPoint (thread index : Nat)
  /-- R272 (event): The driver creates a user queue, giving its submission page and the size and address of the ring of its memory image. -/
  | queueCreation (ctx page ring base : Nat)
  /-- R271 (event): The driver disables a user queue, after which its submissions are rejected with QUEUE_DISABLED. -/
  | queueDisable (queue : Nat)
  /-- R347 (event): The driver destroys a context, usually a halted one whose records it has read. -/
  | contextDestruction (ctx : Nat)
  /-- R379 (event): The memory island gains power: the Gaffer block takes its reset values, the Dailies start empty and Gaffer time starts from zero. -/
  | memoryIslandPowerUp
  /-- R369 (event): The device sends a Present message naming a surface and display plane after a release at .SY that covers the surface's writes. -/
  | present (ctx : Nat) (surface : Surface) (plane : Nat)
  deriving DecidableEq, Repr, Inhabited

/-- What moves in one turn of the device: a thread or a bundle the picker issues (R129), an event, or a cache that by its own choice takes a unit from the
memory island, gives one up, or drops a granule of an L1 (R187, R364). -/
inductive Act where
  | issue (thread : Nat)
  | bundle (threads : List Nat)             -- R129: several threads of a PC group issue their one next word together
  | event (i : Instr)
  | allocate (unit : Nat)
  | evict (unit : Nat)
  | dropL1 (core granule : Nat)
  | dataCheck (sector : Nat) (bad : Bool)   -- R194: the data of a sector fail their check from now on, or no longer
  | storeCheck (thread index : Nat)         -- R194: the data of a store that is on its way fail theirs
  | readSource (thread index word : Nat)    -- R39: a store reads one of its data registers later than at its issue
  | readOwed (thread index word : Nat)      -- R39: so does a matrix product, MVTX or MPRIM whose obligation stands
  | clearFault (troupe part : Nat)          -- R150: a clear engine's write check fails
  | land (thread index mask : Nat)          -- R37, R39: an obligation writes some of its registers, and others later
  | bindNow (thread index : Nat)            -- R208: a pending load binds, past the L1
  | showNow (thread index : Nat)            -- R208: a store or atomic reaches its visibility point
  | sample (thread index mask : Nat)        -- R311: a TEX reads some of its texels, and others later
  | copyCheck (copy granule : Nat)          -- R194: the data of a copy's store fail their check
  | gridCheck (ens : Nat)                   -- R194: so do those of the GTST that the grid is at
  | scramble (ctx entry addr n : Nat)       -- R314: bytes of the pool of a structure that is unpredictable change
  | sense (sensor : Nat) (temp : BitVec 16) -- R371: what a temperature sensor reads
  | transmit (i : Nat)                      -- R362: the link controller sends a message that has been handed to it
  | credit (cls n : Nat)                    -- R362: the host die's end gives credits of a class
  deriving DecidableEq, Repr, Inhabited

/-- One turn: the ac, the fc and the microseconds that pass before it (no fixed ratio converts them, R8), what moves, and whether its reads take what an
L1 still holds where they may (R187). -/
structure Turn where
  dt  : Nat := 1
  df  : Nat := 1
  us  : Nat := 0
  act : Act
  l1  : Bool := false
  deriving DecidableEq, Repr, Inhabited

end Sys2Proof
end

