-- ==== Sys2Proof/WellFormed.lean ====
section
/-! DEFINITION. What a well-formed instruction is: its fields hold only values that R30, R40, R45, R49 and the form tables assign. Registers
at or beyond a thread's count, formats an instruction does not admit and every other operand cause are the machine's to find. -/

namespace Sys2Proof

/-- R40: fa and fb are 0 to 11, or 15 for none. -/
def Instr.flagFieldOk (f : BitVec 4) : Bool := decide (f.toNat < 12) || f == 15#4

/-- The register and value fields of an instruction word hold assigned values; an event's operands name what can exist. -/
def Instr.wellFormed (i : Instr) : Bool :=
  match i with
  | .clause _ a b _ _ => Instr.flagFieldOk a && Instr.flagFieldOk b              -- R40
  | .hintMod p => decide (p.toNat / 2 ^ 7 % 8 < 6) && decide (p.toNat % 8 < 6)    -- R45: scp and rnd
  | .icmp _ c _ _ _ | .icmpN _ c _ _ _ | .icmpAnd _ c _ _ _ | .icmpOr _ c _ _ _ => decide (c.toNat < 12)   -- R102
  | .fcmp _ c _ _ _ | .fcmpAnd _ c _ _ _ | .fcmpOr _ c _ _ _ => decide (c.toNat < 14)                       -- R117
  | .hcmp2 k c _ _ _ => decide (c.toNat < 14) && decide (k.toNat % 2 = 0)        -- R117, R121
  | .cvt _ _ _ r _ | .cvtHi _ _ _ r _ | .cvtN _ _ _ r _ => decide (r.toNat < 5)   -- R49
  | .pref _ _ m => decide (m.toNat < 3)                                          -- R181
  | .cctlRange _ _ _ m => decide (m.toNat < 3)                                   -- R181
  | .fence _ p _ => decide (p.toNat < 5)                                         -- R49
  | .tex _ _ _ m => decide (m.toNat < 3)                                         -- R287
  | .rpin _ a _ h _ => h == 1#1 || a == 0#7                                      -- R320
  | .cmdNoAction cmd => cmd == 0#2 || cmd == 3#2                                 -- R371
  | _ => true

end Sys2Proof
end

