-- ==== Sys2Proof/Decode.lean ====
section
/-! DEFINITION. The decoder: a 32-bit word, as the number its bits make, to an instruction or the cause that R32 gives it (R27 to R32, R48
to R50). After it the encoder, written from the same fields; the events of the opcode table have no encoding. -/

namespace Sys2Proof

/-- The two decode causes that one word can carry by itself (R32, R33). -/
inductive DecodeError where
  | illegalOpcode | reservedField
  deriving DecidableEq, Repr

/-- Bits lo to lo + n - 1 of a word. -/
def fld (w lo n : Nat) : Nat := w / 2 ^ lo % 2 ^ n

/-- The same bits as a field. -/
def bits (w lo n : Nat) : BitVec n := BitVec.ofNat n (w / 2 ^ lo)

/-- The instruction, where its reserved bits are zero and its fields hold assigned values (R32). -/
def reserve (ok : Bool) (i : Instr) : Except DecodeError Instr := if ok then .ok i else .error .reservedField

/-- fa and fb: 0 to 11, or 15 for none (R27, R40). -/
def flagCode (f : Nat) : Bool := decide (f < 12) || f == 15

/-- Major 0x00 (R48). -/
def decodeClause (w : Nat) : Except DecodeError Instr :=
  reserve (fld w 0 1 == 0 && flagCode (fld w 10 4) && flagCode (fld w 6 4)) (.clause (bits w 14 12) (bits w 10 4) (bits w 6 4) (bits w 2 4) (bits w 1 1))

/-- Major 0x01 (R48). -/
def decodeHint (w : Nat) : Except DecodeError Instr :=
  match fld w 24 2 with
  | 0 => .ok (.hintImm (bits w 0 24))
  | 1 => reserve (fld w 0 5 == 0 && decide (fld w 12 3 < 6) && decide (fld w 5 3 < 6)) (.hintMod (bits w 5 19))
  | 2 => reserve (fld w 0 15 == 0) (.hintC (bits w 17 7) (bits w 16 1) (bits w 15 1))
  | _ => reserve (fld w 0 15 == 0) (.hintSched (bits w 23 1) (bits w 22 1) (bits w 21 1) (bits w 20 1) (bits w 16 4) (bits w 15 1))

/-- Major 0x02 (R48). -/
def decodeBra (w : Nat) : Except DecodeError Instr :=
  .ok (.bra (bits w 23 3) (bits w 0 23))

/-- Major 0x03 (R48). -/
def decodeCall (w : Nat) : Except DecodeError Instr :=
  .ok (.call (bits w 23 3) (bits w 0 23))

/-- Major 0x04 (R48). -/
def decodeCtrl (w : Nat) : Except DecodeError Instr :=
  match fld w 5 7 with
  | 0 => reserve (fld w 0 2 == 0 && fld w 12 14 == 0) (.nop (bits w 2 3))
  | 1 => reserve (fld w 0 2 == 0) (.brx (bits w 19 7) (bits w 12 7) (bits w 2 3))
  | 2 => reserve (fld w 0 2 == 0) (.callx (bits w 19 7) (bits w 12 7) (bits w 2 3))
  | 3 => reserve (fld w 0 2 == 0 && fld w 12 14 == 0) (.ret (bits w 2 3))
  | 4 => reserve (fld w 0 2 == 0) (.split (bits w 19 7) (bits w 12 7) (bits w 2 3))
  | 5 => reserve (fld w 0 2 == 0 && fld w 19 7 == 0) (.join (bits w 12 7) (bits w 2 3))
  | 6 => reserve (fld w 0 2 == 0 && fld w 12 14 == 0) (.exit (bits w 2 3))
  | 7 => reserve (fld w 0 2 == 0 && fld w 12 7 == 0 && fld w 22 4 == 0) (.exitS (bits w 19 3) (bits w 2 3))
  | 8 => reserve (fld w 0 2 == 0 && fld w 12 14 == 0) (.yield (bits w 2 3))
  | 9 => reserve (fld w 0 2 == 0 && fld w 19 7 == 0) (.sleep (bits w 12 7) (bits w 2 3))
  | 10 => reserve (fld w 0 2 == 0 && fld w 12 7 == 0) (.bkpt (bits w 19 7) (bits w 2 3))
  | 11 => reserve (fld w 0 2 == 0 && fld w 12 7 == 0) (.trap (bits w 19 7) (bits w 2 3))
  | 12 => reserve (fld w 0 2 == 0 && fld w 12 14 == 0) (.eret (bits w 2 3))
  | 13 => reserve (fld w 0 2 == 0 && fld w 12 14 == 0) (.halt (bits w 2 3))
  | 14 => reserve (fld w 0 2 == 0 && fld w 19 4 == 0) (.elect (bits w 23 3) (bits w 12 7) (bits w 2 3))
  | _ => .error .illegalOpcode

/-- Major 0x05 (R48). -/
def decodeMovi (w : Nat) : Except DecodeError Instr :=
  .ok (.movi (bits w 19 7) (bits w 3 16) (bits w 0 3))

/-- Major 0x06 (R48). -/
def decodeIarith (w : Nat) : Except DecodeError Instr :=
  match fld w 0 2 with
  | 0 => .ok (.iadd (bits w 19 7) (bits w 12 7) (bits w 5 7) (bits w 2 3))
  | 1 => .ok (.isub (bits w 19 7) (bits w 12 7) (bits w 5 7) (bits w 2 3))
  | 2 => .ok (.imul (bits w 19 7) (bits w 12 7) (bits w 5 7) (bits w 2 3))
  | _ => .ok (.imulh (bits w 19 7) (bits w 12 7) (bits w 5 7) (bits w 2 3))

/-- Major 0x07 (R48). -/
def decodeImadd (w : Nat) : Except DecodeError Instr :=
  match fld w 0 2 with
  | 0 => .ok (.imad (bits w 19 7) (bits w 12 7) (bits w 5 7) (bits w 2 3))
  | 1 => .ok (.imadw (bits w 19 7) (bits w 12 7) (bits w 5 7) (bits w 2 3))
  | 2 => .ok (.iadc (bits w 19 7) (bits w 12 7) (bits w 5 7) (bits w 2 3))
  | _ => .ok (.lea (bits w 19 7) (bits w 12 7) (bits w 5 7) (bits w 2 3))

/-- Major 0x08 (R48). -/
def decodeIminmax (w : Nat) : Except DecodeError Instr :=
  match fld w 0 2 with
  | 0 => .ok (.imin (bits w 19 7) (bits w 12 7) (bits w 5 7) (bits w 2 3))
  | 1 => .ok (.iminN (bits w 19 7) (bits w 12 7) (bits w 5 7) (bits w 2 3))
  | 2 => .ok (.imax (bits w 19 7) (bits w 12 7) (bits w 5 7) (bits w 2 3))
  | _ => .ok (.imaxN (bits w 19 7) (bits w 12 7) (bits w 5 7) (bits w 2 3))

/-- Major 0x09 (R48). -/
def decodeLogic (w : Nat) : Except DecodeError Instr :=
  match fld w 0 2 with
  | 0 => .ok (.and (bits w 19 7) (bits w 12 7) (bits w 5 7) (bits w 2 3))
  | 1 => .ok (.or (bits w 19 7) (bits w 12 7) (bits w 5 7) (bits w 2 3))
  | 2 => .ok (.xor (bits w 19 7) (bits w 12 7) (bits w 5 7) (bits w 2 3))
  | _ => .ok (.andn (bits w 19 7) (bits w 12 7) (bits w 5 7) (bits w 2 3))

/-- Major 0x0A (R48). -/
def decodeShift (w : Nat) : Except DecodeError Instr :=
  match fld w 0 2 with
  | 0 => .ok (.shl (bits w 19 7) (bits w 12 7) (bits w 5 7) (bits w 2 3))
  | 1 => .ok (.shr (bits w 19 7) (bits w 12 7) (bits w 5 7) (bits w 2 3))
  | 2 => .ok (.sar (bits w 19 7) (bits w 12 7) (bits w 5 7) (bits w 2 3))
  | _ => .ok (.rot (bits w 19 7) (bits w 12 7) (bits w 5 7) (bits w 2 3))

/-- Major 0x0B (R48). -/
def decodeBitf (w : Nat) : Except DecodeError Instr :=
  match fld w 0 2 with
  | 0 => .ok (.bfx (bits w 19 7) (bits w 12 7) (bits w 5 7) (bits w 2 3))
  | 1 => .ok (.bfxS (bits w 19 7) (bits w 12 7) (bits w 5 7) (bits w 2 3))
  | 2 => .ok (.bfi (bits w 19 7) (bits w 12 7) (bits w 5 7) (bits w 2 3))
  | _ => .ok (.sel (bits w 19 7) (bits w 12 7) (bits w 5 7) (bits w 2 3))

/-- Major 0x0C (R48). -/
def decodeIcmp (w : Nat) : Except DecodeError Instr :=
  match fld w 0 2 with
  | 0 => reserve (decide (fld w 19 4 < 12)) (.icmp (bits w 23 3) (bits w 19 4) (bits w 12 7) (bits w 5 7) (bits w 2 3))
  | 1 => reserve (decide (fld w 19 4 < 12)) (.icmpN (bits w 23 3) (bits w 19 4) (bits w 12 7) (bits w 5 7) (bits w 2 3))
  | 2 => reserve (decide (fld w 19 4 < 12)) (.icmpAnd (bits w 23 3) (bits w 19 4) (bits w 12 7) (bits w 5 7) (bits w 2 3))
  | _ => reserve (decide (fld w 19 4 < 12)) (.icmpOr (bits w 23 3) (bits w 19 4) (bits w 12 7) (bits w 5 7) (bits w 2 3))

/-- Major 0x0D (R48). -/
def decodeIunary (w : Nat) : Except DecodeError Instr :=
  match fld w 5 7 with
  | 0 => reserve (fld w 0 2 == 0) (.mov (bits w 19 7) (bits w 12 7) (bits w 2 3))
  | 1 => reserve (fld w 0 2 == 0) (.iabs (bits w 19 7) (bits w 12 7) (bits w 2 3))
  | 2 => reserve (fld w 0 2 == 0) (.ineg (bits w 19 7) (bits w 12 7) (bits w 2 3))
  | 3 => reserve (fld w 0 2 == 0) (.not (bits w 19 7) (bits w 12 7) (bits w 2 3))
  | 4 => reserve (fld w 0 2 == 0) (.popc (bits w 19 7) (bits w 12 7) (bits w 2 3))
  | 5 => reserve (fld w 0 2 == 0) (.clz (bits w 19 7) (bits w 12 7) (bits w 2 3))
  | 6 => reserve (fld w 0 2 == 0) (.brev (bits w 19 7) (bits w 12 7) (bits w 2 3))
  | _ => .error .illegalOpcode

/-- Major 0x0E (R48). -/
def decodeIdot (w : Nat) : Except DecodeError Instr :=
  match fld w 0 2 with
  | 0 => .ok (.idot4 (bits w 19 7) (bits w 12 7) (bits w 5 7) (bits w 2 3))
  | 1 => .ok (.idot4N (bits w 19 7) (bits w 12 7) (bits w 5 7) (bits w 2 3))
  | 2 => .ok (.idot2 (bits w 19 7) (bits w 12 7) (bits w 5 7) (bits w 2 3))
  | _ => .ok (.idot4Sn (bits w 19 7) (bits w 12 7) (bits w 5 7) (bits w 2 3))

/-- Major 0x0F (R48). -/
def decodePred (w : Nat) : Except DecodeError Instr :=
  match fld w 5 7 with
  | 0 => reserve (fld w 0 2 == 0 && fld w 12 1 == 0) (.pset (bits w 23 3) (bits w 19 4) (bits w 16 3) (bits w 13 3) (bits w 2 3))
  | 1 => reserve (fld w 0 2 == 0 && fld w 12 7 == 0) (.ptox (bits w 19 7) (bits w 2 3))
  | 2 => reserve (fld w 0 2 == 0 && fld w 19 7 == 0) (.xtop (bits w 12 7) (bits w 2 3))
  | _ => .error .illegalOpcode

/-- Major 0x10 (R48). -/
def decodeIaddi (w : Nat) : Except DecodeError Instr :=
  .ok (.iaddi (bits w 19 7) (bits w 12 7) (bits w 3 9) (bits w 0 3))

/-- Major 0x11 (R48). -/
def decodeShifti (w : Nat) : Except DecodeError Instr :=
  match fld w 10 2 with
  | 0 => reserve (fld w 8 2 == 0) (.shiftiShl (bits w 19 7) (bits w 12 7) (bits w 3 5) (bits w 0 3))
  | 1 => reserve (fld w 8 2 == 0) (.shiftiShr (bits w 19 7) (bits w 12 7) (bits w 3 5) (bits w 0 3))
  | 2 => reserve (fld w 8 2 == 0) (.shiftiSar (bits w 19 7) (bits w 12 7) (bits w 3 5) (bits w 0 3))
  | _ => reserve (fld w 8 2 == 0) (.shiftiRot (bits w 19 7) (bits w 12 7) (bits w 3 5) (bits w 0 3))

/-- Major 0x12 (R48). -/
def decodeAndi (w : Nat) : Except DecodeError Instr :=
  .ok (.andi (bits w 19 7) (bits w 12 7) (bits w 3 9) (bits w 0 3))

/-- Major 0x13 (R48). -/
def decodeOri (w : Nat) : Except DecodeError Instr :=
  .ok (.ori (bits w 19 7) (bits w 12 7) (bits w 3 9) (bits w 0 3))

/-- Major 0x14 (R48). -/
def decodeFarith (w : Nat) : Except DecodeError Instr :=
  match fld w 0 2 with
  | 0 => .ok (.fadd (bits w 19 7) (bits w 12 7) (bits w 5 7) (bits w 2 3))
  | 1 => .ok (.fsub (bits w 19 7) (bits w 12 7) (bits w 5 7) (bits w 2 3))
  | 2 => .ok (.fmul (bits w 19 7) (bits w 12 7) (bits w 5 7) (bits w 2 3))
  | _ => .ok (.ffma (bits w 19 7) (bits w 12 7) (bits w 5 7) (bits w 2 3))

/-- Major 0x15 (R48). -/
def decodeFminmax (w : Nat) : Except DecodeError Instr :=
  match fld w 0 2 with
  | 0 => .ok (.fmin (bits w 19 7) (bits w 12 7) (bits w 5 7) (bits w 2 3))
  | 1 => .ok (.fmax (bits w 19 7) (bits w 12 7) (bits w 5 7) (bits w 2 3))
  | 2 => .ok (.fscl (bits w 19 7) (bits w 12 7) (bits w 5 7) (bits w 2 3))
  | _ => .ok (.fdot2 (bits w 19 7) (bits w 12 7) (bits w 5 7) (bits w 2 3))

/-- Major 0x16 (R48). -/
def decodeFcmp (w : Nat) : Except DecodeError Instr :=
  match fld w 0 2 with
  | 0 => reserve (decide (fld w 19 4 < 14)) (.fcmp (bits w 23 3) (bits w 19 4) (bits w 12 7) (bits w 5 7) (bits w 2 3))
  | 1 => reserve (decide (fld w 19 4 < 14)) (.fcmpAnd (bits w 23 3) (bits w 19 4) (bits w 12 7) (bits w 5 7) (bits w 2 3))
  | 2 => reserve (decide (fld w 19 4 < 14)) (.fcmpOr (bits w 23 3) (bits w 19 4) (bits w 12 7) (bits w 5 7) (bits w 2 3))
  | _ => reserve (fld w 19 4 == 0) (.fcls (bits w 23 3) (bits w 12 7) (bits w 5 7) (bits w 2 3))

/-- Major 0x17 (R48). -/
def decodeFunary (w : Nat) : Except DecodeError Instr :=
  match fld w 5 7 with
  | 0 => reserve (fld w 0 2 == 0) (.frnd (bits w 19 7) (bits w 12 7) (bits w 2 3))
  | 1 => reserve (fld w 0 2 == 0) (.ffrc (bits w 19 7) (bits w 12 7) (bits w 2 3))
  | 2 => reserve (fld w 0 2 == 0) (.frcp (bits w 19 7) (bits w 12 7) (bits w 2 3))
  | 3 => reserve (fld w 0 2 == 0) (.frsq (bits w 19 7) (bits w 12 7) (bits w 2 3))
  | 4 => reserve (fld w 0 2 == 0) (.fsqrt (bits w 19 7) (bits w 12 7) (bits w 2 3))
  | 5 => reserve (fld w 0 2 == 0) (.fex2 (bits w 19 7) (bits w 12 7) (bits w 2 3))
  | 6 => reserve (fld w 0 2 == 0) (.flg2 (bits w 19 7) (bits w 12 7) (bits w 2 3))
  | 7 => reserve (fld w 0 2 == 0) (.fsin (bits w 19 7) (bits w 12 7) (bits w 2 3))
  | 8 => reserve (fld w 0 2 == 0) (.fcos (bits w 19 7) (bits w 12 7) (bits w 2 3))
  | _ => .error .illegalOpcode

/-- Major 0x18 (R48). -/
def decodeHarith (w : Nat) : Except DecodeError Instr :=
  match fld w 0 2 with
  | 0 => .ok (.hadd2 (bits w 19 7) (bits w 12 7) (bits w 5 7) (bits w 2 3))
  | 1 => .ok (.hmul2 (bits w 19 7) (bits w 12 7) (bits w 5 7) (bits w 2 3))
  | 2 => .ok (.hfma2 (bits w 19 7) (bits w 12 7) (bits w 5 7) (bits w 2 3))
  | _ => .ok (.hsub2 (bits w 19 7) (bits w 12 7) (bits w 5 7) (bits w 2 3))

/-- Major 0x19 (R48). -/
def decodeHmisc (w : Nat) : Except DecodeError Instr :=
  match fld w 0 2 with
  | 0 => .ok (.hmin2 (bits w 19 7) (bits w 12 7) (bits w 5 7) (bits w 2 3))
  | 1 => .ok (.hmax2 (bits w 19 7) (bits w 12 7) (bits w 5 7) (bits w 2 3))
  | 2 => reserve (decide (fld w 19 4 < 14) && decide (fld w 23 3 % 2 = 0)) (.hcmp2 (bits w 23 3) (bits w 19 4) (bits w 12 7) (bits w 5 7) (bits w 2 3))
  | _ => .error .illegalOpcode

/-- Major 0x1A (R48). -/
def decodeCvt (w : Nat) : Except DecodeError Instr :=
  match fld w 0 2 with
  | 0 => reserve (decide (fld w 5 3 < 5)) (.cvt (bits w 19 7) (bits w 12 7) (bits w 8 4) (bits w 5 3) (bits w 2 3))
  | 1 => reserve (decide (fld w 5 3 < 5)) (.cvtHi (bits w 19 7) (bits w 12 7) (bits w 8 4) (bits w 5 3) (bits w 2 3))
  | 2 => reserve (decide (fld w 5 3 < 5)) (.cvtN (bits w 19 7) (bits w 12 7) (bits w 8 4) (bits w 5 3) (bits w 2 3))
  | _ => .error .illegalOpcode

/-- Major 0x1B (R48). -/
def decodePackops (w : Nat) : Except DecodeError Instr :=
  match fld w 0 2 with
  | 0 => .ok (.pack16 (bits w 19 7) (bits w 12 7) (bits w 5 7) (bits w 2 3))
  | 1 => .ok (.pack8 (bits w 19 7) (bits w 12 7) (bits w 5 7) (bits w 2 3))
  | 2 => reserve (fld w 5 7 == 0) (.unpk16 (bits w 19 7) (bits w 12 7) (bits w 2 3))
  | _ => reserve (fld w 5 7 == 0) (.unpk8 (bits w 19 7) (bits w 12 7) (bits w 2 3))

/-- Major 0x1C (R48). -/
def decodeTagops (w : Nat) : Except DecodeError Instr :=
  match fld w 9 3 with
  | 0 => reserve (fld w 0 2 == 0) (.tag (bits w 19 7) (bits w 12 7) (bits w 5 4) (bits w 2 3))
  | 1 => reserve (fld w 0 2 == 0 && fld w 5 4 == 0) (.tagq (bits w 19 7) (bits w 12 7) (bits w 2 3))
  | _ => .error .illegalOpcode

/-- Major 0x1D (R48). -/
def decodeSparse (w : Nat) : Except DecodeError Instr :=
  match fld w 0 2 with
  | 0 => reserve (fld w 5 7 == 0) (.spcH (bits w 19 7) (bits w 12 7) (bits w 2 3))
  | 1 => reserve (fld w 5 7 == 0) (.spcB (bits w 19 7) (bits w 12 7) (bits w 2 3))
  | 2 => .ok (.spx (bits w 19 7) (bits w 12 7) (bits w 5 7) (bits w 2 3))
  | _ => .error .illegalOpcode

/-- Major 0x1E (R48). -/
def decodeShfl (w : Nat) : Except DecodeError Instr :=
  match fld w 0 2 with
  | 0 => .ok (.shflPick (bits w 19 7) (bits w 12 7) (bits w 5 7) (bits w 2 3))
  | 1 => .ok (.shflRotl (bits w 19 7) (bits w 12 7) (bits w 5 7) (bits w 2 3))
  | 2 => .ok (.shflRotr (bits w 19 7) (bits w 12 7) (bits w 5 7) (bits w 2 3))
  | _ => .ok (.shflSwap (bits w 19 7) (bits w 12 7) (bits w 5 7) (bits w 2 3))

/-- Major 0x1F (R48). -/
def decodeVote (w : Nat) : Except DecodeError Instr :=
  match fld w 0 2 with
  | 0 => reserve (fld w 15 8 == 0) (.voteAll (bits w 23 3) (bits w 12 3) (bits w 5 7) (bits w 2 3))
  | 1 => reserve (fld w 15 8 == 0) (.voteAny (bits w 23 3) (bits w 12 3) (bits w 5 7) (bits w 2 3))
  | 2 => reserve (fld w 15 4 == 0) (.voteBallot (bits w 19 7) (bits w 12 3) (bits w 5 7) (bits w 2 3))
  | _ => .ok (.voteMatch (bits w 19 7) (bits w 12 7) (bits w 5 7) (bits w 2 3))

/-- Major 0x20 (R48). -/
def decodeRedux (w : Nat) : Except DecodeError Instr :=
  match fld w 0 2 with
  | 0 => .ok (.reduxAdd (bits w 19 7) (bits w 12 7) (bits w 5 7) (bits w 2 3))
  | 1 => .ok (.reduxMin (bits w 19 7) (bits w 12 7) (bits w 5 7) (bits w 2 3))
  | 2 => .ok (.reduxMax (bits w 19 7) (bits w 12 7) (bits w 5 7) (bits w 2 3))
  | _ => .ok (.reduxOr (bits w 19 7) (bits w 12 7) (bits w 5 7) (bits w 2 3))

/-- Major 0x21 (R48). -/
def decodeLd (w : Nat) : Except DecodeError Instr :=
  .ok (.ld (bits w 19 7) (bits w 12 7) (bits w 8 4) (bits w 3 5) (bits w 0 3))

/-- Major 0x22 (R48). -/
def decodeLdw (w : Nat) : Except DecodeError Instr :=
  .ok (.ldw (bits w 19 7) (bits w 12 7) (bits w 8 4) (bits w 3 5) (bits w 0 3))

/-- Major 0x23 (R48). -/
def decodeLdq (w : Nat) : Except DecodeError Instr :=
  .ok (.ldq (bits w 19 7) (bits w 12 7) (bits w 8 4) (bits w 3 5) (bits w 0 3))

/-- Major 0x24 (R48). -/
def decodeSt (w : Nat) : Except DecodeError Instr :=
  .ok (.st (bits w 19 7) (bits w 12 7) (bits w 8 4) (bits w 3 5) (bits w 0 3))

/-- Major 0x25 (R48). -/
def decodeStw (w : Nat) : Except DecodeError Instr :=
  .ok (.stw (bits w 19 7) (bits w 12 7) (bits w 8 4) (bits w 3 5) (bits w 0 3))

/-- Major 0x26 (R48). -/
def decodeStq (w : Nat) : Except DecodeError Instr :=
  .ok (.stq (bits w 19 7) (bits w 12 7) (bits w 8 4) (bits w 3 5) (bits w 0 3))

/-- Major 0x27 (R48). -/
def decodeLds (w : Nat) : Except DecodeError Instr :=
  .ok (.lds (bits w 19 7) (bits w 12 7) (bits w 8 4) (bits w 3 5) (bits w 0 3))

/-- Major 0x28 (R48). -/
def decodeSts (w : Nat) : Except DecodeError Instr :=
  .ok (.sts (bits w 19 7) (bits w 12 7) (bits w 8 4) (bits w 3 5) (bits w 0 3))

/-- Major 0x29 (R48). -/
def decodeLdsq (w : Nat) : Except DecodeError Instr :=
  .ok (.ldsq (bits w 19 7) (bits w 12 7) (bits w 8 4) (bits w 3 5) (bits w 0 3))

/-- Major 0x2A (R48). -/
def decodeStsq (w : Nat) : Except DecodeError Instr :=
  .ok (.stsq (bits w 19 7) (bits w 12 7) (bits w 8 4) (bits w 3 5) (bits w 0 3))

/-- Major 0x2B (R48). -/
def decodeLdfe (w : Nat) : Except DecodeError Instr :=
  match fld w 8 1 with
  | 0 => reserve (fld w 9 3 == 0) (.ldfeK (bits w 19 7) (bits w 12 7) (bits w 3 5) (bits w 0 3))
  | _ => reserve (fld w 9 3 == 0) (.ldfeC (bits w 19 7) (bits w 12 7) (bits w 3 5) (bits w 0 3))

/-- Major 0x2C (R48). -/
def decodeStfe (w : Nat) : Except DecodeError Instr :=
  reserve (fld w 8 4 == 0) (.stfe (bits w 19 7) (bits w 12 7) (bits w 3 5) (bits w 0 3))

/-- Major 0x2D (R48). -/
def decodeLdmx (w : Nat) : Except DecodeError Instr :=
  .ok (.ldmx (bits w 19 7) (bits w 12 7) (bits w 8 4) (bits w 3 5) (bits w 0 3))

/-- Major 0x2E (R48). -/
def decodeStmx (w : Nat) : Except DecodeError Instr :=
  .ok (.stmx (bits w 19 7) (bits w 12 7) (bits w 8 4) (bits w 3 5) (bits w 0 3))

/-- Major 0x2F (R48). -/
def decodeMemx (w : Nat) : Except DecodeError Instr :=
  match fld w 5 7 with
  | 0 => reserve (fld w 19 7 == 0 && decide (fld w 0 2 < 3)) (.pref (bits w 12 7) (bits w 2 3) (bits w 0 2))
  | 1 => reserve (fld w 0 2 == 0 && fld w 12 14 == 0) (.cctlInv (bits w 2 3))
  | 2 => reserve (fld w 0 2 == 0 && fld w 19 7 == 0) (.cctlCln (bits w 12 7) (bits w 2 3))
  | 3 => reserve (fld w 0 2 == 0 && fld w 19 7 == 0) (.cctlFlush (bits w 12 7) (bits w 2 3))
  | 4 => reserve (decide (fld w 0 2 < 3)) (.cctlRange (bits w 19 7) (bits w 12 7) (bits w 2 3) (bits w 0 2))
  | _ => .error .illegalOpcode

/-- Major 0x30 (R48). -/
def decodeLdc (w : Nat) : Except DecodeError Instr :=
  .ok (.ldc (bits w 19 7) (bits w 12 7) (bits w 8 4) (bits w 3 5) (bits w 0 3))

/-- Major 0x31 (R48). -/
def decodeAtom (w : Nat) : Except DecodeError Instr :=
  match fld w 8 4 with
  | 0 => .ok (.atomAdd (bits w 19 7) (bits w 12 7) (bits w 3 5) (bits w 0 3))
  | 1 => .ok (.atomMin (bits w 19 7) (bits w 12 7) (bits w 3 5) (bits w 0 3))
  | 2 => .ok (.atomMax (bits w 19 7) (bits w 12 7) (bits w 3 5) (bits w 0 3))
  | 3 => .ok (.atomMinN (bits w 19 7) (bits w 12 7) (bits w 3 5) (bits w 0 3))
  | 4 => .ok (.atomMaxN (bits w 19 7) (bits w 12 7) (bits w 3 5) (bits w 0 3))
  | 5 => .ok (.atomAnd (bits w 19 7) (bits w 12 7) (bits w 3 5) (bits w 0 3))
  | 6 => .ok (.atomOr (bits w 19 7) (bits w 12 7) (bits w 3 5) (bits w 0 3))
  | 7 => .ok (.atomXor (bits w 19 7) (bits w 12 7) (bits w 3 5) (bits w 0 3))
  | 8 => .ok (.atomExch (bits w 19 7) (bits w 12 7) (bits w 3 5) (bits w 0 3))
  | 9 => .ok (.atomInc (bits w 19 7) (bits w 12 7) (bits w 3 5) (bits w 0 3))
  | 10 => .ok (.atomDec (bits w 19 7) (bits w 12 7) (bits w 3 5) (bits w 0 3))
  | 11 => .ok (.atomFadd (bits w 19 7) (bits w 12 7) (bits w 3 5) (bits w 0 3))
  | 12 => .ok (.atomHadd2 (bits w 19 7) (bits w 12 7) (bits w 3 5) (bits w 0 3))
  | _ => .error .illegalOpcode

/-- Major 0x32 (R48). -/
def decodeRed (w : Nat) : Except DecodeError Instr :=
  match fld w 8 4 with
  | 0 => .ok (.redAdd (bits w 19 7) (bits w 12 7) (bits w 3 5) (bits w 0 3))
  | 1 => .ok (.redMin (bits w 19 7) (bits w 12 7) (bits w 3 5) (bits w 0 3))
  | 2 => .ok (.redMax (bits w 19 7) (bits w 12 7) (bits w 3 5) (bits w 0 3))
  | 3 => .ok (.redMinN (bits w 19 7) (bits w 12 7) (bits w 3 5) (bits w 0 3))
  | 4 => .ok (.redMaxN (bits w 19 7) (bits w 12 7) (bits w 3 5) (bits w 0 3))
  | 5 => .ok (.redAnd (bits w 19 7) (bits w 12 7) (bits w 3 5) (bits w 0 3))
  | 6 => .ok (.redOr (bits w 19 7) (bits w 12 7) (bits w 3 5) (bits w 0 3))
  | 7 => .ok (.redXor (bits w 19 7) (bits w 12 7) (bits w 3 5) (bits w 0 3))
  | 8 => .ok (.redExch (bits w 19 7) (bits w 12 7) (bits w 3 5) (bits w 0 3))
  | 9 => .ok (.redInc (bits w 19 7) (bits w 12 7) (bits w 3 5) (bits w 0 3))
  | 10 => .ok (.redDec (bits w 19 7) (bits w 12 7) (bits w 3 5) (bits w 0 3))
  | 11 => .ok (.redFadd (bits w 19 7) (bits w 12 7) (bits w 3 5) (bits w 0 3))
  | 12 => .ok (.redHadd2 (bits w 19 7) (bits w 12 7) (bits w 3 5) (bits w 0 3))
  | _ => .error .illegalOpcode

/-- Major 0x33 (R48). -/
def decodeAtomc (w : Nat) : Except DecodeError Instr :=
  match fld w 8 4 with
  | 0 => .ok (.atomc (bits w 19 7) (bits w 12 7) (bits w 3 5) (bits w 0 3))
  | 1 => .ok (.atomc64 (bits w 19 7) (bits w 12 7) (bits w 3 5) (bits w 0 3))
  | _ => .error .illegalOpcode

/-- Major 0x34 (R48). -/
def decodeAtomq (w : Nat) : Except DecodeError Instr :=
  reserve (fld w 8 4 == 0) (.atomq (bits w 19 7) (bits w 12 7) (bits w 3 5) (bits w 0 3))

/-- Major 0x35 (R48). -/
def decodeFence (w : Nat) : Except DecodeError Instr :=
  reserve (fld w 0 2 == 0 && fld w 10 16 == 0 && decide (fld w 5 3 < 5)) (.fence (bits w 8 2) (bits w 5 3) (bits w 2 3))

/-- Major 0x36 (R48). -/
def decodeCopy (w : Nat) : Except DecodeError Instr :=
  match fld w 5 3 with
  | 0 => reserve (fld w 1 1 == 0) (.cpyLd (bits w 19 7) (bits w 12 7) (bits w 8 4) (bits w 2 3) (bits w 0 1))
  | 1 => reserve (fld w 1 1 == 0) (.cpySt (bits w 19 7) (bits w 12 7) (bits w 8 4) (bits w 2 3) (bits w 0 1))
  | 2 => reserve (fld w 1 1 == 0) (.cpygG (bits w 19 7) (bits w 12 7) (bits w 8 4) (bits w 2 3) (bits w 0 1))
  | 3 => reserve (fld w 1 1 == 0) (.cpygS (bits w 19 7) (bits w 12 7) (bits w 8 4) (bits w 2 3) (bits w 0 1))
  | 4 => reserve (fld w 0 2 == 0 && fld w 19 7 == 0) (.cwait (bits w 12 7) (bits w 8 4) (bits w 2 3))
  | 5 => reserve (fld w 1 1 == 0) (.ctest (bits w 19 7) (bits w 12 7) (bits w 8 4) (bits w 2 3) (bits w 0 1))
  | 6 => reserve (fld w 1 1 == 0 && fld w 11 1 == 0) (.cpyCb (bits w 19 7) (bits w 12 7) (bits w 8 3) (bits w 2 3) (bits w 0 1))
  | _ => reserve (fld w 0 2 == 0 && fld w 12 14 == 0) (.cpyc (bits w 8 4) (bits w 2 3))

/-- Major 0x37 (R48). -/
def decodeCarousel (w : Nat) : Except DecodeError Instr :=
  match fld w 5 3 with
  | 0 => reserve (fld w 11 1 == 0 && fld w 19 7 == 0) (.cbinit (bits w 12 7) (bits w 8 3) (bits w 2 3) (bits w 0 2))
  | 1 => reserve (fld w 11 8 == 0) (.cbacq (bits w 19 7) (bits w 8 3) (bits w 2 3) (bits w 0 2))
  | 2 => reserve (fld w 11 1 == 0 && fld w 19 7 == 0) (.cbcmt (bits w 12 7) (bits w 8 3) (bits w 2 3) (bits w 0 2))
  | 3 => reserve (fld w 11 8 == 0) (.cbwait (bits w 19 7) (bits w 8 3) (bits w 2 3) (bits w 0 2))
  | 4 => reserve (fld w 11 1 == 0 && fld w 19 7 == 0) (.cbrel (bits w 12 7) (bits w 8 3) (bits w 2 3) (bits w 0 2))
  | _ => .error .illegalOpcode

/-- Major 0x38 (R48). -/
def decodeSync (w : Nat) : Except DecodeError Instr :=
  match fld w 5 7 with
  | 0 => reserve (fld w 0 2 == 0 && fld w 12 14 == 0) (.bar (bits w 2 3))
  | 1 => reserve (fld w 0 2 == 0 && fld w 12 14 == 0) (.ebar (bits w 2 3))
  | 2 => reserve (fld w 0 2 == 0 && fld w 12 7 == 0) (.arrive (bits w 19 7) (bits w 2 3))
  | 3 => reserve (fld w 0 2 == 0 && fld w 19 7 == 0) (.await (bits w 12 7) (bits w 2 3))
  | _ => .error .illegalOpcode

/-- Major 0x39 (R48). -/
def decodeQueue (w : Nat) : Except DecodeError Instr :=
  match fld w 5 3 with
  | 0 => reserve (fld w 0 2 == 0 && fld w 11 1 == 0 && fld w 19 7 == 0) (.qpush (bits w 12 7) (bits w 8 3) (bits w 2 3))
  | 1 => reserve (fld w 0 2 == 0 && fld w 11 8 == 0) (.qpop (bits w 19 7) (bits w 8 3) (bits w 2 3))
  | 2 => reserve (fld w 0 2 == 0 && fld w 11 8 == 0) (.qpeek (bits w 19 7) (bits w 8 3) (bits w 2 3))
  | 3 => reserve (fld w 0 2 == 0 && fld w 11 1 == 0 && fld w 19 7 == 0) (.qcfg (bits w 12 7) (bits w 8 3) (bits w 2 3))
  | _ => .error .illegalOpcode

/-- Major 0x3A (R48). -/
def decodeMatrix (w : Nat) : Except DecodeError Instr :=
  match fld w 0 2 with
  | 0 => .ok (.mma (bits w 19 7) (bits w 12 7) (bits w 5 7) (bits w 2 3))
  | 1 => .ok (.mmas (bits w 19 7) (bits w 12 7) (bits w 5 7) (bits w 2 3))
  | 2 => .ok (.tld (bits w 19 7) (bits w 12 7) (bits w 5 7) (bits w 2 3))
  | _ => .ok (.tst (bits w 19 7) (bits w 12 7) (bits w 5 7) (bits w 2 3))

/-- Major 0x3B (R48). -/
def decodeGrid (w : Nat) : Except DecodeError Instr :=
  match fld w 5 7 with
  | 0 => reserve (fld w 0 2 == 0 && fld w 12 14 == 0) (.gridOn (bits w 2 3))
  | 1 => reserve (fld w 0 2 == 0 && fld w 12 14 == 0) (.gridOff (bits w 2 3))
  | 2 => reserve (fld w 0 2 == 0 && fld w 19 7 == 0) (.gang (bits w 12 7) (bits w 2 3))
  | 3 => reserve (fld w 0 2 == 0 && fld w 12 14 == 0) (.opfence (bits w 2 3))
  | 4 => reserve (fld w 0 2 == 0) (.gmma (bits w 19 7) (bits w 12 7) (bits w 2 3))
  | 5 => reserve (fld w 0 2 == 0) (.gmmat (bits w 19 7) (bits w 12 7) (bits w 2 3))
  | 6 => reserve (fld w 0 2 == 0) (.gtld (bits w 19 7) (bits w 12 7) (bits w 2 3))
  | 7 => reserve (fld w 0 2 == 0) (.gtst (bits w 19 7) (bits w 12 7) (bits w 2 3))
  | 8 => reserve (fld w 0 2 == 0 && fld w 19 7 == 0) (.gwait (bits w 12 7) (bits w 2 3))
  | 9 => reserve (fld w 0 2 == 0) (.rboxG (bits w 19 7) (bits w 12 7) (bits w 2 3))
  | _ => .error .illegalOpcode

/-- Major 0x3C (R48). -/
def decodeGfx (w : Nat) : Except DecodeError Instr :=
  match fld w 5 7 with
  | 0 => reserve (fld w 0 2 == 0) (.tpay (bits w 19 7) (bits w 12 7) (bits w 2 3))
  | 1 => reserve (fld w 0 2 == 0 && fld w 19 7 == 0) (.tdisp (bits w 12 7) (bits w 2 3))
  | 2 => reserve (fld w 0 2 == 0) (.mvtx (bits w 19 7) (bits w 12 7) (bits w 2 3))
  | 3 => reserve (fld w 0 2 == 0) (.mprim (bits w 19 7) (bits w 12 7) (bits w 2 3))
  | 4 => reserve (fld w 0 2 == 0 && fld w 19 7 == 0) (.mcnt (bits w 12 7) (bits w 2 3))
  | 5 => reserve (fld w 1 1 == 0 && fld w 12 7 == 0) (.visrd (bits w 19 7) (bits w 2 3) (bits w 0 1))
  | 6 => reserve (fld w 0 2 == 0) (.attr (bits w 19 7) (bits w 12 7) (bits w 2 3))
  | 7 => reserve (fld w 1 1 == 0) (.deriv (bits w 19 7) (bits w 12 7) (bits w 2 3) (bits w 0 1))
  | 8 => reserve (fld w 0 2 == 0) (.imld (bits w 19 7) (bits w 12 7) (bits w 2 3))
  | 9 => reserve (fld w 0 2 == 0) (.imst (bits w 19 7) (bits w 12 7) (bits w 2 3))
  | 10 => reserve (decide (fld w 0 2 < 3)) (.tex (bits w 19 7) (bits w 12 7) (bits w 2 3) (bits w 0 2))
  | 11 => reserve (fld w 0 2 == 0) (.tldi (bits w 19 7) (bits w 12 7) (bits w 2 3))
  | _ => .error .illegalOpcode

/-- Major 0x3D (R48). -/
def decodeRay (w : Nat) : Except DecodeError Instr :=
  match fld w 5 7 with
  | 0 => reserve (fld w 1 1 == 0) (.rbox (bits w 19 7) (bits w 12 7) (bits w 2 3) (bits w 0 1))
  | 1 => reserve (fld w 1 1 == 0) (.rtri (bits w 19 7) (bits w 12 7) (bits w 2 3) (bits w 0 1))
  | 2 => reserve (fld w 1 1 == 0) (.rnode (bits w 19 7) (bits w 12 7) (bits w 2 3) (bits w 0 1))
  | 3 => reserve ((fld w 1 1 == 1 || fld w 12 7 == 0)) (.rpin (bits w 19 7) (bits w 12 7) (bits w 2 3) (bits w 1 1) (bits w 0 1))
  | 4 => reserve (fld w 12 14 == 0) (.runpin (bits w 2 3) (bits w 1 1) (bits w 0 1))
  | 5 => reserve (fld w 1 1 == 0 && fld w 12 7 == 0) (.rgen (bits w 19 7) (bits w 2 3) (bits w 0 1))
  | 6 => reserve (fld w 0 2 == 0 && fld w 19 7 == 0) (.bld (bits w 12 7) (bits w 2 3))
  | 7 => reserve (fld w 0 2 == 0) (.bldq (bits w 19 7) (bits w 12 7) (bits w 2 3))
  | 8 => reserve (fld w 0 2 == 0 && fld w 19 7 == 0) (.bldw (bits w 12 7) (bits w 2 3))
  | _ => .error .illegalOpcode

/-- Major 0x3E (R48). -/
def decodeSys (w : Nat) : Except DecodeError Instr :=
  match fld w 5 7 with
  | 0 => 
    match fld w 0 2 with
    | 0 => .ok (.syscallB (bits w 19 7) (bits w 12 7) (bits w 2 3))
    | 1 => reserve (fld w 19 7 == 0) (.syscallN (bits w 12 7) (bits w 2 3))
    | _ => .error .illegalOpcode
  | 1 => reserve (fld w 0 2 == 0 && fld w 12 7 == 0) (.syswait (bits w 19 7) (bits w 2 3))
  | 2 => reserve (fld w 0 2 == 0) (.alloc (bits w 19 7) (bits w 12 7) (bits w 2 3))
  | 3 => reserve (fld w 0 2 == 0 && fld w 19 7 == 0) (.free (bits w 12 7) (bits w 2 3))
  | 4 => reserve (fld w 0 2 == 0) (.rdsr (bits w 19 7) (bits w 12 7) (bits w 2 3))
  | 5 => reserve (fld w 0 2 == 0) (.wrsr (bits w 19 7) (bits w 12 7) (bits w 2 3))
  | 6 => reserve (fld w 0 2 == 0) (.launch (bits w 19 7) (bits w 12 7) (bits w 2 3))
  | 7 => reserve (fld w 0 2 == 0 && fld w 19 7 == 0) (.lwait (bits w 12 7) (bits w 2 3))
  | 8 => reserve (fld w 0 2 == 0 && fld w 19 7 == 0) (.mapHint (bits w 12 7) (bits w 2 3))
  | 9 => reserve (fld w 0 2 == 0 && fld w 19 7 == 0) (.mapOff (bits w 12 7) (bits w 2 3))
  | _ => .error .illegalOpcode
/-- The instruction that a word encodes. The opcode map's major selects the form (R27, R48); majors not listed are illegal (R32). -/
def decodeWord (w : Nat) : Except DecodeError Instr :=
  match fld w 26 6 with
  | 0 => decodeClause w
  | 1 => decodeHint w
  | 2 => decodeBra w
  | 3 => decodeCall w
  | 4 => decodeCtrl w
  | 5 => decodeMovi w
  | 6 => decodeIarith w
  | 7 => decodeImadd w
  | 8 => decodeIminmax w
  | 9 => decodeLogic w
  | 10 => decodeShift w
  | 11 => decodeBitf w
  | 12 => decodeIcmp w
  | 13 => decodeIunary w
  | 14 => decodeIdot w
  | 15 => decodePred w
  | 16 => decodeIaddi w
  | 17 => decodeShifti w
  | 18 => decodeAndi w
  | 19 => decodeOri w
  | 20 => decodeFarith w
  | 21 => decodeFminmax w
  | 22 => decodeFcmp w
  | 23 => decodeFunary w
  | 24 => decodeHarith w
  | 25 => decodeHmisc w
  | 26 => decodeCvt w
  | 27 => decodePackops w
  | 28 => decodeTagops w
  | 29 => decodeSparse w
  | 30 => decodeShfl w
  | 31 => decodeVote w
  | 32 => decodeRedux w
  | 33 => decodeLd w
  | 34 => decodeLdw w
  | 35 => decodeLdq w
  | 36 => decodeSt w
  | 37 => decodeStw w
  | 38 => decodeStq w
  | 39 => decodeLds w
  | 40 => decodeSts w
  | 41 => decodeLdsq w
  | 42 => decodeStsq w
  | 43 => decodeLdfe w
  | 44 => decodeStfe w
  | 45 => decodeLdmx w
  | 46 => decodeStmx w
  | 47 => decodeMemx w
  | 48 => decodeLdc w
  | 49 => decodeAtom w
  | 50 => decodeRed w
  | 51 => decodeAtomc w
  | 52 => decodeAtomq w
  | 53 => decodeFence w
  | 54 => decodeCopy w
  | 55 => decodeCarousel w
  | 56 => decodeSync w
  | 57 => decodeQueue w
  | 58 => decodeMatrix w
  | 59 => decodeGrid w
  | 60 => decodeGfx w
  | 61 => decodeRay w
  | 62 => decodeSys w
  | _ => .error .illegalOpcode

/-! ### The forms of R27, from their fields -/

/-- Forms A and X. -/
def formA (op d a b g m : Nat) : Nat := op * 2 ^ 26 + d * 2 ^ 19 + a * 2 ^ 12 + b * 2 ^ 5 + g * 2 ^ 2 + m
/-- Form I. -/
def formI (op d a i g : Nat) : Nat := op * 2 ^ 26 + d * 2 ^ 19 + a * 2 ^ 12 + i * 2 ^ 3 + g
/-- Form I of MOVI, whose immediate takes the a field too (R31). -/
def formV (op d i g : Nat) : Nat := op * 2 ^ 26 + d * 2 ^ 19 + i * 2 ^ 3 + g
/-- Form M. -/
def formM (op d s t o g : Nat) : Nat := op * 2 ^ 26 + d * 2 ^ 19 + s * 2 ^ 12 + t * 2 ^ 8 + o * 2 ^ 3 + g
/-- Form B. -/
def formB (op g o : Nat) : Nat := op * 2 ^ 26 + g * 2 ^ 23 + o
/-- Form C; y and the reserved bit make the last field. -/
def formC (op w a b l y : Nat) : Nat := op * 2 ^ 26 + w * 2 ^ 14 + a * 2 ^ 10 + b * 2 ^ 6 + l * 2 ^ 2 + y
/-- Form H. -/
def formH (op k p : Nat) : Nat := op * 2 ^ 26 + k * 2 ^ 24 + p

/-- The word of an instruction; none for the events, which no word encodes. -/
def encode (i : Instr) : Option Nat :=
  match i with
  | .clause w a b l y => some (formC 0x00 w.toNat a.toNat b.toNat l.toNat (y.toNat * 2))
  | .hintImm p => some (formH 0x01 0 p.toNat)
  | .hintMod p => some (formH 0x01 1 (p.toNat * 32))
  | .hintC c n a => some (formH 0x01 2 (c.toNat * 131072 + n.toNat * 65536 + a.toNat * 32768))
  | .hintSched x y z t g f => some (formH 0x01 3 (x.toNat * 8388608 + y.toNat * 4194304 + z.toNat * 2097152 + t.toNat * 1048576 + g.toNat * 65536 + f.toNat * 32768))
  | .bra g o => some (formB 0x02 g.toNat o.toNat)
  | .call g o => some (formB 0x03 g.toNat o.toNat)
  | .nop g => some (formA 0x04 0 0 0 g.toNat 0)
  | .brx d a g => some (formA 0x04 d.toNat a.toNat 1 g.toNat 0)
  | .callx d a g => some (formA 0x04 d.toNat a.toNat 2 g.toNat 0)
  | .ret g => some (formA 0x04 0 0 3 g.toNat 0)
  | .split d a g => some (formA 0x04 d.toNat a.toNat 4 g.toNat 0)
  | .join a g => some (formA 0x04 0 a.toNat 5 g.toNat 0)
  | .exit g => some (formA 0x04 0 0 6 g.toNat 0)
  | .exitS k g => some (formA 0x04 k.toNat 0 7 g.toNat 0)
  | .yield g => some (formA 0x04 0 0 8 g.toNat 0)
  | .sleep a g => some (formA 0x04 0 a.toNat 9 g.toNat 0)
  | .bkpt k g => some (formA 0x04 k.toNat 0 10 g.toNat 0)
  | .trap k g => some (formA 0x04 k.toNat 0 11 g.toNat 0)
  | .eret g => some (formA 0x04 0 0 12 g.toNat 0)
  | .halt g => some (formA 0x04 0 0 13 g.toNat 0)
  | .elect k a g => some (formA 0x04 (k.toNat * 16) a.toNat 14 g.toNat 0)
  | .movi d i g => some (formV 0x05 d.toNat i.toNat g.toNat)
  | .iadd d a b g => some (formA 0x06 d.toNat a.toNat b.toNat g.toNat 0)
  | .isub d a b g => some (formA 0x06 d.toNat a.toNat b.toNat g.toNat 1)
  | .imul d a b g => some (formA 0x06 d.toNat a.toNat b.toNat g.toNat 2)
  | .imulh d a b g => some (formA 0x06 d.toNat a.toNat b.toNat g.toNat 3)
  | .imad d a b g => some (formA 0x07 d.toNat a.toNat b.toNat g.toNat 0)
  | .imadw d a b g => some (formA 0x07 d.toNat a.toNat b.toNat g.toNat 1)
  | .iadc d a b g => some (formA 0x07 d.toNat a.toNat b.toNat g.toNat 2)
  | .lea d a b g => some (formA 0x07 d.toNat a.toNat b.toNat g.toNat 3)
  | .imin d a b g => some (formA 0x08 d.toNat a.toNat b.toNat g.toNat 0)
  | .iminN d a b g => some (formA 0x08 d.toNat a.toNat b.toNat g.toNat 1)
  | .imax d a b g => some (formA 0x08 d.toNat a.toNat b.toNat g.toNat 2)
  | .imaxN d a b g => some (formA 0x08 d.toNat a.toNat b.toNat g.toNat 3)
  | .and d a b g => some (formA 0x09 d.toNat a.toNat b.toNat g.toNat 0)
  | .or d a b g => some (formA 0x09 d.toNat a.toNat b.toNat g.toNat 1)
  | .xor d a b g => some (formA 0x09 d.toNat a.toNat b.toNat g.toNat 2)
  | .andn d a b g => some (formA 0x09 d.toNat a.toNat b.toNat g.toNat 3)
  | .shl d a b g => some (formA 0x0A d.toNat a.toNat b.toNat g.toNat 0)
  | .shr d a b g => some (formA 0x0A d.toNat a.toNat b.toNat g.toNat 1)
  | .sar d a b g => some (formA 0x0A d.toNat a.toNat b.toNat g.toNat 2)
  | .rot d a b g => some (formA 0x0A d.toNat a.toNat b.toNat g.toNat 3)
  | .bfx d a b g => some (formA 0x0B d.toNat a.toNat b.toNat g.toNat 0)
  | .bfxS d a b g => some (formA 0x0B d.toNat a.toNat b.toNat g.toNat 1)
  | .bfi d a b g => some (formA 0x0B d.toNat a.toNat b.toNat g.toNat 2)
  | .sel d a b g => some (formA 0x0B d.toNat a.toNat b.toNat g.toNat 3)
  | .icmp k c a b g => some (formA 0x0C (k.toNat * 16 + c.toNat) a.toNat b.toNat g.toNat 0)
  | .icmpN k c a b g => some (formA 0x0C (k.toNat * 16 + c.toNat) a.toNat b.toNat g.toNat 1)
  | .icmpAnd k c a b g => some (formA 0x0C (k.toNat * 16 + c.toNat) a.toNat b.toNat g.toNat 2)
  | .icmpOr k c a b g => some (formA 0x0C (k.toNat * 16 + c.toNat) a.toNat b.toNat g.toNat 3)
  | .mov d a g => some (formA 0x0D d.toNat a.toNat 0 g.toNat 0)
  | .iabs d a g => some (formA 0x0D d.toNat a.toNat 1 g.toNat 0)
  | .ineg d a g => some (formA 0x0D d.toNat a.toNat 2 g.toNat 0)
  | .not d a g => some (formA 0x0D d.toNat a.toNat 3 g.toNat 0)
  | .popc d a g => some (formA 0x0D d.toNat a.toNat 4 g.toNat 0)
  | .clz d a g => some (formA 0x0D d.toNat a.toNat 5 g.toNat 0)
  | .brev d a g => some (formA 0x0D d.toNat a.toNat 6 g.toNat 0)
  | .idot4 d a b g => some (formA 0x0E d.toNat a.toNat b.toNat g.toNat 0)
  | .idot4N d a b g => some (formA 0x0E d.toNat a.toNat b.toNat g.toNat 1)
  | .idot2 d a b g => some (formA 0x0E d.toNat a.toNat b.toNat g.toNat 2)
  | .idot4Sn d a b g => some (formA 0x0E d.toNat a.toNat b.toNat g.toNat 3)
  | .pset k t i j g => some (formA 0x0F (k.toNat * 16 + t.toNat) (i.toNat * 16 + j.toNat * 2) 0 g.toNat 0)
  | .ptox d g => some (formA 0x0F d.toNat 0 1 g.toNat 0)
  | .xtop a g => some (formA 0x0F 0 a.toNat 2 g.toNat 0)
  | .iaddi d a i g => some (formI 0x10 d.toNat a.toNat i.toNat g.toNat)
  | .shiftiShl d a n g => some (formI 0x11 d.toNat a.toNat n.toNat g.toNat)
  | .shiftiShr d a n g => some (formI 0x11 d.toNat a.toNat (128 + n.toNat) g.toNat)
  | .shiftiSar d a n g => some (formI 0x11 d.toNat a.toNat (256 + n.toNat) g.toNat)
  | .shiftiRot d a n g => some (formI 0x11 d.toNat a.toNat (384 + n.toNat) g.toNat)
  | .andi d a i g => some (formI 0x12 d.toNat a.toNat i.toNat g.toNat)
  | .ori d a i g => some (formI 0x13 d.toNat a.toNat i.toNat g.toNat)
  | .fadd d a b g => some (formA 0x14 d.toNat a.toNat b.toNat g.toNat 0)
  | .fsub d a b g => some (formA 0x14 d.toNat a.toNat b.toNat g.toNat 1)
  | .fmul d a b g => some (formA 0x14 d.toNat a.toNat b.toNat g.toNat 2)
  | .ffma d a b g => some (formA 0x14 d.toNat a.toNat b.toNat g.toNat 3)
  | .fmin d a b g => some (formA 0x15 d.toNat a.toNat b.toNat g.toNat 0)
  | .fmax d a b g => some (formA 0x15 d.toNat a.toNat b.toNat g.toNat 1)
  | .fscl d a b g => some (formA 0x15 d.toNat a.toNat b.toNat g.toNat 2)
  | .fdot2 d a b g => some (formA 0x15 d.toNat a.toNat b.toNat g.toNat 3)
  | .fcmp k c a b g => some (formA 0x16 (k.toNat * 16 + c.toNat) a.toNat b.toNat g.toNat 0)
  | .fcmpAnd k c a b g => some (formA 0x16 (k.toNat * 16 + c.toNat) a.toNat b.toNat g.toNat 1)
  | .fcmpOr k c a b g => some (formA 0x16 (k.toNat * 16 + c.toNat) a.toNat b.toNat g.toNat 2)
  | .fcls k a b g => some (formA 0x16 (k.toNat * 16) a.toNat b.toNat g.toNat 3)
  | .frnd d a g => some (formA 0x17 d.toNat a.toNat 0 g.toNat 0)
  | .ffrc d a g => some (formA 0x17 d.toNat a.toNat 1 g.toNat 0)
  | .frcp d a g => some (formA 0x17 d.toNat a.toNat 2 g.toNat 0)
  | .frsq d a g => some (formA 0x17 d.toNat a.toNat 3 g.toNat 0)
  | .fsqrt d a g => some (formA 0x17 d.toNat a.toNat 4 g.toNat 0)
  | .fex2 d a g => some (formA 0x17 d.toNat a.toNat 5 g.toNat 0)
  | .flg2 d a g => some (formA 0x17 d.toNat a.toNat 6 g.toNat 0)
  | .fsin d a g => some (formA 0x17 d.toNat a.toNat 7 g.toNat 0)
  | .fcos d a g => some (formA 0x17 d.toNat a.toNat 8 g.toNat 0)
  | .hadd2 d a b g => some (formA 0x18 d.toNat a.toNat b.toNat g.toNat 0)
  | .hmul2 d a b g => some (formA 0x18 d.toNat a.toNat b.toNat g.toNat 1)
  | .hfma2 d a b g => some (formA 0x18 d.toNat a.toNat b.toNat g.toNat 2)
  | .hsub2 d a b g => some (formA 0x18 d.toNat a.toNat b.toNat g.toNat 3)
  | .hmin2 d a b g => some (formA 0x19 d.toNat a.toNat b.toNat g.toNat 0)
  | .hmax2 d a b g => some (formA 0x19 d.toNat a.toNat b.toNat g.toNat 1)
  | .hcmp2 k c a b g => some (formA 0x19 (k.toNat * 16 + c.toNat) a.toNat b.toNat g.toNat 2)
  | .cvt d a t r g => some (formA 0x1A d.toNat a.toNat (t.toNat * 8 + r.toNat) g.toNat 0)
  | .cvtHi d a t r g => some (formA 0x1A d.toNat a.toNat (t.toNat * 8 + r.toNat) g.toNat 1)
  | .cvtN d a t r g => some (formA 0x1A d.toNat a.toNat (t.toNat * 8 + r.toNat) g.toNat 2)
  | .pack16 d a b g => some (formA 0x1B d.toNat a.toNat b.toNat g.toNat 0)
  | .pack8 d a b g => some (formA 0x1B d.toNat a.toNat b.toNat g.toNat 1)
  | .unpk16 d a g => some (formA 0x1B d.toNat a.toNat 0 g.toNat 2)
  | .unpk8 d a g => some (formA 0x1B d.toNat a.toNat 0 g.toNat 3)
  | .tag d a t g => some (formA 0x1C d.toNat a.toNat t.toNat g.toNat 0)
  | .tagq d a g => some (formA 0x1C d.toNat a.toNat 16 g.toNat 0)
  | .spcH d a g => some (formA 0x1D d.toNat a.toNat 0 g.toNat 0)
  | .spcB d a g => some (formA 0x1D d.toNat a.toNat 0 g.toNat 1)
  | .spx d a b g => some (formA 0x1D d.toNat a.toNat b.toNat g.toNat 2)
  | .shflPick d a b g => some (formA 0x1E d.toNat a.toNat b.toNat g.toNat 0)
  | .shflRotl d a b g => some (formA 0x1E d.toNat a.toNat b.toNat g.toNat 1)
  | .shflRotr d a b g => some (formA 0x1E d.toNat a.toNat b.toNat g.toNat 2)
  | .shflSwap d a b g => some (formA 0x1E d.toNat a.toNat b.toNat g.toNat 3)
  | .voteAll k j b g => some (formA 0x1F (k.toNat * 16) j.toNat b.toNat g.toNat 0)
  | .voteAny k j b g => some (formA 0x1F (k.toNat * 16) j.toNat b.toNat g.toNat 1)
  | .voteBallot d j b g => some (formA 0x1F d.toNat j.toNat b.toNat g.toNat 2)
  | .voteMatch d a b g => some (formA 0x1F d.toNat a.toNat b.toNat g.toNat 3)
  | .reduxAdd d a b g => some (formA 0x20 d.toNat a.toNat b.toNat g.toNat 0)
  | .reduxMin d a b g => some (formA 0x20 d.toNat a.toNat b.toNat g.toNat 1)
  | .reduxMax d a b g => some (formA 0x20 d.toNat a.toNat b.toNat g.toNat 2)
  | .reduxOr d a b g => some (formA 0x20 d.toNat a.toNat b.toNat g.toNat 3)
  | .ld d s t o g => some (formM 0x21 d.toNat s.toNat t.toNat o.toNat g.toNat)
  | .ldw d s t o g => some (formM 0x22 d.toNat s.toNat t.toNat o.toNat g.toNat)
  | .ldq d s t o g => some (formM 0x23 d.toNat s.toNat t.toNat o.toNat g.toNat)
  | .st d s t o g => some (formM 0x24 d.toNat s.toNat t.toNat o.toNat g.toNat)
  | .stw d s t o g => some (formM 0x25 d.toNat s.toNat t.toNat o.toNat g.toNat)
  | .stq d s t o g => some (formM 0x26 d.toNat s.toNat t.toNat o.toNat g.toNat)
  | .lds d s t o g => some (formM 0x27 d.toNat s.toNat t.toNat o.toNat g.toNat)
  | .sts d s t o g => some (formM 0x28 d.toNat s.toNat t.toNat o.toNat g.toNat)
  | .ldsq d s t o g => some (formM 0x29 d.toNat s.toNat t.toNat o.toNat g.toNat)
  | .stsq d s t o g => some (formM 0x2A d.toNat s.toNat t.toNat o.toNat g.toNat)
  | .ldfeK d s o g => some (formM 0x2B d.toNat s.toNat 0 o.toNat g.toNat)
  | .ldfeC d s o g => some (formM 0x2B d.toNat s.toNat 1 o.toNat g.toNat)
  | .stfe d s o g => some (formM 0x2C d.toNat s.toNat 0 o.toNat g.toNat)
  | .ldmx d s t o g => some (formM 0x2D d.toNat s.toNat t.toNat o.toNat g.toNat)
  | .stmx d s t o g => some (formM 0x2E d.toNat s.toNat t.toNat o.toNat g.toNat)
  | .pref a g m => some (formA 0x2F 0 a.toNat 0 g.toNat m.toNat)
  | .cctlInv g => some (formA 0x2F 0 0 1 g.toNat 0)
  | .cctlCln a g => some (formA 0x2F 0 a.toNat 2 g.toNat 0)
  | .cctlFlush a g => some (formA 0x2F 0 a.toNat 3 g.toNat 0)
  | .cctlRange d a g m => some (formA 0x2F d.toNat a.toNat 4 g.toNat m.toNat)
  | .ldc d s t o g => some (formM 0x30 d.toNat s.toNat t.toNat o.toNat g.toNat)
  | .atomAdd d s o g => some (formM 0x31 d.toNat s.toNat 0 o.toNat g.toNat)
  | .atomMin d s o g => some (formM 0x31 d.toNat s.toNat 1 o.toNat g.toNat)
  | .atomMax d s o g => some (formM 0x31 d.toNat s.toNat 2 o.toNat g.toNat)
  | .atomMinN d s o g => some (formM 0x31 d.toNat s.toNat 3 o.toNat g.toNat)
  | .atomMaxN d s o g => some (formM 0x31 d.toNat s.toNat 4 o.toNat g.toNat)
  | .atomAnd d s o g => some (formM 0x31 d.toNat s.toNat 5 o.toNat g.toNat)
  | .atomOr d s o g => some (formM 0x31 d.toNat s.toNat 6 o.toNat g.toNat)
  | .atomXor d s o g => some (formM 0x31 d.toNat s.toNat 7 o.toNat g.toNat)
  | .atomExch d s o g => some (formM 0x31 d.toNat s.toNat 8 o.toNat g.toNat)
  | .atomInc d s o g => some (formM 0x31 d.toNat s.toNat 9 o.toNat g.toNat)
  | .atomDec d s o g => some (formM 0x31 d.toNat s.toNat 10 o.toNat g.toNat)
  | .atomFadd d s o g => some (formM 0x31 d.toNat s.toNat 11 o.toNat g.toNat)
  | .atomHadd2 d s o g => some (formM 0x31 d.toNat s.toNat 12 o.toNat g.toNat)
  | .redAdd d s o g => some (formM 0x32 d.toNat s.toNat 0 o.toNat g.toNat)
  | .redMin d s o g => some (formM 0x32 d.toNat s.toNat 1 o.toNat g.toNat)
  | .redMax d s o g => some (formM 0x32 d.toNat s.toNat 2 o.toNat g.toNat)
  | .redMinN d s o g => some (formM 0x32 d.toNat s.toNat 3 o.toNat g.toNat)
  | .redMaxN d s o g => some (formM 0x32 d.toNat s.toNat 4 o.toNat g.toNat)
  | .redAnd d s o g => some (formM 0x32 d.toNat s.toNat 5 o.toNat g.toNat)
  | .redOr d s o g => some (formM 0x32 d.toNat s.toNat 6 o.toNat g.toNat)
  | .redXor d s o g => some (formM 0x32 d.toNat s.toNat 7 o.toNat g.toNat)
  | .redExch d s o g => some (formM 0x32 d.toNat s.toNat 8 o.toNat g.toNat)
  | .redInc d s o g => some (formM 0x32 d.toNat s.toNat 9 o.toNat g.toNat)
  | .redDec d s o g => some (formM 0x32 d.toNat s.toNat 10 o.toNat g.toNat)
  | .redFadd d s o g => some (formM 0x32 d.toNat s.toNat 11 o.toNat g.toNat)
  | .redHadd2 d s o g => some (formM 0x32 d.toNat s.toNat 12 o.toNat g.toNat)
  | .atomc d s o g => some (formM 0x33 d.toNat s.toNat 0 o.toNat g.toNat)
  | .atomc64 d s o g => some (formM 0x33 d.toNat s.toNat 1 o.toNat g.toNat)
  | .atomq d s o g => some (formM 0x34 d.toNat s.toNat 0 o.toNat g.toNat)
  | .fence r p g => some (formA 0x35 0 0 (r.toNat * 8 + p.toNat) g.toNat 0)
  | .cpyLd d a c g s => some (formA 0x36 d.toNat a.toNat (c.toNat * 8) g.toNat s.toNat)
  | .cpySt d a c g s => some (formA 0x36 d.toNat a.toNat (1 + c.toNat * 8) g.toNat s.toNat)
  | .cpygG d a c g s => some (formA 0x36 d.toNat a.toNat (2 + c.toNat * 8) g.toNat s.toNat)
  | .cpygS d a c g s => some (formA 0x36 d.toNat a.toNat (3 + c.toNat * 8) g.toNat s.toNat)
  | .cwait a c g => some (formA 0x36 0 a.toNat (4 + c.toNat * 8) g.toNat 0)
  | .ctest d a c g s => some (formA 0x36 d.toNat a.toNat (5 + c.toNat * 8) g.toNat s.toNat)
  | .cpyCb d a c g s => some (formA 0x36 d.toNat a.toNat (6 + c.toNat * 8) g.toNat s.toNat)
  | .cpyc c g => some (formA 0x36 0 0 (7 + c.toNat * 8) g.toNat 0)
  | .cbinit a c g v => some (formA 0x37 0 a.toNat (c.toNat * 8) g.toNat v.toNat)
  | .cbacq d c g v => some (formA 0x37 d.toNat 0 (1 + c.toNat * 8) g.toNat v.toNat)
  | .cbcmt a c g v => some (formA 0x37 0 a.toNat (2 + c.toNat * 8) g.toNat v.toNat)
  | .cbwait d c g v => some (formA 0x37 d.toNat 0 (3 + c.toNat * 8) g.toNat v.toNat)
  | .cbrel a c g v => some (formA 0x37 0 a.toNat (4 + c.toNat * 8) g.toNat v.toNat)
  | .bar g => some (formA 0x38 0 0 0 g.toNat 0)
  | .ebar g => some (formA 0x38 0 0 1 g.toNat 0)
  | .arrive d g => some (formA 0x38 d.toNat 0 2 g.toNat 0)
  | .await a g => some (formA 0x38 0 a.toNat 3 g.toNat 0)
  | .qpush a q g => some (formA 0x39 0 a.toNat (q.toNat * 8) g.toNat 0)
  | .qpop d q g => some (formA 0x39 d.toNat 0 (1 + q.toNat * 8) g.toNat 0)
  | .qpeek d q g => some (formA 0x39 d.toNat 0 (2 + q.toNat * 8) g.toNat 0)
  | .qcfg a q g => some (formA 0x39 0 a.toNat (3 + q.toNat * 8) g.toNat 0)
  | .mma d a b g => some (formA 0x3A d.toNat a.toNat b.toNat g.toNat 0)
  | .mmas d a b g => some (formA 0x3A d.toNat a.toNat b.toNat g.toNat 1)
  | .tld d a b g => some (formA 0x3A d.toNat a.toNat b.toNat g.toNat 2)
  | .tst d a b g => some (formA 0x3A d.toNat a.toNat b.toNat g.toNat 3)
  | .gridOn g => some (formA 0x3B 0 0 0 g.toNat 0)
  | .gridOff g => some (formA 0x3B 0 0 1 g.toNat 0)
  | .gang a g => some (formA 0x3B 0 a.toNat 2 g.toNat 0)
  | .opfence g => some (formA 0x3B 0 0 3 g.toNat 0)
  | .gmma d a g => some (formA 0x3B d.toNat a.toNat 4 g.toNat 0)
  | .gmmat d a g => some (formA 0x3B d.toNat a.toNat 5 g.toNat 0)
  | .gtld d a g => some (formA 0x3B d.toNat a.toNat 6 g.toNat 0)
  | .gtst d a g => some (formA 0x3B d.toNat a.toNat 7 g.toNat 0)
  | .gwait a g => some (formA 0x3B 0 a.toNat 8 g.toNat 0)
  | .rboxG d a g => some (formA 0x3B d.toNat a.toNat 9 g.toNat 0)
  | .tpay d a g => some (formA 0x3C d.toNat a.toNat 0 g.toNat 0)
  | .tdisp a g => some (formA 0x3C 0 a.toNat 1 g.toNat 0)
  | .mvtx d a g => some (formA 0x3C d.toNat a.toNat 2 g.toNat 0)
  | .mprim d a g => some (formA 0x3C d.toNat a.toNat 3 g.toNat 0)
  | .mcnt a g => some (formA 0x3C 0 a.toNat 4 g.toNat 0)
  | .visrd d g m => some (formA 0x3C d.toNat 0 5 g.toNat m.toNat)
  | .attr d a g => some (formA 0x3C d.toNat a.toNat 6 g.toNat 0)
  | .deriv d a g m => some (formA 0x3C d.toNat a.toNat 7 g.toNat m.toNat)
  | .imld d a g => some (formA 0x3C d.toNat a.toNat 8 g.toNat 0)
  | .imst d a g => some (formA 0x3C d.toNat a.toNat 9 g.toNat 0)
  | .tex d a g m => some (formA 0x3C d.toNat a.toNat 10 g.toNat m.toNat)
  | .tldi d a g => some (formA 0x3C d.toNat a.toNat 11 g.toNat 0)
  | .rbox d a g s => some (formA 0x3D d.toNat a.toNat 0 g.toNat s.toNat)
  | .rtri d a g s => some (formA 0x3D d.toNat a.toNat 1 g.toNat s.toNat)
  | .rnode d a g s => some (formA 0x3D d.toNat a.toNat 2 g.toNat s.toNat)
  | .rpin d a g h s => some (formA 0x3D d.toNat a.toNat 3 g.toNat (h.toNat * 2 + s.toNat))
  | .runpin g l s => some (formA 0x3D 0 0 4 g.toNat (l.toNat * 2 + s.toNat))
  | .rgen d g s => some (formA 0x3D d.toNat 0 5 g.toNat s.toNat)
  | .bld a g => some (formA 0x3D 0 a.toNat 6 g.toNat 0)
  | .bldq d a g => some (formA 0x3D d.toNat a.toNat 7 g.toNat 0)
  | .bldw a g => some (formA 0x3D 0 a.toNat 8 g.toNat 0)
  | .syscallB d a g => some (formA 0x3E d.toNat a.toNat 0 g.toNat 0)
  | .syscallN a g => some (formA 0x3E 0 a.toNat 0 g.toNat 1)
  | .syswait d g => some (formA 0x3E d.toNat 0 1 g.toNat 0)
  | .alloc d a g => some (formA 0x3E d.toNat a.toNat 2 g.toNat 0)
  | .free a g => some (formA 0x3E 0 a.toNat 3 g.toNat 0)
  | .rdsr d n g => some (formA 0x3E d.toNat n.toNat 4 g.toNat 0)
  | .wrsr n a g => some (formA 0x3E n.toNat a.toNat 5 g.toNat 0)
  | .launch d a g => some (formA 0x3E d.toNat a.toNat 6 g.toNat 0)
  | .lwait a g => some (formA 0x3E 0 a.toNat 7 g.toNat 0)
  | .mapHint a g => some (formA 0x3E 0 a.toNat 8 g.toNat 0)
  | .mapOff a g => some (formA 0x3E 0 a.toNat 9 g.toNat 0)
  | .submission _ _ _ _ => none
  | .queueMap _ _ => none
  | .queueUnmap _ => none
  | .placementOpportunity _ => none
  | .dependenceWrite _ _ => none
  | .registerClear _ => none
  | .launchCompletion _ => none
  | .preemptionRequest _ _ => none
  | .preemptStarvation _ _ => none
  | .victimSave _ => none
  | .preemptTimeout _ => none
  | .trapEntry _ => none
  | .haltLine _ => none
  | .haltRequest _ => none
  | .debugHalt _ => none
  | .contextCreation _ _ => none
  | .descriptorUpdate _ _ => none
  | .syscallDone _ _ _ => none
  | .lwaitCounter _ _ => none
  | .feWaitExpired _ => none
  | .translationLinkTimeout _ => none
  | .acknowledgementTimeout _ => none
  | .watchdog _ => none
  | .sleepExpiry _ => none
  | .issueGapExpiry _ => none
  | .regroupHoldExpiry _ => none
  | .heatEntryClear _ _ => none
  | .refusalExpiry _ _ => none
  | .mapperAnalysis _ _ _ _ => none
  | .copyGranuleWrite _ _ => none
  | .gridStep _ => none
  | .gridMove _ => none
  | .gridDrain _ => none
  | .riggerCommand _ _ _ _ _ => none
  | .reclamation _ _ _ => none
  | .binRecord _ _ => none
  | .shadeThreadFormation _ _ _ _ => none
  | .flit _ _ _ => none
  | .linkTraining _ => none
  | .retrainTimeout => none
  | .rds _ _ _ => none
  | .rdx _ _ _ => none
  | .upg _ _ _ => none
  | .wbm _ _ _ _ _ => none
  | .rdu _ _ _ => none
  | .wru _ _ _ _ _ => none
  | .wrc _ _ _ _ _ => none
  | .atoms _ _ _ _ _ _ => none
  | .memoryData _ => none
  | .snpinv _ _ => none
  | .snpfwds _ _ _ => none
  | .snpfwdx _ _ _ => none
  | .cmp _ => none
  | .rspi _ _ _ => none
  | .rsps _ _ => none
  | .rspfwd _ _ _ => none
  | .gntack _ _ => none
  | .dats _ _ => none
  | .date _ _ => none
  | .datm _ _ => none
  | .datu _ _ => none
  | .xlrsp _ _ _ _ _ _ _ => none
  | .pgrsp _ _ => none
  | .xlinv _ _ _ _ => none
  | .xlinvcmp _ => none
  | .presentcmp _ => none
  | .powerOff => none
  | .powerOn => none
  | .cmdNoAction _ => none
  | .drainDone => none
  | .firmwareVerify _ _ _ _ => none
  | .functionReady _ => none
  | .mboxClear _ => none
  | .mctrClear _ _ => none
  | .gafferRegisterWrite _ _ => none
  | .powerArbitration _ _ _ => none
  | .replayRateAdjust _ _ => none
  | .timingError _ _ _ => none
  | .phaseLoss _ => none
  | .thermalThrottle _ _ => none
  | .thermalEmergency _ _ => none
  | .sramUncorrectable _ => none
  | .illegalOpcode => none
  | .obligationMet _ _ _ => none
  | .visibilityPoint _ _ => none
  | .queueCreation _ _ _ _ => none
  | .queueDisable _ => none
  | .contextDestruction _ => none
  | .memoryIslandPowerUp => none
  | .present _ _ _ => none

/-- The host's question: the instruction whose first nbits bits are w, or none where the decoder refuses them. Every word of the FX-96 is
32 bits (R26); bits above nbits are 0. -/
def decodeTableWord (nbits w : Nat) : Option Instr :=
  match decodeWord (w % 2 ^ (min nbits 32)) with
  | .ok i => some i
  | .error _ => none

/-- The event named ILLEGAL_OPCODE stands for the words that carry that cause (R32): what a fetched word executes as. -/
def isEvent (i : Instr) : Bool := (encode i).isNone

end Sys2Proof
end

