-- ==== Sys2Proof/Config.lean ====
section
/-! DEFINITION. What the reference leaves to the device: free values, opaque constants of which no proof can learn anything. They are applied
to the operands they may depend on, or to a plain counter of the state where every use may differ. -/

namespace Sys2Proof.Config

/-- What moves in turn n when the state's schedule names nothing: which thread is issued or which event comes (R8, R129 to R133).
(DESIGN CHOICE: log entry 2.) -/
opaque turn : Nat → Turn

/-- A byte that the reference calls unpredictable or does not architect, by a key and a place: of a slice at the start of an ensemble (R176), of a save
area (R350), of a structure-table entry's private part (R314).
(DESIGN CHOICE: log entries 6, 31, 101.) -/
opaque freshByte : Nat → Nat → Byte

/-- A word that the reference calls unpredictable (R3), by a counter and a place.
(DESIGN CHOICE: log entries 18, 24, 35, 51, 53, 78, 80, 90, 101.) -/
opaque freeWord : Nat → Nat → Word

/-- The F32 pattern of an approximate FUNARY result, by sub-code and operand bits; the machine takes it where it keeps the bound of R124.
(DESIGN CHOICE: log entry 7.) -/
opaque funaryResult : Nat → Word → Word

/-- The code of a state that a cache keeps, in AUX of RspFwd: R362 gives no coding. The states are 0 I, 1 S, 2 O.
(DESIGN CHOICE: log entry 20.) -/
opaque keptCode : Nat → Nat

/-- The choice of an engine among outcomes the reference allows, by a counter.
(DESIGN CHOICE: log entries 8, 12, 16, 18, 24, 28, 30, 49, 52, 62, 66, 69, 83, 90, 101.) -/
opaque choice : Nat → Nat

/-- The records that a chunk of bin memory takes, by the pass and the chunk's place: not architected (R298).
(DESIGN CHOICE: log entry 47.) -/
opaque binCapacity : Nat → Nat → Nat

/-- sr.ens of a shade ensemble, for which the reference gives no number, by the ensemble's place.
(DESIGN CHOICE: log entry 50.) -/
opaque shadeIndex : Nat → Nat

/-- The turns after which an access that may be performed is performed, and a line of an L1 is no longer hit: finite, and otherwise not known (R208).
(DESIGN CHOICE: log entry 105.) -/
opaque patience : Nat

end Sys2Proof.Config
end

