-- ==== Sys2Proof/Machine/Bits.lean ====
section
/-! DEFINITION. Bit fields, little-endian byte order and integer ranges: the helpers every meaning shares (R6, R26, R53). -/

namespace Sys2Proof.Machine

/-- v[lo + n - 1 : lo] of a number. -/
def slice (v lo n : Nat) : Nat := v / 2 ^ lo % 2 ^ n

/-- Bit i of a number. -/
def bitAt (v i : Nat) : Bool := v / 2 ^ i % 2 == 1

/-- v with bits lo to lo + n - 1 replaced by x. -/
def putSlice (v lo n x : Nat) : Nat := v / 2 ^ (lo + n) * 2 ^ (lo + n) + x % 2 ^ n * 2 ^ lo + v % 2 ^ lo

/-- sext(v, w) (R53): the w low bits of v read as two's complement. -/
def signed (v w : Nat) : Int := if v % 2 ^ w < 2 ^ (w - 1) then (v % 2 ^ w : Nat) else (v % 2 ^ w : Nat) - (2 ^ w : Nat)

/-- An integer reduced modulo 2^w. -/
def wrap (x : Int) (w : Nat) : Nat := (x % (2 ^ w : Nat)).toNat

/-- x held between lo and hi. -/
def clampInt (x lo hi : Int) : Int := if x < lo then lo else if hi < x then hi else x

/-- The 32-bit word of a number. -/
def w32 (n : Nat) : Word := BitVec.ofNat 32 n

/-- The 64-bit word of a number. -/
def w64 (n : Nat) : DWord := BitVec.ofNat 64 n

/-- The n little-endian bytes of a number. -/
def toBytes (v : Nat) : Nat → List Byte
  | 0 => []
  | n + 1 => BitVec.ofNat 8 v :: toBytes (v / 256) n

/-- The number that little-endian bytes hold. -/
def ofBytes : List Byte → Nat
  | [] => 0
  | b :: r => b.toNat + 256 * ofBytes r

/-- A pair of words as one 64-bit value, the low word first (R6). -/
def pairOf (lo hi : Word) : DWord := w64 (lo.toNat + hi.toNat * 2 ^ 32)

/-- The words of a number, the low word first. -/
def toWords (v : Nat) : Nat → List Word
  | 0 => []
  | n + 1 => w32 v :: toWords (v / 2 ^ 32) n

/-- The number that words hold, the low word first (R6). -/
def ofWords : List Word → Nat
  | [] => 0
  | w :: r => w.toNat + 2 ^ 32 * ofWords r

/-- The numbers from a, n of them. -/
def upFrom (a : Nat) : Nat → List Nat
  | 0 => []
  | n + 1 => a :: upFrom (a + 1) n

/-- The element of a list at i, or a default. -/
def nth {α : Type} (l : List α) (i : Nat) (d : α) : α := l.getD i d

/-- The list with element i replaced by f of it; the list itself where i is outside. -/
def updateAt {α : Type} (l : List α) (i : Nat) (f : α → α) : List α :=
  l.modify i f

/-- The first place whose element satisfies p. -/
def findIdx {α : Type} (p : α → Bool) (l : List α) : Option Nat := l.findIdx? p

/-- The list with x standing before the first element that comes after it. -/
def putBefore {α : Type} (after : α → Bool) (x : α) (l : List α) : List α :=
  l.takeWhile (fun y => !after y) ++ x :: l.dropWhile (fun y => !after y)

/-- n rounded up to a multiple of m. -/
def alignUp (n m : Nat) : Nat := (n + m - 1) / m * m

/-- The number of ones among the w low bits. -/
def popCount (v : Nat) : Nat → Nat
  | 0 => 0
  | w + 1 => v % 2 + popCount (v / 2) w

/-- A number's bits in a list, w of them, bit 0 first. -/
def bitList (v : Nat) : Nat → List Bool
  | 0 => []
  | w + 1 => (v % 2 == 1) :: bitList (v / 2) w

/-- The number whose bits a list gives, bit 0 first. -/
def ofBits : List Bool → Nat
  | [] => 0
  | b :: r => (if b then 1 else 0) + 2 * ofBits r

/-- The places of the ones among the w low bits, ascending. -/
def onesOf (v w : Nat) : List Nat := (upFrom 0 w).filter (bitAt v)

/-- The mask whose ones stand at the given places. -/
def maskOf (l : List Nat) : Nat := l.foldl (fun m i => if bitAt m i then m else m + 2 ^ i) 0

/-- A is canonical: bits 63 to 57 repeat bit 56 (R20). -/
def canonical (a : DWord) : Bool := slice a.toNat 57 7 == (if bitAt a.toNat 56 then 127 else 0)

/-- The canonical address whose low 57 bits are given. -/
def canonicalOf (v : Nat) : DWord := w64 (wrap (signed v 57) 64)

end Sys2Proof.Machine
end

