-- ==== Sys2Proof/Machine/Fp.lean ====
section
/-! DEFINITION. Binary floating point, exactly: values as integers times powers of two, one rounding, and the special values of the formats
(R63 to R65, R77, R78, R110). -/

namespace Sys2Proof.Machine

/-- An element format with an exponent and a mantissa field (R63, R64). -/
structure FloatFmt where
  ew    : Nat
  mw    : Nat
  bias  : Nat
  maxE  : Nat              -- exponent field and mantissa of the largest finite value
  maxM  : Nat
  inf   : Bool             -- has infinities
  nan   : Option Nat       -- the NaN that it generates
  snan  : Bool             -- has signalling NaNs (R63, R64)
  deriving DecidableEq, Repr

def fF32  : FloatFmt := ⟨8, 23, 127, 254, 2 ^ 23 - 1, true, some 0x7FC00000, true⟩
def fF16  : FloatFmt := ⟨5, 10, 15, 30, 2 ^ 10 - 1, true, some 0x7E00, true⟩
def fBF16 : FloatFmt := ⟨8, 7, 127, 254, 2 ^ 7 - 1, true, some 0x7FC0, true⟩
def fE4M3 : FloatFmt := ⟨4, 3, 7, 15, 6, false, some 0x7F, false⟩
def fE5M2 : FloatFmt := ⟨5, 2, 15, 30, 3, true, some 0x7E, false⟩
def fE2M1 : FloatFmt := ⟨2, 1, 1, 3, 1, false, none, false⟩

/-- The width of a format's elements. -/
def FloatFmt.width (f : FloatFmt) : Nat := 1 + f.ew + f.mw

/-- An exact value: a NaN, an infinity, or (-1)^neg × m × 2^e, with m = 0 for the signed zeros. -/
inductive FVal where
  | nan (signalling : Bool)
  | inf (neg : Bool)
  | num (neg : Bool) (m : Nat) (e : Int)
  deriving DecidableEq, Repr, Inhabited

/-- The rounding modes, in the order of their codes (R77). -/
inductive RMode where
  | rne | rtz | rdn | rup | rna
  deriving DecidableEq, Repr, Inhabited

/-- The mode of a code of R77. -/
def RMode.ofCode : Nat → RMode
  | 1 => .rtz | 2 => .rdn | 3 => .rup | 4 => .rna | _ => .rne

/-- Flag bits of sr.fflags (R107). -/
def flagNV : Nat := 1
def flagDZ : Nat := 2
def flagOF : Nat := 4
def flagUF : Nat := 8
def flagNX : Nat := 16

/-- The value that an element's bits encode (R63, R64). -/
def FloatFmt.decode (f : FloatFmt) (b : Nat) : FVal :=
  let neg := bitAt b (f.ew + f.mw)
  let x := slice b f.mw f.ew
  let m := slice b 0 f.mw
  if x = 2 ^ f.ew - 1 && f.inf then
    if m = 0 then .inf neg else .nan (f.snan && !bitAt m (f.mw - 1))
  else if f.nan.isSome && !f.inf && x = 2 ^ f.ew - 1 && m = 2 ^ f.mw - 1 then .nan false
  else if x = 0 then .num neg m (1 - (f.bias : Int) - f.mw)
  else .num neg (2 ^ f.mw + m) ((x : Int) - f.bias - f.mw)

/-- A magnitude m × 2^e rounded to a multiple of 2^q: the multiple, and whether it is exact. -/
def roundTo (mode : RMode) (neg : Bool) (m : Nat) (e q : Int) : Nat × Bool :=
  if q ≤ e then (m * 2 ^ (e - q).toNat, true)
  else
    let s := (q - e).toNat
    -- beyond m's own length only "less than half" matters
    let s' := min s (Nat.log2 m + 2)
    let k := m / 2 ^ s'
    let r := m % 2 ^ s'
    let exact := r = 0
    let up := match mode with
      | .rne => decide (2 * r > 2 ^ s') || (decide (2 * r = 2 ^ s') && k % 2 == 1)
      | .rna => decide (2 * r ≥ 2 ^ s')
      | .rtz => false
      | .rdn => neg && !exact
      | .rup => !neg && !exact
    (if up then k + 1 else k, exact)

/-- What round() found: the fields of the result under the format's own exponent range, and the conditions of R79. -/
structure Rounded where
  x       : Nat      -- biased exponent, not bounded above
  m       : Nat      -- mantissa field
  ovf     : Bool
  tiny    : Bool
  inexact : Bool
  deriving DecidableEq, Repr

/-- A non-zero magnitude m × 2^e rounded to the format's precision, with subnormals and an unbounded top (R77). -/
def FloatFmt.roundMag (f : FloatFmt) (mode : RMode) (neg : Bool) (m : Nat) (e : Int) : Rounded :=
  let top : Int := e + (Nat.log2 m : Int)
  let emin : Int := 1 - (f.bias : Int)
  let q : Int := max top emin - f.mw
  let r := roundTo mode neg m e q
  let k := r.1
  if k < 2 ^ f.mw then ⟨0, k, false, true, !r.2⟩
  else
    let x := (q + f.mw + f.bias).toNat
    let xm := if k = 2 ^ (f.mw + 1) then (x + 1, 0) else (x, k - 2 ^ f.mw)
    ⟨xm.1, xm.2, decide (xm.1 > f.maxE) || (xm.1 == f.maxE && decide (xm.2 > f.maxM)), false, !r.2⟩

/-- An element's bits from sign, exponent field and mantissa. -/
def FloatFmt.pack (f : FloatFmt) (neg : Bool) (x m : Nat) : Nat := (if neg then 2 ^ (f.ew + f.mw) else 0) + x * 2 ^ f.mw + m

/-- The largest finite value, with a sign. -/
def FloatFmt.largest (f : FloatFmt) (neg : Bool) : Nat := f.pack neg f.maxE f.maxM

/-- An infinity's bits; in a format without one, what R78 gives for an infinite result. -/
def FloatFmt.infBits (f : FloatFmt) (neg : Bool) : Nat :=
  if f.inf then f.pack neg (2 ^ f.ew - 1) 0
  else match f.nan with
    | some n => n
    | none => f.largest neg

/-- The NaN a format generates; +0 where it has none (R74, R78). -/
def FloatFmt.nanBits (f : FloatFmt) : Nat := f.nan.getD 0

/-- R78: RTZ, RDN for a positive value and RUP for a negative one round toward zero. -/
def RMode.towardZero (mode : RMode) (neg : Bool) : Bool :=
  match mode with
  | .rtz => true | .rdn => !neg | .rup => neg | _ => false

/-- An exact value encoded in a float format, with the flags of R79: round(), then sat() where asked (R77, R78, R110). A NaN gives the
canonical NaN and no flag here; consuming a signalling NaN raises NV where the operand is read. -/
def FloatFmt.encode (f : FloatFmt) (mode : RMode) (sat : Bool) (v : FVal) : Nat × Nat :=
  match v with
  | .nan _ => (f.nanBits, if f.nan.isSome then 0 else flagNV)
  | .inf neg =>
    if f.inf then (if sat then (f.largest neg, flagNX) else (f.infBits neg, 0))
    else (if sat then f.largest neg else f.infBits neg, flagNV)
  | .num neg m e =>
    if m = 0 then (f.pack neg 0 0, 0)
    else
      let r := f.roundMag mode neg m e
      if r.ovf then
        (if sat || mode.towardZero neg || (!f.inf && f.nan.isNone) then f.largest neg else f.infBits neg, flagOF + flagNX)
      else (f.pack neg r.x r.m, (if r.tiny && r.inexact then flagUF else 0) + (if r.inexact then flagNX else 0))

/-! ### Exact arithmetic -/

/-- A value's modifiers: absolute value, then negation (R45). -/
def FVal.modify (neg abs : Bool) (v : FVal) : FVal :=
  match v with
  | .nan s => .nan s
  | .inf n => .inf ((n && !abs) != neg)
  | .num n m e => .num ((n && !abs) != neg) m e

/-- Is the value a NaN; a signalling one? -/
def FVal.isNaN : FVal → Bool
  | .nan _ => true
  | _ => false
def FVal.isSNaN : FVal → Bool
  | .nan s => s
  | _ => false

/-- NV for a signalling NaN operand (R110). -/
def FVal.nv (v : FVal) : Nat := if v.isSNaN then flagNV else 0

/-- The signed integer m × 2^(e - q), for q at most e. -/
def alignTo (neg : Bool) (m : Nat) (e q : Int) : Int :=
  let k : Int := (m * 2 ^ (e - q).toNat : Nat)
  if neg then -k else k

/-- A + B exactly (R110): an exact zero sum of operands with opposite signs is +0, or -0 under RDN. The second component is the
invalid flag of infinity minus infinity. -/
def FVal.add (mode : RMode) (a b : FVal) : FVal × Nat :=
  match a, b with
  | .nan _, _ => (.nan false, 0)
  | _, .nan _ => (.nan false, 0)
  | .inf x, .inf y => if x = y then (.inf x, 0) else (.nan false, flagNV)
  | .inf x, _ => (.inf x, 0)
  | _, .inf y => (.inf y, 0)
  | .num na ma ea, .num nb mb eb =>
    if ma = 0 && mb = 0 then (.num (if na = nb then na else mode = .rdn) 0 0, 0)
    else if ma = 0 then (.num nb mb eb, 0)
    else if mb = 0 then (.num na ma ea, 0)
    else
      let q := min ea eb
      let s := alignTo na ma ea q + alignTo nb mb eb q
      if s = 0 then (.num (mode = .rdn) 0 0, 0) else (.num (decide (s < 0)) s.natAbs q, 0)

/-- Is a value finite? -/
def FVal.finite : FVal → Bool
  | .num _ _ _ => true
  | _ => false

/-- A × B exactly. -/
def FVal.mul (a b : FVal) : FVal × Nat :=
  match a, b with
  | .nan _, _ => (.nan false, 0)
  | _, .nan _ => (.nan false, 0)
  | .inf x, .inf y => (.inf (x != y), 0)
  | .inf x, .num n m _ => if m = 0 then (.nan false, flagNV) else (.inf (x != n), 0)
  | .num n m _, .inf x => if m = 0 then (.nan false, flagNV) else (.inf (x != n), 0)
  | .num na ma ea, .num nb mb eb => (.num (na != nb) (ma * mb) (ea + eb), 0)

/-- Flags of two steps together. -/
def orFlags (a b : Nat) : Nat := a ||| b

/-- An exact sum of several values, read left to right; no rounding comes between (R113, R116). -/
def FVal.sum (mode : RMode) (vs : List FVal) : FVal × Nat :=
  match vs with
  | [] => (.num false 0 0, 0)
  | v :: r => r.foldl (fun (acc : FVal × Nat) x => let s := acc.1.add mode x; (s.1, orFlags acc.2 s.2)) (v, 0)

/-- a < b on ordered values: -0 equals +0. -/
def FVal.lt (a b : FVal) : Bool :=
  match a, b with
  | .nan _, _ => false
  | _, .nan _ => false
  | .inf x, .inf y => x && !y
  | .inf x, .num _ _ _ => x
  | .num _ _ _, .inf y => !y
  | .num na ma ea, .num nb mb eb => let q := min ea eb; decide (alignTo na ma ea q < alignTo nb mb eb q)

/-- a = b on ordered values. -/
def FVal.eq (a b : FVal) : Bool := !a.isNaN && !b.isNaN && !a.lt b && !b.lt a

/-- The sign bit of a value that is no NaN. -/
def FVal.neg : FVal → Bool
  | .nan _ => false
  | .inf n => n
  | .num n _ _ => n

/-- minimumNumber and maximumNumber order: -0 is below +0 (R114). -/
def FVal.below (a b : FVal) : Bool := a.lt b || (a.eq b && a.neg && !b.neg)

/-- ⌊√v⌋ by one bit at a time: r² ≤ v < (r + 2^(k+1))² where the search starts. -/
def isqrtFrom (v : Nat) : Nat → Nat → Nat
  | 0, r => if (r + 1) * (r + 1) ≤ v then r + 1 else r
  | k + 1, r => let c := r + 2 ^ (k + 1); isqrtFrom v k (if c * c ≤ v then c else r)

/-- ⌊√v⌋. -/
def isqrt (v : Nat) : Nat := isqrtFrom v (Nat.log2 v / 2) 0

/-- An integer's value as a float. -/
def FVal.ofInt (v : Int) : FVal := .num (decide (v < 0)) v.natAbs 0

/-- The finite value v × 2^k. -/
def FVal.scale (v : FVal) (k : Int) : FVal :=
  match v with
  | .num n m e => .num n m (e + k)
  | x => x

/-- ⌊v⌉ in a mode, as an integer, and whether it is exact; 0 for a value that is not a number. -/
def FVal.toInt (mode : RMode) (v : FVal) : Int × Bool :=
  match v with
  | .num n m e => if m = 0 then (0, true) else
      let r := roundTo mode n m e 0
      ((if n then -(r.1 : Int) else r.1), r.2)
  | _ => (0, true)

/-- A rational p / q, q positive, as a value that rounds as p / q does in every format of at most 64 bits: 80 significant bits and a last
bit that says whether anything was dropped. -/
def FVal.ofRatio (neg : Bool) (p q : Nat) (e : Int) : FVal :=
  if p = 0 then .num neg 0 0
  else
    let k := 80 + Nat.log2 q
    let n := p * 2 ^ k
    .num neg (2 * (n / q) + (if n % q = 0 then 0 else 1)) (e - k - 1)

end Sys2Proof.Machine
end

