-- ==== Sys2Proof/Machine/State.lean ====
section
/-! DEFINITION. The state of the FX-96 as plain data: every register, queue, table and engine the reference names, the reasons a
step can stop, and the state right after reset. Things that exist in numbers (threads, troupes, ensembles, launches, queues,
contexts) are flat lists; the number by which one names another is its place in its list. -/

namespace Sys2Proof.Machine

/-- The format tags of R69, in the order of their codes 0 to 15. -/
inductive Tag where
  | b32 | f32 | f16x2 | bf16x2 | e4m3x4 | e5m2x4 | e2m1x8 | i8x4
  | e8m0x4 | sxex2 | sx8x4 | sx5x4 | sx3x4 | n8x4 | i16x2 | acc
  deriving DecidableEq, Repr, Inhabited

/-- The 64 causes of R341, in the order of their codes. -/
inductive Cause where
  | noCause | illegalOpcode | reservedField | illegalRegister | hintOrphan | clauseMalformed | transientExpired | tagMismatch
  | formatUnsupported | targetNotPermitted | callStackOverflow | callStackUnderflow | joinMismatch | collectiveMask | breakpoint | singleStep
  | watchpoint | trapInstruction | misaligned | scratchBounds | addressNoncanonical | permissionRead | permissionWrite | permissionExecute
  | pageNotPresent | pageWriteTrack | translationLinkTimeout | atomicUnsupported | mxSplit | feWaitExpired | queueNotBound | copyRights
  | copyDescriptor | carouselProtocol | gridNotOwned | gridShape | gangMismatch | operandFenceMissing | matrixParam | meshBounds
  | payloadProtocol | binMemoryExhausted | structureUnpinned | structureMalformed | geometryDegenerate | syscallSlot | heapCorrupt | successorInvalid
  | fpException | dataCheck | sramUncorrectable | linkProtocol | watchdog | preemptTimeout | haltRequest | siblingHalt
  | compatFragment | debugHalt | privilege | specialRegister | exitWithPending | clearEngineFault | thermalEmergency | machineCheckOther
  deriving DecidableEq, Repr, Inhabited

/-! ### A thread -/

/-- Where a register's value stands: in the file, in the bypass network (written by the instruction that executes, or with so many
instructions of its window left), or expired (R145). -/
inductive RegLife where
  | held | fresh | transient (left : Nat) | expired
  deriving DecidableEq, Repr, Inhabited

/-- A general register: 32 bits, a tag (R16, R69), and its transient life (R145). -/
structure Reg where
  val  : Word := 0
  tag  : Tag := .b32
  life : RegLife := .held
  deriving DecidableEq, Repr, Inhabited

/-- The clause position of R41. `pos = len` means that the next word must be a header. -/
structure ClausePos where
  header : DWord := 0
  len    : Nat := 0
  pos    : Nat := 0
  fa     : BitVec 4 := 15
  fb     : BitVec 4 := 15
  deriving DecidableEq, Repr, Inhabited

/-- The hint latch of R42: the payload of each kind that the run has given. -/
structure HintLatch where
  imm   : Option (BitVec 24) := none
  mod   : Option (BitVec 24) := none
  c     : Option (BitVec 24) := none
  sched : Option (BitVec 24) := none
  deriving DecidableEq, Repr, Inhabited

/-- What a pin slot claims (R327). -/
inductive PinState where
  | none | launch (gen : Word) | own (gen : Word)
  deriving DecidableEq, Repr, Inhabited

/-- A thread's pin slot: a structure handle and the generation it holds (R327). -/
structure PinSlot where
  handle : Word := 0
  claim  : PinState := .none
  deriving DecidableEq, Repr, Inhabited

/-- What a parked instruction waits for; it executes again when its thread next issues (R139, R161, R186, R230, R285). -/
inductive Wait where
  | flags | flagRoom | drain | fence | queue | fullEmpty (granule : Nat) | completionMap | copyRoom | copyCancel | carousel | ringSlot
  | gridSwitch | gridEmpty | gridRoom | gridSequence | slotV | syscall | counter (at_ : DWord) | rigger | status | launchStatus | regroup | emission | split
  deriving DecidableEq, Repr, Inhabited

/-- What a thread is doing between two issues. -/
inductive Status where
  | ready
  | parked (why : Wait) (since : DWord)
  | arrived (i : Instr) (mask : DWord)             -- at a rendezvous (R137), with all that its arrivals must agree on (R138, R245)
  | latched (i : Instr) (block : Word)             -- at a gang latch (R256)
  | barred (phase : Word)                          -- at BAR or EBAR (R281)
  | stalled (cause : Cause) (page : Nat)           -- R340, class S; the page is a 4 KiB virtual page of its context
  | trapping (cause : Cause) (pc addr info : DWord)-- a trap that waits for the thread's obligations (R343)
  | sleeping (wake : DWord)                        -- R144
  | exited
  deriving DecidableEq, Repr, Inhabited

/-- A page's cache policy (R187). -/
inductive Policy where
  | wb | wc | uc
  deriving DecidableEq, Repr, Inhabited

/-- One byte's place: in the physical global space, with the policy of the page that it was reached through and its virtual address there, or in
the scratch slice of a troupe (R174, R175, R187). -/
structure Loc where
  scratch : Option Nat := none
  addr    : Nat := 0
  policy  : Policy := .wb
  va      : Nat := 0
  deriving DecidableEq, Repr, Inhabited

/-- A memory order (R197). -/
inductive Order where
  | rlx | acq | rel | ar
  deriving DecidableEq, Repr, Inhabited

/-- A scope (R196). -/
inductive Scope where
  | th | tr | en | dv | sy
  deriving DecidableEq, Repr, Inhabited

/-- The control word of TLD and TST (R249). -/
structure FragCtl where
  scratch : Bool
  kind    : Nat
  type    : Nat
  str     : Nat
  deriving DecidableEq, Repr, Inhabited

/-- How the texels of an image load become registers (R310, R311): the format and bytes of a texel; raw words; or the places of a sample among the
texels, none for the border, with their weights over 2^24. -/
structure ImageForm where
  fmt    : Nat
  size   : Nat
  raw    : Bool := false
  terms  : Option (List (Option Nat × Nat)) := none
  border : List Word := []
  key    : Nat := 0                  -- the model's own: names the sum where it is free
  deriving DecidableEq, Repr, Inhabited

/-- How the bytes of a load become registers (R73, R180): a type code with the first register and the number of registers; for a TLD its control
word, and the elements that the bytes are, each with whether it is a high nibble (R249); for an image load what its texels become. -/
structure LoadForm where
  type  : Nat
  dst   : Nat
  count : Nat
  scale : Bool := false
  frag  : Option (FragCtl × List (Nat × Bool)) := none
  image : Option ImageForm := none
  level : Option Nat := none         -- a prefetch into a level: it writes no register (R193)
  deriving DecidableEq, Repr, Inhabited

/-- A load that has issued and is not yet bound (R198, R201); `seq` is its place in program order. -/
structure PendingLoad where
  seq    : Nat
  locs   : List Loc
  order  : Order := .rlx
  scope  : Scope := .dv
  form   : LoadForm
  flag   : Nat
  const  : Bool := false             -- of the constant space, which takes no part in ordering (R196)
  got    : List (Nat × Unit64) := [] -- the units that uncached reads have brought (R187)
  born   : Nat := 0                  -- the turn in which it issued (R208)
  part   : List (Nat × List Byte) := []   -- the texels of a sample that it has read already, by their places among its texels (R311)
  deriving DecidableEq, Repr, Inhabited

/-- The operation of an atomic (R211, R212), on the little-endian number its bytes hold. -/
structure AtomicOp where
  op      : Nat            -- 0–12 the type of R211, 13 compare-and-swap
  tag     : Tag            -- the result's tag
  value   : Nat
  compare : Nat := 0
  dst     : Option Nat     -- the first register the old value goes to
  flag    : Nat := 15      -- the result flag
  deriving DecidableEq, Repr, Inhabited

/-- One byte of a store, with the bits it writes (a 4-bit element of TST writes a nibble, R249). -/
structure StoreByte where
  loc  : Loc
  val  : Byte
  mask : Byte := 0xFF
  deriving DecidableEq, Repr, Inhabited

/-- The registers whose words a store or an atomic stores, with the tags that they are read under, the words that it has read of them so far, and the
type code by which the words become bytes, or the elements of one register that a store of TST carries (R39, R73, R249). -/
structure DataSource where
  type  : Nat := 0
  frag  : Option (FragCtl × List (Nat × Bool)) := none
  regs  : List (Nat × List Tag)
  words : List Word
  deriving DecidableEq, Repr, Inhabited

/-- A store or atomic that has issued and has not reached its visibility point (R198). -/
structure PendingStore where
  seq     : Nat
  bytes   : List StoreByte
  order   : Order := .rlx
  scope   : Scope := .dv
  atomic  : Option AtomicOp := none
  setFull : Bool := false            -- STFE and copy writes set the full bit (R185)
  sent    : List Nat := []           -- the tags of its messages that are not yet completed (R206)
  home    : List Nat := []           -- the units whose uncached bytes have been written at their home
  src     : Option DataSource := none -- the registers of its data, while it may read them again (R39)
  mx      : Bool := false            -- an MX block with its scale: one atomic unit (R76)
  born    : Nat := 0                 -- the turn in which it issued (R208)
  deriving DecidableEq, Repr, Inhabited

/-- What an obligation's instruction may read again while it stands (R39): the quad of MVTX or the pair of MPRIM, with the words that it has read, or
the registers of a matrix product; and the results of such a product. -/
inductive LateRead where
  | vert (v i base : Nat) (words : List Word)
  | prim (p base : Nat) (words : List Word)
  | product (key : Nat)
  | result (key : Nat)
  deriving DecidableEq, Repr, Inhabited

/-- An obligation of R37 other than a pending load's: the flag it will lower and the registers it will write then. -/
structure Obligation where
  flag   : Nat
  writes : List (Nat × Word × Tag) := []
  hold   : Option Nat := none        -- the grid operation of RBOX.G that must end first
  units  : List Nat := []            -- units whose write-back must be completed first (R193)
  simt   : Bool := false             -- of a SIMT matrix instruction (R253)
  stores : List Nat := []            -- of the stores that these `seq`s name: their data registers may still be read (R39)
  late   : Option LateRead := none
  deriving DecidableEq, Repr, Inhabited

/-- An outstanding system call (R354, R355); `waiting` while its SYSCALL.B or a SYSWAIT waits for it. -/
structure Call where
  slot    : Nat
  id      : DWord
  waiting : Bool := false
  deriving DecidableEq, Repr, Inhabited

/-- What VISRD, VISRD.B and ATTR read of a shade thread (R303, R305, R306). -/
structure ShadeRec where
  prim     : Word := 0
  px       : Nat := 0
  py       : Nat := 0
  coverage : BitVec 8 := 0
  helper   : Bool := false
  front    : Bool := false
  samp     : Nat := 0
  depth    : BitVec 24 := 0
  bary1    : Word := 0
  bary2    : Word := 0
  attrs    : List (List QWord) := []   -- for vertices i0, i1, i2: slots 0 to A
  quad     : Option Nat := none        -- the first sr.tid of its pixel quad
  deriving DecidableEq, Repr, Inhabited

/-- A handler entry of an ac, with what it changed: a halt in the same ac is resolved in its favour (R347). -/
structure HandlerEntry where
  at_    : DWord
  pc     : DWord
  clause : ClausePos
  hints  : HintLatch
  cause  : Cause
  trapPc : DWord
  addr   : DWord
  info   : DWord
  saveClause : ClausePos
  saveHints  : HintLatch
  hcause : Word
  hpc    : DWord
  haddr  : DWord
  hinfo  : DWord
  deriving DecidableEq, Repr, Inhabited

/-- A thread (R16, R126, R350). -/
structure Thread where
  ens        : Nat := 0
  troupe     : Nat := 0               -- its place in `State.troupes`
  tid        : Nat := 0
  pc         : DWord := 0
  status     : Status := .ready
  regs       : List Reg := []
  preds      : BitVec 7 := 0          -- p0 to p6
  flags      : List Nat := List.replicate 12 0
  clause     : ClausePos := {}
  hints      : HintLatch := {}
  rsp        : DWord := 0
  rsl        : DWord := 0
  stackTop   : DWord := 0
  fmode      : Word := 0
  fflags     : Word := 0
  carry      : Word := 0
  inHandler  : Bool := false
  entry      : Option HandlerEntry := none   -- its last handler entry
  saveClause : ClausePos := {}
  saveHints  : HintLatch := {}
  hcause     : Word := 0
  hpc        : DWord := 0
  haddr      : DWord := 0
  hinfo      : DWord := 0
  armStep    : Bool := false
  armSkip    : Bool := false
  pin0       : PinSlot := {}
  pin1       : PinSlot := {}
  callSlot   : Option Nat := none
  call       : Option Call := none
  regroup    : Option (DWord × List Nat × Option DWord) := none   -- PC, set, and when it was found there (R132)
  gapUntil   : Option DWord := none
  split      : Bool := false          -- a TLD, TST or TEX whose rendezvous has completed (R249, R310)
  wrote      : List Nat := []         -- registers that it has written while an obligation was to write them (R39)
  resumed    : Bool := false          -- ERET has restored its hint latch, which a hint word at its PC discards (R42)
  leaving    : Bool := false          -- it has left a configuration, and its obligations complete first (R167)
  near       : List Word := []        -- u and v of the horizontal, then the vertical neighbour, at such a TEX
  compatPend : Option (Word × Word) := none   -- a COMPAT_FRAGMENT to take before the next issue: fragment mask, rest (R152)
  issued     : Option Instr := none   -- the instruction it executes, while it waits at it
  ahead      : List Nat := []         -- the threads before it in the bundle in which it last issued, whose LAUNCHes come first (R284)
  seq        : Nat := 0               -- program-order counter of its accesses
  loads      : List PendingLoad := []
  stores     : List PendingStore := []
  owed       : List Obligation := []
  got        : List (Nat × Unit64) := []   -- units that uncached reads of the instruction it waits at have brought (R187)
  acqStamp   : Nat := 0               -- L1 lines filled before this are not read (R187)
  shade      : Option ShadeRec := none
  deriving DecidableEq, Repr, Inhabited

/-! ### A troupe -/

/-- A barrier (R281). -/
structure Barrier where
  arrived : List Nat := []
  phase   : Word := 0
  deriving DecidableEq, Repr, Inhabited

/-- A thread parked at QPUSH or QPOP: since when, its sr.tid, and the word it pushes or the register it pops into (R158, R159). -/
structure QueueWait where
  thread : Nat
  since  : DWord
  tid    : Nat
  word   : Word := 0
  tag    : Tag := .b32
  dst    : Nat := 0
  deriving DecidableEq, Repr, Inhabited

/-- A relay queue (R154); the lists of parked threads are in parking order (R159). -/
structure RelayQueue where
  base     : Option Nat := none
  words    : List (Word × Tag) := []
  pushWait : List QueueWait := []
  popWait  : List QueueWait := []
  last     : Option (DWord × Nat) := none   -- the ac of the operation applied last, and its place in that ac's order (R159)
  deriving DecidableEq, Repr, Inhabited

/-- A completion map (R226). `pending` lists the chunks whose count is not zero. -/
structure CompletionMap where
  bits     : BitVec 256 := 0
  pending  : List (Nat × Nat) := []
  inflight : Nat := 0
  latch    : Option (Cause × DWord) := none
  deriving DecidableEq, Repr, Inhabited

/-- The state of a Carousel stage (R235). -/
inductive Stage where
  | free | acq | filling | full | held | fault (cause : Cause) (addr : DWord)
  deriving DecidableEq, Repr, Inhabited

/-- A Carousel (R235); no stages: uninitialised. -/
structure Carousel where
  slice   : Nat := 0
  base    : Nat := 0
  size    : Nat := 0
  head    : Nat := 0
  tail    : Nat := 0
  stages  : List Stage := []
  acqWait : List Nat := []
  popWait : List Nat := []
  deriving DecidableEq, Repr, Inhabited

/-- The classes of R243, the scaled forms apart. -/
inductive MatClass where
  | half | byte | int | nib | sx | sx3
  deriving DecidableEq, Repr, Inhabited

/-- A crew's A latch (R147): the a field, class and form that loaded it, and each lane's A registers, read. -/
structure ALatch where
  field  : RegField
  cls    : MatClass
  sparse : Bool
  mx     : Bool
  rows   : List (Nat × List (Word × Tag))
  deriving DecidableEq, Repr, Inhabited

/-- What a lane has brought to a matrix product: its registers as they have been read, and its row of A (R39, R147). -/
structure MatSnap where
  lane   : Nat
  thread : Nat
  hints  : HintLatch
  regs   : List Reg
  row    : List (Word × Tag)
  deriving DecidableEq, Repr, Inhabited

/-- A matrix product whose sources may still be read: its fields, class and form, whether its rows of A come of the latch, its mask pair and its lanes
(R39). -/
structure MatWork where
  key     : Nat
  cls     : MatClass
  sparse  : Bool
  mx      : Bool
  agree   : Bool
  latched : Bool
  mask    : DWord
  d       : RegField
  a       : RegField
  b       : RegField
  lanes   : List MatSnap
  deriving DecidableEq, Repr, Inhabited

/-- A mesh troupe's counts and output store (R293, R294): vertex slots and primitives that have been written. -/
structure MeshStore where
  counts : Option (Nat × Nat × Nat) := none            -- V, P, A
  verts  : List ((Nat × Nat) × QWord) := []
  prims  : List (Nat × (DWord × Bool)) := []            -- pair d of MPRIM, and the cull flag in force
  deriving DecidableEq, Repr, Inhabited

/-- A troupe (R17, R350). -/
structure Troupe where
  ens       : Nat := 0
  k         : Nat := 0
  core      : Nat := 0
  threads   : List Nat := []          -- by sr.tid: places in `State.threads`
  cleared   : Bool := false           -- the clear engines have finished (R148, R149)
  slice     : Nat := 0                -- scratch slice size in bytes (R175)
  scratch   : List Host.Cell := []    -- the bytes written since the ensemble started
  full      : List Nat := []          -- full granules, ascending (R185)
  salt      : Nat := 0                -- names the unpredictable contents at the start (R176)
  vague     : List (Nat × Nat × Bool) := []   -- ranges of the slice with unpredictable content, which loads under tag B32: at each load until
                                              -- it is written (R176), or at its first load only (R155)
  queues    : List RelayQueue := List.replicate 8 {}
  maps      : List CompletionMap := List.replicate 16 {}
  carousels : List Carousel := List.replicate 8 {}
  barrier   : Barrier := {}
  latches   : List (Option ALatch) := []  -- by crew
  works     : List MatWork := []          -- matrix products with obligations outstanding
  mesh      : MeshStore := {}
  linkCount : Nat := 0                -- link acknowledgement counter (R206)
  relStamp  : Nat := 0                -- the latest L1 stamp that its releases have passed on at .TR (R200, R207)
  deriving DecidableEq, Repr, Inhabited

/-! ### An ensemble and its grid -/

/-- The operations of the grid queue (R258, R261, R267). -/
inductive GridKind where
  | gmma | gmmat | gtld | gtst | rbox
  deriving DecidableEq, Repr, Inhabited

/-- The A panel of a GMMA (R258): the identifying fields, and each row's bytes and scales. -/
structure Panel where
  m      : Nat := 0
  k      : Nat := 0
  fa     : Nat := 0
  scl    : Nat := 0
  ascl   : Nat := 0
  rows   : List (List Byte) := []
  scales : List (List Byte) := []
  deriving DecidableEq, Repr, Inhabited

/-- An operation in the grid queue, with NEXT of R265. -/
structure GridOp where
  kind   : GridKind
  seq    : Word := 0                  -- unused by RBOX.G
  key    : Nat := 0                   -- RBOX.G: names the obligation that ends with it
  block  : BitVec 512 := 0
  next   : Nat := 0
  begun  : Bool := false
  thread : Nat := 0
  dst    : Nat := 0
  raddrs : List Word := []            -- RBOX.G's quad
  panel  : Option Panel := none       -- the panel a REUSEA operation reads
  smeared : Bool := false             -- a source or its block was written while queued (R263)
  kept    : List Nat := []            -- words of the reservation that such writes wrote
  wrote   : List Nat := []            -- physical bytes written meanwhile, where it has global sources
  seen    : List (Nat × Nat) := []    -- the 4 KiB pages of its global sources: virtual, then physical, as it found them
  after   : List (Nat × Nat) := []    -- (thread, seq): it reads after these threads' earlier stores (R258, R261, R267)
  sent    : List Nat := []            -- units to whose homes WrUs of a GTST are on their way (R187)
  deriving DecidableEq, Repr, Inhabited

/-- The grid state of an ensemble (R251–R266). -/
structure Grid where
  on     : Bool := false
  gang   : Word := 0
  gshape : Word := 4
  issued : Word := 0
  done   : Word := 0
  queue  : List GridOp := []
  unwaited : List GridOp := []        -- operations done and not covered by a GWAIT yet (R263)
  drained : Bool := false
  panel  : Option Panel := none
  fault  : Option (Cause × DWord × Word) := none   -- cause, address, sequence number (R264)
  dirtyScratch : List (Nat × Nat) := []           -- (troupe index, 4 KiB index)
  dirtyTile    : List Nat := []
  deriving DecidableEq, Repr, Inhabited

/-- The role of an ensemble's threads (R289). -/
inductive Role where
  | task
  | mesh (pass ringCore ringSlot : Nat)
  | shade (pass : Nat)
  deriving DecidableEq, Repr, Inhabited

/-- Where an ensemble stands in its life (R23, R275, R286, R297). -/
inductive EnsPhase where
  | waiting | resident | draining | saved | retired
  deriving DecidableEq, Repr, Inhabited

/-- An ensemble. `packet` is the launch packet, or successor entry or shade packet, that shapes it (R270, R278, R292). -/
structure Ensemble where
  ctx       : Nat := 0
  launch    : Nat := 0
  index     : Nat := 0                -- e of R352
  packet    : BitVec 1024 := 0
  role      : Role := .task
  phase     : EnsPhase := .waiting
  cores     : List Nat := []
  group     : Nat := 0
  troupes   : List Nat := []          -- places in `State.troupes`
  since     : DWord := 0              -- when its present residence began (R275)
  image     : Option Nat := none      -- image slot while saved (R350)
  imageHalt : Bool := false
  successor : Option (Nat × BitVec 1024) := none   -- EXIT.S selection and its entry (R143)
  succeeded : Bool := false           -- started by EXIT.S: its threads are task threads (R289)
  gridGroup : Bool := false           -- a grid ensemble, or a successor of one (R276)
  ebar      : Barrier := {}
  sbar      : Barrier := {}
  grid      : Grid := {}
  tile      : List (Nat × Word × Tag) := []   -- reservation words that differ from a cleared word (R148, R251)
  payload   : List Byte := []         -- placed at offset 0 of a mesh ensemble's slice (R292)
  ringHeld  : Bool := true            -- a mesh ensemble still counts in its ring slot (R292)
  shades    : List ShadeRec := []     -- the threads of a shade ensemble (R303)
  deriving DecidableEq, Repr, Inhabited

/-! ### Launches, queues, contexts -/

/-- A launch (R272–R279). -/
structure Launch where
  ctx       : Nat := 0
  queue     : Nat := 0
  packet    : BitVec 1024 := 0
  number    : Word := 0               -- sr.launch
  entry     : Nat := 0                -- its entry of the queue's ring
  placed    : Nat := 0                -- ensembles of its own that have been placed once
  started   : Bool := false
  start     : DWord := 0              -- when its first ensemble started (WATCHDOG, R341)
  live      : Nat := 0                -- ensembles placed or queued and not retired
  retired   : Nat := 0
  done      : Bool := false
  depMet    : Bool := false
  pin0      : Option Word := none     -- launch pin of SH0 (R327)
  pin1      : Option Word := none
  dropped   : Nat := 0                -- R295, R296
  culled    : Nat := 0
  pass      : Option Nat := none      -- the pass its TDISPs name
  recorded  : Nat := 0                -- steps of R279 that have been performed
  deriving DecidableEq, Repr, Inhabited

/-- A user queue and its submission page (R269, R272). -/
structure UQueue where
  ctx      : Nat := 0
  page     : Nat := 0
  ring     : Nat := 0                 -- entries in its memory image
  base     : Nat := 0                 -- where the image lies
  tail     : Nat := 0                 -- the entry that the next accepted launch takes
  slot     : Option Nat := none       -- the hardware queue slot while mapped
  disabled : Bool := false
  err      : Word := 0                -- the ERR word
  accept   : DWord := 0
  pending  : List Nat := []           -- launches that hold a ring entry, in acceptance order
  vacated  : List Nat := []           -- saved ensembles, at the head of the queue (R286)
  extra    : List Nat := []           -- mesh and shade ensembles waiting for placement (R292, R303)
  deficit  : Int := 0
  wait     : DWord := 0               -- since when its head lacks only resources (R286)
  deriving DecidableEq, Repr, Inhabited

/-- A block of the device heap (R357). -/
structure HeapBlock where
  base : Nat
  size : Nat
  deriving DecidableEq, Repr, Inhabited

/-- An engine that raised a halt line, by its stop-record index, with what its record will hold (R347, R349). -/
structure Raiser where
  index  : Nat
  cause  : Cause
  pc     : DWord := 0
  addr   : DWord := 0
  info   : DWord := 0
  thread : Option Nat := none
  mapped : Bool := false              -- its thread stood in a configuration (R349)
  first  : Bool := true               -- it raised the line in the ac in which it rose
  deriving DecidableEq, Repr, Inhabited

/-- A context (R23, R339, R350). -/
structure Ctx where
  live     : Bool := true
  asid     : BitVec 16 := 0
  descAt   : Nat := 0                 -- where the descriptor lies
  desc     : BitVec 2048 := 0         -- the descriptor in force
  mapctl   : Word := 0x400
  forbid   : List DWord := []         -- R172
  nextCall : DWord := 1
  callSlots : List Nat := []          -- system-call slots in use
  heap     : List HeapBlock := []
  heapHurt : Bool := false            -- a store has reached the heap outside its blocks, where its metadata may lie (R357)
  images   : List Nat := []           -- occupied image slots
  halt     : Option DWord := none     -- the halt line: the ac it rose
  raisers  : List Raiser := []        -- the engines with a cause of their own: those that raised it, and those within the skid (R340, R349)
  haltDone : Bool := false            -- records and images written, queues disabled
  imageLost : Bool := false           -- INFO[0] of the Ringmaster's record (R350)
  noted    : Bool := false            -- the driver has been told of its halt (R347)
  released : Bool := false            -- a release at .SY of a thread of it, or of a completion of it, has been performed (R369)
  preempt  : List (List Nat × DWord) := []       -- requests in progress: cores named, since (R286)
  deriving DecidableEq, Repr, Inhabited

/-! ### Engines -/

/-- The five copies (R222). -/
inductive CopyKind where
  | ld | st | gG | gS | cb
  deriving DecidableEq, Repr, Inhabited

/-- A copy in flight (R224–R229); `todo` lists the granules of its dense side still to move. -/
structure Copy where
  live    : Bool := true
  troupe  : Nat := 0
  kind    : CopyKind := .ld
  map     : Nat := 0                  -- completion map, or Carousel for CPY.CB
  stage   : Nat := 0
  desc    : BitVec 1024 := 0
  origin  : List Int := []
  denseTr : Nat := 0                  -- the troupe whose slice holds the dense side
  dense   : Nat := 0
  todo    : List Nat := []
  sent    : List (Nat × List Nat) := []   -- granules of a store that WrUs carry to their units' homes (R187, R228)
  waiting : Bool := false             -- on a page request
  after   : List (Nat × Nat) := []    -- (thread, seq): its reads wait for that thread's earlier stores (R207)
  deriving DecidableEq, Repr, Inhabited

/-- A command of the Rigger queue (R331, R332). -/
structure RigCmd where
  live    : Bool := true
  ctx     : Nat := 0
  thread  : Nat := 0
  seq     : Nat := 0
  block   : BitVec 512 := 0
  status  : Nat := 0                  -- address of the status record
  engine  : Option Nat := none
  spoilt  : Bool := false             -- it may fail with any error code (R314)
  deriving DecidableEq, Repr, Inhabited

/-- What the device keeps in an entry's private bytes, and which records are being reclaimed (R313, R330, R333, R335). -/
structure Struct where
  ctx      : Nat
  entry    : Nat
  place    : Option Nat := none       -- the physical address of the entry, as it was last found
  head     : Nat := 0                 -- its bytes 0 to 63 then, but for CUR
  isLive   : Bool := false            -- its LIVE bit then
  pool     : Nat := 0                 -- the build pool, as the last pin found it
  size     : Nat := 0
  ntri     : Option Nat := none       -- NTRI of the BUILD from which the current generation descends (R333)
  excluded : List Nat := []
  drift    : Option Nat := none       -- the SAH of the last BUILD or REBALANCE since the entry was made LIVE (R335)
  reclaim  : List Nat := []           -- generation records in RECLAIMING
  spoilt   : List Word := []          -- generations whose nodes have become unpredictable (R314)
  unseen   : Bool := false            -- since it was last found, another agent may have written it without the device's knowledge
  spans    : List (Word × List (Nat × Nat)) := []   -- by generation that the device has published: its items' addresses and bytes (R315)
  deriving DecidableEq, Repr, Inhabited

/-- A primitive emitted to the binning unit (R297, R300). -/
structure BinRec where
  order : Nat := 0
  prim  : Word := 0
  verts : List (List QWord) := []
  tiles : List Nat := []              -- tiles it is binned to and whose resolver has yet to apply it
  deriving DecidableEq, Repr, Inhabited

/-- A resolver entry of one sample (R302): the record that stands, and its depth. -/
structure SampleEntry where
  px    : Nat
  py    : Nat
  j     : Nat
  prim  : Word
  depth : Nat
  order : Nat
  deriving DecidableEq, Repr, Inhabited

/-- A pass (R298, R299). -/
structure Pass where
  live     : Bool := true
  ctx      : Nat := 0
  launch   : Nat := 0
  addr     : DWord := 0
  desc     : BitVec 1024 := 0
  shade    : BitVec 1024 := 0
  chunks   : List DWord := []
  rescan   : Bool := false            -- a bin request has completed and BINCNT is to be read again (R298)
  recs     : List BinRec := []
  entries  : List SampleEntry := []
  formed   : List Nat := []           -- tiles whose shade threads have been formed
  deriving DecidableEq, Repr, Inhabited

/-! ### A core -/

/-- An L1 line, one granule of 16 bytes, with the stamp of its fill (R187). -/
structure L1Line where
  granule : Nat
  data    : List Byte
  stamp   : Nat
  born    : Nat := 0                  -- the turn of its fill (R208)
  deriving DecidableEq, Repr, Inhabited

/-- A slot of the payload ring (R291): the mesh ensembles that still hold it; none: FREE. -/
structure RingSlot where
  left : Nat := 0
  data : List Byte := []
  deriving DecidableEq, Repr, Inhabited

/-- A heat-table entry (R164). -/
structure Heat where
  ctx   : Nat
  head  : DWord
  back  : DWord
  count : Nat
  since : DWord
  candidate : Bool := false
  part  : Nat := 0                    -- the partition of the thread that made it a candidate (R166)
  tags  : List Tag := []              -- the tags of that thread's registers then (R165)
  deriving DecidableEq, Repr, Inhabited

/-- A refusal-table entry (R165). -/
structure RefusedHead where
  ctx   : Nat
  head  : DWord
  code  : Nat
  since : DWord
  deriving DecidableEq, Repr, Inhabited

/-- A configuration of the configuration cache (R166), with the physical pages of its body (R170), the mask of its live registers, and the
threads inside it with the tags they entered with (R168). -/
structure MapConfig where
  ctx     : Nat
  head    : DWord
  back    : DWord
  span    : Nat
  part    : Nat
  live    : Nat := 0
  pages   : List Nat := []
  vpages  : List Nat := []            -- the same as virtual pages
  inside  : List (Nat × List Tag) := []
  deriving DecidableEq, Repr, Inhabited

/-- The mapper counter block (R173). -/
structure MapperCounters where
  install     : Word := 0
  refuse      : Word := 0
  iter        : Word := 0
  exitEnd     : Word := 0
  exitSide    : Word := 0
  exitFault   : Word := 0
  exitPreempt : Word := 0
  inval       : Word := 0
  lastRef     : Byte := 0
  deriving DecidableEq, Repr, Inhabited

/-- A core (R12, R18): its scratchpad division, L1, fetched code, payload ring and loop mapper. -/
structure Core where
  scratchpad : Nat := 0               -- bytes, a multiple of 32 KiB (R18)
  l1        : List L1Line := []       -- oldest first; with the scratchpad at most 512 KiB
  code      : List L1Line := []       -- granules that instruction fetches have read (R191)
  ring      : List RingSlot := List.replicate 4 {}
  ringLast  : Nat := 3                -- ring slot last taken
  ringWait  : List Nat := []          -- threads that have parked at a TDISP for a ring slot, in park order (R291)
  heat      : List Heat := []
  refused   : List RefusedHead := []
  configs   : List MapConfig := []
  backs     : List (Nat × DWord × DWord) := []   -- context, head, and the highest BRA that has transferred back to it (R163)
  hinted    : List (Nat × DWord) := []           -- heads that MAP.HINT has named and that have not become candidates since
  counters  : MapperCounters := {}
  slots     : List (Nat × Nat × DWord) := []  -- partition and slot (0 C, 1 M, 2 V) that issued, and in which ac (R15, R129)
  lastPc    : List (Nat × DWord × Nat) := []  -- per partition: last bundle's PC and thread (R349)
  deriving DecidableEq, Repr, Inhabited

/-! ### Translation and the link -/

/-- A TLB entry (R20, R189). -/
structure TlbEntry where
  asid    : BitVec 16
  first   : Option Nat                -- core of a first-level TLB; none: second level
  group   : Nat
  base    : Nat                       -- virtual address, within 57 bits
  size    : Nat
  frame   : Nat                       -- physical address
  read    : Bool
  write   : Bool
  exec    : Bool
  policy  : Policy
  tracked : Bool                      -- clean and write-tracked (R190)
  deriving DecidableEq, Repr, Inhabited

/-- Who waits on a translation or a page request. -/
inductive Waiter where
  | thread (t : Nat) | copy (c : Nat) | grid (ens : Nat) | rigger (c : Nat) | engine | bins (pass : Nat)
  deriving DecidableEq, Repr, Inhabited

/-- An outstanding XlReq (R367). -/
structure XlReq where
  tag   : Nat
  asid  : BitVec 16
  page  : Nat
  kind  : Nat                         -- 0 read, 1 write, 2 execute
  core  : Nat
  stale : Bool := false
  dead  : Bool := false               -- sent before the domain lost power: its answer does nothing (R377)
  since : DWord := 0
  deriving DecidableEq, Repr, Inhabited

/-- An outstanding PgReq (R367): AUX 0 not present, 1 write tracking, 2 bin memory. -/
structure PgReq where
  tag  : Nat
  asid : BitVec 16
  page : Nat
  aux  : Nat
  pass : DWord := 0
  since : DWord := 0
  deriving DecidableEq, Repr, Inhabited

/-- A translation invalidation in progress (R368). -/
structure XlInvOp where
  tag    : Nat
  asid   : BitVec 16
  base   : Nat                        -- the virtual range whose dropped translations accesses may still use
  size   : Nat
  deriving DecidableEq, Repr, Inhabited

/-- MOESI (R364). -/
inductive Moesi where
  | m | o | e | s | i
  deriving DecidableEq, Repr, Inhabited

/-- A unit held by the device's L2, the device's caching agent (R364). `stored` marks granules that hold stored bytes (R187). -/
structure L2Line where
  unit   : Nat
  state  : Moesi
  data   : Unit64
  stored : BitVec 4 := 0
  past   : Bool := false              -- brought for an engine's read of an uncached page, not allocated (R187)
  deriving DecidableEq, Repr, Inhabited

/-- A request the device has sent and that is not complete (R363). -/
structure LinkReq where
  tag    : Nat := 0
  opc    : Nat                        -- the REQ opcode of R362
  unit   : Nat
  data   : Unit64 := 0                -- what a write, a write-back or an atomic carries
  en     : BitVec 64 := 0             -- its byte enables, or the granules of a write-back
  troupe : Option Nat := none         -- whose acknowledgement counter it raised (R206)
  ctx    : Option Nat := none         -- the context whose access caused it (R363)
  store  : Option (Nat × Nat) := none -- (thread, seq) of an uncached access or of an atomic performed at the home
  merged : List (Nat × Nat) := []     -- other stores that a WC drain carries (R205)
  keep   : Bool := false              -- a write-back of CCTL.CLN: the unit comes back after it (R193)
  past   : Bool := false              -- a read for an engine of an uncached page (R187)
  since  : DWord := 0                 -- the fc in which it was sent
  answer : Option (Nat × Unit64) := none -- what the island's home has sent: opcode 0 to 3 of DAT with its data, or 4 for Cmp
  deriving DecidableEq, Repr, Inhabited

/-- The transient states of a home (R365). -/
inductive HomeState where
  | invWait | fwdWait | fwdWbWait | fwdWbData | memWait | gntWait
  deriving DecidableEq, Repr, Inhabited

/-- A request at the home (R365), with what an uncached one or a write-back carries. -/
structure HomeReq where
  agent : Nat                         -- 0: the device's L2; others: agents of the host die
  tag   : Nat
  opc   : Nat
  addr  : Nat := 0                    -- byte address of an AtomS
  op    : Nat := 0                    -- its AUX code
  en    : BitVec 64 := 0              -- byte enables, or granules of a WbM
  data  : Unit64 := 0                 -- write data, or new value and compare value of an AtomS
  deriving DecidableEq, Repr, Inhabited

/-- A directory entry of the memory island's home agent, with its open transaction (R364, R365). -/
structure Directory where
  unit    : Nat
  owner   : Option Nat := none
  sharers : List Nat := []
  open_   : Option (HomeReq × HomeState) := none
  expect  : List Nat := []            -- agents whose RspI is awaited
  wbWait  : List Nat := []            -- agents whose WbM is awaited
  wbDone  : List Nat := []            -- agents whose joining WbM came before their RspI
  wbTag   : Option Nat := none        -- the tag of the WbM that joined (FWD_WBDATA)
  snooped : Option Nat := none
  resp    : Option (Nat × Nat) := none -- the device's own answer to a snoop, or its GntAck, and AUX
  waiting : List HomeReq := []
  deriving DecidableEq, Repr, Inhabited

/-- What the device sends over the link or as an interrupt (R362, R367, R371), oldest first. -/
inductive OutMsg where
  | req (opc tag unit : Nat) (data : Unit64) (en : BitVec 64) (aux : Nat)   -- en: byte enables of WrU and WrC
  | snp (opc tag unit agent requester : Nat)
  | rsp (opc tag unit aux : Nat)
  | dat (opc tag unit to_ : Nat) (data : Unit64)                            -- to_: the agent it is for, which no header names
  | xlReq (tag : Nat) (asid : BitVec 16) (page kind : Nat)
  | xlInvCmp (tag : Nat)
  | pgReq (tag : Nat) (asid : BitVec 16) (page aux : Nat) (pass : DWord)
  | notify (asid nvec : BitVec 16)
  | haltNote (asid : BitVec 16)
  | present (tag : Nat) (surface : DWord) (plane : Nat)
  | status (page : Nat) (code : BitVec 2)       -- the Cmp of a submission store (R269), under that store's TAG
  | interrupt (bits : BitVec 5)                 -- sideband interrupt of the Gaffer (R371)
  deriving DecidableEq, Repr, Inhabited

/-- The link controller, the L2 as caching agent, and the island's home agent (R360–R369). -/
structure Link where
  up       : Bool := false
  modules  : BitVec 16 := 0
  training : Bool := true
  trainSince : DWord := 0
  lines    : List L2Line := []
  reqs     : List LinkReq := []
  nextTag  : Nat := 1                 -- where the search for a free TAG begins (R361)
  homes    : List Directory := []
  slc      : List Nat := []           -- units that the island's half of the system-level cache holds, oldest first (R19)
  presents : List Nat := []           -- tags of Presents not yet answered
  out      : List OutMsg := []        -- handed to the link controller, oldest first, and not sent yet (R362)
  sent     : List OutMsg := []        -- sent, oldest first
  credits  : List Nat := [0, 0, 0, 0, 0]   -- what the host die's end has given of each class (R362)
  rx       : List (BitVec 128) := []  -- slots of a message of which a flit has brought the beginning (R361)
  arrived  : Option DWord := none     -- the last fc in which the memory island's home took a request from the link port (R365)
  deriving DecidableEq, Repr, Inhabited

/-! ### The Gaffer -/

/-- STATE of the Gaffer (R371, R377). -/
inductive PowerState where
  | off | verify | bringup | on | draining
  deriving DecidableEq, Repr, Inhabited

/-- The Gaffer block and what the Gaffer holds (R370–R379). -/
structure Gaffer where
  ready    : BitVec 7 := 0            -- FW RES RIG CPY RNG XL LNK in bits 6 to 0
  grp      : BitVec 24 := 0
  fwFail   : Bool := false
  derated  : Bool := false
  state    : PowerState := .off
  sustain  : BitVec 8 := 220
  replay   : BitVec 4 := 5
  ilim     : BitVec 16 := 0x0FA0
  phases   : BitVec 12 := 0xFFF
  fwAddr   : DWord := 0
  fwSize   : Word := 0
  floor    : Word := 0
  newFloor : Word := 0                -- floor value of the image being brought up
  version  : Word := 0                -- its version (R377)
  mbox     : BitVec 5 := 0
  mboxEn   : BitVec 5 := 0
  temp     : BitVec 16 := 0
  temps    : List (Nat × BitVec 16) := []   -- what each sensor reads, once it has (R371)
  time     : DWord := 0               -- Gaffer time in µs (R379)
  dlHead   : BitVec 16 := 0
  dailies  : List (BitVec 256) := []  -- the ring's records, oldest first, at most 2,048
  dailySeq : BitVec 16 := 0
  clock    : Nat := 0                 -- arithmetic clock in kHz
  grant    : Nat := 0                 -- power grant in W
  voltage  : Nat := 0
  replays  : List Nat := List.replicate 24 0   -- per core group
  bands    : List Nat := List.replicate 24 0     -- per core group, the bands of its grid that have power (R373)
  deriving DecidableEq, Repr, Inhabited

/-! ### The device -/

/-- The FX-96. -/
structure State where
  clock     : DWord := 0              -- sr.clock: ac since power-up (R352)
  fclock    : DWord := 0              -- fc since power-up (R8)
  moves     : Nat := 0                -- the model's own counter: turns taken; free values are drawn by it
  schedule  : List Turn := []         -- the model's own: what moves in the turns to come
  cur       : Nat := 0                -- the model's own: the thread whose instruction executes
  viaL1     : Bool := false           -- the model's own: whether this turn's reads take an L1 line that R187 lets them
  mem       : List Host.Cell := []    -- the physical global space, 52-bit addresses (R20)
  threads   : List Thread := []
  troupes   : List Troupe := []
  ensembles : List Ensemble := []
  launches  : List Launch := []
  queues    : List UQueue := []
  contexts  : List Ctx := []
  cores     : List Core := List.replicate 96 {}
  cads      : List (BitVec 5) := List.replicate 24 1   -- sr.gcad of each core group (R254)
  ptrs      : List Nat := List.replicate 4 0           -- ptr(L) of R275
  stamp     : Nat := 0                -- fills of the L1s so far (R187)
  badSectors : List Nat := []         -- 32-byte sectors of memory whose data fail their check (R194)
  copies    : List Copy := []
  rigger    : List RigCmd := []
  structs   : List Struct := []
  passes    : List Pass := []
  tlb       : List TlbEntry := []
  xlreqs    : List XlReq := []
  pgreqs    : List (PgReq × List Waiter) := []
  xlwaits   : List (Nat × Waiter) := []                -- (XlReq tag, who waits)
  xlinvs    : List XlInvOp := []
  link      : Link := {}
  gaffer    : Gaffer := {}
  deriving DecidableEq, Repr, Inhabited

/-- Why the machine can stop with a fault. -/
inductive Fault where
  /-- Raised by every meaning of an instruction word when `State.cur` names no thread, troupe, ensemble or context that exists.
  No run reaches such a state (`State.linked`); stopping there is safe. -/
  | unlinkedState
  deriving DecidableEq, Repr, Inhabited

/-- Why the machine can refuse. -/
inductive Refusal where
  /-- Raised by an arm of `exec` for a row of the opcode table that has no meaning yet; safe. -/
  | notModelled (mnemonic : String)
  deriving DecidableEq, Repr, Inhabited

/-- The device right after reset: the compute domain off, every Gaffer register at the reset value of R371, the Dailies empty,
sr.clock 0 and every CAD 1 (R254), no context, queue, launch or thread, and nothing listed in memory.
(DESIGN CHOICE: log entry 4.) -/
def State.reset : State := {}

end Sys2Proof.Machine
end

