-- ==== Sys2Proof/Machine/Formats.lean ====
section
/-! DEFINITION. The tags of R69, the elements of a register (R62), and the conversion of one element to another format (R77 to R79, R83). -/

namespace Sys2Proof.Machine

/-- The tag of a code of R69. -/
def Tag.ofCode : Nat → Tag
  | 0 => .b32 | 1 => .f32 | 2 => .f16x2 | 3 => .bf16x2 | 4 => .e4m3x4 | 5 => .e5m2x4 | 6 => .e2m1x8 | 7 => .i8x4
  | 8 => .e8m0x4 | 9 => .sxex2 | 10 => .sx8x4 | 11 => .sx5x4 | 12 => .sx3x4 | 13 => .n8x4 | 14 => .i16x2 | _ => .acc

/-- The code of a tag (R69). -/
def Tag.code : Tag → Nat
  | .b32 => 0 | .f32 => 1 | .f16x2 => 2 | .bf16x2 => 3 | .e4m3x4 => 4 | .e5m2x4 => 5 | .e2m1x8 => 6 | .i8x4 => 7
  | .e8m0x4 => 8 | .sxex2 => 9 | .sx8x4 => 10 | .sx5x4 => 11 | .sx3x4 => 12 | .n8x4 => 13 | .i16x2 => 14 | .acc => 15

/-- Elements per word (R69). -/
def Tag.elems : Tag → Nat
  | .b32 | .f32 | .acc => 1
  | .f16x2 | .bf16x2 | .sxex2 | .i16x2 => 2
  | .e4m3x4 | .e5m2x4 | .i8x4 | .e8m0x4 | .sx8x4 | .sx5x4 | .sx3x4 | .n8x4 => 4
  | .e2m1x8 => 8

/-- The three element tags of SX, and the metadata tag (R72). -/
def Tag.isSx : Tag → Bool
  | .sx8x4 | .sx5x4 | .sx3x4 => true
  | _ => false
def Tag.isSxAny (t : Tag) : Bool := t.isSx || t == .sxex2

/-- elem_bits of R85; 0 for the tags that R85 does not name. -/
def Tag.elemBits : Tag → Nat
  | .f16x2 | .bf16x2 | .i16x2 => 16
  | .e4m3x4 | .e5m2x4 | .i8x4 | .n8x4 | .e8m0x4 | .sx8x4 | .sx5x4 | .sx3x4 => 8
  | _ => 0

/-- What an element is (R63 to R67). -/
inductive EKind where
  | flt (f : FloatFmt)
  | int (isSigned : Bool) (w : Nat)
  | e8m0
  | sx (w : Nat)
  deriving DecidableEq, Repr

/-- The element format of a tag (R69); B32 read as unsigned where asked (CVT.N). Metadata words are raw 16-bit numbers. -/
def Tag.kind (t : Tag) (unsig : Bool := false) : EKind :=
  match t with
  | .b32 => .int (!unsig) 32
  | .f32 | .acc => .flt fF32
  | .f16x2 => .flt fF16
  | .bf16x2 => .flt fBF16
  | .e4m3x4 => .flt fE4M3
  | .e5m2x4 => .flt fE5M2
  | .e2m1x8 => .flt fE2M1
  | .i8x4 => .int true 8
  | .e8m0x4 => .e8m0
  | .sxex2 => .int false 16
  | .sx8x4 => .sx 7
  | .sx5x4 => .sx 4
  | .sx3x4 => .sx 2
  | .n8x4 => .int false 8
  | .i16x2 => .int true 16

/-- Element i of a word (R62). -/
def Tag.elem (t : Tag) (w : Word) (i : Nat) : Nat := slice w.toNat (i * (32 / t.elems)) (32 / t.elems)

/-- All elements of a word, element 0 first. -/
def Tag.unpack (t : Tag) (w : Word) : List Nat := (upFrom 0 t.elems).map (t.elem w)

/-- A word from its elements, element 0 first. -/
def Tag.pack (t : Tag) (es : List Nat) : Word :=
  w32 (es.foldr (fun e acc => e % 2 ^ (32 / t.elems) + 2 ^ (32 / t.elems) * acc) 0)

/-- The scale of one element in a conversion (R83). -/
inductive Scale where
  | unscaled
  | mx (x : Nat)
  | sx (e shift : Nat)
  deriving DecidableEq, Repr

/-- An element's exact value, its flags, and whether it is an integer rather than a float (R65 to R67, R79, R83). R78 does not say which of the two an
I8 element under an MX scale is: the model takes it for a float, since its value is none that I8 encodes.
(DESIGN CHOICE: log entry 97.) -/
def elemValue (k : EKind) (s : Scale) (b : Nat) : FVal × Nat × Bool :=
  match k, s with
  | .flt _, .mx 255 => (.nan false, flagNV, false)
  | .int _ _, .mx 255 => (.nan false, flagNV, false)
  | .flt f, .mx x => let v := f.decode b; (v.scale ((x : Int) - 127), v.nv, false)
  | .int sg w, .mx x => ((FVal.ofInt (if sg then signed b w else (b % 2 ^ w : Nat))).scale ((x : Int) - 133), 0, false)
  | .flt f, _ => let v := f.decode b; (v, v.nv, false)
  | .int sg w, _ => (FVal.ofInt (if sg then signed b w else (b % 2 ^ w : Nat)), 0, true)
  | .e8m0, _ => (if b % 256 = 255 then .nan false else .num false 1 ((b % 256 : Nat) - 127), 0, false)
  | .sx w, .sx e n => if e = 255 then (.nan false, flagNV, false)
      else (.num (bitAt b 7) (b % 2 ^ w) ((e : Int) - 127 - n - w), 0, false)
  | .sx w, _ => (.num (bitAt b 7) (b % 2 ^ w) (-(w : Int)), 0, false)

/-- A modified value: an integer element, scaled or not, is negated exactly, so that its zero takes no sign (R82). -/
def modifyElem (neg abs isInt : Bool) (v : FVal) : FVal :=
  match v.modify neg abs with
  | .num n m e => if isInt && m = 0 then .num false 0 0 else .num n m e
  | x => x

/-- A float or scaled value clamped into an integer range after rounding (R78, R79). -/
def encodeInt (mode : RMode) (lo hi : Int) (w : Nat) (v : FVal) : Nat × Nat :=
  match v with
  | .nan _ => (0, flagNV)
  | .inf n => (wrap (if n then lo else hi) w, flagNV)
  | .num _ _ _ =>
    let r := v.toInt mode
    if r.1 < lo then (wrap lo w, flagNV)
    else if hi < r.1 then (wrap hi w, flagNV)
    else (wrap r.1 w, if r.2 then 0 else flagNX)

/-- The range of an integer element. -/
def intLo (sg : Bool) (w : Nat) : Int := if sg then -(2 ^ (w - 1) : Nat) else 0
def intHi (sg : Bool) (w : Nat) : Int := if sg then (2 ^ (w - 1) : Nat) - 1 else (2 ^ w : Nat) - 1

/-- An element's bits from an exact value, with the flags of R79 (R78, R83).
(DEDUCED: log entry 74.) -/
def elemEncode (k : EKind) (s : Scale) (mode : RMode) (sat isInt : Bool) (v : FVal) : Nat × Nat :=
  match k, s with
  | .flt f, .mx 255 => (f.nanBits, flagNV)
  | .int _ _, .mx 255 => (0, flagNV)
  | .flt f, .mx x => f.encode mode sat (v.scale (127 - (x : Int)))
  | .int sg w, .mx x =>
    let r := encodeInt mode (intLo sg w) (intHi sg w) w (v.scale (133 - (x : Int)))
    -- a clamp between integer formats raises no flag (R79)
    (r.1, if isInt && bitAt r.2 0 then 0 else r.2)
  | .flt f, _ => f.encode mode sat v
  | .int sg w, _ =>
    if isInt then
      let i := (v.toInt mode).1
      (wrap (if sat then clampInt i (intLo sg w) (intHi sg w) else i) w, 0)
    else encodeInt mode (intLo sg w) (intHi sg w) w v
  | .e8m0, _ => (0, 0)
  | .sx w, sc =>
    let en := match sc with
      | .sx e n => (e, n)
      | _ => (127, 0)
    let top := 2 ^ w - 1
    if en.1 = 255 then (0, flagNV)
    else match v with
      | .nan _ => (0, flagNV)
      | .inf n => ((if n then 128 else 0) + top, flagNV)
      | .num n m e =>
        if m = 0 then (if n then 128 else 0, 0)
        else
          let r := roundTo mode n m (e + w - ((en.1 : Int) - 127 - en.2)) 0
          let sgn := if n then 128 else 0
          if top < r.1 then (sgn + top, flagOF + flagNX)
          else (sgn + r.1, (if r.1 = 0 then flagUF else 0) + (if r.2 then 0 else flagNX))

/-- One element converted: an element that raises invalid raises no other flag (R79).
(DEDUCED: log entry 74.) -/
def convertElem (src dst : EKind) (sin sout : Scale) (mode : RMode) (sat neg abs : Bool) (b : Nat) : Nat × Nat :=
  let v := elemValue src sin b
  let whole := match src with
    | .int _ _ => true
    | _ => false
  let r := elemEncode dst sout mode sat v.2.2 (modifyElem neg abs whole v.1)
  let fl := v.2.1 ||| r.2
  (r.1, if bitAt fl 0 then flagNV else fl)

/-- A register's word converted at a port to an expected tag with as many elements (R72): RNE, no .SAT, no scale, B32 signed. Flags of each
element beside the word.
(DEDUCED: log entry 73.) -/
def portConvert (src dst : Tag) (w : Word) : Word × List Nat :=
  let rs := (src.unpack w).map (convertElem src.kind dst.kind .unscaled .unscaled .rne false false false)
  (dst.pack (rs.map (·.1)), rs.map (·.2))

end Sys2Proof.Machine
end

