-- ==== Sys2Proof/Machine/Operands.lean ====
section
/-! DEFINITION. A thread's hints, guard, predicates and registers, and the reading of operands in the order of R342: legal registers,
transient values, tags, port conversions (R28, R29, R44 to R46, R62, R71, R72, R145). -/

namespace Sys2Proof.Machine

/-- Why a word's meaning did not complete for its thread. -/
inductive Stop where
  /-- A trap, with its address and value, and the sticky flags that stay merged (R54, R109). -/
  | trap (cause : Cause) (addr info : DWord) (fflags : Nat)
  /-- A trap whose instruction made the writes of the given state before it (R54). -/
  | trapIn (s : State) (cause : Cause) (addr info : DWord)
  /-- The thread parks and executes the instruction again when it next issues. -/
  | park (why : Wait)
  /-- The thread waits in the given status; the state holds what the instruction asked for meanwhile. -/
  | hold (s : State) (st : Status)

/-- A trap with no address and no value. -/
def fail {α : Type} (c : Cause) : Except Stop α := .error (.trap c 0 0 0)

/-- A trap at an address. -/
def failAt {α : Type} (c : Cause) (addr : Nat) : Except Stop α := .error (.trap c (w64 addr) 0 0)

/-- A trap unless the condition holds. -/
def require (ok : Bool) (c : Cause) : Except Stop Unit := if ok then .ok () else fail c

/-! ### Hints (R44 to R47) -/

def HintLatch.modBits (h : HintLatch) (lo n : Nat) : Nat := slice ((h.mod.getD 0).toNat) lo n
def HintLatch.modBit (h : HintLatch) (i : Nat) : Bool := bitAt ((h.mod.getD 0).toNat) i
def HintLatch.na (h : HintLatch) : Bool := h.modBit 23
def HintLatch.aa (h : HintLatch) : Bool := h.modBit 22
def HintLatch.nb (h : HintLatch) : Bool := h.modBit 21
def HintLatch.ab (h : HintLatch) : Bool := h.modBit 20
def HintLatch.ng (h : HintLatch) : Bool := h.modBit 19
def HintLatch.sat (h : HintLatch) : Bool := h.modBit 18
def HintLatch.sx (h : HintLatch) : Bool := h.modBit 17
def HintLatch.ordCode (h : HintLatch) : Nat := h.modBits 15 2
def HintLatch.scpCode (h : HintLatch) : Nat := h.modBits 12 3
def HintLatch.shf (h : HintLatch) : Nat := h.modBits 8 4
def HintLatch.rndCode (h : HintLatch) : Nat := h.modBits 5 3
/-- The register that HINT.C names (R46). -/
def HintLatch.cReg (h : HintLatch) : Option Nat := h.c.map (fun p => slice p.toNat 17 7)
def HintLatch.nc (h : HintLatch) : Bool := bitAt ((h.c.getD 0).toNat) 16
def HintLatch.ac (h : HintLatch) : Bool := bitAt ((h.c.getD 0).toNat) 15
def HintLatch.ha (h : HintLatch) : Bool := bitAt ((h.sched.getD 0).toNat) 23
def HintLatch.tr (h : HintLatch) : Bool := bitAt ((h.sched.getD 0).toNat) 20
def HintLatch.gap (h : HintLatch) : Nat := slice ((h.sched.getD 0).toNat) 16 4

/-- The rounding mode of HINT.MOD rnd; 0 selects RNE (R45, R110). -/
def HintLatch.rmode (h : HintLatch) : RMode := RMode.ofCode (h.rndCode - 1)

/-- The order of an access (R45, R197). -/
def HintLatch.order (h : HintLatch) : Order :=
  match h.ordCode with
  | 0 => .rlx | 1 => .acq | 2 => .rel | _ => .ar

/-- The scope of a code of HINT.MOD scp; 0 is .DV (R45, R196). -/
def HintLatch.scope (h : HintLatch) : Scope :=
  match h.scpCode with
  | 1 => .th | 2 => .tr | 3 => .en | 5 => .sy | _ => .dv

/-! ### Predicates and guards -/

/-- p[n]; p7 reads true (R29, R51). -/
def Thread.pred (t : Thread) (n : Nat) : Bool := if n = 7 then true else bitAt t.preds.toNat n

/-- Sets p[n]; a write to p7 is ignored (R51). -/
def Thread.setPred (t : Thread) (n : Nat) (v : Bool) : Thread :=
  if n = 7 then t else { t with preds := BitVec.ofNat 7 (putSlice t.preds.toNat n 1 (if v then 1 else 0)) }

/-- The guard, negated by ng (R29, R45). -/
def Thread.guard (t : Thread) (g : PredField) : Bool := t.pred g.toNat != t.hints.ng

/-! ### Registers -/

/-- The declared count n of R16. -/
def Thread.count (t : Thread) : Nat := t.regs.length

/-- x[n]. -/
def Thread.reg (t : Thread) (n : Nat) : Reg := nth t.regs n {}

/-- Will a pending obligation of the thread write x[n] (R37)? -/
def Thread.awaits (t : Thread) (n : Nat) : Bool :=
  (t.loads.any fun l => decide (l.form.dst ≤ n) && decide (n < l.form.dst + l.form.count + (if l.form.scale then 1 else 0)))
  || (t.stores.any fun p => match p.atomic.bind (·.dst) with
    | some d => decide (d ≤ n) && decide (n < d + p.bytes.length / 4)
    | none => false)
  || t.owed.any fun o => o.writes.any fun x => x.1 == n

/-- write(n, v, T) of R53; a result marked transient stays in the bypass network (R145). A register that a pending obligation will write is noted
(R39). -/
def Thread.setReg (t : Thread) (n : Nat) (v : Word) (tag : Tag) : Thread :=
  { t with wrote := if t.awaits n then n :: t.wrote else t.wrote
           regs := updateAt t.regs n (fun _ => { val := v, tag := tag, life := if t.hints.tr then .fresh else .held }) }

/-- Writes consecutive registers from n. -/
def Thread.setRegs (t : Thread) (n : Nat) (vs : List Word) (tag : Tag) : Thread :=
  match vs with
  | [] => t
  | v :: r => (t.setReg n v tag).setRegs (n + 1) r tag

/-- Writes a number into w consecutive registers, the low word first. -/
def Thread.setWide (t : Thread) (n w v : Nat) (tag : Tag) : Thread := t.setRegs n (toWords v w) tag

/-- A source operand: consecutive registers with the tags they accept, the expected one first (none: any tag, raw bits), or an
immediate that HINT.IMM puts in their place (R44, R71). -/
inductive Src where
  | regs (base len align : Nat) (want : List Tag)
  | imm (v : Word) (tag : Tag)
  deriving DecidableEq, Repr

/-- A group of registers that an instruction names: first, length, and the multiple it must start at. -/
structure Grp where
  base  : Nat
  len   : Nat
  align : Nat
  deriving DecidableEq, Repr

/-- R28, R62: the group starts where it may and ends at or below x(n - 1). -/
def Grp.legal (g : Grp) (n : Nat) : Bool := g.base % g.align == 0 && decide (g.base + g.len ≤ n)

/-- The registers a source names. -/
def Src.grp : Src → Option Grp
  | .regs b l a _ => some ⟨b, l, a⟩
  | .imm _ _ => none

/-- The port's answer for one register of an operand. -/
inductive Port where
  | take (r : Reg)
  | convert (r : Reg) (fl : List Nat)
  | mismatch
  deriving Repr

/-- One register read at a port (R71, R72). -/
def portRead (strict : Bool) (want : List Tag) (r : Reg) : Port :=
  match want with
  | [] => .take r
  | e :: _ =>
    if want.contains r.tag then .take r
    else if strict || r.tag.elems != e.elems || r.tag.isSxAny || e.isSxAny || e == .e8m0x4 || e == .acc then .mismatch
    else let c := portConvert r.tag e r.val; .convert { val := c.1, tag := e } c.2

/-- The ports' answers for one source. -/
def Src.ports (t : Thread) (s : Src) : List Port :=
  match s with
  | .imm v tag => [.take { val := v, tag := tag }]
  | .regs b l _ want => (upFrom b l).map (fun n => portRead (bitAt t.fmode.toNat 0) want (t.reg n))

def Port.isMismatch : Port → Bool
  | .mismatch => true
  | _ => false
def Port.get : Port → Reg
  | .take r => r
  | .convert r _ => r
  | .mismatch => {}
/-- The flags of each element that a register brings; elements are counted over all the operand's registers (R109).
(DEDUCED: log entry 73.) -/
def Port.flags : Port → List Nat
  | .convert _ fl => fl
  | .take r => List.replicate r.tag.elems 0
  | .mismatch => []

/-- The OR of flags. -/
def orAll (l : List Nat) : Nat := l.foldl orFlags 0

/-- The flags that sr.fmode enables: EX EU EO EZ EV stand over NX UF OF DZ NV (R107, R108). -/
def Thread.enabled (t : Thread) (fl : Nat) : Nat := fl &&& slice t.fmode.toNat 8 5

/-- sr.hinfo of FP_EXCEPTION: the flags, and which elements raised an enabled one; the field has eight bits, and a group of registers with more
elements shows its first eight (R109).
(DEDUCED: log entry 73.) -/
def Thread.fpInfo (t : Thread) (all : Nat) (elems : List Nat) : DWord :=
  w64 (all + 256 * (ofBits (elems.map (fun f => t.enabled f != 0)) % 256))

/-- Merges flags into sr.fflags (R109). -/
def Thread.merge (t : Thread) (fl : Nat) : Thread := { t with fflags := w32 (t.fflags.toNat ||| fl) }

/-- The operands an instruction has read: the thread with the port conversions' flags merged, those flags, and each source's registers. -/
structure Fetched where
  t     : Thread
  fl    : Nat
  ops   : List (List Reg)

/-- Reads an instruction's sources and checks the registers it names, in the order of R342 group 4. `dsts` are groups it names and does not
read here.
(DEDUCED: log entry 73.) -/
def Thread.fetch (t : Thread) (dsts : List Grp) (srcs : List Src) : Except Stop Fetched :=
  let grps := dsts ++ srcs.filterMap Src.grp
  if !grps.all (·.legal t.count) then fail .illegalRegister
  else if (srcs.filterMap Src.grp).any (fun g => (upFrom g.base g.len).any (fun n => (t.reg n).life == .expired)) then
    fail .transientExpired
  else
    let ports := srcs.map (Src.ports t)
    if ports.any (·.any Port.isMismatch) then fail .tagMismatch
    else
      let fls := ports.map (fun ps => ps.flatMap Port.flags)
      let all := orAll (fls.map orAll)
      match fls.find? (fun fs => t.enabled (orAll fs) != 0) with
      | some fs => .error (.trap .fpException 0 (t.fpInfo all fs) all)
      | none => .ok { t := t.merge all, fl := all, ops := ports.map (·.map Port.get) }

/-- The same for an instruction that raises no floating-point flag: a conversion at a port merges none and cannot trap (R141, R211, R242, R323,
R325).
(DEDUCED: log entry 75.) -/
def Thread.fetchQuiet (t : Thread) (dsts : List Grp) (srcs : List Src) : Except Stop Fetched :=
  let grps := dsts ++ srcs.filterMap Src.grp
  if !grps.all (·.legal t.count) then fail .illegalRegister
  else if (srcs.filterMap Src.grp).any (fun g => (upFrom g.base g.len).any (fun n => (t.reg n).life == .expired)) then
    fail .transientExpired
  else
    let ports := srcs.map (Src.ports t)
    if ports.any (·.any Port.isMismatch) then fail .tagMismatch
    else .ok { t := t, fl := 0, ops := ports.map (·.map Port.get) }

/-- Operand i of what was fetched, as a single register. -/
def Fetched.r (f : Fetched) (i : Nat) : Reg := nth (nth f.ops i []) 0 {}
def Fetched.v (f : Fetched) (i : Nat) : Word := (f.r i).val
/-- Operand i's registers as one number, the low word first. -/
def Fetched.n (f : Fetched) (i : Nat) : Nat := ofWords ((nth f.ops i []).map (·.val))
/-- Operand i's words. -/
def Fetched.ws (f : Fetched) (i : Nat) : List Word := (nth f.ops i []).map (·.val)

/-- Flags from arithmetic: merged, and FP_EXCEPTION where one is enabled (R109). `elems` are the elements' own flags; none for a single
result.
(DEDUCED: log entry 72.) -/
def Fetched.arith (f : Fetched) (fl : Nat) (elems : List Nat) : Except Stop Thread :=
  let all := f.fl ||| fl
  if f.t.enabled fl != 0 then .error (.trap .fpException 0 (f.t.fpInfo all elems) all)
  else .ok (f.t.merge fl)

/-- A single register with its tags. -/
def rd1 (n : RegField) (want : List Tag) : Src := .regs n.toNat 1 1 want
/-- A pair. -/
def rd2 (n : RegField) (want : List Tag) : Src := .regs n.toNat 2 2 want
/-- A quad. -/
def rd4 (n : RegField) (want : List Tag) : Src := .regs n.toNat 4 4 want
/-- The destinations of the same shapes. -/
def wr1 (n : RegField) : Grp := ⟨n.toNat, 1, 1⟩
def wr2 (n : RegField) : Grp := ⟨n.toNat, 2, 2⟩
def wr4 (n : RegField) : Grp := ⟨n.toNat, 4, 4⟩

/-- Operand b of form A, which HINT.IMM replaces: payload in [31:8], 0 in bit 7 and b[6:0] below (R44). -/
def Thread.bOperand (t : Thread) (b : RegField) (want : List Tag) : Src :=
  match t.hints.imm with
  | some p => .imm (w32 (p.toNat * 256 + b.toNat)) (want.headD .b32)
  | none => rd1 b want

/-- The pattern of an integer operand under neg and abs, in two's complement (R45, R91). -/
def modInt (neg abs : Bool) (w : Word) : Word :=
  let x := if abs && w.msb then -w else w
  if neg then -x else x

end Sys2Proof.Machine
end

