-- ==== Sys2Proof/Machine/Ops.lean ====
section
/-! DEFINITION. The named operations over the state that every meaning goes through: reaching a thread and what holds it, memory cells,
completing a word, transferring control, taking a trap and returning from one, and raising a halt line (R41, R126, R145, R340 to R349). -/

namespace Sys2Proof.Machine

/-! ### Lists of the state -/

/-- A number that names unpredictable bytes: distinct for each turn and place (R3). -/
def State.freshKey (s : State) (i : Nat) : Nat := s.moves * 4096 + i

def State.updThread (s : State) (k : Nat) (f : Thread → Thread) : State := { s with threads := updateAt s.threads k f }
def State.setThread (s : State) (k : Nat) (t : Thread) : State := s.updThread k (fun _ => t)
def State.updTroupe (s : State) (k : Nat) (f : Troupe → Troupe) : State := { s with troupes := updateAt s.troupes k f }
def State.updEns (s : State) (k : Nat) (f : Ensemble → Ensemble) : State := { s with ensembles := updateAt s.ensembles k f }
def State.updCtx (s : State) (k : Nat) (f : Ctx → Ctx) : State := { s with contexts := updateAt s.contexts k f }
def State.updLaunch (s : State) (k : Nat) (f : Launch → Launch) : State := { s with launches := updateAt s.launches k f }
def State.updQueue (s : State) (k : Nat) (f : UQueue → UQueue) : State := { s with queues := updateAt s.queues k f }
def State.updCore (s : State) (k : Nat) (f : Core → Core) : State := { s with cores := updateAt s.cores k f }
def State.updCopy (s : State) (k : Nat) (f : Copy → Copy) : State := { s with copies := updateAt s.copies k f }
def State.updPass (s : State) (k : Nat) (f : Pass → Pass) : State := { s with passes := updateAt s.passes k f }

def State.thread (s : State) (k : Nat) : Thread := nth s.threads k {}
def State.troupe (s : State) (k : Nat) : Troupe := nth s.troupes k {}
def State.ens (s : State) (k : Nat) : Ensemble := nth s.ensembles k {}
def State.ctx (s : State) (k : Nat) : Ctx := nth s.contexts k {}
def State.launch (s : State) (k : Nat) : Launch := nth s.launches k {}
def State.core (s : State) (k : Nat) : Core := nth s.cores k {}

/-- The thread that executes and what it belongs to (R23). -/
structure Who where
  k   : Nat
  t   : Thread
  trI : Nat
  tr  : Troupe
  eI  : Nat
  e   : Ensemble
  cI  : Nat
  c   : Ctx
  deriving Repr

/-- Thread k with its troupe, ensemble and context; none where one of them does not exist. -/
def State.whoOf (s : State) (k : Nat) : Option Who :=
  match s.threads[k]? with
  | none => none
  | some t =>
    match s.troupes[t.troupe]?, s.ensembles[t.ens]? with
    | some tr, some e =>
      match s.contexts[e.ctx]? with
      | some c => some ⟨k, t, t.troupe, tr, t.ens, e, e.ctx, c⟩
      | none => none
    | _, _ => none

/-- The partition of a thread (R17). -/
def Thread.part (t : Thread) : Nat := t.tid / 16 % 4
/-- Its crew (R17). -/
def Thread.crew (t : Thread) : Nat := t.tid / 16
/-- Its lane (R141). -/
def Thread.lane (t : Thread) : Nat := t.tid % 16
/-- The stop-record index of a thread's partition (R349). -/
def Who.partIndex (w : Who) : Nat := 4 * w.tr.core + w.t.part
/-- The core group. -/
def Who.group (w : Who) : Nat := w.tr.core / 4

/-- A field of a context descriptor: byte offset, low bit, width (R339). -/
def Ctx.field (c : Ctx) (off lo n : Nat) : Nat := slice c.desc.toNat (8 * off + lo) n
def Ctx.handler (c : Ctx) : DWord := w64 (c.field 0 0 64)

/-! ### Cells -/

/-- The byte at an address of a list of cells; `dflt` is what an unlisted address reads as.
(DESIGN CHOICE: log entry 1.) -/
def cellGet (dflt : Nat → Byte) : List Host.Cell → Nat → Byte
  | [], a => dflt a
  | (b, v) :: r, a => if a = b then v else if a < b then dflt a else cellGet dflt r a

/-- The list with the byte at an address set; a byte equal to what its address reads as unlisted is not kept.
(DESIGN CHOICE: log entry 1.) -/
def cellSet (dflt : Nat → Byte) : List Host.Cell → Nat → Byte → List Host.Cell
  | [], a, v => if v = dflt a then [] else [(a, v)]
  | (b, w) :: r, a, v =>
    if a = b then (if v = dflt a then r else (a, v) :: r)
    else if a < b then (if v = dflt a then (b, w) :: r else (a, v) :: (b, w) :: r)
    else (b, w) :: cellSet dflt r a v

/-- Every address exceeds the bound, they rise strictly, and no entry is what an unlisted address reads as. -/
def cellsAbove (dflt : Nat → Byte) (lo : Nat) : List Host.Cell → Bool
  | [] => true
  | (a, v) :: r => decide (lo ≤ a) && v != dflt a && cellsAbove dflt (a + 1) r

/-- What a byte of the physical space that nothing has written reads as. DESIGN CHOICE (log entry 1). -/
def memDefault (_ : Nat) : Byte := 0

/-- The canonical form of the memory of the device.
(DESIGN CHOICE: log entry 1.) -/
def Memory.wf (m : List Host.Cell) : Bool := cellsAbove memDefault 0 m

/-- What a byte of a fresh scratch slice reads as: unpredictable (R176), a free value.
(DESIGN CHOICE: log entry 6.) -/
def Troupe.fresh (tr : Troupe) (a : Nat) : Byte := Config.freshByte tr.salt a

/-- A byte of a troupe's slice.
(DESIGN CHOICE: log entry 6.) -/
def Troupe.getByte (tr : Troupe) (a : Nat) : Byte := cellGet tr.fresh tr.scratch a

/-- Ranges without the bytes lo to hi − 1. -/
def carve (lo hi : Nat) (rs : List (Nat × Nat × Bool)) : List (Nat × Nat × Bool) :=
  rs.flatMap fun r =>
    if decide (r.2.1 ≤ lo) || decide (hi ≤ r.1) then [r]
    else (if r.1 < lo then [(r.1, lo, r.2.2)] else []) ++ (if hi < r.2.1 then [(hi, r.2.1, r.2.2)] else [])

/-- Is the content of a byte unpredictable, so that it loads under tag B32 (R155, R176)? -/
def Troupe.isVague (tr : Troupe) (a : Nat) : Bool := tr.vague.any fun r => decide (r.1 ≤ a) && decide (a < r.2.1)

/-- A load of a byte: where R155 names the first load only, it has been. -/
def Troupe.loaded (tr : Troupe) (a : Nat) : Troupe :=
  { tr with vague := (tr.vague.filter fun r => !r.2.2) ++ carve a (a + 1) (tr.vague.filter fun r => r.2.2) }

def Troupe.setByte (tr : Troupe) (a : Nat) (v : Byte) : Troupe :=
  { tr with scratch := cellSet tr.fresh tr.scratch a v, vague := carve a (a + 1) tr.vague }

/-- Is the granule that holds offset a full (R185)? -/
def Troupe.isFull (tr : Troupe) (a : Nat) : Bool := tr.full.contains (a / 16)

/-- A list of numbers in rising order with one put in; or taken out. -/
def insertUp (n : Nat) (l : List Nat) : List Nat := if l.contains n then l else putBefore (fun m => decide (n < m)) n l
def Troupe.setFullBit (tr : Troupe) (a : Nat) (v : Bool) : Troupe :=
  { tr with full := if v then insertUp (a / 16) tr.full else tr.full.filter (· != a / 16) }

/-! ### Halting -/

/-- An engine's cause that halts a context. The first raises the line; another engine's of the same ac stands beside it as FIRST, and one within the
skid of 128 ac is recorded as that engine's own cause. An engine keeps its first cause, and notes a HALT beside it (R340, R347, R349). -/
def Ctx.raise (c : Ctx) (now : DWord) (r : Raiser) : Ctx :=
  match c.halt with
  | none => { c with halt := some now, raisers := [r] }
  | some h =>
    if c.haltDone || decide (128 < (now - h).toNat) then c
    else if c.raisers.any fun x => x.index == r.index then
      { c with raisers := c.raisers.map fun x => if x.index = r.index then { x with info := x.info ||| r.info } else x }
    else { c with raisers := c.raisers ++ [{ r with first := decide (h = now) }] }

/-- A thread that entered its handler in the ac in which its context's line rises stands at the trapping instruction again (R347). -/
def Thread.undoEntry (t : Thread) (now : DWord) : Thread :=
  match t.entry with
  | none => t
  | some e =>
    if e.at_ != now then t
    else { t with
      pc := e.pc, clause := e.clause, hints := e.hints, saveClause := e.saveClause, saveHints := e.saveHints, hcause := e.hcause, hpc := e.hpc
      haddr := e.haddr, hinfo := e.hinfo, inHandler := false, entry := none, status := .trapping e.cause e.trapPc e.addr e.info }

/-- Does a thread stand in a configuration of its core (R167)? -/
def State.isMapped (s : State) (core k : Nat) : Bool := (s.core core).configs.any fun m => m.inside.any (·.1 == k)

/-- Raises the halt line of a context, for an engine (R347). -/
def State.raiseHalt (s : State) (ctx : Nat) (r : Raiser) : State :=
  let s1 := s.updCtx ctx (fun c => c.raise s.clock r)
  { s1 with threads := s1.threads.map fun t => if (nth s1.ensembles t.ens {}).ctx = ctx then t.undoEntry s.clock else t }

/-- Has a context an ensemble on the device? -/
def State.residentCtx (s : State) (ctx : Nat) : Bool := s.ensembles.any fun e => e.ctx == ctx && (e.phase == .resident || e.phase == .draining)

/-- Every resident context halts (R341, R360, R362). -/
def State.haltAll (s : State) (index : Nat) (cause : Cause) : State :=
  (upFrom 0 s.contexts.length).foldl (fun s k =>
    if (s.ctx k).live && s.residentCtx k then s.raiseHalt k { index := index, cause := cause } else s) s

/-! ### Traps -/

/-- The code of a cause (R341). -/
def Cause.code (c : Cause) : Nat := c.ctorIdx

/-- Has the thread no obligation outstanding: are its flags clear (R37, R343)? -/
def Thread.quiet (t : Thread) : Bool := t.flags.all (· == 0)

/-- Where the next word must be a header (R40, R41). -/
def ClausePos.atEnd (p : ClausePos) : ClausePos := { p with pos := p.len }

/-- The handler entry of R343, for a thread whose obligations have completed. -/
def Thread.enterHandler (t : Thread) (now handler : DWord) (cause : Cause) (pc addr info : DWord) : Thread :=
  { t with
    entry      := some { at_ := now, pc := t.pc, clause := t.clause, hints := t.hints, cause := cause, trapPc := pc, addr := addr, info := info
                         saveClause := t.saveClause, saveHints := t.saveHints, hcause := t.hcause, hpc := t.hpc, haddr := t.haddr, hinfo := t.hinfo }
    saveClause := t.clause
    saveHints  := t.hints
    hcause     := w32 cause.code
    hpc        := pc
    haddr      := addr
    hinfo      := info
    inHandler  := true
    clause     := t.clause.atEnd
    hints      := {}
    pc         := handler
    status     := .ready
    issued     := none
    got        := []
    seq        := t.seq + 1
    resumed    := false
    armStep    := false
    armSkip    := false }

/-- A trap that no handler takes halts the context: the thread has no handler, or is in it (R340). -/
def State.trapHalts (s : State) (w : Who) (cause : Cause) (pc addr : DWord) : State :=
  s.raiseHalt w.cI { index := w.partIndex, cause := cause, pc := pc, addr := addr, thread := some w.k, mapped := s.isMapped w.tr.core w.k }

/-- Thread k takes a trap (R340, R343): with no handler, or in its handler, it halts its context; else it enters the handler, at once or
when its obligations have completed. -/
def State.takeTrap (s : State) (k : Nat) (cause : Cause) (pc addr info : DWord) : State :=
  match s.whoOf k with
  | none => s
  | some w =>
    let t := { w.t with armStep := false, armSkip := false }
    if w.c.handler = 0 || t.inHandler then (s.setThread k { t with status := .trapping cause pc addr info }).trapHalts w cause pc addr
    else if t.quiet && w.c.halt.isNone then s.setThread k (t.enterHandler s.clock w.c.handler cause pc addr info)
    else s.setThread k { t with status := .trapping cause pc addr info }

/-! ### Completing a word -/

/-- The windows of transient results after an instruction: in the handler they stand still (R145, R146). An instruction that traps does not count
among the three that its thread issues: the model counts those that complete.
(DESIGN CHOICE: log entry 96.) -/
def Reg.tick (inHandler : Bool) (r : Reg) : Reg :=
  match r.life with
  | .fresh => { r with life := .transient 3 }
  | .transient n => if inHandler then r else if n ≤ 1 then { r with life := .expired } else { r with life := .transient (n - 1) }
  | _ => r

/-- What every completed instruction does to its thread beside its own effect: windows, the hint latch, the issue gap (R42, R47, R145).
`h` is the latch it executed under, `inH` whether it began in the handler. -/
def Thread.complete (t : Thread) (now : DWord) (h : HintLatch) (inH : Bool) : Thread :=
  { t with
    regs     := t.regs.map (Reg.tick inH)
    hints    := {}
    got      := []
    resumed  := false
    gapUntil := if h.gap = 0 then none else some (now + w64 h.gap)
    status   := if t.status = .exited then .exited else .ready
    armStep  := false
    armSkip  := false
    split    := false
    near     := []
    issued   := none }

/-- The word after one: PC + 4, and after the last canonical address of a half the next one in the order of the low 57 bits, since the PC always holds a
canonical address (R126). R26 and R126 do not say what follows that word.
(DESIGN CHOICE: log entry 94.) -/
def nextPc (pc : DWord) : DWord := if canonical (pc + 4) then pc + 4 else canonicalOf ((pc.toNat + 4) % 2 ^ 57)

/-- The next word of the clause (R34, R41). -/
def Thread.advance (t : Thread) : Thread := { t with pc := nextPc t.pc, clause := { t.clause with pos := t.clause.pos + 1 } }

/-- A transfer: the next word must be a header and the latch is discarded (R26, R40, R42). -/
def Thread.jump (t : Thread) (pc : DWord) : Thread := { t with pc := pc, clause := t.clause.atEnd, hints := {} }

/-- Thread k has completed an instruction that it began as t0: SINGLE_STEP follows where it is armed (R346). ERET arms the step of the
next instruction itself.
(DEDUCED: log entry 15.) -/
def State.finish (s : State) (k : Nat) (t0 : Thread) : State :=
  let s' := s.updThread k (fun t => t.complete s.clock t0.hints t0.inHandler)
  if t0.armStep && (s'.thread k).status != .exited then s'.takeTrap k .singleStep (s'.thread k).pc 0 0 else s'

/-- The same for an instruction that goes on to the next word. -/
def State.retire (s : State) (k : Nat) (t0 : Thread) : State := (s.updThread k Thread.advance).finish k t0

/-- A stop applied to the state the instruction began in. A thread that parks again keeps the instant it first parked.
(DEDUCED: log entry 72.) -/
def State.stopped (s : State) (w : Who) (e : Stop) : State :=
  match e with
  | .trap c a i fl => (s.updThread w.k (fun t => t.merge fl)).takeTrap w.k c w.t.pc a i
  | .trapIn s' c a i => s'.takeTrap w.k c w.t.pc a i
  | .park why => s.updThread w.k (fun t => { t with status := match t.status with
      | .parked y since => if y = why then .parked why since else .parked why s.clock
      | _ => .parked why s.clock })
  | .hold s' st => s'.updThread w.k (fun t => { t with status := st })

/-- What a step answers. -/
abbrev Outcome := Host.Outcome State Fault Refusal

/-- The meaning of a word for the thread that executes: nothing under a false guard (R29), else its body, then the next word. -/
def runWord (s : State) (g : PredField) (body : Who → Except Stop State) : Outcome :=
  match s.whoOf s.cur with
  | none => .fault .unlinkedState
  | some w =>
    if w.t.guard g then
      match body w with
      | .ok s' => .next (s'.retire w.k w.t)
      | .error e => .next (s.stopped w e)
    else .next (s.retire w.k w.t)

/-- The meaning of a word that changes only its own thread. -/
def runThread (s : State) (g : PredField) (body : Thread → Except Stop Thread) : Outcome :=
  runWord s g (fun w => (body w.t).map (fun t => s.setThread w.k t))

/-- The meaning of a transfer: the body sets the PC (R135). -/
def runJump (s : State) (g : PredField) (body : Who → Except Stop State) : Outcome :=
  match s.whoOf s.cur with
  | none => .fault .unlinkedState
  | some w =>
    if w.t.guard g then
      match body w with
      | .ok s' => .next (s'.finish w.k w.t)
      | .error e => .next (s.stopped w e)
    else .next (s.retire w.k w.t)

/-! ### Transfer targets -/

/-- R26: a transfer target must be canonical and a multiple of 4; sr.haddr holds the target. R136 lists canonical form first.
(DEDUCED: log entry 33.) -/
def checkTarget (a : DWord) : Except Stop Unit :=
  if !canonical a then failAt .addressNoncanonical a.toNat
  else if a.toNat % 4 != 0 then failAt .misaligned a.toNat
  else .ok ()

/-- The effect of ERET on a thread in its handler whose sr.hpc has been checked (R344, R41, R42): within the saved clause's body the clause
position is restored, and at the modified instruction the hint latch too; `resumed` has a hint word there discard the latch.
(DEDUCED: log entry 15.) -/
def Thread.returnFromHandler (t : Thread) : Thread :=
  let c := t.saveClause
  let body := c.header.toNat + 4
  let inside := decide (body ≤ t.hpc.toNat) && decide (t.hpc.toNat < body + 4 * c.len)
  { t with
    inHandler := false
    pc        := t.hpc
    clause    := if inside then { c with pos := (t.hpc.toNat - body) / 4 } else t.clause.atEnd
    hints     := if inside && t.hpc.toNat == body + 4 * c.pos then t.saveHints else {}
    resumed   := true
    armStep   := bitAt t.hcause.toNat 7
    armSkip   := bitAt t.hcause.toNat 8
    status    := .ready }

/-! ### Completion flags (R35, R37) -/

/-- The count of flag n. -/
def Thread.flag (t : Thread) (n : Nat) : Nat := nth t.flags n 0

/-- busy_mask (R53). -/
def Thread.busyMask (t : Thread) : Nat := ofBits (t.flags.map (fun c => c != 0))

/-- Adds 1 to each flag named, or parks while a count would pass 63 (R37). -/
def Thread.raiseFlags (t : Thread) (fs : List Nat) : Except Stop Thread :=
  let t' := fs.foldl (fun (t : Thread) f => { t with flags := updateAt t.flags f (· + 1) }) t
  if t'.flags.any (fun c => decide (63 < c)) then .error (.park .flagRoom) else .ok t'

/-- Subtracts 1 from a flag. -/
def Thread.lowerFlag (t : Thread) (f : Nat) : Thread := { t with flags := updateAt t.flags f (· - 1) }

/-- The clause's result flag fa and source flag fb. -/
def Thread.fa (t : Thread) : Nat := t.clause.fa.toNat
def Thread.fb (t : Thread) : Nat := t.clause.fb.toNat

/-- An obligation whose registers are written when it is met (R37). -/
def Thread.owe (t : Thread) (o : Obligation) : Except Stop Thread :=
  (t.raiseFlags [o.flag]).map (fun t' => { t' with owed := t'.owed ++ [o] })

/-- An "a" obligation that will write consecutive registers from d. -/
def Thread.oweRegs (t : Thread) (d : Nat) (vs : List Word) (tag : Tag) : Except Stop Thread :=
  t.owe { flag := t.fa, writes := (upFrom d vs.length).zip (vs.map (fun v => (v, tag))) }

end Sys2Proof.Machine
end

