-- ==== Sys2Proof/Machine/Coherence.lean ====
section
/-! DEFINITION. The device's view of memory: homes, the slices of the L2, the L1s, the requests that a cache sends for a unit, and what a read
finds (01_machine.md R12, R18 to R20, 08_memory.md R184, R187, 09_ordering.md R201 to R206, 16_link.md R361 to R366). -/

namespace Sys2Proof.Machine

/-! ### Homes and units (R19, R20, R364) -/

/-- Is a physical address within the 52 bits of R20? -/
def physOk (pa : Nat) : Bool := decide (pa < 2 ^ 52)

/-- Is the home agent of a physical address the host die's? The 48 channels are interleaved at 4 KiB (R19).
(DESIGN CHOICE: log entry 5.) -/
def hostHomed (pa : Nat) : Bool := decide (24 ≤ pa / 4096 % 48)

/-- The core group whose L2 slice is a unit's home slice (R12, R19): one for each group, the units in turn.
(DESIGN CHOICE: log entry 91.) -/
def sliceOf (unit : Nat) : Nat := unit % 24

/-- The units that a slice of 2 MiB holds at most (R19). -/
def sliceUnits : Nat := 32768

/-- The line of the device's L2 for a unit, where it is held (R364). -/
def State.l2 (s : State) (unit : Nat) : Option L2Line := s.link.lines.find? (fun l => l.unit == unit && l.state != .i)

/-- The directory entry of a unit whose home is the memory island. -/
def State.dir (s : State) (unit : Nat) : Option Directory := s.link.homes.find? (fun d => d.unit == unit)
def State.dirOf (s : State) (unit : Nat) : Directory := (s.dir unit).getD { unit := unit }

/-- Is an entry as if it were not there? -/
def Directory.idle (d : Directory) : Bool := d.owner.isNone && d.sharers.isEmpty && d.open_.isNone && d.waiting.isEmpty

/-- Sets a unit's entry; an idle one is not kept. -/
def State.setDir (s : State) (d : Directory) : State :=
  let rest := s.link.homes.filter fun x => x.unit != d.unit
  { s with link := { s.link with homes := if d.idle then rest else rest ++ [d] } }

/-- Byte i of a 64-byte unit. -/
def unitByte (u : Unit64) (i : Nat) : Byte := BitVec.ofNat 8 (u.toNat / 2 ^ (8 * i))
def setUnitByte (u : Unit64) (i : Nat) (v : Byte) : Unit64 := BitVec.ofNat 512 (putSlice u.toNat (8 * i) 8 v.toNat)

/-- The byte that memory behind the home agents holds. -/
def State.memByte (s : State) (pa : Nat) : Byte := cellGet memDefault s.mem pa
def State.setMemByte (s : State) (pa : Nat) (v : Byte) : State := { s with mem := cellSet memDefault s.mem pa v }

/-- The 64 bytes of a unit in memory. -/
def State.memUnit (s : State) (unit : Nat) : Unit64 := BitVec.ofNat 512 (ofBytes ((upFrom (unit * 64) 64).map s.memByte))

/-- Some bytes of a unit written into memory, by their places in it. -/
def State.setMemUnit (s : State) (unit : Nat) (places : List Nat) (data : Unit64) : State :=
  places.foldl (fun s i => s.setMemByte (unit * 64 + i) (unitByte data i)) s

/-- The bytes of the granules that a mask of R362 names. -/
def granuleBytes (mask : BitVec 4) : List Nat := (upFrom 0 64).filter fun i => bitAt mask.toNat (i / 16)

/-- The byte the device's coherent view holds: the L2's copy, else memory's. -/
def State.getPhys (s : State) (pa : Nat) : Byte :=
  match s.l2 (pa / 64) with
  | some l => unitByte l.data (pa % 64)
  | none => s.memByte pa

/-- A write performed in the device's coherent view: into the L2's copy, which becomes dirty in its granule (E becomes M without a message,
R364), else into memory. -/
def State.putPhys (s : State) (pa : Nat) (v : Byte) : State :=
  match s.l2 (pa / 64) with
  | some _ => { s with link := { s.link with lines := s.link.lines.map (fun l =>
      if l.unit == pa / 64 && l.state != .i then
        { l with data := setUnitByte l.data (pa % 64) v, state := .m, past := false, stored := BitVec.ofNat 4 (putSlice l.stored.toNat (pa % 64 / 16) 1 1) }
      else l) } }
  | none => s.setMemByte pa v

/-- Is a directory entry free of agents other than the device's own, and of an open transaction? Agent 0 is the device's L2; where it has dropped
a clean copy silently, the entry still names it (R364). -/
def Directory.own (d : Directory) : Bool := (d.owner.isNone || d.owner == some 0) && d.open_.isNone

/-- Is a request of one of these opcodes outstanding for a unit? -/
def State.asked (s : State) (unit : Nat) (opcs : List Nat) : Bool := s.link.reqs.any fun r => r.unit == unit && opcs.contains r.opc

/-- Can the home answer an uncached read of a unit at once: the memory island's, with no other owner, no open transaction, no write-back of the
device on its way, and no request of the link port taken in this fc, in which the local port comes first (R365)? -/
def State.homeReads (s : State) (unit : Nat) : Bool :=
  !hostHomed (unit * 64) && ((s.dir unit).map Directory.own).getD true && !s.asked unit [3] && s.link.arrived != some s.fclock

/-- Can the home perform an uncached write or an atomic at once: as above, and no other agent shares the unit? -/
def State.homeWrites (s : State) (unit : Nat) : Bool :=
  !hostHomed (unit * 64) && ((s.dir unit).map fun d => d.own && d.sharers.all (· == 0)).getD true && !s.asked unit [3] && s.link.arrived != some s.fclock

/-- May the device read a unit without a message: its L2 holds it, or its own home can supply it?
(DESIGN CHOICE: log entry 5.) -/
def State.readable (s : State) (unit : Nat) : Bool := (s.l2 unit).isSome || s.homeReads unit

/-- May the device write a unit without a message (R364)?
(DESIGN CHOICE: log entry 5.) -/
def State.writable (s : State) (unit : Nat) : Bool :=
  match s.l2 unit with
  | some l => l.state == .m || l.state == .e
  | none => s.homeWrites unit

/-- The units of some physical bytes. -/
def unitsOf (pas : List Nat) : List Nat := (pas.map (· / 64)).dedup

/-- Every unit of the bytes can be read; or written. -/
def State.allReadable (s : State) (pas : List Nat) : Bool := (unitsOf pas).all s.readable
def State.allWritable (s : State) (pas : List Nat) : Bool := (unitsOf pas).all s.writable

/-- Do the data of some physical bytes fail their check (R194)? -/
def State.badPhys (s : State) (pas : List Nat) : Bool := pas.any fun a => s.badSectors.contains (a / 32)

/-! ### Places -/

/-- Two names of one byte: what a page's policy or virtual address is does not tell places apart (R187). -/
def Loc.same (a b : Loc) : Bool := a.scratch == b.scratch && a.addr == b.addr

/-- Is a place of global memory reached through the caches; or past them (R187)? -/
def Loc.cached (l : Loc) : Bool := l.scratch.isNone && l.policy == .wb
def Loc.bypasses (l : Loc) : Bool := l.scratch.isNone && l.policy != .wb

def State.getLoc (s : State) (l : Loc) : Byte :=
  match l.scratch with
  | some k => (s.troupe k).getByte l.addr
  | none => s.getPhys l.addr
def State.putLoc (s : State) (l : Loc) (v : Byte) : State :=
  match l.scratch with
  | some k => s.updTroupe k (fun tr => tr.setByte l.addr v)
  | none => s.putPhys l.addr v

/-- A byte of a store over what stood there: only the bits it writes change. -/
def StoreByte.over (b : StoreByte) (old : Byte) : Byte := (old &&& ~~~b.mask) ||| (b.val &&& b.mask)

/-- The value at a place after a thread's own pending stores before `seq`, in their order (R184). -/
def Thread.forward (t : Thread) (seq : Nat) (l : Loc) (base : Byte) : Byte :=
  t.stores.foldl (fun v st => if st.seq < seq && st.atomic.isNone then
    st.bytes.foldl (fun v b => if b.loc.same l then b.over v else v) v else v) base

/-- Is a place written, whole, by an earlier pending store of the thread, so that a load before its visibility point needs nothing else (R184, R201)? -/
def Thread.covers (t : Thread) (seq : Nat) (l : Loc) : Bool :=
  t.stores.any fun p => decide (p.seq < seq) && p.atomic.isNone && p.bytes.any fun b => b.loc.same l && b.mask == 0xFF

def PendingStore.touches (p : PendingStore) (ls : List Loc) : Bool := p.bytes.any (fun b => ls.any b.loc.same)
def PendingLoad.touches (p : PendingLoad) (ls : List Loc) : Bool := p.locs.any (fun l => ls.any l.same)

/-- Is an access, or part of it, of an uncached page (R205)? -/
def uncachedAt (ls : List Loc) : Bool := ls.any fun l => l.scratch.isNone && l.policy == .uc
def PendingStore.locs (p : PendingStore) : List Loc := p.bytes.map (·.loc)
/-- The physical addresses of a store's bytes. -/
def PendingStore.pas (p : PendingStore) : List Nat := p.bytes.map (·.loc.addr)

/-- Does a load or atomic acquire; does a store or atomic release (R197)? -/
def Order.acquires (o : Order) : Bool := o == .acq || o == .ar
def Order.releases (o : Order) : Bool := o == .rel || o == .ar

/-- An acquire of the thread that has not bound yet, before `seq` (R202). -/
def Thread.acquirePending (t : Thread) (seq : Nat) : Bool :=
  t.loads.any (fun l => decide (l.seq < seq) && l.order.acquires)
  || t.stores.any (fun p => decide (p.seq < seq) && p.atomic.isSome && p.order.acquires)

/-- The thread's loads that take part in ordering: those of the constant space do not (R196). -/
def Thread.ordered (t : Thread) : List PendingLoad := t.loads.filter fun l => !l.const

/-! ### The L1s (R18, R187) -/

/-- The granules that a core's L1 has room for: what the scratchpad leaves of 512 KiB (R18). -/
def Core.l1Room (c : Core) : Nat := (524288 - c.scratchpad) / 16

/-- The last n elements of a list. -/
def keepLast {α : Type} (n : Nat) (l : List α) : List α := l.drop (l.length - n)

/-- The line of a granule, filled at or after a stamp. -/
def lineSince (ls : List L1Line) (stamp granule : Nat) : Option L1Line := ls.find? fun l => l.granule == granule && decide (stamp ≤ l.stamp)

/-- The lines that may still be hit in a turn: a load that keeps re-reading a location reads past the L1 after a finite time (R208).
(DESIGN CHOICE: log entry 105.) -/
def linesAlive (ls : List L1Line) (now : Nat) : List L1Line := ls.filter fun l => decide (now ≤ Config.patience + l.born)

/-- The byte of a physical place in some lines. -/
def lineByte (ls : List L1Line) (stamp pa : Nat) : Byte := ((lineSince ls stamp (pa / 16)).map fun l => l.data.getD (pa % 16) 0).getD 0

/-- Do some lines hold every granule of the bytes, filled at or after a stamp and all of them at once? An access that has more than one granule
is one atomic unit (R76, R204), and granules filled apart could show part of another core's store; `apart` is for elements that are accesses of their own.
(DESIGN CHOICE: log entry 12.) -/
def linesHold (ls : List L1Line) (stamp : Nat) (pas : List Nat) (apart : Bool := false) : Bool :=
  let hits := ((pas.map (· / 16)).dedup).map (lineSince ls stamp)
  hits.all (·.isSome) && (apart || ((hits.filterMap id).map (·.stamp)).dedup.length ≤ 1)

/-- The granules that a fill brings beside those asked for: a block of 1 to 8 granules, of a size that the device chooses, within the page and of
units that can be read (R187).
(DESIGN CHOICE: log entry 12.) -/
def State.blockAround (s : State) (granules : List Nat) : List Nat :=
  let n := Config.choice (s.freshKey 301) % 8 + 1
  granules.flatMap fun g => (upFrom (g / n * n) n).filter fun x => x / 256 == g / 256 && s.readable (x / 4)

/-- The lines of some granules as the coherent view has them, under a stamp. -/
def State.linesOf (s : State) (granules : List Nat) (stamp : Nat) : List L1Line :=
  granules.map fun g => { granule := g, data := (upFrom (g * 16) 16).map s.getPhys, stamp := stamp, born := s.moves }

/-- Fills the granules of physical bytes into a core's L1 from the coherent view, with a new stamp; the oldest granules make room.
(DESIGN CHOICE: log entry 12.) -/
def State.fillL1 (s : State) (core : Nat) (pas : List Nat) : State :=
  let asked := (pas.map (· / 16)).dedup
  let gs := ((s.blockAround asked).filter fun g => !asked.contains g).dedup ++ asked
  let lines := s.linesOf gs (s.stamp + 1)
  { s.updCore core (fun c => { c with l1 := keepLast c.l1Room ((c.l1.filter fun l => !gs.contains l.granule) ++ lines) }) with
    stamp := s.stamp + 1 }

/-- The granules of a core's L1 that a store of one of its threads updates at its visibility point, their stamps unchanged (R201); the core's fetched
code gives them up (R191).
(DESIGN CHOICE: log entry 12.) -/
def Core.writeL1 (c : Core) (bytes : List StoreByte) : Core :=
  if c.l1.isEmpty && c.code.isEmpty then c
  else { c with code := c.code.filter fun l => !(bytes.any fun b => b.loc.addr / 16 == l.granule), l1 := c.l1.map fun l => bytes.foldl (fun l b =>
    if b.loc.addr / 16 = l.granule then { l with data := updateAt l.data (b.loc.addr % 16) b.over } else l) l }

/-- A core's L1, and its fetched code, without the granules of some bytes. -/
def Core.forget (c : Core) (pas : List Nat) : Core :=
  let other (l : L1Line) : Bool := !(pas.any fun a => a / 16 == l.granule)
  { c with l1 := c.l1.filter other, code := c.code.filter other }

/-! ### Messages and requests (R206, R361 to R364) -/

/-- Hands a message to the link controller, which sends it when the link is up and has credits. -/
def State.say (s : State) (m : OutMsg) : State := { s with link := { s.link with out := s.link.out ++ [m] } }

/-- Is the link trained and up? A message of the host die arrives only then (R360). -/
def State.linkUp (s : State) : Bool := s.link.up && !s.link.training

/-- The context of a troupe. -/
def State.ctxOfTroupe (s : State) (tr : Nat) : Nat := (s.ens (s.troupe tr).ens).ctx

/-- The TAGs of the device's transactions that are outstanding (R361). -/
def State.tagsOut (s : State) : List Nat := s.link.reqs.map (·.tag) ++ s.xlreqs.map (·.tag) ++ s.pgreqs.map (·.1.tag) ++ s.link.presents

/-- A TAG of 16 bits that no outstanding transaction has, the next in turn (R361).
(DESIGN CHOICE: log entry 26.) -/
def State.freeTag (s : State) : Nat :=
  (((upFrom s.link.nextTag 65536).find? fun t => !s.tagsOut.contains (t % 65536)).getD s.link.nextTag) % 65536

/-- Does a message ask for an answer under a TAG? -/
def OutMsg.asks (m : OutMsg) (tag : Nat) : Bool :=
  match m with
  | .req _ t _ _ _ _ | .xlReq t _ _ _ | .pgReq t _ _ _ _ | .present t _ _ => t == tag
  | _ => false

/-- Can the answer to a request of a TAG arrive: the link is up, and the request has been sent? -/
def State.answerable (s : State) (tag : Nat) : Bool := s.linkUp && !(s.link.out.any (·.asks tag))

/-- Sends a request under a fresh tag: a link message where the home is the host die's, the local port's where it is the memory island's. The
acknowledgement counter of a troupe counts link messages only (R206).
(DESIGN CHOICE: log entries 5, 26.) -/
def State.send (s : State) (r : LinkReq) (aux : Nat := 0) : State :=
  let tag := s.freeTag
  let far := hostHomed (r.unit * 64)
  let q : LinkReq := { r with tag := tag, since := s.fclock, troupe := if far then r.troupe else none }
  let s1 := { s with link := { s.link with nextTag := tag + 1, reqs := s.link.reqs ++ [q] } }
  let s2 := match q.troupe with
    | some k => s1.updTroupe k fun t => { t with linkCount := t.linkCount + 1 }
    | none => s1
  if far then s2.say (.req r.opc tag r.unit r.data r.en aux) else s2

/-- A request ends: it leaves, and the counter it raised falls (R206). -/
def State.endReq (s : State) (r : LinkReq) : State :=
  let s1 := { s with link := { s.link with reqs := s.link.reqs.filter fun x => x.tag != r.tag } }
  match r.troupe with
  | some k => s1.updTroupe k fun t => { t with linkCount := t.linkCount - 1 }
  | none => s1

def State.reqOf (s : State) (tag : Nat) : Option LinkReq := s.link.reqs.find? fun r => r.tag == tag

/-- The places in program order at which releases at .SY of a thread wait under R203: an earlier access of the thread is not performed, or the counter of
its troupe is not zero. A fence stands behind every access of its thread. -/
def State.syWaits (s : State) (t : Thread) : List Nat :=
  let busy := (s.troupe t.troupe).linkCount != 0
  let held (seq : Nat) : Bool := busy || !t.ordered.all (fun l => decide (seq < l.seq)) || !t.stores.all (fun q => decide (seq ≤ q.seq))
  ((t.stores.filter fun p => p.order.releases && p.scope == .sy && p.sent.isEmpty && held p.seq).map (·.seq))
    ++ (match t.status, t.issued with
      | .parked .fence _, some (.fence r p _) => if bitAt r.toNat 1 && decide (4 ≤ p.toNat) && held t.seq then [t.seq] else []
      | _, _ => [])

/-- Who an access is made for: a context; the troupe whose counter its messages raise, if it has one; and the thread and the place in its program order,
if it is one's. -/
structure Behalf where
  ctx    : Nat
  troupe : Option Nat := none
  access : Option (Nat × Nat) := none
  deriving DecidableEq, Repr

def Who.behalf (w : Who) : Behalf := { ctx := w.cI, troupe := some w.trI, access := some (w.k, w.t.seq) }

/-- May an access send n further counted messages of its troupe: the counter does not pass 4,095, and no release at .SY of the troupe waits, but for one of
its own thread that waits for this very access (R203, R206)?
(DEDUCED: log entry 19.) -/
def State.mayCount (s : State) (b : Behalf) (n : Nat := 1) : Bool :=
  match b.troupe with
  | none => true
  | some tr =>
    decide ((s.troupe tr).linkCount + n ≤ 4095)
      && ((s.troupe tr).threads.all (fun k => (s.syWaits (s.thread k)).isEmpty)
        || match b.access with
          | some (k, seq) => (s.syWaits (s.thread k)).any fun r => decide (seq < r)
          | none => false)

/-- Asks for what an access lacks on a unit: RdS for a read, Upg or RdX for a write (R364). Nothing where a request for the unit is outstanding,
or where the counter may not rise. -/
def State.acquireUnit (s : State) (unit : Nat) (write : Bool) (b : Behalf) : State :=
  if s.asked unit [0, 1, 2, 3] then s
  else if !write then s.send { opc := 0, unit := unit, ctx := some b.ctx }
  else if hostHomed (unit * 64) && !s.mayCount b then s
  else s.send { opc := if (s.l2 unit).isSome then 2 else 1, unit := unit, ctx := some b.ctx, troupe := b.troupe }

/-- Asks for every unit of the bytes that cannot be read, or written, yet. -/
def State.acquireAll (s : State) (pas : List Nat) (write : Bool) (b : Behalf) : State :=
  (unitsOf pas).foldl (fun s u => if (if write then s.writable u else s.readable u) then s else s.acquireUnit u write b) s

/-! ### Lines of the L2 that come and go (R364) -/

/-- A line leaves the L2. -/
def State.dropLine (s : State) (unit : Nat) : State := { s with link := { s.link with lines := s.link.lines.filter fun l => l.unit != unit } }
def State.setLine (s : State) (unit : Nat) (st : Moesi) : State :=
  { s with link := { s.link with lines := s.link.lines.map fun l => if l.unit == unit then { l with state := st } else l } }

/-- Ownership in the directory after a write-back. -/
def Directory.wroteBack (d : Directory) (agent : Nat) : Directory :=
  { d with owner := if d.owner = some agent then none else d.owner, sharers := d.sharers.filter (· != agent) }

/-- Has a unit's home no transaction open? Always so for what the model sees of the host die's. -/
def State.homeOpen (s : State) (unit : Nat) : Bool := (s.dirOf unit).open_.isSome

/-- Writes the stored granules of a dirty line back: at its own home at once where no transaction is open there, else by a WbM (R364, R187). `ctx` is the
context whose access causes it, and `keep` asks for the unit again after it. -/
def State.writeBack (s : State) (l : L2Line) (ctx : Option Nat := none) (keep : Bool := false) : State :=
  if hostHomed (l.unit * 64) || s.homeOpen l.unit then
    s.send { opc := 3, unit := l.unit, data := l.data, en := BitVec.ofNat 64 l.stored.toNat, ctx := ctx, keep := keep } l.stored.toNat
  else (s.setMemUnit l.unit (granuleBytes l.stored) l.data).setDir ((s.dirOf l.unit).wroteBack 0)

def L2Line.dirty (l : L2Line) : Bool := l.state == .m || l.state == .o

/-- From now on another agent can write a unit without the device's knowledge: what the device knows of a structure-table entry in it may be old (R314,
R335). -/
def State.loseSight (s : State) (unit : Nat) : State :=
  { s with structs := s.structs.map fun (x : Struct) => if x.place.any (· / 64 == unit) then { x with unseen := true } else x }

/-- What the memory behind the host die's home is known to hold follows a copy that leaves the device's L2. -/
def State.remember (s : State) (unit : Nat) : State :=
  match s.l2 unit with
  | some l => if hostHomed (unit * 64) then s.setMemUnit unit (upFrom 0 64) l.data else s
  | none => s

/-- A unit leaves the L2: an E or S copy silently, an M or O copy by its write-back (R364). -/
def State.evictUnit (s : State) (unit : Nat) (ctx : Option Nat := none) (keep : Bool := false) : State :=
  match s.l2 unit with
  | none => s
  | some l => (((if l.dirty then s.writeBack l ctx keep else s).remember unit).dropLine unit).loseSight unit

/-- The island's half of the system-level cache, 48 MiB, takes a unit of the island's memory; its oldest unit makes room. The home reads and writes memory
through it, so that it changes no value (R19, R187).
(DESIGN CHOICE: log entry 12.) -/
def State.slcFill (s : State) (unit : Nat) : State :=
  if hostHomed (unit * 64) then s
  else { s with link := { s.link with slc := keepLast 786432 ((s.link.slc.filter (· != unit)) ++ [unit]) } }
def State.slcDrop (s : State) (unit : Nat) : State := { s with link := { s.link with slc := s.link.slc.filter (· != unit) } }

/-- A line comes into its slice; where the slice is full, its oldest line makes room (R19).
(DESIGN CHOICE: log entry 91.) -/
def State.addLine (s : State) (l : L2Line) : State :=
  let mine := s.link.lines.filter fun x => sliceOf x.unit == sliceOf l.unit && x.unit != l.unit
  let s1 := match mine.find? fun v => !s.asked v.unit [0, 1, 2, 3] with
    | some v => if mine.length < sliceUnits then s else s.evictUnit v.unit
    | none => s
  { s1 with link := { s1.link with lines := (s1.link.lines.filter fun x => x.unit != l.unit) ++ [l] } }

/-- The L2 takes a unit of the memory island by its own choice, where its home can grant it alone: clean, and named in the directory (R187,
R364). -/
def State.allocateUnit (s : State) (unit : Nat) : State :=
  let wb := s.tlb.any fun e => e.policy == .wb && decide (e.frame ≤ unit * 64) && decide (unit * 64 < e.frame + e.size)
  if wb && (s.l2 unit).isNone && s.homeWrites unit && !s.asked unit [0, 1, 2, 3] then
    ((s.slcFill unit).addLine { unit := unit, state := .e, data := s.memUnit unit }).setDir { s.dirOf unit with owner := some 0, sharers := [] }
  else s

/-! ### What a read finds (R184, R187, R201, R205) -/

/-- May a load of a thread bind now: after earlier acquires, after its own earlier loads of and atomics on its bytes, and, uncached, after
every earlier uncached access (R201, R202, R205)? A load of the constant space takes no part in ordering (R196). -/
def Thread.mayBind (t : Thread) (l : PendingLoad) : Bool :=
  l.const || (!t.acquirePending l.seq
  && t.ordered.all (fun x => decide (l.seq ≤ x.seq) || !x.touches l.locs)
  && t.stores.all (fun p => decide (l.seq < p.seq) || p.atomic.isNone || !p.touches l.locs)
  && (!uncachedAt l.locs || (t.ordered.all (fun x => decide (l.seq ≤ x.seq) || !uncachedAt x.locs)
    && t.stores.all (fun p => decide (l.seq < p.seq) || !uncachedAt p.locs))))

/-- Does a thread's own earlier store still stand on its way to a unit's home? A read of the unit at the home comes after it (R184). -/
def Thread.storesTo (t : Thread) (seq unit : Nat) : Bool :=
  t.stores.any fun p => decide (p.seq < seq) && p.locs.any fun l => l.bypasses && l.addr / 64 == unit

/-- The units of uncached places that neither the home supplies at once nor a message has brought. -/
def State.farUnits (s : State) (locs : List Loc) (got : List (Nat × Unit64)) : List Nat :=
  (unitsOf ((locs.filter Loc.bypasses).map (·.addr))).filter fun u => !(got.any fun x => x.1 == u) && !s.homeReads u

/-- Asks for a unit by RdU, once, for the access of a thread that `seq` names. -/
def State.askUncached (s : State) (b : Behalf) (k seq unit : Nat) : State :=
  if s.link.reqs.any fun r => r.opc == 4 && r.unit == unit && r.store == some (k, seq) then s
  else s.send { opc := 4, unit := unit, ctx := some b.ctx, store := some (k, seq) }

/-- The byte that an uncached read finds at the home, or that its message has brought. -/
def State.homeByte (s : State) (got : List (Nat × Unit64)) (pa : Nat) : Byte :=
  match got.find? fun x => x.1 == pa / 64 with
  | some x => unitByte x.2 (pa % 64)
  | none => s.memByte pa

/-- What a read of thread k finds at some places, its own earlier stores over it: of its core's L1 where the turn says so and R187 lets it, else of
the coherent view, whose granules the L1 then holds; uncached places at their home. Where something is lacking it is asked for and nothing is
found yet. The new state, and the bytes.
(DESIGN CHOICE: log entry 12.) -/
def State.gather (s : State) (k : Nat) (t : Thread) (seq : Nat) (locs : List Loc) (got : List (Nat × Unit64)) (fromL1 : Bool)
    (apart : Bool := false) : State × Option (List Byte) :=
  let core := (s.troupe t.troupe).core
  let b : Behalf := { ctx := s.ctxOfTroupe t.troupe, troupe := some t.troupe, access := some (k, seq) }
  let pas := (locs.filter Loc.cached).map (·.addr)
  let far := s.farUnits (locs.filter fun l => !t.covers seq l) got
  let l1 := linesAlive (s.core core).l1 s.moves
  let hit := fromL1 && linesHold l1 t.acqStamp pas apart
  if !far.isEmpty then ((far.filter fun u => !t.storesTo seq u).foldl (fun s u => s.askUncached b k seq u) s, none)
  else if !hit && !s.allReadable pas then (s.acquireAll pas false b, none)
  else
    let at_ (l : Loc) : Byte :=
      if l.bypasses then s.homeByte got l.addr
      else if hit && l.cached then lineByte l1 t.acqStamp l.addr
      else s.getLoc l
    (if hit || pas.isEmpty then s else s.fillL1 core pas, some (locs.map fun l => t.forward seq l (at_ l)))

/-- The places of an access whose data fail their check (R194). -/
def State.badAt (s : State) (ls : List Loc) : Bool := s.badPhys ((ls.filter (·.scratch.isNone)).map (·.addr))

/-- The place among some physical bytes of the first whose data fail their check. -/
def State.firstBad (s : State) (pas : List Nat) : Option Nat := (upFrom 0 pas.length).find? fun i => s.badPhys [nth pas i 0]

/-- The lowest virtual address among some places whose data fail their check. -/
def State.badVa (s : State) (ls : List Loc) : Option Nat :=
  let bad := (ls.filter fun l => l.scratch.isNone && s.badPhys [l.addr]).map (·.va)
  bad.head?.map fun a => bad.foldl min a

/-- DATA_CHECK halts the context of a thread whose instruction read or wrote data that fail their check; the record holds the lowest address that fails
(R194, R349). -/
def State.dataCheck (s : State) (k : Nat) (ls : List Loc) : State :=
  match s.whoOf k with
  | some w => s.raiseHalt w.cI { index := w.partIndex, cause := .dataCheck, pc := w.t.pc, addr := canonicalOf ((s.badVa ls).getD ((ls.head?.map (·.va)).getD 0))
                                 thread := some k, mapped := s.isMapped w.tr.core k }
  | none => s

/-- A read bound while its instruction executes, in its place among the thread's accesses. It waits while an earlier access must come first, or for
what it has asked for.
(DEDUCED: log entry 9.) -/
def State.readNow (s : State) (w : Who) (ls : List Loc) : Except Stop (State × List Byte) :=
  if !w.t.mayBind { seq := w.t.seq, locs := ls, form := { type := 0, dst := 0, count := 0 }, flag := 15 } then .error (.park .drain)
  else match s.gather w.k w.t w.t.seq ls w.t.got s.viaL1 with
    | (s', some b) => if s.badAt ls then .error (.hold (s.dataCheck w.k ls) (.parked .drain s.clock)) else .ok (s', b)
    | (s', none) => .error (.hold s' (.parked .drain s.clock))

/-- Reads and writes of physical bytes in the coherent view, by an engine that has found them readable, or writable. -/
def State.readPhys (s : State) (pas : List Nat) : List Byte := pas.map s.getPhys

/-- A copy brought for an engine's read of an uncached page leaves; memory is as it showed it (R187). -/
def State.settlePast (s : State) (unit : Nat) : State :=
  match s.l2 unit with
  | some l => if l.past then (s.setMemUnit unit (upFrom 0 64) l.data).dropLine unit else s
  | none => s

/-- What an engine writes past the caches to a unit of the host die goes there by WrU (R187, R363). -/
def State.passUnit (s : State) (b : Behalf) (unit : Nat) (bytes : List (Nat × Byte)) : State :=
  let mine := bytes.filter fun x => x.1 / 64 == unit
  if !hostHomed (unit * 64) || (s.l2 unit).isSome then s
  else s.send { opc := 5, unit := unit, data := mine.foldl (fun u x => setUnitByte u (x.1 % 64) x.2) 0
                en := BitVec.ofNat 64 (maskOf (mine.map (·.1 % 64))), ctx := some b.ctx, troupe := b.troupe }

def State.writePhys (s : State) (pas : List Nat) (bs : List Byte) (b : Behalf := { ctx := 0 }) : State :=
  let s1 := (unitsOf pas).foldl State.settlePast s
  let s2 := (pas.zip bs).foldl (fun s x => s.putPhys x.1 x.2) s1
  (unitsOf pas).foldl (fun s u => s.passUnit b u (pas.zip bs)) s2

/-- Is a unit at hand for an engine's access past the caches: the L2 holds no copy but one brought for such a read, and the home can serve it (R187)? -/
def State.pastReady (s : State) (read write : Bool) (unit : Nat) : Bool :=
  match s.l2 unit with
  | some l => read && l.past
  | none => if hostHomed (unit * 64) then !read && !s.asked unit [0, 1, 2, 3, 4, 5, 6, 7]
      else if write then s.homeWrites unit else s.homeReads unit

/-- Asks for it: the L2's own copy leaves first; a read of the host die's home is an RdS whose copy no other page allocates; where another agent holds a
unit of the memory island, the L2 takes it over.
(DESIGN CHOICE: log entry 27.) -/
def State.pastAsk (s : State) (read write : Bool) (b : Behalf) (unit : Nat) : State :=
  if s.asked unit [0, 1, 2, 3, 4, 5, 6, 7] then s
  else if (s.l2 unit).isSome then s.evictUnit unit (some b.ctx)
  else if read && hostHomed (unit * 64) then s.send { opc := 0, unit := unit, ctx := some b.ctx, past := true }
  else s.acquireUnit unit write b

/-- The number that a physical record holds. -/
def State.readNat (s : State) (pas : List Nat) : Nat := ofBytes (s.readPhys pas)

end Sys2Proof.Machine
end

