-- ==== Sys2Proof/Machine/Texel.lean ====
section
/-! DEFINITION. Texels: the values that the bytes of an image's texels stand for, and their weighted sum (13_graphics.md R308, R310, R311). -/

namespace Sys2Proof.Machine

/-- num / den as an F32 pattern, rounded RNE; den is not 0. -/
def ratioF32 (num den : Int) : Word :=
  let neg := decide (num < 0) != decide (den < 0) && num != 0
  w32 (fF32.encode .rne false (.ofRatio neg num.natAbs den.natAbs 0)).1

def oneF32 : Word := 0x3F800000

/-- ⌊v^(1/5)⌋, one bit at a time. -/
def fifthRoot (v : Nat) : Nat → Nat → Nat
  | 0, r => r
  | k + 1, r => let c := r + 2 ^ k; fifthRoot v k (if c ^ 5 ≤ v then c else r)

/-- A channel byte as c / 255. -/
def unorm8 (c : Nat) : Word := ratioF32 c 255

/-- A channel byte by the transfer of IEC 61966-2-1: c / 255 / 12.92 up to 0.04045, else ((c / 255 + 0.055) / 1.055)^2.4. The root is cut
below its sixtieth binary place, with a last bit for what is dropped. -/
def srgbToLinear (c : Nat) : Word :=
  if c * 100000 ≤ 4045 * 255 then ratioF32 (c * 100) (255 * 1292)
  else
    let n := (1000 * c + 14025) ^ 12 * 2 ^ 300
    let d := 269025 ^ 12
    let r := fifthRoot (n / d) 61 0
    w32 (fF32.encode .rne false (.num false (2 * r + (if r ^ 5 * d = n then 0 else 1)) (-61))).1

/-- An F16 pattern as F32.
(DESIGN CHOICE: log entry 53.) -/
def halfToF32 (h : Nat) : Word := w32 (fF32.encode .rne false (fF16.decode h)).1

/-- A texel's bytes, as a number, decoded to R, G, B, A. -/
def decodeTexel (fmt v : Nat) : List Word :=
  let byte (i : Nat) : Nat := slice v (8 * i) 8
  match fmt with
  | 0 => [unorm8 (byte 0), 0, 0, oneF32]
  | 1 => (upFrom 0 4).map fun i => unorm8 (byte i)
  | 2 => ((upFrom 0 3).map fun i => srgbToLinear (byte i)) ++ [unorm8 (byte 3)]
  | 3 => [halfToF32 (slice v 0 16), 0, 0, oneF32]
  | 4 => (upFrom 0 4).map fun i => halfToF32 (slice v (16 * i) 16)
  | 5 => [w32 v, 0, 0, oneF32]
  | _ => toWords v 4

/-- One component: the exact weighted sum, rounded once. A texel that is not finite has no product with weight 0: the sum is then free.
(DESIGN CHOICE: log entry 53.) -/
def weighted (l : List (Word × Nat)) (free : Word) : Word :=
  if l.any fun x => x.2 == 0 && !(fF32.decode x.1.toNat).finite then free
  else
    let terms := (l.filter fun x => x.2 != 0).map fun x => ((fF32.decode x.1.toNat).mul (.num false x.2 (-24))).1
    w32 (fF32.encode .rne false (FVal.sum .rne terms).1).1

/-- The registers that the texels of an image load become: raw words, one texel decoded, or the sum of a sample's texels and border places
(R310, R311). -/
def ImageForm.landed (f : ImageForm) (bytes : List Byte) : List (Word × Tag) :=
  match f.terms with
  | some ts =>
    let texel (i : Nat) : List Word := decodeTexel f.fmt (ofBytes ((bytes.drop (i * f.size)).take f.size))
    let vals := ts.map fun t => match t.1 with
      | some i => (texel i, t.2)
      | none => (f.border, t.2)
    (upFrom 0 4).map fun c => (weighted (vals.map fun v => (nth v.1 c 0, v.2)) (Config.freeWord f.key c), .f32)
  | none => if f.raw then (toWords (ofBytes bytes) 4).map (·, .b32) else (decodeTexel f.fmt (ofBytes bytes)).map (·, .f32)

end Sys2Proof.Machine
end

