-- ==== Sys2Proof/Machine/Mem.lean ====
section
/-! DEFINITION. Addresses, translation, permission and watchpoint checks, and the shapes of loads and stores (08_memory.md R174 to R190,
03_formats.md R73, R345). -/

namespace Sys2Proof.Machine

/-! ### Translation (R189, R190, R367) -/

/-- The low 57 bits of an address (R20). -/
def va57 (a : DWord) : Nat := a.toNat % 2 ^ 57

/-- The bytes of a page by the code of its size: 4 KiB, 16 KiB, 64 KiB, 2 MiB, 32 MiB, 1 GiB (R20). R189 and R367 give the six sizes no codes: the
model takes them in ascending order from 0, and codes 6 and 7 as 1 GiB.
(DESIGN CHOICE: log entry 92.) -/
def pageBytes : Nat → Nat
  | 0 => 2 ^ 12 | 1 => 2 ^ 14 | 2 => 2 ^ 16 | 3 => 2 ^ 21 | 4 => 2 ^ 25 | _ => 2 ^ 30

/-- The TLB entry that serves an address for a core: its own first-level TLB or its group's second-level one (R20, R189). -/
def State.tlbFind (s : State) (asid : BitVec 16) (core : Nat) (va : Nat) : Option TlbEntry :=
  s.tlb.find? fun e => e.asid == asid && decide (e.base ≤ va) && decide (va < e.base + e.size)
    && (match e.first with
      | some c => c == core
      | none => e.group == core / 4)

/-- The physical address an entry gives. -/
def TlbEntry.phys (e : TlbEntry) (va : Nat) : Nat := e.frame + (va - e.base)

/-- A page request, which every waiter on the same page shares (R189, R367). -/
def State.requestPage (s : State) (asid : BitVec 16) (page aux : Nat) (pass : DWord) (wt : Waiter) : State :=
  match findIdx (fun (p : PgReq × List Waiter) => p.1.asid == asid && p.1.page == page && p.1.aux == aux && p.1.pass == pass && !p.2.isEmpty) s.pgreqs with
  | some i => { s with pgreqs := updateAt s.pgreqs i (fun p => if p.2.contains wt then p else (p.1, p.2 ++ [wt])) }
  | none =>
    let tag := s.freeTag
    { s with
      pgreqs := s.pgreqs ++ [({ tag := tag, asid := asid, page := page, aux := aux, pass := pass, since := s.fclock }, [wt])]
      link := { s.link with nextTag := tag + 1, out := s.link.out ++ [.pgReq tag asid page aux pass] } }

/-- A translation request for the page that holds an address: it joins an outstanding request for that page, or is sent while fewer than
256 are outstanding (R20, R189). -/
def State.requestXl (s : State) (asid : BitVec 16) (core va kind : Nat) (wt : Waiter) : State :=
  let page := va / 4096
  match findIdx (fun (p : PgReq × List Waiter) => p.1.asid == asid && p.1.page == page && p.1.aux == 0 && !p.2.isEmpty) s.pgreqs with
  | some i => { s with pgreqs := updateAt s.pgreqs i (fun p => if p.2.contains wt then p else (p.1, p.2 ++ [wt])) }
  | none =>
    match s.xlreqs.find? (fun r => r.asid == asid && r.page == page && r.core / 4 == core / 4) with
    | some r => { s with xlwaits := s.xlwaits ++ [(r.tag, wt)] }
    | none =>
      if s.xlreqs.length < 256 then
        let tag := s.freeTag
        { s with
          xlreqs := s.xlreqs ++ [{ tag := tag, asid := asid, page := page, kind := kind, core := core, since := s.fclock }]
          xlwaits := s.xlwaits ++ [(tag, wt)]
          link := { s.link with nextTag := tag + 1, out := s.link.out ++ [.xlReq tag asid page kind] } }
      else s

/-- Does anyone wait on a translation or page request under this name? -/
def State.waits (s : State) (wt : Waiter) : Bool := s.xlwaits.any (·.2 == wt) || s.pgreqs.any (·.2.contains wt)

/-- What an access does to a page, for R188 and R213. -/
structure Use where
  read   : Bool := false
  write  : Bool := false
  exec   : Bool := false
  atomic : Bool := false
  deriving DecidableEq, Repr

/-- Why an access to a page cannot go on: a translation to ask for, a trap, or a write-tracking request. -/
inductive PageStop where
  | miss
  | deny (c : Cause)
  | track
  deriving DecidableEq, Repr

/-- Steps 3 to 5 of R188 on one page, with the differences of R213; step 5 is left out where an access still has another page to pass step 4. -/
def State.pageCheck (s : State) (asid : BitVec 16) (core va : Nat) (u : Use) (track : Bool := true) : Except PageStop TlbEntry :=
  match s.tlbFind asid core va with
  | none => .error .miss
  | some e =>
    if u.read && !e.read then .error (.deny .permissionRead)
    else if u.write && !e.write then .error (.deny .permissionWrite)
    else if u.exec && !e.exec then .error (.deny .permissionExecute)
    else if u.atomic && e.policy == .wc then .error (.deny .atomicUnsupported)
    else if track && u.write && e.tracked then .error .track
    else .ok e

/-- The kind of an XlReq (R367). -/
def Use.kind (u : Use) : Nat := if u.exec then 2 else if u.write then 1 else 0

/-- A thread's stop for a page: a stall that asks the host, or a trap at the access's lowest byte in that page (R188, R340).
(DEDUCED: log entry 71.) -/
def State.pageStop (s : State) (w : Who) (at_ : Nat) (u : Use) (p : PageStop) : Stop :=
  match p with
  | .miss => .hold (s.requestXl w.c.asid w.tr.core at_ u.kind (.thread w.k)) (.stalled .pageNotPresent (at_ / 4096))
  | .track => .hold (s.requestPage w.c.asid (at_ / 4096) 1 0 (.thread w.k)) (.stalled .pageWriteTrack (at_ / 4096))
  | .deny c => .trap c (canonicalOf at_) 0 0

/-- The pages of len bytes from va, lowest first, each with the access's lowest byte in it.
(DEDUCED: log entry 71.) -/
def pagesOf (va len : Nat) : List Nat :=
  (upFrom (va / 4096) ((va + (len - 1)) / 4096 + 1 - va / 4096)).map (fun p => max va (p * 4096))

/-- The place of each byte of len from va that an entry serves, of those in the page that holds a byte. -/
def TlbEntry.places (e : TlbEntry) (va len page : Nat) : List Loc :=
  ((upFrom va len).filter fun b => b / 4096 == page / 4096).map fun b => { addr := e.phys b, policy := e.policy, va := b }

/-- Translation and permission of every page of an access, lower pages first; the place of each byte, under its own page's policy (R179, R187). -/
def State.translate (s : State) (w : Who) (va len : Nat) (u : Use) (track : Bool := true) : Except Stop (List Loc) := do
  let es ← (pagesOf va len).mapM fun a => match s.pageCheck w.c.asid w.tr.core a u track with
    | .ok e => .ok (a, e)
    | .error p => .error (s.pageStop w a u p)
  .ok (es.flatMap fun ae => ae.2.places va len ae.1)

/-- R188, steps 1 and 2: canonical bytes, then alignment, whose cause LDMX and STMX replace.
(DEDUCED: log entry 33.) -/
def checkForm (a : DWord) (len align : Nat) (mis : Cause := .misaligned) : Except Stop Unit :=
  match (upFrom 0 len).find? (fun i => !canonical (a + w64 i)) with
  | some i => .error (.trap .addressNoncanonical (a + w64 i) 0 0)
  | none => if a.toNat % align != 0 then .error (.trap mis a 0 0) else .ok ()

/-- R345: the lowest watchpoint that the bytes of an access overlap, `parts` being its ranges, with the lowest overlapping byte; none while skip is
armed (R346). -/
def Who.watchAll (w : Who) (parts : List (Nat × Nat)) (ld st : Bool) : Except Stop Unit :=
  if w.t.armSkip then .ok ()
  else
    let overlaps (i : Nat) : List Nat :=
      let base := w.c.field (128 + 16 * i) 0 64
      let n := w.c.field (136 + 16 * i) 0 32
      let kind := w.c.field (140 + 16 * i) 0 2
      if (ld && bitAt kind 0) || (st && bitAt kind 1) then
        (parts.filter fun p => decide (base < p.1 + p.2) && decide (p.1 < base + n)).map fun p => max p.1 base
      else []
    match (upFrom 0 4).find? fun i => !(overlaps i).isEmpty with
    | some i => .error (.trap .watchpoint (w64 ((overlaps i).foldl min (2 ^ 64))) (w64 i) 0)
    | none => .ok ()

/-- The same for an access of one range. -/
def Who.watch (w : Who) (a len : Nat) (ld st : Bool) : Except Stop Unit := w.watchAll [(a, len)] ld st

/-- A checked access: where its bytes are. -/
structure Placed where
  locs   : List Loc
  deriving Repr

/-- Places of the global space in pages that the caches serve. -/
def globalLocs (pas : List Nat) : List Loc := pas.map fun a => { scratch := none, addr := a }

/-- A global access through every check of R188, and the watchpoints after them where the access can match one (R342, R345). -/
def State.checkGlobal (s : State) (w : Who) (a : DWord) (len align : Nat) (u : Use) (watched : Bool := true) (mis : Cause := .misaligned) :
    Except Stop Placed := do
  checkForm a len align mis
  let r ← s.translate w (va57 a) len u
  if watched then w.watch a.toNat len (u.read || u.atomic) (u.write || u.atomic) else .ok ()
  .ok { locs := r }

/-! ### Scratch (R175) -/

/-- The bound relay-queue regions of a troupe: 512 bytes each (R154, R155). -/
def Troupe.regions (tr : Troupe) : List Nat := tr.queues.filterMap (·.base)

/-- Do len bytes from off meet the 512 bytes of a region? -/
def meetsRegion (off len base : Nat) : Bool := decide (off < base + 512) && decide (base < off + len)

/-- The troupe and offset a scratch address names, for an access of len bytes: MISALIGNED, then SCRATCH_BOUNDS at the lowest byte that lies outside
the slice or in a region (R175, R188). -/
def State.checkScratch (s : State) (w : Who) (a len align : Nat) : Except Stop (Nat × Nat) :=
  let v := a / 2 ^ 30 % 4
  let off := a % 2 ^ 30
  let k := w.tr.k ^^^ v
  if a % align != 0 then failAt .misaligned a
  else match w.e.troupes[k]? with
    | none => failAt .scratchBounds a
    | some i =>
      let tr := s.troupe i
      match (upFrom 0 len).find? fun j => decide (tr.slice ≤ off + j) || tr.regions.any (meetsRegion (off + j) 1) with
      | some j => failAt .scratchBounds (a + j)
      | none => .ok (i, off)

def scratchLocs (tr off len : Nat) : List Loc := (upFrom off len).map fun a => { scratch := some tr, addr := a }

/-! ### Types (R73, R179) -/

/-- The bytes of a register group of a type: n registers of types 0 to 10, one quad of types 11 and 12, one byte or two of 13 to 15.
(DEDUCED: log entry 25.) -/
def typeBytes (type n : Nat) : Nat :=
  match type with
  | 11 => 10 | 12 => 6 | 13 => 1 | 14 => 1 | 15 => 2 | _ => 4 * n

/-- The alignment (R179).
(DEDUCED: log entry 25.) -/
def typeAlign (type n : Nat) : Nat :=
  match type with
  | 11 => 2 | 12 => 2 | 13 => 1 | 14 => 1 | 15 => 2 | _ => 4 * n

/-- Packed SX elements of b bits to four container words (R68): the sign to bit 7, M below. -/
def sxExpand (b v : Nat) : List Word :=
  (upFrom 0 4).map fun k => w32 (((upFrom 0 4).map fun i =>
    let e := slice v ((4 * k + i) * b) b
    (e % 2 ^ (b - 1) + (if bitAt e (b - 1) then 128 else 0)) * 2 ^ (8 * i)).foldl (· + ·) 0)

/-- Container words to packed SX elements (R73). -/
def sxPack (b : Nat) (ws : List Word) : Nat :=
  ((upFrom 0 16).map fun n =>
    let c := slice (nth ws (n / 4) 0).toNat (8 * (n % 4)) 8
    (c % 2 ^ (b - 1) + (if bitAt c 7 then 2 ^ (b - 1) else 0)) * 2 ^ (n * b)).foldl (· + ·) 0

/-! ### Fragments (R249) -/

/-- The registers of the group at d. -/
def FragCtl.regs (c : FragCtl) : Nat := if 2 ≤ c.kind || c.type = 10 then 16 else 8

/-- The width of a memory element in bits. -/
def FragCtl.width (c : FragCtl) : Nat :=
  match c.type with
  | 0 | 1 => 32
  | 2 | 3 => 16
  | 6 => 4
  | _ => 8

/-- The bytes of an element. -/
def FragCtl.bytes (c : FragCtl) : Nat := max 1 (c.width / 8)

/-- The registers of a loaded group from its elements: KIND 2 widens the 16-bit floats. -/
def FragCtl.group (c : FragCtl) (elem : Nat → Nat) : List (Word × Tag) :=
  if c.kind < 2 then
    let tag := Tag.ofCode c.type
    (upFrom 0 c.regs).map fun r => (tag.pack ((upFrom 0 tag.elems).map fun i => elem (r * tag.elems + i)), tag)
  else
    let src := (Tag.ofCode c.type).kind
    (upFrom 0 16).map fun n =>
      if c.type < 2 then (w32 (elem n), Tag.ofCode c.type)
      else (w32 (convertElem src (.flt fF32) .unscaled .unscaled .rne false false false (elem n)).1, .f32)

/-- The registers that a TLD's bytes become: elements that take no part are zero. -/
def FragCtl.landed (c : FragCtl) (els : List (Nat × Bool)) (bytes : List Byte) : List (Word × Tag) :=
  let vals := ((upFrom 0 els.length).zip els).map fun x =>
    let v := ofBytes ((bytes.drop (x.1 * c.bytes)).take c.bytes)
    (x.2.1, if c.width = 4 then slice v (if x.2.2 then 4 else 0) 4 else v)
  c.group fun n => ((vals.find? fun x => x.1 == n).map (·.2)).getD 0

/-- Element n of a register of the group as it goes to memory (R249). -/
def FragCtl.element (c : FragCtl) (n : Nat) (v : Word) : Nat :=
  if c.kind < 2 then (Tag.ofCode c.type).elem v (n % (Tag.ofCode c.type).elems)
  else if c.type < 2 then v.toNat
  else (convertElem (.flt fF32) (Tag.ofCode c.type).kind .unscaled .unscaled .rne false false false v.toNat).1

/-- The bytes of a store of TST from a register: of one element, or of the nibbles that stand in one byte (R249). -/
def FragCtl.toMem (c : FragCtl) (els : List (Nat × Bool)) (v : Word) : List Byte :=
  if c.width = 4 then [els.foldl (fun b x => b ||| BitVec.ofNat 8 (c.element x.1 v * (if x.2 then 16 else 1))) 0]
  else els.flatMap fun x => toBytes (c.element x.1 v) c.bytes

/-- The registers that a load's bytes become (R73, R180, R249, R310, R311). `vague` says of each byte whether its content is unpredictable: a register that
has such a byte carries tag B32 (R155, R176), and so does every register of a load whose registers share bytes.
(DEDUCED: log entries 25, 99.) -/
def LoadForm.expand (f : LoadForm) (bytes : List Byte) (vague : List Bool := []) : List (Nat × Word × Tag) :=
  let v := ofBytes bytes
  let ws : List (Word × Tag) :=
    match f.type with
    | 11 => (sxExpand 5 v).map (·, .sx5x4)
    | 12 => (sxExpand 3 v).map (·, .sx3x4)
    | 13 => [(w32 (wrap (signed v 8) 32), .b32)]
    | 14 => [(w32 (v % 256), .b32)]
    | 15 => [(w32 (v % 65536), .b32)]
    | _ => (toWords v f.count).map (·, Tag.ofCode f.type)
  let sc : List (Word × Tag) := if f.scale then [(w32 (v / 2 ^ (32 * f.count) % 256), .e8m0x4)] else []
  let all := match f.frag, f.image with
    | some (c, els), _ => let ws := c.landed els bytes; (upFrom f.dst ws.length).zip ws
    | none, some i => let ws := i.landed bytes; (upFrom f.dst ws.length).zip ws
    | none, none => (upFrom f.dst (f.count + 1)).zip (ws ++ sc)
  let plain := f.frag.isNone && decide (f.type ≤ 10)
  if !(vague.any id) then all
  else all.map fun x => if !plain || ((vague.drop (4 * (x.1 - f.dst))).take 4).any id then (x.1, x.2.1, .b32) else x

/-- The bytes a store of a type writes, from the words of its group.
(DEDUCED: log entry 25.) -/
def storeBytes (type : Nat) (ws : List Word) : List Byte :=
  match type with
  | 11 => toBytes (sxPack 5 ws) 10
  | 12 => toBytes (sxPack 3 ws) 6
  | _ => toBytes (ofWords ws) (4 * ws.length)

/-- The tags that the data of a store of a type expects; type 0 takes raw bits (R73). -/
def storeTags (type : Nat) : List Tag :=
  match type with
  | 0 => []
  | 11 => [.sx5x4]
  | 12 => [.sx3x4]
  | n => [Tag.ofCode n]

/-- Writes registers as an obligation does when it is met: the value, the tag, and no transient mark. A register that an instruction has written
meanwhile keeps its value where the device so chooses, by the bits of `pick` (R39).
(DEDUCED: log entry 8.) -/
def Thread.land (t : Thread) (ws : List (Nat × Word × Tag)) (pick : Nat) : Thread :=
  let kept (n : Nat) : Bool := t.wrote.contains n && bitAt pick n
  { ws.foldl (fun t x => if kept x.1 then t
      else { t with regs := updateAt t.regs x.1 (fun _ => { val := x.2.1, tag := x.2.2, life := .held }) }) t with
    wrote := t.wrote.filter fun n => !(ws.any fun x => x.1 == n) }

/-! ### Accesses that the thread issues (R198, R201) -/

/-- Adds a load in program order; its flag has been raised. -/
def Thread.pushLoad (t : Thread) (l : PendingLoad) : Thread := { t with seq := t.seq + 1, loads := t.loads ++ [{ l with seq := t.seq }] }
/-- Adds a store or atomic in program order. -/
def Thread.pushStore (t : Thread) (p : PendingStore) : Thread := { t with seq := t.seq + 1, stores := t.stores ++ [{ p with seq := t.seq }] }

/-- Stores of a program to virtual addresses: those that reach the heap outside its live blocks can damage its metadata (R357).
(DESIGN CHOICE: log entry 30.) -/
def Ctx.struck (c : Ctx) (vas : List Nat) : Ctx :=
  let lo := c.field 56 0 64 % 2 ^ 57
  let outside (a : Nat) : Bool := decide (lo ≤ a) && decide (a < lo + c.field 64 0 64)
    && !(c.heap.any fun b => decide (b.base % 2 ^ 57 ≤ a) && decide (a < b.base % 2 ^ 57 + b.size))
  if vas.any outside then { c with heapHurt := true } else c
def State.strikeHeap (s : State) (cI : Nat) (vas : List Nat) : State := s.updCtx cI (·.struck vas)

/-- The virtual addresses of the global bytes of a store. -/
def PendingStore.vas (p : PendingStore) : List Nat := (p.bytes.filter (·.loc.scratch.isNone)).map (·.loc.va)

/-- The executing thread, as it then stands, issues a store or atomic. -/
def State.addStore (s : State) (w : Who) (t : Thread) (p : PendingStore) : State :=
  (s.setThread w.k (t.pushStore { p with born := s.moves })).strikeHeap w.cI p.vas

/-- A plain store of bytes at places. -/
def storeOf (ls : List Loc) (bs : List Byte) : List StoreByte := (ls.zip bs).map fun x => { loc := x.1, val := x.2 }

/-! ### Engines -/

/-- May an engine's access to a unit go now: for one of `past`, past the caches, else through the L2 (R187)? -/
def State.engineHas (s : State) (past : List Nat) (u : Use) (unit : Nat) : Bool :=
  if past.contains unit then s.pastReady u.read u.write unit else if u.write then s.writable unit else s.readable unit

/-- Has an engine all that it needs: every unit at hand, and room in its troupe's counter for the messages that its writes past the caches send
(R187, R206)?
(DEDUCED: log entry 27.) -/
def State.engineMay (s : State) (pas past : List Nat) (u : Use) (b : Behalf) : Bool :=
  let far := past.filter fun x => u.write && hostHomed (x * 64)
  (unitsOf pas).all (s.engineHas past u) && (far.isEmpty || s.mayCount b far.length)

/-- Asks for what an engine's access lacks.
(DEDUCED: log entry 27.) -/
def State.engineAsk (s : State) (pas past : List Nat) (u : Use) (b : Behalf) : State :=
  (unitsOf pas).foldl (fun s x => if s.engineHas past u x then s else if past.contains x then s.pastAsk u.read u.write b x else s.acquireUnit x u.write b) s

/-- Are writes past the caches to some units still on their way to their homes? -/
def State.passing (s : State) (units : List Nat) : Bool := units.any fun x => s.asked x [5]

/-- The units of an engine's access that lie in pages which are reached past the caches (R187). -/
def State.pastUnits (s : State) (asid : BitVec 16) (core va len : Nat) : List Nat :=
  unitsOf ((((pagesOf va len).filterMap fun a => (s.tlbFind asid core a).map fun e => e.places va len a).flatten.filter Loc.bypasses).map (·.addr))

/-- Translation for an engine of a group that acts for a context: every page of len bytes, or why not with the failing address.
(DEDUCED: log entry 27.) -/
def State.engineTranslate (s : State) (asid : BitVec 16) (core va len : Nat) (u : Use) : Except (Nat × PageStop) (List Nat) := do
  let es ← (pagesOf va len).mapM fun a => match s.pageCheck asid core a u with
    | .ok e => .ok (a, e)
    | .error p => .error (a, p)
  .ok (es.flatMap fun ae => (ae.2.places va len ae.1).map (·.addr))

end Sys2Proof.Machine
end

