-- ==== Sys2Proof/Machine/Uses.lean ====
section
/-! DEFINITION. The general registers that the words of a mappable loop body read and write, by their encodings (R27, 04_integer.md, 05_float.md,
03_formats.md, R73, R134, R156, R178 to R180, R210). The loop mapper counts the live ones (R165 row 9, R168). -/

namespace Sys2Proof.Machine

/-- Fields d, a and b of a word (R27). -/
def wordD (n : Nat) : Nat := slice n 19 7
def wordA (n : Nat) : Nat := slice n 12 7
def wordB (n : Nat) : Nat := slice n 5 7

/-- The guard field of a word, by its form. -/
def wordGuard (n : Nat) : Nat :=
  let j := n / 2 ^ 26
  if j = 2 || j = 3 then slice n 23 3
  else if j = 5 || (decide (0x10 ≤ j) && decide (j ≤ 0x13)) || (decide (0x21 ≤ j) && decide (j ≤ 0x34) && j != 0x2F) then slice n 0 3
  else slice n 2 3

/-- The hint latch with a hint word taken in (R42, R44 to R47). -/
def HintLatch.take (h : HintLatch) (n : Nat) : HintLatch :=
  let p : BitVec 24 := BitVec.ofNat 24 n
  match slice n 24 2 with
  | 0 => { h with imm := some p }
  | 1 => { h with mod := some p }
  | 2 => { h with c := some p }
  | _ => { h with sched := some p }

/-- What a form A word reads at its b port; nothing where HINT.IMM takes its place (R44). -/
def HintLatch.readsB (h : HintLatch) (n : Nat) : List Nat := if h.imm.isSome then [] else [wordB n]

/-- The register that operand c names: d where there is no HINT.C (R46). -/
def HintLatch.readsC (h : HintLatch) (n : Nat) : Nat := h.cReg.getD (wordD n)

/-- The registers of a CVT's groups, by the tag of its source (R82): it reads the source group, the scale of HINT.C, and x[d] where CVT.HI writes half
of it.
(DEDUCED: log entry 14.) -/
def cvtUses (n : Nat) (h : HintLatch) (src : Tag) : List Nat × List Nat :=
  let dst := Tag.ofCode (slice n 8 4)
  let e := max src.elems dst.elems
  let hi := n % 4 == 1
  let k := if hi then e / 2 else e
  let gd := max 1 (k / dst.elems)
  (upFrom (wordA n) (max 1 (k / src.elems)) ++ h.cReg.toList ++ (if hi && gd == 1 then [wordD n] else []), upFrom (wordD n) gd)

/-- The registers that a word reads, and those that it writes. `tags` are the registers' tags, which give CVT and SPX the length of their groups.
(DEDUCED: log entry 14.) -/
def wordUses (n : Nat) (h : HintLatch) (tags : List Tag := []) : List Nat × List Nat :=
  let d := wordD n
  let a := wordA n
  let m := n % 4
  let two (x : Nat) : List Nat := [x, x + 1]
  let ab : List Nat := a :: h.readsB n
  let access (load : Bool) (base : List Nat) (count : Nat) : List Nat × List Nat :=
    if load then (base, upFrom d count) else (base ++ upFrom d count, [])
  match n / 2 ^ 26 with
  | 0x05 => ([], [d])
  | 0x06 | 0x08 | 0x09 | 0x0A => (ab, [d])
  | 0x07 =>
    match m with
    | 0 => (d :: ab, [d])
    | 1 => (two d ++ ab, two d)
    | 2 => (ab, [d])
    | _ => (two a ++ h.readsB n, two d)
  | 0x0B => if m = 2 then (d :: ab, [d]) else if m = 3 then (h.readsC n :: ab, [d]) else (ab, [d])
  | 0x0C | 0x16 => (ab, [])
  | 0x0D | 0x10 | 0x11 | 0x12 | 0x13 | 0x17 | 0x1C => ([a], [d])
  | 0x0E => (d :: ab, [d])
  | 0x0F => if slice n 5 7 = 1 then ([], [d]) else if slice n 5 7 = 2 then ([a], []) else ([], [])
  | 0x14 | 0x15 => if m = 3 then (h.readsC n :: ab, [d]) else (ab, [d])
  | 0x18 => if m = 2 then (h.readsC n :: ab, [d]) else (ab, [d])
  | 0x19 => (ab, if m = 2 then [] else [d])
  | 0x1A => cvtUses n h (nth tags a .b32)
  | 0x1B => if m = 0 then (ab, [d]) else if m = 1 then (d :: ab, [d]) else ([a], upFrom d (if m = 2 then 2 else 4))
  | 0x1D => if m = 0 then (two a, two d) else if m = 1 then ([a], [d]) else (ab, if (nth tags a .b32).elemBits = 16 then two d else [d])
  | 0x21 => access true (two a) 1
  | 0x22 => access true (two a) 2
  | 0x23 => access true (two a) 4
  | 0x24 => access false (two a) 1
  | 0x25 => access false (two a) 2
  | 0x26 => access false (two a) 4
  | 0x27 => access true [a] 1
  | 0x28 => access false [a] 1
  | 0x29 => access true [a] 4
  | 0x2A => access false [a] 4
  | 0x2D => access true (two a ++ two (h.readsC n)) (if slice n 8 4 = 6 then 5 else 9)
  | 0x2E => access false (two a ++ two (h.readsC n)) (if slice n 8 4 = 6 then 5 else 9)
  | 0x2F => (two a, [])
  | 0x30 => (if a = 127 then [] else [a], [d])
  | 0x32 => (d :: two a, [])
  | 0x39 => if slice n 5 3 = 0 then ([a], []) else ([], [d])
  | _ => ([], [])

end Sys2Proof.Machine
end

