-- ==== Sys2Proof/Machine/Mapper.lean ====
section
/-! DEFINITION. The loop mapper's tables (07_mapper.md R162 to R173). A mapped thread's instructions have the effect they have by fetch
(R162), so what the model keeps is what shows: heat, refusals, configurations with the threads inside them, and the counters. -/

namespace Sys2Proof.Machine

/-! ### Invalidation (R170) -/

/-- What a candidate's configuration would be, as far as an event of R170 asks: its body's pages, where a translation of them is held. -/
def State.asConfig (s : State) (h : Heat) : MapConfig :=
  let vs := upFrom (va57 h.head / 4096) (va57 h.back / 4096 + 1 - va57 h.head / 4096)
  let asid := (s.ctx h.ctx).asid
  let phys (v : Nat) : List Nat :=
    (s.tlb.filter fun e => e.asid == asid && decide (e.base ≤ v * 4096) && decide (v * 4096 < e.base + e.size)).map fun e => e.phys (v * 4096) / 4096
  { ctx := h.ctx, head := h.head, back := h.back, span := 0, part := 0, pages := (vs.flatMap phys).dedup, vpages := vs }

/-- A core without the configurations that p names, counted as R173 says, their threads leaving; and without the candidates under analysis that
`cold` names, which are cold again (R166). -/
def Core.dropConfigs (c : Core) (p : MapConfig → Bool) (cold : Heat → Bool := fun _ => false) : Core :=
  let gone := c.configs.filter p
  { c with
    configs := c.configs.filter (fun m => !p m)
    heat := c.heat.filter fun h => !(h.candidate && cold h)
    counters := { c.counters with
      inval := c.counters.inval + w32 gone.length
      exitPreempt := c.counters.exitPreempt + w32 ((gone.map (·.inside.length)).foldl (· + ·) 0) } }

/-- Threads leave their configurations: each completes its obligations before it issues again (R167). -/
def State.leave (s : State) (ks : List Nat) : State := ks.foldl (fun s k => s.updThread k fun t => { t with leaving := true }) s

/-- The threads inside the configurations that p names. -/
def State.insideOf (s : State) (p : Nat → MapConfig → Bool) : List Nat :=
  (upFrom 0 s.cores.length).flatMap fun i => ((s.core i).configs.filter (p i)).flatMap fun m => m.inside.map (·.1)

/-- Every core without the configurations, and the heads under analysis, that p names; a state with neither is left as it is. -/
def State.dropConfigs (s : State) (p : Nat → MapConfig → Bool) : State :=
  if s.cores.all fun c => c.configs.isEmpty && c.heat.all (!·.candidate) then s
  else ({ s with cores := (upFrom 0 s.cores.length).map fun i => (s.core i).dropConfigs (p i) fun h => p i (s.asConfig h) }).leave (s.insideOf p)

/-- The back edges noted at BRAs that `p` names, by context and address, are no longer known: their words may have changed (R163). -/
def State.forgetBacks (s : State) (p : Nat → DWord → Bool) : State :=
  if s.cores.all fun c => c.backs.isEmpty then s
  else { s with cores := s.cores.map fun (c : Core) => { c with backs := c.backs.filter fun b => !p b.1 b.2.2 } }

/-- Does a word of a context lie in some physical bytes, by a translation that is held? -/
def State.wordIn (s : State) (ctx : Nat) (a : DWord) (pas : List Nat) : Bool :=
  s.tlb.any fun e => e.asid == (s.ctx ctx).asid && decide (e.base ≤ va57 a) && decide (va57 a < e.base + e.size)
    && pas.any fun x => decide (e.phys (va57 a) ≤ x) && decide (x < e.phys (va57 a) + 4)

/-- A write by any agent reaches the physical pages of these bytes (R170). -/
def State.codeWritten (s : State) (pas : List Nat) : State :=
  (s.forgetBacks fun ctx a => s.wordIn ctx a pas).dropConfigs fun _ m => m.pages.any fun p => pas.any fun a => a / 4096 == p

/-- The context's configurations on one core, or on every core. -/
def State.dropOn (s : State) (ctx core : Nat) : State := s.dropConfigs fun i m => i == core && m.ctx == ctx
def State.dropAll (s : State) (ctx : Nat) : State := s.dropConfigs fun _ m => m.ctx == ctx

/-! ### Heat and candidates (R163, R164) -/

/-- A context whose mapping is off, or that forbids the head, keeps it cold (R166, R171, R172). -/
def Ctx.mapsHead (c : Ctx) (head : DWord) : Bool :=
  !bitAt c.mapctl.toNat 0 && !bitAt c.mapctl.toNat 2 && !c.forbid.contains head

/-- A heat entry with what has passed until now: its count is cleared each 65,536 ac from its allocation (R164). -/
def Heat.at_ (h : Heat) (now : DWord) : Heat :=
  let n := (now - h.since).toNat / 65536
  if n = 0 then h else { h with count := 0, since := h.since + w64 (65536 * n) }

/-- A core's mapper tables as they stand now: counts cleared in time, refused heads gone after 2^20 ac (R164, R165). -/
def Core.aged (c : Core) (now : DWord) : Core :=
  { c with
    heat := c.heat.map (·.at_ now)
    refused := c.refused.filter fun r => decide ((now - r.since).toNat < 2 ^ 20) }

/-- The place of the lowest count among the warm entries, none where all are under analysis; of equal counts, the first in the table.
(DESIGN CHOICE: log entry 93.) -/
def lowestHeat (l : List Heat) : Option Nat :=
  let warm := (upFrom 0 l.length).filter fun i => (l[i]?).any fun h => !h.candidate
  warm.find? fun i => warm.all fun j => decide (((l[i]?).map (·.count)).getD 0 ≤ ((l[j]?).map (·.count)).getD 0)

/-- The table with an entry for a head, allocated where it is missing. A head under analysis keeps its entry (R166); where all are, none is allocated. -/
def Core.withHeat (c : Core) (ctx : Nat) (head : DWord) (now : DWord) : Core :=
  if c.heat.any (fun h => h.ctx == ctx && h.head == head) then c
  else
    let e : Heat := { ctx := ctx, head := head, back := head, count := 0, since := now }
    if c.heat.length < 16 then { c with heat := c.heat ++ [e] }
    else match lowestHeat c.heat with
      | some i => { c with heat := updateAt c.heat i (fun _ => e) }
      | none => c

/-- Heads of a context that are forbidden, or whose mapping is off, go cold on every core (R166). -/
def State.chill (s : State) (ctx : Nat) (p : DWord → Bool) : State :=
  { s with cores := s.cores.map fun (c : Core) => { c with heat := c.heat.filter fun h => !(h.ctx == ctx && p h.head) } }

/-- Does the core hold a configuration of a head; has it refused the head? -/
def Core.holds (c : Core) (ctx : Nat) (head : DWord) : Bool := c.configs.any fun m => m.ctx == ctx && m.head == head
def Core.refuses (c : Core) (ctx : Nat) (head : DWord) : Bool := c.refused.any fun r => r.ctx == ctx && r.head == head

/-- The back edge of a head: the BRA with a negative offset at the highest address that has transferred to it (R163). -/
def Core.backOf (c : Core) (ctx : Nat) (head : DWord) : DWord := ((c.backs.find? fun b => b.1 == ctx && b.2.1 == head).map (·.2.2)).getD head

/-- A BRA with a negative offset at `back` has transferred to a head; where it stands above the back edge so far, it defines the loop, and a
configuration of the shorter body is no longer one of this loop.
(DEDUCED: log entry 14.) -/
def State.noteBack (s : State) (core ctx : Nat) (head back : DWord) : State :=
  let c := s.core core
  if back.toNat ≤ (c.backOf ctx head).toNat then s
  else (s.updCore core fun c => { c with backs := c.backs.filter (fun b => !(b.1 == ctx && b.2.1 == head)) ++ [(ctx, head, back)] }).dropConfigs
    fun i m => i == core && m.ctx == ctx && m.head == head

/-- The threads of a context resident on a core whose PC lies within a body. -/
def State.inBody (s : State) (ctx core : Nat) (head back : DWord) : Nat :=
  (s.threads.filter fun t =>
    (s.ens t.ens).ctx == ctx && (s.ens t.ens).phase == .resident && (s.troupe t.troupe).core == core && t.status != .exited
      && decide (head.toNat ≤ t.pc.toNat) && decide (t.pc.toNat ≤ back.toNat)).length

/-- The retirement of a taken BRA with a negative offset at `from_`, to `head`: a thread more in the head's count, which may make it a candidate.
Only warm and cold heads gather heat (R164, R166).
(DEDUCED: log entry 14.) -/
def State.heatUp (s : State) (w : Who) (head from_ : DWord) : State :=
  let core := w.tr.core
  let s0 := (s.noteBack core w.cI head from_).updCore core (·.aged s.clock)
  let c0 := s0.core core
  if !w.c.mapsHead head || c0.holds w.cI head || c0.refuses w.cI head then s0
  else
    let back := c0.backOf w.cI head
    let limit := 2 ^ (slice w.c.mapctl.toNat 8 4 + 8)
    let hinted := c0.hinted.contains (w.cI, head)
    let up (h : Heat) : Heat :=
      if h.ctx == w.cI && h.head == head then
        let reached := decide (h.count < limit) && decide (limit ≤ h.count + 1) && decide (64 ≤ s0.inBody w.cI core head back)
        if h.candidate then { h with count := h.count + 1, back := back }
        else { h with count := h.count + 1, back := back, candidate := reached || hinted, part := w.t.part, tags := w.t.regs.map (·.tag) }
      else h
    s0.updCore core fun c =>
      let c1 := c.withHeat w.cI head s.clock
      { c1 with heat := c1.heat.map up, hinted := c1.hinted.filter (· != (w.cI, head)) }

/-! ### Analysis (R165, R166) -/

/-- Is a word a clause header or a hint? -/
def isHeaderOrHint (n : Nat) : Bool := decide (n / 2 ^ 26 < 2)

/-- The sub-code of a CTRL word. -/
def ctrlSub (n : Nat) : Option Nat := if n / 2 ^ 26 = 4 then some (slice n 5 7) else none

/-- The words of a body with the hints that each of its instructions executes under. -/
def withHints (h : HintLatch) : List (Nat × Nat) → List (Nat × Nat × HintLatch)
  | [] => []
  | x :: r =>
    if x.2 / 2 ^ 26 = 1 then withHints (h.take x.2) r
    else (x.1, x.2, h) :: withHints {} r

/-- The registers live at the start of a body, and at each of its words: read there or later before an unguarded word writes them. A transfer out of
the body ends the search (R165 row 9, R168). `tags` are those with which the loop went round when it became a candidate.
(DEDUCED: log entry 14.) -/
def liveAt (tags : List Tag) : List (Nat × Nat × HintLatch) → List Nat × List (Nat × List Nat)
  | [] => ([], [])
  | x :: r =>
    let z := liveAt tags r
    let sure := wordGuard x.2.1 == 7 && !x.2.2.ng
    let after : List Nat :=
      if x.2.1 / 2 ^ 26 = 2 then
        let dest : Int := (x.1 : Int) + 4 * signed x.2.1 23
        let there := ((z.2.find? fun y => (y.1 : Int) == dest).map (·.2)).getD []
        if sure then there else (there ++ z.1).dedup
      else z.1
    let u := wordUses x.2.1 x.2.2 tags
    let live := (u.1 ++ after.filter fun n => !(sure && u.2.contains n)).dedup
    (live, (x.1, live) :: z.2)

def liveRegs (tags : List Tag) (words : List (Nat × Nat)) : List Nat := (liveAt tags (withHints {} words)).1

/-- The first row of R165 that applies to a body, by its words and their addresses; none where it is not refused. -/
def refusalCode (spanCode : Nat) (head : Nat) (tags : List Tag) (words : List (Nat × Nat)) : Option Nat :=
  let body := words.filter fun x => !isHeaderOrHint x.2
  let major (x : Nat × Nat) : Nat := x.2 / 2 ^ 26
  let sub (x : Nat × Nat) (l : List Nat) : Bool := match ctrlSub x.2 with
    | some n => l.contains n
    | none => false
  let limit := match spanCode with
    | 0 => 64 | 1 => 32 | _ => 16
  let back := (words.getLast?.map (·.1)).getD head
  let negBra (x : Nat × Nat) : Bool := major x == 2 && bitAt x.2 22
  let target (x : Nat × Nat) : Int := (x.1 : Int) + 4 * signed x.2 23
  let memOp (x : Nat × Nat) : Bool :=
    (decide (0x21 ≤ major x) && decide (major x ≤ 0x37)) || [0x3B, 0x3C, 0x3D].contains (major x)
      || (major x == 0x39 && decide (slice x.2 5 3 < 3))
  if limit < body.length then some 1
  else if body.any fun x => major x == 3 || sub x [1, 2, 3] then some 2
  else if body.any fun x => [0x1E, 0x1F, 0x20, 0x3A].contains (major x) || sub x [4, 5, 14] then some 3
  else if body.any fun x => [0x3B, 0x3C, 0x3D].contains (major x) then some 4
  else if body.any fun x => major x == 0x3E then some 5
  else if (words.any fun x => major x == 1 && slice x.2 24 2 == 1 && slice x.2 15 2 != 0)
      || body.any fun x => [0x35, 0x31, 0x33, 0x34].contains (major x) then some 6
  else if body.any fun x => sub x [6, 7, 9, 10, 11, 12, 13] || [0x2B, 0x2C, 0x36, 0x37, 0x38].contains (major x)
      || (major x == 0x39 && slice x.2 5 3 == 3) || (major x == 0x2F && slice x.2 5 7 != 0) then some 7
  else if decide (8 < (body.filter memOp).length) then some 8
  else if decide (32 < (liveRegs tags words).length) then some 9
  else if body.any fun x => negBra x && x.1 != back && decide ((head : Int) ≤ target x) && decide (target x ≤ (back : Int)) then some 11
  else none

/-- The addresses, words and physical pages of a body; none where a page has no execute translation at hand.
(DESIGN CHOICE: log entry 93.) -/
def State.bodyOf (s : State) (asid : BitVec 16) (core : Nat) (head back : DWord) : Option (List (Nat × Nat) × List Nat) :=
  let n := (back.toNat - head.toNat) / 4 + 1
  let one (i : Nat) : Option ((Nat × Nat) × Nat) :=
    let a := head.toNat + 4 * i
    match s.pageCheck asid core (a % 2 ^ 57) { exec := true } with
    | .ok e =>
      let p := e.phys (a % 2 ^ 57)
      some ((a, s.readNat (upFrom p 4)), p)
    | .error _ => none
  ((upFrom 0 n).mapM one).map fun l => (l.map (·.1), l.map (·.2))

/-- A refusal: the table keeps 64 heads, the oldest goes; a refused head has no heat entry (R165, R166, R173). A tag exit of an installed
configuration, code 10, counts among the candidates refused as well.
(DESIGN CHOICE: log entry 93.) -/
def Core.refuse (c : Core) (ctx : Nat) (head : DWord) (code : Nat) (now : DWord) : Core :=
  let c0 := c.aged now
  let e : RefusedHead := { ctx := ctx, head := head, code := code, since := now }
  { c0 with
    refused := (if c0.refused.length < 64 then c0.refused else c0.refused.drop 1) ++ [e]
    heat := c0.heat.filter fun h => !(h.ctx == ctx && h.head == head)
    counters := { c0.counters with refuse := c0.counters.refuse + 1, lastRef := BitVec.ofNat 8 code } }

/-- An installation; of four configurations the least recently entered one, which stands first, is evicted. Where one that no thread has entered
stands among the others the reference does not say; it takes the place it is given (R166).
(DESIGN CHOICE: log entry 93.) -/
def Core.install (c : Core) (place : Nat) (m : MapConfig) : Core :=
  let c1 := if c.configs.length < 4 then c else c.dropConfigs (fun x => c.configs.head? == some x)
  { c1 with
    configs := c1.configs.take place ++ m :: c1.configs.drop place
    heat := c1.heat.filter fun h => !(h.ctx == m.ctx && h.head == m.head)
    counters := { c1.counters with install := c1.counters.install + 1 } }

/-- The span of a body (R166). -/
def spanOf (n : Nat) : Nat := if n ≤ 16 then 1 else if n ≤ 32 then 2 else 4

/-- Analysis of a candidate ends: it is refused or installed. Where a page of the body has no execute translation at hand, or the link must bring
some of it first, the candidate waits and a later turn tries again.
(DESIGN CHOICE: log entry 93; DEDUCED: log entry 14.) -/
def execMapperAnalysis (core ctx : Nat) (head : DWord) (place : Nat) (s : State) : Outcome :=
  let c := s.ctx ctx
  match (s.core core).heat.find? (fun h => h.ctx == ctx && h.head == head && h.candidate) with
  | none => .next s
  | some h =>
    if !c.mapsHead head then .next (s.updCore core fun co => { co with heat := co.heat.filter fun x => !(x.ctx == ctx && x.head == head) })
    else match s.bodyOf c.asid core head h.back with
      | none => .next s
      | some b =>
        if !s.allReadable b.2 then .next (s.acquireAll b.2 false { ctx := ctx })
        else match refusalCode (slice c.mapctl.toNat 4 2) head.toNat h.tags b.1 with
        | some code => .next (s.updCore core fun co => co.refuse ctx head code s.clock)
        | none =>
          let n := (b.1.filter fun x => !isHeaderOrHint x.2).length
          .next ((s.leave (((s.core core).configs.take ((s.core core).configs.length - 3)).flatMap fun m => m.inside.map (·.1))).updCore core
            fun co => co.install place { ctx := ctx, head := head, back := h.back, span := spanOf n, part := h.part, live := maskOf (liveRegs h.tags b.1)
                                         pages := (b.2.map (· / 4096)).dedup, vpages := (b.1.map (·.1 % 2 ^ 57 / 4096)).dedup })

/-! ### Entering and leaving (R163, R166 to R168) -/

/-- Does a configuration serve a thread at a head? -/
def MapConfig.serves (m : MapConfig) (w : Who) (head : DWord) : Bool :=
  m.ctx == w.cI && m.head == head && decide ((w.t.part + 4 - m.part) % 4 < m.span)

/-- A thread that issues a head's header enters the configuration that serves it, which becomes the last entered; a context whose mapping is off
enters none (R171).
(DEDUCED: log entry 14.) -/
def State.enterConfig (s : State) (w : Who) : State :=
  match (s.core w.tr.core).configs.find? (·.serves w w.t.pc) with
  | none => s
  | some m =>
    if !w.c.mapsHead w.t.pc then s
    else s.updCore w.tr.core fun c => { c with configs := (c.configs.filter (· != m)) ++
      [if m.inside.any (·.1 == w.k) then m else { m with inside := m.inside ++ [(w.k, w.t.regs.map (·.tag))] }] }

/-- The configuration that holds a thread. -/
def Core.configOf (c : Core) (k : Nat) : Option MapConfig := c.configs.find? fun m => m.inside.any (·.1 == k)

/-- What a thread's turn in a configuration came to (R163, R167, R168, R173): its state before and after.
(DEDUCED: log entry 14.) -/
def State.configTurn (s : State) (w : Who) : State :=
  match (s.core w.tr.core).configOf w.k with
  | none => s
  | some m =>
    let t := s.thread w.k
    let out (f : MapperCounters → MapperCounters) : State := (s.leave [w.k]).updCore w.tr.core fun c => { c with
      configs := c.configs.map fun x => if x = m then { x with inside := x.inside.filter (·.1 != w.k) } else x
      counters := f c.counters }
    let stopped := match t.status with
      | .ready => t.inHandler != w.t.inHandler
      | .parked .queue _ => true
      | .stalled _ _ => true
      | .trapping _ _ _ _ => true
      | _ => false
    if stopped then out fun n => { n with exitFault := n.exitFault + 1 }
    else if t.pc = w.t.pc then s
    else if w.t.pc = m.back && t.pc = m.head then
      let entered := ((m.inside.find? (·.1 == w.k)).map (·.2)).getD []
      let changed := (onesOf m.live 128).any fun r => (t.reg r).tag != nth entered r (t.reg r).tag
      if changed then
        let s1 := out fun n => { n with iter := n.iter + 1, exitFault := n.exitFault + 1 }
        let tagged (x : MapConfig) : Bool := x.ctx == m.ctx && x.head == m.head
        (s1.dropConfigs fun i x => i == w.tr.core && tagged x).updCore w.tr.core (·.refuse m.ctx m.head 10 s.clock)
      else s.updCore w.tr.core fun c => { c with counters := { c.counters with iter := c.counters.iter + 1 } }
    else if w.t.pc = m.back then out fun n => { n with iter := n.iter + 1, exitEnd := n.exitEnd + 1 }
    else if t.pc.toNat < m.head.toNat || m.back.toNat < t.pc.toNat then out fun n => { n with exitSide := n.exitSide + 1 }
    else s

/-! ### MAP.HINT and MAP.OFF (R172) -/

/-- The head address, checked. -/
def headOperand (t : Thread) (a : RegField) : Except Stop (Thread × DWord) := do
  let x ← t.fetch [] [rd2 a [.b32]]
  let h := w64 (x.n 0)
  checkTarget h
  .ok (x.t, h)

def execMapHint (a : RegField) (g : PredField) (s : State) : Outcome :=
  runWord s g fun w => do
    let r ← headOperand w.t a
    let s1 := s.setThread w.k r.1
    .ok (if bitAt w.c.mapctl.toNat 0 || bitAt w.c.mapctl.toNat 1 then s1
      else s1.updCore w.tr.core fun c => { c with
        refused := c.refused.filter fun x => !(x.ctx == w.cI && x.head == r.2)
        hinted := if w.c.mapsHead r.2 && !c.holds w.cI r.2 && !c.hinted.contains (w.cI, r.2) then c.hinted ++ [(w.cI, r.2)] else c.hinted })

/-- Does an address head a loop, as far as the device can tell: has a BRA been taken back to it, or does a page of code, of which a TLB holds a
translation, have one (R163, R172)?
(DESIGN CHOICE: log entry 93.) -/
def State.headsLoop (s : State) (ctx : Nat) (head : DWord) : Bool :=
  (s.cores.any fun c => c.backs.any fun b => b.1 == ctx && b.2.1 == head)
  || s.tlb.any fun e => e.exec && e.asid == (s.ctx ctx).asid && (upFrom 0 (e.size / 4)).any fun i =>
      let n := s.readNat (upFrom (e.frame + 4 * i) 4)
      n / 2 ^ 26 == 2 && bitAt n 22 && decide ((head.toNat % 2 ^ 57 : Int) = ((e.base + 4 * i : Nat) : Int) + 4 * signed n 23)

/-- MAP.OFF. An address that heads no loop has no effect. A seventeenth head sets FULL, from when the context maps nothing (R171, R172).
(DEDUCED: log entry 14; DESIGN CHOICE: log entry 93.) -/
def execMapOff (a : RegField) (g : PredField) (s : State) : Outcome :=
  runWord s g fun w => do
    let r ← headOperand w.t a
    let s1 := s.setThread w.k r.1
    if r.2 = 0 then
      -- the list is emptied and FULL cleared; configurations of the heads it named are invalid (R170)
      .ok ((s1.dropConfigs fun _ m => m.ctx == w.cI && w.c.forbid.contains m.head).updCtx w.cI fun c =>
        { c with forbid := [], mapctl := c.mapctl &&& ~~~(4#32) })
    else if !s.headsLoop w.cI r.2 then .ok s1
    else if w.c.forbid.contains r.2 || decide (w.c.forbid.length < 16) then
      .ok (((s1.dropConfigs fun _ m => m.ctx == w.cI && m.head == r.2).chill w.cI (· == r.2)).updCtx w.cI fun c =>
        { c with forbid := if c.forbid.contains r.2 then c.forbid else c.forbid ++ [r.2] })
    else .ok (((s1.dropAll w.cI).chill w.cI fun _ => true).updCtx w.cI fun c => { c with mapctl := c.mapctl ||| 4#32 })

/-! ### Timed events and the counter block (R164, R165, R173) -/

/-- The instants at which the count of a head is cleared, and at which a refused head leaves its table: both tables are read as they stand at the
time (`Core.aged`), so that nothing depends on these turns. -/
def execHeatEntryClear (core : Nat) (head : DWord) (s : State) : Outcome :=
  .next (s.updCore core fun c => { c with heat := c.heat.map fun h => if h.head == head then h.at_ s.clock else h })
def execRefusalExpiry (core : Nat) (head : DWord) (s : State) : Outcome :=
  .next (s.updCore core fun c => { c with refused := c.refused.filter fun r => !(r.head == head && decide (2 ^ 20 ≤ (s.clock - r.since).toNat)) })

/-- What a read of the counter block finds at an offset; res0 bits, and CLEAR, which is write-only, read zero (R173). -/
def MapperCounters.read (c : MapperCounters) (off : Nat) : Word :=
  match off / 4 with
  | 0 => c.install | 1 => c.refuse | 2 => c.iter | 3 => c.exitEnd | 4 => c.exitSide | 5 => c.exitFault | 6 => c.exitPreempt | 7 => c.inval
  | 8 => w32 c.lastRef.toNat
  | _ => 0

end Sys2Proof.Machine
end

