-- ==== Sys2Proof/Machine/Rendezvous.lean ====
section
/-! DEFINITION. The rendezvous of a crew (06_control.md R137 to R139). -/

namespace Sys2Proof.Machine

/-- The threads of a crew: lanes with their places, ascending. -/
def State.crewOf (s : State) (tr : Troupe) (crew : Nat) : List (Nat × Nat) :=
  ((upFrom (16 * crew) 16).filterMap fun tid => (tr.threads[tid]?).map fun k => (tid % 16, k)).filter fun x => decide (x.2 < s.threads.length)

/-- The mask that a thread parked at a rendezvous named (R137); none where it is not parked at one. -/
def Thread.arrivalMask (t : Thread) : Option Nat :=
  match t.status with
  | .arrived _ m => some (m.toNat % 65536)
  | _ => none

/-- All that the arrivals of one rendezvous must agree on. -/
def Thread.arrivalKey (t : Thread) : Option DWord :=
  match t.status with
  | .arrived _ m => some m
  | _ => none

/-- Do the arrivals at an instruction meet by pixel quad: four lanes from a multiple of 4 (R304, R307, R310)? -/
def isQuadWord (i : Instr) : Bool :=
  match i with
  | .deriv _ _ _ _ | .imst _ _ _ | .tex _ _ _ _ => true
  | _ => false

/-- Is a thread, parked in a lane, at a rendezvous that another lane of the crew takes part in? -/
def Thread.sharesWith (t : Thread) (own lane : Nat) : Bool :=
  match t.status with
  | .arrived i _ => !isQuadWord i || own / 4 == lane / 4
  | _ => false

/-- The lanes of a crew parked at the rendezvous at a PC that a lane takes part in. -/
def State.arrivals (s : State) (crew : List (Nat × Nat)) (pc : DWord) (lane : Nat) : List (Nat × Nat) :=
  crew.filter fun x => (s.thread x.2).sharesWith x.1 lane && (s.thread x.2).pc == pc

/-- The lanes of a crew that have not exited, as a mask. -/
def State.liveMask (s : State) (crew : List (Nat × Nat)) : Nat :=
  maskOf ((crew.filter fun x => (s.thread x.2).status != .exited).map (·.1))

/-- The cause of a failed rendezvous, by its instruction (R138). -/
def rendezvousCause (i : Instr) : Cause :=
  match i with
  | .split _ _ _ | .join _ _ => .joinMismatch
  | _ => .collectiveMask

/-- SPLIT alone accepts exited threads (R138, R140). -/
def isSplitWord (i : Instr) : Bool :=
  match i with
  | .split _ _ _ => true
  | _ => false

/-- Every thread parked at the rendezvous at a PC that a lane takes part in traps, with the set that had arrived and the mask it named (R138).
(DEDUCED: log entry 87.) -/
def State.failAtPc (s : State) (crew : List (Nat × Nat)) (pc : DWord) (lane : Nat) : State :=
  let arr := s.arrivals crew pc lane
  let set := maskOf (arr.map (·.1))
  arr.foldl (fun s x =>
    let t := s.thread x.2
    match t.status with
    | .arrived i m => s.takeTrap x.2 (rendezvousCause i) pc 0 (w64 (set + m.toNat % 65536 * 65536))
    | _ => s) s

/-- The PCs of the crew's pending rendezvous that name a lane. -/
def State.pcsNaming (s : State) (crew : List (Nat × Nat)) (lane : Nat) : List DWord :=
  (crew.filterMap fun x => match (s.thread x.2).arrivalMask with
    | some m => if bitAt m lane then some (s.thread x.2).pc else none
    | none => none).dedup

/-- The arrival of thread w at a rendezvous, its operands checked (R137, R138): m is its mask, with whatever else the arrivals must agree
on above bit 15. `done` is what happens to the arrivals when the last of them arrives.
(DEDUCED: log entry 87.) -/
def State.meet (s : State) (w : Who) (i : Instr) (m : DWord) (done : List (Nat × Nat) → State → State) : State :=
  let crew := s.crewOf w.tr w.t.crew
  let mask := m.toNat % 65536
  let lane := w.t.lane
  let s1 := s.updThread w.k fun t => { t with status := .arrived i m }
  let here := s1.arrivals crew w.t.pc lane
  -- other pending rendezvous that this arrival makes fail: those that name it, and those where a thread that it names is parked (condition 5)
  let elsewhere := ((((s.pcsNaming crew lane).map fun pc => (pc, lane)) ++ (crew.filterMap fun x =>
      if bitAt mask x.1 && (s.thread x.2).arrivalMask.isSome then some ((s.thread x.2).pc, x.1) else none)).filter (·.1 != w.t.pc)).dedup
  let ownClear := !bitAt mask lane
  let beyond := (onesOf mask 16).any fun l => !(crew.any fun x => x.1 == l)
  let gone := !isSplitWord i && (crew.any fun x => bitAt mask x.1 && (s.thread x.2).status == .exited)
  let differ := here.any fun x => (s1.thread x.2).arrivalKey != some m
  if ownClear || beyond || gone || differ || !elsewhere.isEmpty then
    ((w.t.pc, lane) :: elsewhere).foldl (fun s x => s.failAtPc crew x.1 x.2) s1
  else if crew.all fun x => !bitAt mask x.1 || (here.any fun y => y.1 == x.1) || (s.thread x.2).status == .exited then
    done here s1
  else s1

/-- A rendezvous whose arrivals all leave when it completes. -/
def State.arrive (s : State) (w : Who) (i : Instr) (m : Word) (done : List (Nat × Nat) → State → State) : State :=
  s.meet w i (w64 (m.toNat % 65536)) fun here s1 => here.foldl (fun s x => s.retire x.2 (s1.thread x.2)) (done here s1)

/-- A thread passes a rendezvous instruction with a false guard: the arrivals there that name it fail (R138 condition 4). -/
def State.passBy (s : State) (w : Who) : State :=
  let crew := s.crewOf w.tr w.t.crew
  if (s.arrivals crew w.t.pc w.t.lane).any fun x => match (s.thread x.2).arrivalMask with
      | some m => bitAt m w.t.lane
      | none => false
  then s.failAtPc crew w.t.pc w.t.lane else s

/-- The meaning of a rendezvous instruction: its operands are checked at the arrival, and its mask is register `mask`. -/
def runRendezvous (s : State) (i : Instr) (g : PredField) (mask : RegField) (check : Thread → Except Stop Unit)
    (done : List (Nat × Nat) → State → State) : Outcome :=
  match s.whoOf s.cur with
  | none => .fault .unlinkedState
  | some w =>
    if w.t.guard g then
      match check w.t with
      | .ok _ => .next (s.arrive w i (w.t.reg mask.toNat).val done)
      | .error e => .next (s.stopped w e)
    else .next ((s.passBy w).retire w.k w.t)

/-- Operands that an arrival checks; these instructions raise no floating-point flag (R141). -/
def Thread.checked (t : Thread) (dsts : List Grp) (srcs : List Src) : Except Stop Unit := (t.fetchQuiet dsts srcs).map fun _ => ()

/-- The state after each arrival's own registers are written from values read before any of them (R141). -/
def writeEach (arr : List (Nat × Nat)) (f : Nat × Nat → Thread → Thread) (s : State) : State :=
  arr.foldl (fun s x => s.updThread x.2 (f x)) s

end Sys2Proof.Machine
end

