-- ==== Sys2Proof/Machine/Control.lean ====
section
/-! DEFINITION. Transfers, the call stack, SPLIT and JOIN, the collectives, and NOP, YIELD and SLEEP (06_control.md R126 to R144). -/

namespace Sys2Proof.Machine

/-! ### The call stack (R127) -/

/-- push(v): 8 bytes at sr.rsp - 8, .RLX at .TH; the overflow check comes before the address causes. -/
def State.push (s : State) (w : Who) (v : DWord) : Except Stop State := do
  if w.t.rsp.toNat < w.t.rsl.toNat + 8 then fail .callStackOverflow else .ok ()
  let a := w.t.rsp - 8
  let p ← s.checkGlobal w a 8 8 { write := true }
  .ok (s.addStore w { w.t with rsp := a } { seq := 0, bytes := storeOf p.locs (toBytes v.toNat 8), scope := .th })

/-- pop(): the 8 bytes at sr.rsp, and the state that has read them; sr.rsp itself moves only with the instruction's other effects. -/
def State.pop (s : State) (w : Who) : Except Stop (State × DWord) := do
  if w.t.stackTop.toNat ≤ w.t.rsp.toNat then fail .callStackUnderflow else .ok ()
  let p ← s.checkGlobal w w.t.rsp 8 8 { read := true }
  let r ← s.readNow w p.locs
  .ok (r.1, w64 (ofBytes r.2))

/-- The target of a B-form word (R27, R135). -/
def branchTarget (pc : DWord) (o : BitVec 23) : DWord := w64 (wrap ((pc.toNat : Int) + 4 * o.toInt) 64)

def execBra (g : PredField) (o : BitVec 23) (s : State) : Outcome :=
  runJump s g fun w => do
    let tgt := branchTarget w.t.pc o
    checkTarget tgt
    -- the loop mapper counts a taken BRA with a negative offset (R164)
    .ok ((if o.msb then s.heatUp w tgt w.t.pc else s).updThread w.k (·.jump tgt))

def execCall (g : PredField) (o : BitVec 23) (s : State) : Outcome :=
  runJump s g fun w => do
    let tgt := branchTarget w.t.pc o
    checkTarget tgt
    let s' ← s.push w (w.t.pc + 4)
    .ok (s'.updThread w.k (·.jump tgt))

def execRet (g : PredField) (s : State) : Outcome :=
  runJump s g fun w => do
    let r ← s.pop w
    checkTarget r.2
    .ok (r.1.updThread w.k fun t => { t.jump r.2 with rsp := t.rsp + 8 })

/-! ### Permitted-target tables (R60, R136) -/

/-- A read of n bytes of a table: translation, read permission, then the bytes, through the L1 as any load (R187). It matches no watchpoint: R345
names these reads neither among the accesses that match nor among those that do not.
(DESIGN CHOICE: log entry 95.) -/
def State.readTable (s : State) (w : Who) (a : DWord) (n : Nat) : Except Stop (State × Nat) := do
  let p ← s.checkGlobal w a n 1 { read := true } false
  let r ← s.readNow w p.locs
  .ok (r.1, ofBytes r.2)

/-- What the device has found in the entries that it has read. -/
structure TableSearch where
  found  : Bool := false
  sorted : Bool := true
  last   : Option Nat := none
  deriving DecidableEq, Repr

/-- The next of n entries from `a`: the search ends at the one that holds the target, or goes on over all of them where the device so chooses; it
may read any subset that decides (R136).
(DEDUCED: log entry 69.) -/
def State.searchTable (w : Who) (tgt : DWord) (all : Bool) : Nat → State → DWord → TableSearch → Except Stop (State × TableSearch)
  | 0, s, _, x => .ok (s, x)
  | n + 1, s, a, x => do
    let r ← s.readTable w a 8
    let x' : TableSearch :=
      { found := x.found || r.2 == tgt.toNat, last := some r.2
        sorted := x.sorted && match x.last with
          | some l => decide (l < r.2)
          | none => true }
    if x'.found && !all then .ok (r.1, x') else State.searchTable w tgt all n r.1 (a + 8) x'

/-- What a transfer through a table has found: the thread, the target, the reconvergence PC, and the state that has read the table. -/
structure TableHit where
  s      : State
  t      : Thread
  tgt    : DWord
  reconv : DWord

/-- The checks of BRX and CALLX: target, table address, table, content. Where the entries that the device has read do not ascend, it may refuse a
listed target (R60).
(DEDUCED: log entry 69.) -/
def State.tableTarget (s : State) (w : Who) (d a : RegField) : Except Stop TableHit := do
  let x ← w.t.fetch [] [rd2 a [.b32], rd2 d [.b32]]
  let tgt := w64 (x.n 0)
  let tab := w64 (x.n 1)
  checkTarget tgt
  checkForm tab 16 16
  let hdr ← s.readTable w tab 16
  if slice hdr.2 80 48 != 0 || slice hdr.2 64 16 = 0 then fail .targetNotPermitted else .ok ()
  let may := Config.choice s.moves
  let r ← State.searchTable w tgt (bitAt may 0) (slice hdr.2 64 16) hdr.1 (tab + 16) {}
  if r.2.found && (r.2.sorted || !bitAt may 1) then .ok ⟨r.1, x.t, tgt, w64 hdr.2⟩ else fail .targetNotPermitted

/-- BRX and CALLX of one thread: its regroup point names itself; of a bundle's, the bundle's threads are put in its place (R132). -/
def execBrx (d a : RegField) (g : PredField) (s : State) : Outcome :=
  runJump s g fun w => do
    let r ← s.tableTarget w d a
    .ok (r.s.setThread w.k { r.t.jump r.tgt with regroup := some (r.reconv, [w.k], none) })

def execCallx (d a : RegField) (g : PredField) (s : State) : Outcome :=
  runJump s g fun w => do
    let r ← s.tableTarget w d a
    let s' ← (r.s.setThread w.k r.t).push { w with t := r.t } (w.t.pc + 4)
    .ok (s'.updThread w.k fun t => { t.jump r.tgt with regroup := some (r.reconv, [w.k], none) })

/-! ### SPLIT and JOIN (R140) -/

/-- SPLIT's effect on its arrivals: the mask register's low half becomes the named threads still alive. -/
def splitDone (d a : RegField) (arr : List (Nat × Nat)) (s : State) : State :=
  match arr with
  | [] => s
  | x0 :: _ =>
    let t0 := s.thread x0.2
    let live := s.liveMask (s.crewOf (s.troupe t0.troupe) t0.crew)
    writeEach arr (fun _ t => match t.status with
      | .arrived _ m => t.setReg d.toNat (w32 ((t.reg a.toNat).val.toNat / 65536 * 65536 + (m.toNat % 65536 &&& live))) .b32
      | _ => t) s

def execSplit (d a : RegField) (g : PredField) (s : State) : Outcome :=
  runRendezvous s (.split d a g) g a (fun t => t.checked [wr1 d] [rd1 a []]) (splitDone d a)

def execJoin (a : RegField) (g : PredField) (s : State) : Outcome :=
  runRendezvous s (.join a g) g a (fun t => t.checked [] [rd1 a []]) (fun _ s => s)

/-! ### Collectives (R141) -/

/-- A single register of a thread read with the tags it accepts, converted at the port where R72 says so. -/
def Thread.port1 (t : Thread) (n : Nat) (want : List Tag) : Reg := (portRead false want (t.reg n)).get

/-- The lane that SHFL takes its value from, by mode: PICK, ROTL, ROTR, SWAP. -/
def shuffleLane (mode i : Nat) (b : Word) : Nat :=
  let w := 16 / 2 ^ slice b.toNat 20 2
  let base := i - i % w
  let k := slice b.toNat 16 4 % w
  match mode with
  | 0 => base + k
  | 1 => base + (i % w + k) % w
  | 2 => base + (i % w + w - k) % w
  | _ => i ^^^ k

def shuffleDone (mode : Nat) (d a b : RegField) (arr : List (Nat × Nat)) (s : State) : State :=
  writeEach arr (fun x t =>
    let j := shuffleLane mode x.1 (t.reg b.toNat).val
    let src := match arr.find? (fun y => y.1 == j) with
      | some y => (s.thread y.2).reg a.toNat
      | none => t.reg a.toNat
    t.setReg d.toNat src.val src.tag) s

/-- SHFL: `mode` as above. -/
def runShuffle (mode : Nat) (i : Instr) (d a b : RegField) (g : PredField) (s : State) : Outcome :=
  runRendezvous s i g b (fun t => t.checked [wr1 d] [rd1 a [], rd1 b []]) (shuffleDone mode d a b)

def execShflPick (d a b : RegField) (g : PredField) (s : State) : Outcome := runShuffle 0 (.shflPick d a b g) d a b g s
def execShflRotl (d a b : RegField) (g : PredField) (s : State) : Outcome := runShuffle 1 (.shflRotl d a b g) d a b g s
def execShflRotr (d a b : RegField) (g : PredField) (s : State) : Outcome := runShuffle 2 (.shflRotr d a b g) d a b g s
def execShflSwap (d a b : RegField) (g : PredField) (s : State) : Outcome := runShuffle 3 (.shflSwap d a b g) d a b g s

/-- The mask of the contributors whose predicate is true. -/
def ballot (j : PredField) (arr : List (Nat × Nat)) (s : State) : Nat :=
  maskOf ((arr.filter fun x => (s.thread x.2).pred j.toNat).map (·.1))

def execVoteAll (k j : PredField) (b : RegField) (g : PredField) (s : State) : Outcome :=
  runRendezvous s (.voteAll k j b g) g b (fun t => t.checked [] [rd1 b []]) fun arr s =>
    writeEach arr (fun _ t => t.setPred k.toNat (arr.all fun x => (s.thread x.2).pred j.toNat)) s

def execVoteAny (k j : PredField) (b : RegField) (g : PredField) (s : State) : Outcome :=
  runRendezvous s (.voteAny k j b g) g b (fun t => t.checked [] [rd1 b []]) fun arr s =>
    writeEach arr (fun _ t => t.setPred k.toNat (arr.any fun x => (s.thread x.2).pred j.toNat)) s

def execVoteBallot (d : RegField) (j : PredField) (b : RegField) (g : PredField) (s : State) : Outcome :=
  runRendezvous s (.voteBallot d j b g) g b (fun t => t.checked [wr1 d] [rd1 b []]) fun arr s =>
    writeEach arr (fun _ t => t.setReg d.toNat (w32 (ballot j arr s)) .b32) s

def execVoteMatch (d a b : RegField) (g : PredField) (s : State) : Outcome :=
  runRendezvous s (.voteMatch d a b g) g b (fun t => t.checked [wr1 d] [rd1 a [], rd1 b []]) fun arr s =>
    writeEach arr (fun _ t => t.setReg d.toNat
      (w32 (maskOf ((arr.filter fun y => ((s.thread y.2).reg a.toNat).val == (t.reg a.toNat).val).map (·.1)))) .b32) s

/-- REDUX: one value from every contributor's x[a], which expects the tags given; a conversion at the port raises no flag (R141). -/
def runRedux (i : Instr) (want : List Tag) (f : HintLatch → List Word → Word) (d a b : RegField) (g : PredField) (s : State) : Outcome :=
  runRendezvous s i g b (fun t => t.checked [wr1 d] [rd1 a want, rd1 b []]) fun arr s =>
    let vs := arr.map fun x => ((s.thread x.2).port1 a.toNat want).val
    writeEach arr (fun _ t => t.setReg d.toNat (f t.hints vs) .b32) s

def execReduxAdd (d a b : RegField) (g : PredField) (s : State) : Outcome :=
  runRedux (.reduxAdd d a b g) [.b32] (fun h vs => satInt' h vs) d a b g s
where
  /-- The exact sum, signed or unsigned as .SAT reads it (R91). -/
  satInt' (h : HintLatch) (vs : List Word) : Word :=
    let us : Int := vs.foldl (fun (e : Int) v => e + (v.toNat : Int)) 0
    let ss : Int := vs.foldl (fun (e : Int) v => e + v.toInt) 0
    if h.sat && h.sx then w32 (wrap (clampInt ss (-2147483648) 2147483647) 32)
    else if h.sat then w32 (wrap (clampInt us 0 4294967295) 32)
    else w32 (wrap us 32)

def execReduxMin (d a b : RegField) (g : PredField) (s : State) : Outcome :=
  runRedux (.reduxMin d a b g) [.b32] (fun _ vs => vs.foldl (fun m v => if v.slt m then v else m) 0x7FFFFFFF) d a b g s
def execReduxMax (d a b : RegField) (g : PredField) (s : State) : Outcome :=
  runRedux (.reduxMax d a b g) [.b32] (fun _ vs => vs.foldl (fun m v => if m.slt v then v else m) 0x80000000) d a b g s
def execReduxOr (d a b : RegField) (g : PredField) (s : State) : Outcome :=
  runRedux (.reduxOr d a b g) [] (fun _ vs => vs.foldl (· ||| ·) 0) d a b g s

def execElect (k : PredField) (a : RegField) (g : PredField) (s : State) : Outcome :=
  runRendezvous s (.elect k a g) g a (fun t => t.checked [] [rd1 a []]) fun arr s =>
    writeEach arr (fun x t => t.setPred k.toNat (arr.all fun y => decide (x.1 ≤ y.1))) s

/-! ### NOP, YIELD and SLEEP (R144) -/

def execNop (g : PredField) (s : State) : Outcome := runThread s g .ok

/-- A completed word after which its thread is not a candidate in the next ac; a longer issue gap stands. -/
def State.yieldNext (s : State) (w : Who) : State :=
  (s.retire w.k w.t).updThread w.k fun t => { t with gapUntil := some (s.clock + w64 (max 2 w.t.hints.gap)) }

/-- YIELD ends a persisting bundle, whose persistence is timing alone (R130; log entry 10), and its thread is not a candidate in the next ac.
(DEDUCED: log entry 10.) -/
def execYield (g : PredField) (s : State) : Outcome :=
  match s.whoOf s.cur with
  | none => .fault .unlinkedState
  | some w => .next (if w.t.guard g then s.yieldNext w else s.retire w.k w.t)

/-- SLEEP: not ready for at least n ac (R144); n = 0 acts as YIELD. The thread completes the word and then sleeps. -/
def execSleep (a : RegField) (g : PredField) (s : State) : Outcome :=
  match s.whoOf s.cur with
  | none => .fault .unlinkedState
  | some w =>
    if w.t.guard g then
      match w.t.fetch [] [rd1 a [.b32]] with
      | .ok x =>
        let n := (x.v 0).toNat
        let s' := (s.setThread w.k x.t).retire w.k w.t
        -- with a single step armed the thread goes to its handler instead
        .next (if n = 0 then (s.setThread w.k x.t).yieldNext w
          else if (s'.thread w.k).status != .ready || (s'.thread w.k).inHandler != w.t.inHandler then s'
          else s'.updThread w.k fun t => { t with status := .sleeping (s.clock + w64 n) })
      | .error e => .next (s.stopped w e)
    else .next (s.retire w.k w.t)

end Sys2Proof.Machine
end

