-- ==== Sys2Proof/Machine/Loads.lean ====
section
/-! DEFINITION. Loads, stores, full/empty accesses, MX blocks and cache maintenance (08_memory.md R174 to R193). A load is bound, and a store
reaches its visibility point, in a turn of its own (R198; Machine/Order.lean). -/

namespace Sys2Proof.Machine

/-! ### Shapes -/

/-- The offset of form M, in access sizes: off5, or the 29-bit offset of HINT.IMM (R44, R179). -/
def Thread.memOffset (t : Thread) (o : BitVec 5) : Int :=
  match t.hints.imm with
  | some p => signed (p.toNat * 32 + o.toNat) 29
  | none => o.toInt

/-- pair(base) + offset × z modulo 2^64 (R183). -/
def globalAddr (base : Nat) (off : Int) (z : Nat) : DWord := w64 (wrap ((base : Int) + off * z) 64)
/-- x[base] + offset × z modulo 2^32 (R183). -/
def scratchAddr (base : Nat) (off : Int) (z : Nat) : Nat := wrap ((base : Int) + off * z) 32

/-- R73: the types a major admits, by its registers and whether it takes the narrow types 13 to 15. -/
def typeAdmitted (type n : Nat) (narrow : Bool) : Bool :=
  decide (type ≤ 10) || (n == 4 && (type == 11 || type == 12)) || (narrow && decide (13 ≤ type))

/-- The scope of a scratch access: .DV and .SY are performed as .EN (R182). -/
def scratchScope (sc : Scope) : Scope :=
  match sc with
  | .dv => .en | .sy => .en | x => x

/-- Adds a load of the executing thread, and its "a" obligation (R37). `const` is a load of the constant space. -/
def State.issueLoad (s : State) (w : Who) (t : Thread) (p : Placed) (form : LoadForm) (sc : Scope) (const : Bool := false) : Except Stop State :=
  (t.raiseFlags [t.fa]).map fun t' =>
    s.setThread w.k (t'.pushLoad
      { seq := 0, locs := p.locs, order := if const then .rlx else t.hints.order, scope := sc, form := form, flag := t.fa, const := const, born := s.moves })

/-- Adds a store of the executing thread, and its "b" obligation; until it is met the data registers may be read again (R37, R39).
(DEDUCED: log entry 8.) -/
def State.issueStore (s : State) (w : Who) (t : Thread) (p : PendingStore) : Except Stop State :=
  (t.owe { flag := t.fb, stores := [t.seq] }).map fun t' => s.addStore w t' p

/-- The data registers of a store of a type: the words read of a group at base (R39, R73). -/
def dataOf (type base : Nat) (ws : List Word) : Option DataSource :=
  some { type := type, regs := (upFrom base ws.length).map (·, storeTags type), words := ws }

/-- A global load of n registers (R183). -/
def loadGlobal (n : Nat) (d b : RegField) (ty : BitVec 4) (o : BitVec 5) (s : State) (w : Who) : Except Stop State := do
  let type := ty.toNat
  require (typeAdmitted type n (n == 1)) .formatUnsupported
  let x ← w.t.fetch [⟨d.toNat, n, n⟩] [rd2 b [.b32]]
  let z := typeBytes type n
  let p ← s.checkGlobal w (globalAddr (x.n 0) (w.t.memOffset o) z) z (typeAlign type n) { read := true }
  s.issueLoad w x.t p { type := type, dst := d.toNat, count := n } w.t.hints.scope

/-- A global store of n registers. -/
def storeGlobal (n : Nat) (d b : RegField) (ty : BitVec 4) (o : BitVec 5) (s : State) (w : Who) : Except Stop State := do
  let type := ty.toNat
  require (typeAdmitted type n false) .formatUnsupported
  let x ← w.t.fetch [] [rd2 b [.b32], .regs d.toNat n n (storeTags type)]
  let z := typeBytes type n
  let p ← s.checkGlobal w (globalAddr (x.n 0) (w.t.memOffset o) z) z (typeAlign type n) { write := true }
  s.issueStore w x.t { seq := 0, bytes := storeOf p.locs (storeBytes type (x.ws 1)), order := w.t.hints.order, scope := w.t.hints.scope
                       src := dataOf type d.toNat (x.ws 1) }

/-- A scratch load of n registers. -/
def loadScratch (n : Nat) (d b : RegField) (ty : BitVec 4) (o : BitVec 5) (s : State) (w : Who) : Except Stop State := do
  let type := ty.toNat
  require (typeAdmitted type n (n == 1)) .formatUnsupported
  let x ← w.t.fetch [⟨d.toNat, n, n⟩] [rd1 b [.b32]]
  let z := typeBytes type n
  let l ← s.checkScratch w (scratchAddr (x.n 0) (w.t.memOffset o) z) z (typeAlign type n)
  s.issueLoad w x.t { locs := scratchLocs l.1 l.2 z } { type := type, dst := d.toNat, count := n } (scratchScope w.t.hints.scope)

/-- A scratch store of n registers. -/
def storeScratch (n : Nat) (d b : RegField) (ty : BitVec 4) (o : BitVec 5) (s : State) (w : Who) : Except Stop State := do
  let type := ty.toNat
  require (typeAdmitted type n false) .formatUnsupported
  let x ← w.t.fetch [] [rd1 b [.b32], .regs d.toNat n n (storeTags type)]
  let z := typeBytes type n
  let l ← s.checkScratch w (scratchAddr (x.n 0) (w.t.memOffset o) z) z (typeAlign type n)
  s.issueStore w x.t { seq := 0, bytes := storeOf (scratchLocs l.1 l.2 z) (storeBytes type (x.ws 1)), order := w.t.hints.order
                       scope := scratchScope w.t.hints.scope, src := dataOf type d.toNat (x.ws 1) }

def execLd (d b : RegField) (t : BitVec 4) (o : BitVec 5) (g : PredField) (s : State) : Outcome := runWord s g (loadGlobal 1 d b t o s)
def execLdw (d b : RegField) (t : BitVec 4) (o : BitVec 5) (g : PredField) (s : State) : Outcome := runWord s g (loadGlobal 2 d b t o s)
def execLdq (d b : RegField) (t : BitVec 4) (o : BitVec 5) (g : PredField) (s : State) : Outcome := runWord s g (loadGlobal 4 d b t o s)
def execSt (d b : RegField) (t : BitVec 4) (o : BitVec 5) (g : PredField) (s : State) : Outcome := runWord s g (storeGlobal 1 d b t o s)
def execStw (d b : RegField) (t : BitVec 4) (o : BitVec 5) (g : PredField) (s : State) : Outcome := runWord s g (storeGlobal 2 d b t o s)
def execStq (d b : RegField) (t : BitVec 4) (o : BitVec 5) (g : PredField) (s : State) : Outcome := runWord s g (storeGlobal 4 d b t o s)
def execLds (d b : RegField) (t : BitVec 4) (o : BitVec 5) (g : PredField) (s : State) : Outcome := runWord s g (loadScratch 1 d b t o s)
def execSts (d b : RegField) (t : BitVec 4) (o : BitVec 5) (g : PredField) (s : State) : Outcome := runWord s g (storeScratch 1 d b t o s)
def execLdsq (d b : RegField) (t : BitVec 4) (o : BitVec 5) (g : PredField) (s : State) : Outcome := runWord s g (loadScratch 4 d b t o s)
def execStsq (d b : RegField) (t : BitVec 4) (o : BitVec 5) (g : PredField) (s : State) : Outcome := runWord s g (storeScratch 4 d b t o s)

/-! ### The constant space (R177) -/

/-- A field of a launch packet or descriptor: byte offset, low bit, width. -/
def fieldOf {n : Nat} (b : BitVec n) (off lo w : Nat) : Nat := slice b.toNat (8 * off + lo) w

/-- Region base and limit of a constant-space address, from the packet that shapes the ensemble (R177, R270). -/
def constRegion (packet : BitVec 1024) (c : Nat) : Nat × Nat :=
  match c / 2 ^ 28 with
  | 0 => (fieldOf packet 8 0 64, fieldOf packet 24 0 32)
  | 1 => (fieldOf packet 16 0 64, fieldOf packet 28 0 32)
  | _ => (0, 0)

/-- LDC: the alignment of the constant-space address, its region, then the checks of R188 on the global address. It takes no part in ordering and
reads through the caches whatever the page's policy (R177, R196). -/
def execLdc (d b : RegField) (ty : BitVec 4) (o : BitVec 5) (g : PredField) (s : State) : Outcome :=
  runWord s g fun w => do
    let type := ty.toNat
    require (typeAdmitted type 1 true) .formatUnsupported
    -- base 127 names no register and reads as zero
    let x ← w.t.fetch [wr1 d] [if b.toNat = 127 then .imm 0 .b32 else rd1 b [.b32]]
    let z := typeBytes type 1
    let c := scratchAddr (x.n 0) (w.t.memOffset o) z
    if c % typeAlign type 1 != 0 then failAt .misaligned c else .ok ()
    let r := constRegion w.e.packet c
    if r.2 < c % 2 ^ 28 + z then failAt .permissionRead c else .ok ()
    let p ← s.checkGlobal w (w64 r.1 + w64 (c % 2 ^ 28)) z (typeAlign type 1) { read := true }
    s.issueLoad w x.t { locs := p.locs.map fun l => { l with policy := .wb } } { type := type, dst := d.toNat, count := 1 } .th true

/-! ### Full/empty accesses (R185, R186) -/

/-- The lowest places in the order of R159: a thread that parked earlier at the same granule goes first, then the lower sr.tid.
(DEDUCED: log entry 32.) -/
def State.feFirst (s : State) (w : Who) (granule : Nat) : Bool :=
  let since (t : Thread) : Option DWord := match t.status with
    | .parked (.fullEmpty g) n => if g = granule then some n else none
    | _ => none
  let mine := (since w.t).getD s.clock
  !((upFrom 0 s.threads.length).any fun k =>
    let t := s.thread k
    k != w.k && t.ens == w.t.ens && match since t with
      | some n => decide (n < mine) || (n == mine && (since w.t).isNone)
          || (n == mine && (decide (t.tid < w.t.tid) || (t.tid == w.t.tid && decide (t.troupe < w.t.troupe))))
      | none => false)

/-- LDFE: parks until the granule is full; the read, and under .C the emptying, are one step; an acquire at .EN. -/
def loadFullEmpty (clear : Bool) (d b : RegField) (o : BitVec 5) (s : State) (w : Who) : Except Stop State := do
  let x ← w.t.fetch [wr4 d] [rd1 b [.b32]]
  let l ← s.checkScratch w (scratchAddr (x.n 0) (w.t.memOffset o) 16) 16 16
  let granule := l.1 * 2 ^ 26 + l.2 / 16
  if !(s.troupe l.1).isFull l.2 || !s.feFirst w granule then .error (.park (.fullEmpty granule)) else .ok ()
  let ls := scratchLocs l.1 l.2 16
  -- the thread's accesses to one place keep program order (R201)
  if w.t.stores.any (fun p => p.setFull && p.touches ls) then .error (.park .drain) else .ok ()
  let r ← s.readNow w ls
  let t' ← x.t.oweRegs d.toNat (toWords (ofBytes r.2) 4) .b32
  let s' := r.1.setThread w.k { t' with acqStamp := r.1.stamp + 1 }
  .ok (if clear then s'.updTroupe l.1 fun tr => tr.setFullBit l.2 false else s')

def execLdfeK (d b : RegField) (o : BitVec 5) (g : PredField) (s : State) : Outcome := runWord s g (loadFullEmpty false d b o s)
def execLdfeC (d b : RegField) (o : BitVec 5) (g : PredField) (s : State) : Outcome := runWord s g (loadFullEmpty true d b o s)

/-- STFE: 16 bytes and the full bit in one step; a release at .EN; never parks. -/
def execStfe (d b : RegField) (o : BitVec 5) (g : PredField) (s : State) : Outcome :=
  runWord s g fun w => do
    let x ← w.t.fetch [] [rd1 b [.b32], rd4 d []]
    let l ← s.checkScratch w (scratchAddr (x.n 0) (w.t.memOffset o) 16) 16 16
    s.issueStore w x.t { seq := 0, bytes := storeOf (scratchLocs l.1 l.2 16) (toBytes (x.n 1) 16), order := .rel, scope := .en, setFull := true
                         src := dataOf 0 d.toNat (x.ws 1) }

/-! ### MX blocks (R76, R180) -/

/-- The group size and element bytes of an MX type; none for the types R50 does not admit. -/
def mxShape (type : Nat) : Option (Nat × Nat) :=
  match type with
  | 4 | 5 | 7 => some (8, 32)
  | 6 => some (4, 16)
  | _ => none

/-- The checked places of a block and of its scale: canonical form of both, the block's alignment, translation and permission of the block and then
of the scale, write tracking when every page has passed (R180, R188), and the lowest watchpoint of the two ranges (R345). Each byte is reached under
its own page's policy.
(DESIGN CHOICE: log entry 98; DEDUCED: log entry 71.) -/
def mxPlaces (s : State) (w : Who) (elems scale : DWord) (bytes : Nat) (u : Use) : Except Stop Placed := do
  checkForm elems bytes 1
  checkForm scale 1 1
  checkForm elems bytes bytes .mxSplit
  let _ ← s.translate w (va57 elems) bytes u false
  let _ ← s.translate w (va57 scale) 1 u false
  let e ← s.translate w (va57 elems) bytes u
  let c ← s.translate w (va57 scale) 1 u
  w.watchAll [(elems.toNat, bytes), (scale.toNat, 1)] u.read u.write
  .ok { locs := e ++ c }

def execLdmx (d b : RegField) (ty : BitVec 4) (o : BitVec 5) (g : PredField) (s : State) : Outcome :=
  runWord s g fun w => do
    match mxShape ty.toNat with
    | none => fail .formatUnsupported
    | some (grp, z) =>
      let x ← w.t.fetch [⟨d.toNat, grp, grp⟩, ⟨d.toNat + grp, 1, 1⟩] [rd2 b [.b32], .regs (w.t.hints.cReg.getD 0) 2 2 [.b32]]
      let p ← mxPlaces s w (globalAddr (x.n 0) (w.t.memOffset o) z) (w64 (x.n 1)) z { read := true }
      s.issueLoad w x.t p { type := ty.toNat, dst := d.toNat, count := grp, scale := true } w.t.hints.scope

def execStmx (d b : RegField) (ty : BitVec 4) (o : BitVec 5) (g : PredField) (s : State) : Outcome :=
  runWord s g fun w => do
    match mxShape ty.toNat with
    | none => fail .formatUnsupported
    | some (grp, z) =>
      let x ← w.t.fetch [] [rd2 b [.b32], .regs (w.t.hints.cReg.getD 0) 2 2 [.b32], .regs d.toNat grp grp [Tag.ofCode ty.toNat],
        .regs (d.toNat + grp) 1 1 [.e8m0x4]]
      let p ← mxPlaces s w (globalAddr (x.n 0) (w.t.memOffset o) z) (w64 (x.n 1)) z { write := true }
      s.issueStore w x.t { seq := 0, bytes := storeOf p.locs (toBytes (x.n 2) z ++ toBytes (x.n 3) 1), order := w.t.hints.order,
                           scope := w.t.hints.scope, mx := true
                           src := some { regs := (upFrom d.toNat grp).map (·, [Tag.ofCode ty.toNat]) ++ [(d.toNat + grp, [.e8m0x4])]
                                         words := x.ws 2 ++ x.ws 3 } }

/-! ### Cache maintenance (R193) -/

/-- Writes a unit's dirty copy back: to the memory island's home at once, the copy staying clean; to the host die's by a WbM, with which an M or O copy
leaves (R364) and after whose completion the L2 asks for the unit again, so that it holds a copy as before (R193). -/
def State.cleanUnit (s : State) (unit : Nat) (ctx : Option Nat := none) (keep : Bool := true) : State :=
  match s.l2 unit with
  | none => s
  | some l =>
    if !l.dirty then s
    else if hostHomed (unit * 64) || s.homeOpen unit then s.evictUnit unit ctx keep
    else
      let s1 := s.setMemUnit unit (granuleBytes l.stored) l.data
      { s1 with link := { s1.link with lines := s1.link.lines.map fun x => if x.unit == unit then
          { x with stored := 0, state := if x.state = .m then .e else .s } else x } }

/-- Invalidates a unit's granules in one core's L1.
(DESIGN CHOICE: log entry 12.) -/
def State.invL1 (s : State) (core unit : Nat) : State :=
  s.updCore core fun c => { c with l1 := c.l1.filter fun l => l.granule / 4 != unit }

/-- Cleans a unit and drops it from the core's L1 and the L2. -/
def State.flushUnit (s : State) (core unit : Nat) (ctx : Option Nat := none) : State :=
  (((s.cleanUnit unit ctx false).invL1 core unit).evictUnit unit ctx).slcDrop unit

/-- An operation on one unit: 0 INV, 1 CLN, 2 FLUSH.
(DESIGN CHOICE: log entry 12.) -/
def State.unitOp (s : State) (op core unit : Nat) (ctx : Option Nat := none) : State :=
  match op with
  | 0 => s.invL1 core unit
  | 1 => s.cleanUnit unit ctx
  | _ => s.flushUnit core unit ctx

/-- The units of a range, each with its read permission checked in ascending order, at its lowest byte in the range; the thread's own stores to them
come first (R201), and so does a request of the L2 that is on its way for one of them, or a transaction that is open at its home on the memory island. The
"b" obligation ends when every write-back has completed.
(DEDUCED: log entry 71.) -/
def maintain (op : Nat) (ranges : List (DWord × Nat)) (t : Thread) (s : State) (w : Who) : Except Stop State := do
  let pas ← ranges.mapM fun r => do
    let p ← s.checkGlobal w r.1 r.2 1 { read := true } false
    .ok p.locs
  let units := pas.map fun ls => (ls.headD {}).addr / 64
  if w.t.stores.any (fun p => units.any fun u => p.pas.any fun a => a / 64 == u) then .error (.park .drain) else .ok ()
  if op != 0 && units.any (fun u => s.asked u [0, 1, 2] || (!hostHomed (u * 64) && s.homeOpen u)) then .error (.park .drain) else .ok ()
  let t' ← t.owe { flag := t.fb, units := if op = 0 then [] else units }
  .ok (units.foldl (fun s u => s.unitOp op w.tr.core u (some w.cI)) (s.setThread w.k t'))

/-- PREF fetches the block of its address into the named level where a translation of a WB page is at hand: an access that writes no register and takes
no part in ordering, whose end meets its "b" obligation. It never faults; where it is cancelled, the obligation is met all the same (R193). -/
def execPref (a : RegField) (g : PredField) (m : BitVec 2) (s : State) : Outcome :=
  runWord s g fun w => do
    let x ← w.t.fetch [] [rd2 a [.b32]]
    let addr := w64 (x.n 0)
    match canonical addr, s.pageCheck w.c.asid w.tr.core (va57 addr) { read := true } with
    | true, .ok e =>
      if e.policy != .wb then (x.t.owe { flag := w.t.fb }).map (s.setThread w.k ·)
      else (x.t.raiseFlags [w.t.fb]).map fun t => s.setThread w.k (t.pushLoad
        { seq := 0, locs := [{ addr := e.phys (va57 addr), va := va57 addr }], form := { type := 0, dst := 0, count := 0, level := some m.toNat }
          flag := w.t.fb, const := true, born := s.moves })
    | _, _ => (x.t.owe { flag := w.t.fb }).map (s.setThread w.k ·)

def execCctlInv (g : PredField) (s : State) : Outcome :=
  runWord s g fun w => (w.t.owe { flag := w.t.fb }).map fun t =>
    (s.setThread w.k t).updCore w.tr.core fun c => { c with l1 := [] }

/-- The address of CLN and FLUSH names its unit; a cause is reported at that address. -/
def maintainOne (op : Nat) (a : RegField) (s : State) (w : Who) : Except Stop State := do
  let x ← w.t.fetch [] [rd2 a [.b32]]
  maintain op [(w64 (x.n 0), 1)] x.t s w

def execCctlCln (a : RegField) (g : PredField) (s : State) : Outcome := runWord s g (maintainOne 1 a s)
def execCctlFlush (a : RegField) (g : PredField) (s : State) : Outcome := runWord s g (maintainOne 2 a s)

/-- The range of n bytes from an address, cut at unit boundaries: each part with its first address and length. -/
def unitRanges (a : DWord) : Nat → Nat → List (DWord × Nat)
  | 0, _ => []
  | _ + 1, 0 => []
  | k + 1, n => let len := min n (64 - a.toNat % 64); (a, len) :: unitRanges (a + w64 len) k (n - len)

def execCctlRange (d a : RegField) (g : PredField) (m : BitVec 2) (s : State) : Outcome :=
  runWord s g fun w => do
    let x ← w.t.fetch [] [rd2 a [.b32], rd1 d [.b32]]
    let n := x.n 1
    -- a range that leaves the canonical half fails at its first non-canonical byte
    maintain m.toNat (unitRanges (w64 (x.n 0)) (n / 64 + 2) n) x.t s w

end Sys2Proof.Machine
end

