-- ==== Sys2Proof/Machine/Flags.lean ====
section
/-! DEFINITION. What instructions compute beside their results: sr.carry (R92, R94), the integer conditions (R102), the floating-point
conditions and classes (R117, R119), and .SAT on integers (R91). -/

namespace Sys2Proof.Machine

/-- V: the exact signed result lies outside the 32-bit range (R92). -/
def overflows (ss : Int) : Bool := decide (ss < -2147483648) || decide (2147483647 < ss)

/-- sr.carry from C and the exact signed result (R92). -/
def carryWord (c : Bool) (ss : Int) : Word := w32 ((if overflows ss then 2 else 0) + (if c then 1 else 0))

/-- .SAT, or the value modulo 2^32 (R91, R94): `us` and `ss` are the exact unsigned and signed results. -/
def satInt (h : HintLatch) (us ss : Int) : Word :=
  if h.sat && h.sx then w32 (wrap (clampInt ss (-2147483648) 2147483647) 32)
  else if h.sat then w32 (wrap (clampInt us 0 4294967295) 32)
  else w32 (wrap us 32)

/-- The integer conditions of R102; `uns` makes LT, LE, GT and GE unsigned. -/
def intCond (c : Nat) (uns : Bool) (a b : Word) : Bool :=
  match c with
  | 0 => a == b
  | 1 => a != b
  | 2 => if uns then a.ult b else a.slt b
  | 3 => if uns then a.ule b else a.sle b
  | 4 => if uns then b.ult a else b.slt a
  | 5 => if uns then b.ule a else b.sle a
  | 6 => a.ult b
  | 7 => a.ule b
  | 8 => b.ult a
  | 9 => b.ule a
  | 10 => a &&& b != 0
  | _ => a &&& b == 0

/-- The floating-point conditions of R117. -/
def floatCond (c : Nat) (a b : FVal) : Bool :=
  let un := a.isNaN || b.isNaN
  match c with
  | 0 => !un && a.eq b
  | 1 => un || !a.eq b
  | 2 => !un && a.lt b
  | 3 => !un && (a.lt b || a.eq b)
  | 4 => !un && b.lt a
  | 5 => !un && (b.lt a || a.eq b)
  | 6 => !un
  | 7 => un
  | 8 => un || a.eq b
  | 9 => un || a.lt b
  | 10 => un || a.lt b || a.eq b
  | 11 => un || b.lt a
  | 12 => un || b.lt a || a.eq b
  | _ => !un && !a.eq b

/-- class(A) of R119, of an F32 value; a value below 2^-126 is subnormal. -/
def floatClass (v : FVal) : Nat :=
  match v with
  | .nan true => 1
  | .nan false => 2
  | .inf true => 4
  | .inf false => 512
  | .num n m _ =>
    let sub := decide (m < 2 ^ 23)
    match n, m with
    | true, 0 => 32
    | false, 0 => 64
    | true, _ => if sub then 16 else 8
    | false, _ => if sub then 128 else 256

end Sys2Proof.Machine
end

