-- ==== Sys2Proof/Machine/Integer.lean ====
section
/-! DEFINITION. The integer and address instructions (04_integer.md, R89 to R105). -/

namespace Sys2Proof.Machine

/-! ### Shapes -/

/-- Two B32 operands under their modifiers (R90, R91), and a B32 result. -/
def intBinary (d a b : RegField) (f : HintLatch → Word → Word → Word) (t : Thread) : Except Stop Thread :=
  (t.fetch [wr1 d] [rd1 a [.b32], t.bOperand b [.b32]]).map fun x =>
    x.t.setReg d.toNat (f t.hints (modInt t.hints.na t.hints.aa (x.v 0)) (modInt t.hints.nb t.hints.ab (x.v 1))) .b32

/-- The additions and the subtraction of R94, which write sr.carry: `f` gives the exact unsigned and signed results and C. -/
def addBody (d : RegField) (srcB : Src) (a : RegField) (f : Nat → Nat → Int → Int → Int × Int × Bool) (t : Thread) : Except Stop Thread :=
  (t.fetch [wr1 d] [rd1 a [.b32], srcB]).map fun x =>
    let ua := modInt t.hints.na t.hints.aa (x.v 0)
    let ub := modInt t.hints.nb t.hints.ab (x.v 1)
    let r := f ua.toNat ub.toNat ua.toInt ub.toInt
    { x.t.setReg d.toNat (satInt t.hints r.1 r.2.1) .b32 with carry := carryWord r.2.2 r.2.1 }

/-- Raw operands; AND, OR, XOR and ANDN give the tag of operand a, the others B32 (R71, R90). -/
def rawBinary (d a b : RegField) (keepTag : Bool) (f : Word → Word → Word) (t : Thread) : Except Stop Thread :=
  (t.fetch [wr1 d] [rd1 a [], t.bOperand b []]).map fun x =>
    x.t.setReg d.toNat (f (x.v 0) (x.v 1)) (if keepTag then (x.r 0).tag else .b32)

/-- One raw operand and a function of it. -/
def rawUnary (d a : RegField) (keepTag : Bool) (f : Word → Word) (t : Thread) : Except Stop Thread :=
  (t.fetch [wr1 d] [rd1 a []]).map fun x => x.t.setReg d.toNat (f (x.v 0)) (if keepTag then (x.r 0).tag else .b32)

/-- The three ways a compare writes its predicate (R103, R118). -/
inductive PredMode where
  | set | and | or
  deriving DecidableEq, Repr

def PredMode.apply (m : PredMode) (old r : Bool) : Bool :=
  match m with
  | .set => r | .and => old && r | .or => old || r

/-- An integer compare (R103). -/
def intCompare (k : PredField) (c : BitVec 4) (a b : RegField) (uns : Bool) (m : PredMode) (t : Thread) : Except Stop Thread :=
  (t.fetch [] [rd1 a [.b32], t.bOperand b [.b32]]).map fun x =>
    let r := intCond c.toNat uns (modInt t.hints.na t.hints.aa (x.v 0)) (modInt t.hints.nb t.hints.ab (x.v 1))
    x.t.setPred k.toNat (m.apply (t.pred k.toNat) r)

/-- A dot product into x[d] (R105): the view of each operand is its elements' width and signedness. -/
def dotBody (d a b : RegField) (wantA wantB : List Tag) (w n : Nat) (sa sb unsAcc : Bool) (t : Thread) : Except Stop Thread :=
  (t.fetch [wr1 d] [rd1 a wantA, t.bOperand b wantB, rd1 d [.b32]]).map fun x =>
    let view (sg : Bool) (v : Word) (i : Nat) : Int := let e := slice v.toNat (i * w) w; if sg then signed e w else (e : Int)
    let acc : Int := if unsAcc then ((x.v 2).toNat : Int) else (x.v 2).toInt
    let e := (upFrom 0 n).foldl (fun (e : Int) i => e + view sa (x.v 0) i * view sb (x.v 1) i) acc
    let v := if t.hints.sat then (if unsAcc then clampInt e 0 4294967295 else clampInt e (-2147483648) 2147483647) else e
    x.t.setReg d.toNat (w32 (wrap v 32)) .b32

/-! ### Moves and immediates (R93) -/

/-- The immediate of IADDI: sext(imm9, 9), or payload in [31:8] over imm9[7:0] (R44, R93). -/
def Thread.imm9 (t : Thread) (i : BitVec 9) (isSigned : Bool) : Word :=
  match t.hints.imm with
  | some p => w32 (p.toNat * 256 + i.toNat % 256)
  | none => if isSigned then i.signExtend 32 else i.zeroExtend 32

def execMovi (d : RegField) (i : BitVec 16) (g : PredField) (s : State) : Outcome :=
  runThread s g fun t => (t.fetch [wr1 d] []).map fun x =>
    x.t.setReg d.toNat (match t.hints.imm with
      | some p => w32 (p.toNat % 65536 * 65536 + i.toNat)
      | none => i.signExtend 32) .b32

def execMov (d a : RegField) (g : PredField) (s : State) : Outcome := runThread s g (rawUnary d a true id)

def execIaddi (d a : RegField) (i : BitVec 9) (g : PredField) (s : State) : Outcome :=
  runThread s g fun t => addBody d (.imm (t.imm9 i true) .b32) a (fun ua ub sa sb => (ua + ub, sa + sb, decide (2 ^ 32 ≤ ua + ub))) t

def execAndi (d a : RegField) (i : BitVec 9) (g : PredField) (s : State) : Outcome :=
  runThread s g fun t => rawUnary d a true (fun x => x &&& t.imm9 i false) t

def execOri (d a : RegField) (i : BitVec 9) (g : PredField) (s : State) : Outcome :=
  runThread s g fun t => rawUnary d a true (fun x => x ||| t.imm9 i false) t

/-! ### Arithmetic (R94 to R96) -/

def execIadd (d a b : RegField) (g : PredField) (s : State) : Outcome :=
  runThread s g fun t => addBody d (t.bOperand b [.b32]) a (fun ua ub sa sb => (ua + ub, sa + sb, decide (2 ^ 32 ≤ ua + ub))) t

def execIsub (d a b : RegField) (g : PredField) (s : State) : Outcome :=
  runThread s g fun t => addBody d (t.bOperand b [.b32]) a (fun ua ub sa sb => ((ua : Int) - ub, sa - sb, decide (ub ≤ ua))) t

def execIadc (d a b : RegField) (g : PredField) (s : State) : Outcome :=
  runThread s g fun t =>
    let cin := t.carry.toNat % 2
    addBody d (t.bOperand b [.b32]) a (fun ua ub sa sb => ((ua + ub + cin : Nat), sa + sb + cin, decide (2 ^ 32 ≤ ua + ub + cin))) t

def execImul (d a b : RegField) (g : PredField) (s : State) : Outcome :=
  runThread s g (intBinary d a b fun h x y => satInt h (x.toNat * y.toNat : Nat) (x.toInt * y.toInt))

def execImulh (d a b : RegField) (g : PredField) (s : State) : Outcome :=
  runThread s g (intBinary d a b fun h x y =>
    w32 (wrap (if h.sx then x.toInt * y.toInt else (x.toNat * y.toNat : Nat)) 64 / 2 ^ 32))

def execImad (d a b : RegField) (g : PredField) (s : State) : Outcome :=
  runThread s g fun t =>
    (t.fetch [wr1 d] [rd1 a [.b32], t.bOperand b [.b32], rd1 d [.b32]]).map fun x =>
      let ua := modInt t.hints.na t.hints.aa (x.v 0)
      let ub := modInt t.hints.nb t.hints.ab (x.v 1)
      x.t.setReg d.toNat (satInt t.hints (if t.hints.sx then ua.toInt * ub.toInt + (x.v 2).toInt
          else (ua.toNat * ub.toNat + (x.v 2).toNat : Nat)) (ua.toInt * ub.toInt + (x.v 2).toInt)) .b32

def execImadw (d a b : RegField) (g : PredField) (s : State) : Outcome :=
  runThread s g fun t =>
    (t.fetch [wr2 d] [rd1 a [.b32], t.bOperand b [.b32], rd2 d [.b32]]).map fun x =>
      let ua := modInt t.hints.na t.hints.aa (x.v 0)
      let ub := modInt t.hints.nb t.hints.ab (x.v 1)
      let p : Int := if t.hints.sx then ua.toInt * ub.toInt else (ua.toNat * ub.toNat : Nat)
      x.t.setWide d.toNat 2 (wrap (p + (x.n 2 : Int)) 64) .b32

def execLea (d a b : RegField) (g : PredField) (s : State) : Outcome :=
  runThread s g fun t =>
    (t.fetch [wr2 d] [rd2 a [.b32], t.bOperand b [.b32]]).map fun x =>
      let ub := modInt t.hints.nb t.hints.ab (x.v 1)
      let o : Int := (if t.hints.sx then ub.toInt else (ub.toNat : Int)) * (2 ^ t.hints.shf : Nat)
      x.t.setWide d.toNat 2 (wrap ((x.n 0 : Int) + o) 64) .b32

def execImin (d a b : RegField) (g : PredField) (s : State) : Outcome :=
  runThread s g (intBinary d a b fun _ x y => if y.slt x then y else x)
def execIminN (d a b : RegField) (g : PredField) (s : State) : Outcome :=
  runThread s g (intBinary d a b fun _ x y => if y.ult x then y else x)
def execImax (d a b : RegField) (g : PredField) (s : State) : Outcome :=
  runThread s g (intBinary d a b fun _ x y => if x.slt y then y else x)
def execImaxN (d a b : RegField) (g : PredField) (s : State) : Outcome :=
  runThread s g (intBinary d a b fun _ x y => if x.ult y then y else x)

/-! ### Logic, shifts and bit fields (R97 to R101) -/

def execAnd (d a b : RegField) (g : PredField) (s : State) : Outcome := runThread s g (rawBinary d a b true (· &&& ·))
def execOr (d a b : RegField) (g : PredField) (s : State) : Outcome := runThread s g (rawBinary d a b true (· ||| ·))
def execXor (d a b : RegField) (g : PredField) (s : State) : Outcome := runThread s g (rawBinary d a b true (· ^^^ ·))
def execAndn (d a b : RegField) (g : PredField) (s : State) : Outcome := runThread s g (rawBinary d a b true (fun x y => x &&& ~~~y))
def execNot (d a : RegField) (g : PredField) (s : State) : Outcome := runThread s g (rawUnary d a true (fun x => ~~~x))

def execPopc (d a : RegField) (g : PredField) (s : State) : Outcome :=
  runThread s g (rawUnary d a false fun x => w32 (popCount x.toNat 32))
def execClz (d a : RegField) (g : PredField) (s : State) : Outcome :=
  runThread s g (rawUnary d a false fun x => if x = 0 then 32 else w32 (31 - Nat.log2 x.toNat))
def execBrev (d a : RegField) (g : PredField) (s : State) : Outcome :=
  runThread s g (rawUnary d a false fun x => w32 (ofBits (bitList x.toNat 32).reverse))

/-- IABS and INEG (R98): the exact result, clamped at 2^31 - 1 under .SAT. -/
def absNegBody (d a : RegField) (f : Int → Int) (t : Thread) : Except Stop Thread :=
  (t.fetch [wr1 d] [rd1 a [.b32]]).map fun x =>
    let e := f (x.v 0).toInt
    x.t.setReg d.toNat (w32 (wrap (if t.hints.sat then clampInt e (-2147483648) 2147483647 else e) 32)) .b32

def execIabs (d a : RegField) (g : PredField) (s : State) : Outcome := runThread s g (absNegBody d a fun x => x.natAbs)
def execIneg (d a : RegField) (g : PredField) (s : State) : Outcome := runThread s g (absNegBody d a fun x => -x)

/-- The four shifts (R99). -/
def shiftL (x : Word) (n : Nat) : Word := if 32 ≤ n then 0 else w32 (x.toNat * 2 ^ n)
def shiftR (x : Word) (n : Nat) : Word := if 32 ≤ n then 0 else w32 (x.toNat / 2 ^ n)
def shiftA (x : Word) (n : Nat) : Word := w32 (wrap (x.toInt / (2 ^ min n 32 : Nat)) 32)
def rotateL (x : Word) (n : Nat) : Word := w32 (x.toNat * 2 ^ (n % 32) + x.toNat / 2 ^ (32 - n % 32))

def execShl (d a b : RegField) (g : PredField) (s : State) : Outcome := runThread s g (rawBinary d a b false fun x y => shiftL x y.toNat)
def execShr (d a b : RegField) (g : PredField) (s : State) : Outcome := runThread s g (rawBinary d a b false fun x y => shiftR x y.toNat)
def execSar (d a b : RegField) (g : PredField) (s : State) : Outcome := runThread s g (rawBinary d a b false fun x y => shiftA x y.toNat)
def execRot (d a b : RegField) (g : PredField) (s : State) : Outcome := runThread s g (rawBinary d a b false fun x y => rotateL x y.toNat)
def execShiftiShl (d a : RegField) (n : BitVec 5) (g : PredField) (s : State) : Outcome := runThread s g (rawUnary d a false (shiftL · n.toNat))
def execShiftiShr (d a : RegField) (n : BitVec 5) (g : PredField) (s : State) : Outcome := runThread s g (rawUnary d a false (shiftR · n.toNat))
def execShiftiSar (d a : RegField) (n : BitVec 5) (g : PredField) (s : State) : Outcome := runThread s g (rawUnary d a false (shiftA · n.toNat))
def execShiftiRot (d a : RegField) (n : BitVec 5) (g : PredField) (s : State) : Outcome := runThread s g (rawUnary d a false (rotateL · n.toNat))

/-- BFX and BFX.S (R100). -/
def bitField (sg : Bool) (x y : Word) : Word :=
  let pos := slice y.toNat 0 8
  let wid := slice y.toNat 8 8
  let w := min wid (32 - pos)
  if 32 ≤ pos || wid = 0 then 0
  else if sg then w32 (wrap (signed (slice x.toNat pos w) w) 32) else w32 (slice x.toNat pos w)

/-- BFI (R100): `old` with the field replaced. -/
def bitInsert (old x y : Word) : Word :=
  let pos := slice y.toNat 0 8
  let wid := slice y.toNat 8 8
  let w := min wid (32 - pos)
  if 32 ≤ pos || wid = 0 then old else w32 (putSlice old.toNat pos w x.toNat)

def execBfx (d a b : RegField) (g : PredField) (s : State) : Outcome := runThread s g (rawBinary d a b false (bitField false))
def execBfxS (d a b : RegField) (g : PredField) (s : State) : Outcome := runThread s g (rawBinary d a b false (bitField true))
def execBfi (d a b : RegField) (g : PredField) (s : State) : Outcome :=
  runThread s g fun t => (t.fetch [wr1 d] [rd1 a [], t.bOperand b [], rd1 d []]).map fun x =>
    x.t.setReg d.toNat (bitInsert (x.v 2) (x.v 0) (x.v 1)) .b32

def execSel (d a b : RegField) (g : PredField) (s : State) : Outcome :=
  runThread s g fun t =>
    (t.fetch [wr1 d] [rd1 a [], t.bOperand b [], .regs (t.hints.cReg.getD d.toNat) 1 1 []]).map fun x =>
      x.t.setReg d.toNat ((x.v 0 &&& x.v 2) ||| (x.v 1 &&& ~~~(x.v 2))) (if (x.r 0).tag = (x.r 1).tag then (x.r 0).tag else .b32)

/-! ### Compares and predicates (R102 to R104) -/

def execIcmp (k : PredField) (c : BitVec 4) (a b : RegField) (g : PredField) (s : State) : Outcome :=
  runThread s g (intCompare k c a b false .set)
def execIcmpN (k : PredField) (c : BitVec 4) (a b : RegField) (g : PredField) (s : State) : Outcome :=
  runThread s g (intCompare k c a b true .set)
def execIcmpAnd (k : PredField) (c : BitVec 4) (a b : RegField) (g : PredField) (s : State) : Outcome :=
  runThread s g (intCompare k c a b false .and)
def execIcmpOr (k : PredField) (c : BitVec 4) (a b : RegField) (g : PredField) (s : State) : Outcome :=
  runThread s g (intCompare k c a b false .or)

def execPset (k : PredField) (t : BitVec 4) (i j : PredField) (g : PredField) (s : State) : Outcome :=
  runThread s g fun th =>
    .ok (th.setPred k.toNat (bitAt t.toNat ((if th.pred i.toNat then 2 else 0) + (if th.pred j.toNat then 1 else 0))))

def execPtox (d : RegField) (g : PredField) (s : State) : Outcome :=
  runThread s g fun t => (t.fetch [wr1 d] []).map fun x => x.t.setReg d.toNat (w32 (t.preds.toNat + 128)) .b32

def execXtop (a : RegField) (g : PredField) (s : State) : Outcome :=
  runThread s g fun t => (t.fetch [] [rd1 a []]).map fun x => { x.t with preds := BitVec.ofNat 7 (x.v 0).toNat }

/-! ### Dot products (R105) -/

def execIdot4 (d a b : RegField) (g : PredField) (s : State) : Outcome :=
  runThread s g (dotBody d a b [.i8x4, .b32, .n8x4] [.i8x4, .b32, .n8x4] 8 4 true true false)
def execIdot4N (d a b : RegField) (g : PredField) (s : State) : Outcome :=
  runThread s g (dotBody d a b [.n8x4, .b32, .i8x4] [.n8x4, .b32, .i8x4] 8 4 false false true)
def execIdot4Sn (d a b : RegField) (g : PredField) (s : State) : Outcome :=
  runThread s g (dotBody d a b [.i8x4, .b32, .n8x4] [.n8x4, .b32, .i8x4] 8 4 true false false)
def execIdot2 (d a b : RegField) (g : PredField) (s : State) : Outcome :=
  runThread s g (dotBody d a b [.i16x2, .b32] [.i16x2, .b32] 16 2 true true false)

end Sys2Proof.Machine
end

