-- ==== Sys2Proof/Machine/Float.lean ====
section
/-! DEFINITION. The floating-point instructions (05_float.md, R107 to R124). -/

namespace Sys2Proof.Machine

/-! ### Shapes -/

/-- An F32 operand, which may be an ACC word, under its modifiers (R110). -/
def f32Val (neg abs : Bool) (w : Word) : FVal := (fF32.decode w.toNat).modify neg abs

/-- The tags of an F32 operand (R110). -/
def wantF32 : List Tag := [.f32, .acc]

/-- The flags of an operation on the operands given: a signalling NaN raises NV, and with any NaN the operation itself raises nothing
(R110). -/
def opFlags (ops : List FVal) (fl : Nat) : Nat := orAll (ops.map FVal.nv) ||| (if ops.any FVal.isNaN then 0 else fl)

/-- The result of one operation: its bits and flags. -/
def fResult (f : FloatFmt) (h : HintLatch) (ops : List FVal) (r : FVal × Nat) : Nat × Nat :=
  let e := f.encode h.rmode h.sat r.1
  (e.1, opFlags ops r.2 ||| (if r.1.isNaN then 0 else e.2))

/-- The operations of FARITH and HARITH on one element (R113, R120). -/
inductive FOp where
  | add | sub | mul | fma
  deriving DecidableEq, Repr

def FOp.apply (op : FOp) (f : FloatFmt) (h : HintLatch) (a b c : FVal) : Nat × Nat :=
  match op with
  | .add => fResult f h [a, b] (a.add h.rmode b)
  | .sub => fResult f h [a, b] (a.add h.rmode (b.modify true false))
  | .mul => fResult f h [a, b] (a.mul b)
  | .fma =>
    let p := a.mul b
    let e := p.1.add h.rmode c
    fResult f h [a, b, c] (e.1, p.2 ||| e.2)

/-- FADD, FSUB and FMUL (R113). -/
def f32Binary (op : FOp) (d a b : RegField) (t : Thread) : Except Stop Thread := do
  let x ← t.fetch [wr1 d] [rd1 a wantF32, t.bOperand b wantF32]
  let r := op.apply fF32 t.hints (f32Val t.hints.na t.hints.aa (x.v 0)) (f32Val t.hints.nb t.hints.ab (x.v 1)) (.num false 0 0)
  let t' ← x.arith r.2 []
  .ok (t'.setReg d.toNat (w32 r.1) .f32)

/-- The addend of FFMA, FDOT2 and HFMA2: x[c] under HINT.C, else the old x[d] (R113, R116, R120); nc and ac act on it under HINT.C. -/
def Thread.addend (t : Thread) (d : RegField) (want : List Tag) : Src := .regs (t.hints.cReg.getD d.toNat) 1 1 want

/-- The element format of a packed operation: the tag of operand a, F16x2 where it is neither (R71, R72). -/
def Thread.packedTag (t : Thread) (a : RegField) : Tag := if (t.reg a.toNat).tag = .bf16x2 then .bf16x2 else .f16x2
def packedFmt (tag : Tag) : FloatFmt := if tag = .bf16x2 then fBF16 else fF16

/-- Element i of a packed operand under its modifiers. -/
def packedVal (tag : Tag) (neg abs : Bool) (w : Word) (i : Nat) : FVal := ((packedFmt tag).decode (tag.elem w i)).modify neg abs

/-- A packed operation on both elements (R120). -/
def packedBody (op : FOp) (d a b : RegField) (t : Thread) : Except Stop Thread := do
  let tag := t.packedTag a
  let x ← t.fetch [wr1 d] ([rd1 a [.f16x2, .bf16x2], t.bOperand b [tag]] ++ (if op = .fma then [t.addend d [tag]] else []))
  let rs := [0, 1].map fun i => op.apply (packedFmt tag) t.hints (packedVal tag t.hints.na t.hints.aa (x.v 0) i)
    (packedVal tag t.hints.nb t.hints.ab (x.v 1) i) (packedVal tag t.hints.nc t.hints.ac (x.v 2) i)
  let t' ← x.arith (orAll (rs.map (·.2))) (rs.map (·.2))
  .ok (t'.setReg d.toNat (tag.pack (rs.map (·.1))) tag)

/-- Modified bits: the sign bit cleared, then changed (R45). -/
def FloatFmt.modBits (f : FloatFmt) (neg abs : Bool) (b : Nat) : Nat :=
  let s := 2 ^ (f.ew + f.mw)
  let x := if abs then b % s else b
  if neg then (if x < s then x + s else x - s) else x

/-- minimumNumber or maximumNumber on modified bits, with its flags (R114). -/
def minMax (f : FloatFmt) (isMax : Bool) (a b : Nat) : Nat × Nat :=
  let x := f.decode a
  let y := f.decode b
  let fl := x.nv ||| y.nv
  if x.isNaN && y.isNaN then (f.nanBits, fl)
  else if x.isNaN then (b, fl)
  else if y.isNaN then (a, fl)
  else if isMax then (if x.below y then b else a, fl) else (if y.below x then b else a, fl)

def f32MinMax (isMax : Bool) (d a b : RegField) (t : Thread) : Except Stop Thread := do
  let x ← t.fetch [wr1 d] [rd1 a wantF32, t.bOperand b wantF32]
  let r := minMax fF32 isMax (fF32.modBits t.hints.na t.hints.aa (x.v 0).toNat) (fF32.modBits t.hints.nb t.hints.ab (x.v 1).toNat)
  let t' ← x.arith r.2 []
  .ok (t'.setReg d.toNat (w32 r.1) .f32)

def packedMinMax (isMax : Bool) (d a b : RegField) (t : Thread) : Except Stop Thread := do
  let tag := t.packedTag a
  let f := packedFmt tag
  let x ← t.fetch [wr1 d] [rd1 a [.f16x2, .bf16x2], t.bOperand b [tag]]
  let rs := [0, 1].map fun i => minMax f isMax (f.modBits t.hints.na t.hints.aa (tag.elem (x.v 0) i))
    (f.modBits t.hints.nb t.hints.ab (tag.elem (x.v 1) i))
  let t' ← x.arith (orAll (rs.map (·.2))) (rs.map (·.2))
  .ok (t'.setReg d.toNat (tag.pack (rs.map (·.1))) tag)

/-- FCMP and its AND and OR forms (R117, R118). -/
def f32Compare (k : PredField) (c : BitVec 4) (a b : RegField) (m : PredMode) (t : Thread) : Except Stop Thread := do
  let x ← t.fetch [] [rd1 a wantF32, t.bOperand b wantF32]
  let va := f32Val t.hints.na t.hints.aa (x.v 0)
  let vb := f32Val t.hints.nb t.hints.ab (x.v 1)
  let t' ← x.arith (va.nv ||| vb.nv) []
  .ok (t'.setPred k.toNat (m.apply (t.pred k.toNat) (floatCond c.toNat va vb)))

/-! ### F32 and packed arithmetic -/

def execFadd (d a b : RegField) (g : PredField) (s : State) : Outcome := runThread s g (f32Binary .add d a b)
def execFsub (d a b : RegField) (g : PredField) (s : State) : Outcome := runThread s g (f32Binary .sub d a b)
def execFmul (d a b : RegField) (g : PredField) (s : State) : Outcome := runThread s g (f32Binary .mul d a b)

def execFfma (d a b : RegField) (g : PredField) (s : State) : Outcome :=
  runThread s g fun t => do
    let x ← t.fetch [wr1 d] [rd1 a wantF32, t.bOperand b wantF32, t.addend d wantF32]
    let r := FOp.fma.apply fF32 t.hints (f32Val t.hints.na t.hints.aa (x.v 0)) (f32Val t.hints.nb t.hints.ab (x.v 1))
      (f32Val t.hints.nc t.hints.ac (x.v 2))
    let t' ← x.arith r.2 []
    .ok (t'.setReg d.toNat (w32 r.1) .f32)

def execFmin (d a b : RegField) (g : PredField) (s : State) : Outcome := runThread s g (f32MinMax false d a b)
def execFmax (d a b : RegField) (g : PredField) (s : State) : Outcome := runThread s g (f32MinMax true d a b)

def execFscl (d a b : RegField) (g : PredField) (s : State) : Outcome :=
  runThread s g fun t => do
    let x ← t.fetch [wr1 d] [rd1 a wantF32, t.bOperand b [.b32]]
    let va := f32Val t.hints.na t.hints.aa (x.v 0)
    let r := fResult fF32 t.hints [va] (va.scale (x.v 1).toInt, 0)
    let t' ← x.arith r.2 []
    .ok (t'.setReg d.toNat (w32 r.1) .f32)

def execFdot2 (d a b : RegField) (g : PredField) (s : State) : Outcome :=
  runThread s g fun t => do
    let tag := t.packedTag a
    let x ← t.fetch [wr1 d] [rd1 a [.f16x2, .bf16x2], t.bOperand b [tag], t.addend d wantF32]
    let va := [0, 1].map (packedVal tag t.hints.na t.hints.aa (x.v 0))
    let vb := [0, 1].map (packedVal tag t.hints.nb t.hints.ab (x.v 1))
    let c := f32Val t.hints.nc t.hints.ac (x.v 2)
    let ps := (va.zip vb).map fun p => p.1.mul p.2
    let e := FVal.sum t.hints.rmode (ps.map (·.1) ++ [c])
    let r := fResult fF32 t.hints (va ++ vb ++ [c]) (e.1, orAll (ps.map (·.2)) ||| e.2)
    let t' ← x.arith r.2 []
    .ok (t'.setReg d.toNat (w32 r.1) .f32)

def execFcmp (k : PredField) (c : BitVec 4) (a b : RegField) (g : PredField) (s : State) : Outcome :=
  runThread s g (f32Compare k c a b .set)
def execFcmpAnd (k : PredField) (c : BitVec 4) (a b : RegField) (g : PredField) (s : State) : Outcome :=
  runThread s g (f32Compare k c a b .and)
def execFcmpOr (k : PredField) (c : BitVec 4) (a b : RegField) (g : PredField) (s : State) : Outcome :=
  runThread s g (f32Compare k c a b .or)

/-- FCLS (R119): x[b] is raw and HINT.IMM may stand for it. -/
def execFcls (k : PredField) (a b : RegField) (g : PredField) (s : State) : Outcome :=
  runThread s g fun t => (t.fetch [] [rd1 a wantF32, t.bOperand b []]).map fun x =>
    x.t.setPred k.toNat ((x.v 1).toNat &&& floatClass (f32Val t.hints.na t.hints.aa (x.v 0)) != 0)

def execHadd2 (d a b : RegField) (g : PredField) (s : State) : Outcome := runThread s g (packedBody .add d a b)
def execHsub2 (d a b : RegField) (g : PredField) (s : State) : Outcome := runThread s g (packedBody .sub d a b)
def execHmul2 (d a b : RegField) (g : PredField) (s : State) : Outcome := runThread s g (packedBody .mul d a b)
def execHfma2 (d a b : RegField) (g : PredField) (s : State) : Outcome := runThread s g (packedBody .fma d a b)
def execHmin2 (d a b : RegField) (g : PredField) (s : State) : Outcome := runThread s g (packedMinMax false d a b)
def execHmax2 (d a b : RegField) (g : PredField) (s : State) : Outcome := runThread s g (packedMinMax true d a b)

def execHcmp2 (k : PredField) (c : BitVec 4) (a b : RegField) (g : PredField) (s : State) : Outcome :=
  runThread s g fun t => do
    let tag := t.packedTag a
    let x ← t.fetch [] [rd1 a [.f16x2, .bf16x2], t.bOperand b [tag]]
    let va := [0, 1].map (packedVal tag t.hints.na t.hints.aa (x.v 0))
    let vb := [0, 1].map (packedVal tag t.hints.nb t.hints.ab (x.v 1))
    let fls := (va.zip vb).map fun p => p.1.nv ||| p.2.nv
    let t' ← x.arith (orAll fls) fls
    let cs := (va.zip vb).map fun p => floatCond c.toNat p.1 p.2
    .ok ((t'.setPred k.toNat (nth cs 0 false)).setPred (k.toNat + 1) (nth cs 1 false))

/-! ### FUNARY (R122 to R124) -/

/-- ln 2 and π in units of 2^-100. -/
def ln2Fix : Nat := 878668439483319573618263538048
def piFix : Nat := 3982441812995697363688351113952
def oneFix : Nat := 2 ^ 100
def mulFix (a b : Nat) : Nat := a * b / oneFix

/-- The exponential series, n more terms from term k, whose value is `term`. -/
def expSeries (t : Nat) : Nat → Nat → Nat → Nat
  | 0, _, term => term
  | n + 1, k, term => term + expSeries t n (k + 1) (mulFix term t / k)

/-- 2^f for f in [0, 1), both in units of 2^-100. -/
def exp2Fix (f : Nat) : Nat := expSeries (mulFix f ln2Fix) 32 1 oneFix

/-- The alternating series of the sine: n more terms from x^k / k!. -/
def sinSeries (x2 : Nat) : Nat → Nat → Nat → Int
  | 0, _, _ => 0
  | n + 1, k, term => (term : Int) - sinSeries x2 n (k + 2) (mulFix term x2 / ((k + 1) * (k + 2)))

/-- sin(π·f) for f in [0, 2), in units of 2^-100: its sign and magnitude. -/
def sinPiFix (f : Nat) : Bool × Nat :=
  let neg := decide (oneFix ≤ f)
  let a := f % oneFix
  let b := if oneFix < 2 * a then oneFix - a else a
  let x := mulFix b piFix
  (neg, (sinSeries (mulFix x x) 24 1 x).toNat)

/-- n bits of log2 of y in [1, 2), in units of 2^-100, as the numerator over 2^n. -/
def log2Bits : Nat → Nat → Nat
  | 0, _ => 0
  | n + 1, y =>
    let z := mulFix y y
    if 2 * oneFix ≤ z then 2 ^ n + log2Bits n (z / 2) else log2Bits n z

/-- ⌊m × 2^e⌋ or, where `up`, ⌈m × 2^e⌉. -/
def floorPow (up : Bool) (m : Nat) (e : Int) : Nat :=
  if 0 ≤ e then m * 2 ^ e.toNat
  else
    let k := 2 ^ min (-e).toNat (Nat.log2 m + 1)
    m / k + (if up && m % k != 0 then 1 else 0)

/-- A finite value in units of 2^-100, rounded down and reduced modulo 2. -/
def mod2Fix (n : Bool) (m : Nat) (e : Int) : Nat :=
  let p := 2 * oneFix
  let v := if 2 ≤ e then 0 else floorPow n m (e + 100) % p
  if n then (p - v) % p else v

/-- Is m × 2^e an integer multiple of 2^k? -/
def isMultiple (m : Nat) (e k : Int) : Bool := decide (k ≤ e) || decide (m % 2 ^ min (k - e).toNat (Nat.log2 m + 1) = 0)

/-- The rounded value at an approximation given to 2^-100, or the device's own value where that keeps the bound (R124): `ulps` units in
the last place of the rounded value, or 2^-22 where it is 0. Where R123 says that the result is subnormal, `small`, the value must be so too.
(DESIGN CHOICE: log entry 7.) -/
def withinBound (sub : Nat) (x : Word) (exact : FVal) (ulps : Nat) (small : Bool := false) : Nat :=
  let r0 := (fF32.encode .rne true exact).1
  let c := (Config.funaryResult sub x).toNat
  let bound : FVal := if ulps = 0 then .num false 1 (-22)
    else .num false ulps (max (slice r0 23 8 : Int) 1 - 150)
  match fF32.decode c with
  | .num n m e =>
    let diff := ((FVal.num n m e).add .rne (exact.modify true false)).1.modify false true
    let fits := !small || (slice c 23 8 == 0 && bitAt c 31 == bitAt r0 31 && c % 2 ^ 31 != 0)
    if !bound.lt diff && fits then c else r0
  | _ => r0

/-- ±0, ±∞ and NaN of F32. -/
def zero32 (neg : Bool) : Nat := if neg then 2 ^ 31 else 0
def inf32 (neg : Bool) : Nat := fF32.infBits neg
def nan32 : Nat := 0x7FC00000

/-- FRCP of R123.
(DESIGN CHOICE: log entry 7.) -/
def rcpFinite (x : Word) (n : Bool) (m : Nat) (e : Int) : Nat × Nat :=
  if m = 0 then (inf32 n, flagDZ)
  else
    let exact := FVal.ofRatio n 1 m (-e)
    let pow2 := m = 2 ^ Nat.log2 m
    let top := e + Nat.log2 m
    if top < -128 || (top = -128 && pow2) then (inf32 n, flagOF)
    else if pow2 then ((fF32.encode .rne true exact).1, 0)
    else (withinBound 2 x exact 1 (decide (126 ≤ top)), if 126 ≤ top then flagUF else 0)

/-- FRSQ of R123: the square root of an even power of four times m, one over it.
(DESIGN CHOICE: log entry 7.) -/
def rsqFinite (x : Word) (n : Bool) (m : Nat) (e : Int) : Nat × Nat :=
  if m = 0 then (inf32 n, flagDZ)
  else if n then (nan32, flagNV)
  else
    let odd := e % 2 != 0
    let m' := if odd then 2 * m else m
    let e' := if odd then e - 1 else e
    -- 1 / √(m' 2^e') = 2^200 / √(m' 2^400) × 2^(-e'/2)
    let exact := FVal.ofRatio false (2 ^ 200) (isqrt (m' * 2 ^ 400)) (-(e' / 2))
    if m' = 2 ^ Nat.log2 m' && Nat.log2 m' % 2 = 0 then ((fF32.encode .rne true exact).1, 0) else (withinBound 3 x exact 2, 0)

/-- FSQRT, correctly rounded to nearest (R124). -/
def sqrtFinite (n : Bool) (m : Nat) (e : Int) : Nat × Nat :=
  if m = 0 then (zero32 n, 0)
  else if n then (nan32, flagNV)
  else
    let odd := e % 2 != 0
    let m' := (if odd then 2 * m else m) * 2 ^ 100
    let e' := (if odd then e - 1 else e) - 100
    let r := isqrt m'
    ((fF32.encode .rne false (.num false (2 * r + (if r * r = m' then 0 else 1)) (e' / 2 - 1))).1, 0)

/-- FEX2 of R123.
(DESIGN CHOICE: log entry 7.) -/
def ex2Finite (x : Word) (n : Bool) (m : Nat) (e : Int) : Nat × Nat :=
  let v : FVal := .num n m e
  if m = 0 then (0x3F800000, 0)
  else if !v.lt (.num false 128 0) then (inf32 false, flagOF)
  else if !(FVal.num true 150 0).lt v then (zero32 false, flagUF)
  else
    let fl := (v.toInt .rdn).1
    let sub := decide (fl < -126)
    if isMultiple m e 0 then ((fF32.encode .rne true (.num false 1 fl)).1, 0)
    else
      let f := mod2Fix n m e % oneFix
      (withinBound 5 x (.num false (exp2Fix f) (fl - 100)) 2 sub, if sub then flagUF else 0)

/-- FLG2 of R123.
(DESIGN CHOICE: log entry 7.) -/
def lg2Finite (x : Word) (n : Bool) (m : Nat) (e : Int) : Nat × Nat :=
  if m = 0 then (inf32 true, flagDZ)
  else if n then (nan32, flagNV)
  else
    let l := Nat.log2 m
    let top := e + l
    if m = 2 ^ l then ((fF32.encode .rne false (FVal.ofInt top)).1, 0)
    else
      let frac := log2Bits 80 (m * 2 ^ (100 - l))
      let k := top * (2 ^ 80 : Nat) + frac
      (withinBound 6 x (.num (decide (k < 0)) k.natAbs (-80)) (if top = 0 || top = -1 then 0 else 2), 0)

/-- FSIN and FCOS of R123.
(DESIGN CHOICE: log entry 7.) -/
def trigFinite (isCos : Bool) (x : Word) (n : Bool) (m : Nat) (e : Int) : Nat × Nat :=
  if m = 0 then (if isCos then 0x3F800000 else zero32 n, 0)
  else
    let f := mod2Fix n m e
    if isMultiple m e 0 then
      (if isCos then (if f = 0 then 0x3F800000 else 0xBF800000) else zero32 n, 0)
    else if isMultiple m e (-1) then
      (if isCos then zero32 false else if f < oneFix then 0x3F800000 else 0xBF800000, 0)
    else
      let r := sinPiFix (if isCos then (f + oneFix / 2) % (2 * oneFix) else f)
      (withinBound (if isCos then 8 else 7) x (.num r.1 r.2 (-100)) 0, 0)

/-- FRND and FFRC of R123. -/
def rndFinite (mode : RMode) (n : Bool) (m : Nat) (e : Int) : Nat × Nat :=
  let r := (FVal.num n m e).toInt mode
  ((fF32.encode .rne false (.num n r.1.natAbs 0)).1, 0)

def frcFinite (n : Bool) (m : Nat) (e : Int) : Nat × Nat :=
  if m = 0 then (0, 0)
  else
    let fl := ((FVal.num n m e).toInt .rdn).1
    let d := ((FVal.num n m e).add .rne (FVal.ofInt (-fl))).1
    ((fF32.encode .rdn false (match d with
      | .num _ dm de => .num false dm de
      | v => v)).1, 0)

/-- FUNARY on an operand's value: `inf` gives the result and flags at an infinity. The modified operand's bits name the free result. -/
def funaryBody (d a : RegField) (inf : Bool → Nat × Nat) (fin : Thread → Word → Bool → Nat → Int → Nat × Nat) (t : Thread) :
    Except Stop Thread := do
  let x ← t.fetch [wr1 d] [rd1 a wantF32]
  let bits := fF32.modBits t.hints.na t.hints.aa (x.v 0).toNat
  let r := match fF32.decode bits with
    | .nan sg => (nan32, if sg then flagNV else 0)
    | .inf n => inf n
    | .num n m e => fin t (w32 bits) n m e
  let t' ← x.arith r.2 []
  t'.oweRegs d.toNat [w32 r.1] .f32

def execFrnd (d a : RegField) (g : PredField) (s : State) : Outcome :=
  runThread s g (funaryBody d a (fun n => (inf32 n, 0)) fun t _ n m e => rndFinite t.hints.rmode n m e)
def execFfrc (d a : RegField) (g : PredField) (s : State) : Outcome :=
  runThread s g (funaryBody d a (fun _ => (nan32, flagNV)) fun _ _ n m e => frcFinite n m e)
def execFrcp (d a : RegField) (g : PredField) (s : State) : Outcome :=
  runThread s g (funaryBody d a (fun n => (zero32 n, 0)) fun _ x n m e => rcpFinite x n m e)
def execFrsq (d a : RegField) (g : PredField) (s : State) : Outcome :=
  runThread s g (funaryBody d a (fun n => if n then (nan32, flagNV) else (zero32 false, 0)) fun _ x n m e => rsqFinite x n m e)
def execFsqrt (d a : RegField) (g : PredField) (s : State) : Outcome :=
  runThread s g (funaryBody d a (fun n => if n then (nan32, flagNV) else (inf32 false, 0)) fun _ _ n m e => sqrtFinite n m e)
def execFex2 (d a : RegField) (g : PredField) (s : State) : Outcome :=
  runThread s g (funaryBody d a (fun n => if n then (zero32 false, 0) else (inf32 false, 0)) fun _ x n m e => ex2Finite x n m e)
def execFlg2 (d a : RegField) (g : PredField) (s : State) : Outcome :=
  runThread s g (funaryBody d a (fun n => if n then (nan32, flagNV) else (inf32 false, 0)) fun _ x n m e => lg2Finite x n m e)
def execFsin (d a : RegField) (g : PredField) (s : State) : Outcome :=
  runThread s g (funaryBody d a (fun _ => (nan32, flagNV)) fun _ x n m e => trigFinite false x n m e)
def execFcos (d a : RegField) (g : PredField) (s : State) : Outcome :=
  runThread s g (funaryBody d a (fun _ => (nan32, flagNV)) fun _ x n m e => trigFinite true x n m e)

end Sys2Proof.Machine
end

