-- ==== Sys2Proof/Machine/AtomicOps.lean ====
section
/-! DEFINITION. What an access does to its thread when it is performed: an acquire takes effect, a load binds, an atomic computes its new value
and returns the old one (09_ordering.md R198, R202, R209 to R212, 02_encoding.md R37). -/

namespace Sys2Proof.Machine

/-- The bytes of a store in a unit that go to its home. -/
def PendingStore.part (p : PendingStore) (unit : Nat) : List StoreByte := p.bytes.filter fun b => b.loc.bypasses && b.loc.addr / 64 == unit

/-! ### Operations (R211, R212) -/

/-- The new value of an operation of R211 on a 32-bit location. -/
def atomicValue (op : Nat) (tag : Tag) (old v : Nat) : Nat :=
  let sOld := signed old 32
  let sV := signed v 32
  match op with
  | 0 => (old + v) % 2 ^ 32
  | 1 => if sV < sOld then v else old
  | 2 => if sOld < sV then v else old
  | 3 => min old v
  | 4 => max old v
  | 5 => old &&& v
  | 6 => old ||| v
  | 7 => old ^^^ v
  | 8 => v
  | 9 => if v ≤ old then 0 else old + 1
  | 10 => if old = 0 || decide (v < old) then v else old - 1
  | 11 => (fF32.encode .rne false ((fF32.decode old).add .rne (fF32.decode v)).1).1
  | _ =>
    let f := packedFmt tag
    let e (i : Nat) : Nat := (f.encode .rne false ((f.decode (slice old (16 * i) 16)).add .rne (f.decode (slice v (16 * i) 16))).1).1
    e 0 + 2 ^ 16 * e 1

/-- What an atomic writes over the old value; none where a compare-and-swap fails (R211, R212). -/
def AtomicOp.newValue (o : AtomicOp) (old : Nat) : Option Nat :=
  if o.op = 13 then (if old = o.compare then some o.value else none) else some (atomicValue o.op o.tag old o.value)

/-- The tag of the old value that an operation returns (R211). -/
def atomicTag (op : Nat) (tag : Tag) : Tag :=
  match op with
  | 11 => .f32
  | 12 => if tag = .bf16x2 then .bf16x2 else .f16x2
  | _ => .b32

/-- After an acquire at .EN, .DV or .SY no older L1 line is read (R187, R202). At .TR the thread takes over what the threads whose releases reach it have
acquired (R200 rule 3): `rel` is the stamp that they pass on.
(DEDUCED: log entry 106.) -/
def Thread.acquired (t : Thread) (sc : Scope) (stamp : Nat) (rel : Nat := 0) : Thread :=
  match sc with
  | .th => t
  | .tr => { t with acqStamp := max t.acqStamp rel }
  | _ => { t with acqStamp := stamp + 1 }

/-- A release of thread k passes its acquires on to the threads of its troupe (R200, R207).
(DEDUCED: log entry 106.) -/
def State.passOn (s : State) (k : Nat) : State :=
  let t := s.thread k
  s.updTroupe t.troupe fun tr => { tr with relStamp := max tr.relStamp t.acqStamp }
/-- A release at .SY of a context has been performed. -/
def State.noteRelease (s : State) (ctx : Nat) : State := s.updCtx ctx fun c => { c with released := true }
/-- A release of a scope that reaches other threads does so at its visibility point. -/
def State.passRelease (s : State) (k : Nat) (p : PendingStore) : State :=
  if !p.order.releases || p.scope = .th then s
  else if p.scope = .sy then (s.passOn k).noteRelease (s.ctxOfTroupe (s.thread k).troupe) else s.passOn k

/-- The load or atomic of a thread that waits for uncached data: its place in the thread's lists by seq. -/
def Thread.loadAt (t : Thread) (seq : Nat) : Option PendingLoad := t.loads.find? fun l => l.seq == seq
def Thread.storeAt (t : Thread) (seq : Nat) : Option PendingStore := t.stores.find? fun p => p.seq == seq

/-- An obligation whose flag has been raised. -/
def Thread.owesMore (t : Thread) (o : Obligation) : Thread := { t with owed := t.owed ++ [o] }

/-- A load binds: its registers are written, its flag falls, and an acquire takes effect (R37, R202). Where only some registers are written now, those
that `mask` has, the others wait under the flag (R39). `vague` is as for `LoadForm.expand`, and `rel` the stamp that releases in its troupe pass on. -/
def Thread.bind (t : Thread) (l : PendingLoad) (bytes : List Byte) (stamp pick : Nat) (vague : List Bool := []) (rel : Nat := 0)
    (mask : Option Nat := none) : Thread :=
  let ws := l.form.expand bytes vague
  let rest : Thread := { t with loads := t.loads.filter fun x => x.seq != l.seq }
  let t1 := match mask with
    | none => (rest.land ws pick).lowerFlag l.flag
    | some m => (rest.land (ws.filter fun x => bitAt m x.1) pick).owesMore { flag := l.flag, writes := ws.filter fun x => !bitAt m x.1 }
  if l.order.acquires then t1.acquired l.scope stamp rel else t1

/-- A store leaves its thread's list. -/
def Thread.shown (t : Thread) (p : PendingStore) : Thread := { t with stores := t.stores.filter fun x => x.seq != p.seq }

/-- An atomic is performed on the bytes it found: the old value goes to its registers, its result flag falls (R209, R211). -/
def Thread.atomicDone (t : Thread) (p : PendingStore) (o : AtomicOp) (old : List Byte) (stamp pick : Nat) (rel : Nat := 0) : Thread :=
  let t1 := match o.dst with
    | some d => (t.land ((upFrom d (p.bytes.length / 4)).zip ((toWords (ofBytes old) (p.bytes.length / 4)).map fun w => (w, o.tag))) pick).lowerFlag o.flag
    | none => t
  let t2 := t1.shown p
  if p.order.acquires then t2.acquired p.scope stamp rel else t2

end Sys2Proof.Machine
end

