-- ==== Sys2Proof/Machine/Tile.lean ====
section
/-! DEFINITION. The tile reservation, the grid's dirty bits, and what a write outside the grid queue does to its operations (11_matrix.md R251,
R257, R263). -/

namespace Sys2Proof.Machine

/-! ### The reservation (R148, R251) -/

/-- The list of words with one set; a word equal to a cleared one is not kept, so that equal reservations are equal lists. -/
def tileSet (l : List (Nat × Word × Tag)) (i : Nat) (w : Word) (t : Tag) : List (Nat × Word × Tag) :=
  match l with
  | [] => if w = 0 && t = .b32 then [] else [(i, w, t)]
  | (j, x) :: r =>
    if i = j then (if w = 0 && t = .b32 then r else (i, w, t) :: r)
    else if i < j then (if w = 0 && t = .b32 then (j, x) :: r else (i, w, t) :: (j, x) :: r)
    else (j, x) :: tileSet r i w t

/-- Word i of the reservation. -/
def Ensemble.tileWord (e : Ensemble) (i : Nat) : Word × Tag :=
  match e.tile.find? (·.1 == i) with
  | some x => x.2
  | none => (0, .b32)
def Ensemble.setTileWord (e : Ensemble) (i : Nat) (w : Word) (t : Tag) : Ensemble := { e with tile := tileSet e.tile i w t }

/-- A byte of the reservation, by its tile offset, whatever the word's tag. -/
def Ensemble.tileByte (e : Ensemble) (off : Nat) : Byte := BitVec.ofNat 8 ((e.tileWord (off / 4)).1.toNat / 2 ^ (8 * (off % 4)))
/-- A byte written, the word taking a tag. -/
def Ensemble.setTileByte (e : Ensemble) (off : Nat) (v : Byte) (t : Tag) : Ensemble :=
  e.setTileWord (off / 4) (w32 (putSlice (e.tileWord (off / 4)).1.toNat (8 * (off % 4)) 8 v.toNat)) t

/-- The bytes of the reservation: 16 partitions of W words (R251). -/
def tileBytes (packet : BitVec 1024) : Nat := 64 * slice packet.toNat (8 * 56) 16
/-- The accumulator blocks, J. -/
def blockCount (packet : BitVec 1024) : Nat := min 16 ((slice packet.toNat (8 * 56) 16 - 1024) / 256)
/-- The word of element (m, n) of block j. -/
def blockWord (j m n : Nat) : Nat := (65536 + 16384 * j + 256 * m + 4 * n) / 4

/-! ### Operations of the grid queue -/

/-- A field of an operation's block. -/
def GridOp.f (op : GridOp) (off lo n : Nat) : Nat := slice op.block.toNat (8 * off + lo) n
def GridOp.m (op : GridOp) : Nat := op.f 0 0 16
def GridOp.n (op : GridOp) : Nat := op.f 0 16 16
def GridOp.k (op : GridOp) : Nat := op.f 4 0 24
def GridOp.isMatrix (op : GridOp) : Bool := op.kind == .gmma || op.kind == .gmmat
def GridOp.blk (op : GridOp) : Nat := if op.isMatrix then op.f 8 8 4 else op.f 4 4 4

/-- The element width of a format code in bits (R258). -/
def formatBits (code : Nat) : Nat :=
  match code with
  | 2 | 3 => 16 | 6 => 4 | 11 => 5 | 12 => 3 | _ => 8

/-- The bytes of a memory format of a move (R261). -/
def moveBytes (mf : Nat) : Nat := if mf < 2 then 4 else 2

/-- Where a range lies: the operand stores, a troupe's slice, or global memory by virtual address. -/
inductive Space where
  | tile | scratch (troupe : Nat) | glob
  deriving DecidableEq, Repr

/-- A range of an operation's operands: its space, first byte and length. -/
structure OpRange where
  space : Space
  base  : Nat
  len   : Nat
  deriving DecidableEq, Repr

/-- The troupe and offset of a scratch address for a troupe of index k (R175). -/
def Ensemble.scratchPlace (e : Ensemble) (k a : Nat) : Option (Nat × Nat) := (e.troupes[k ^^^ (a / 2 ^ 30 % 4)]?).map fun t => (t, a % 2 ^ 30)

/-- One range at an address of a space by its code: 0 operand store, 1 scratch, 2 global (R258). -/
def Ensemble.rangeAt (e : Ensemble) (k code a len : Nat) : List OpRange :=
  match code with
  | 0 => [⟨.tile, a % 2 ^ 32, len⟩]
  | 1 => match e.scratchPlace k (a % 2 ^ 32) with
    | some p => [⟨.scratch p.1, p.2, len⟩]
    | none => []
  | _ => [⟨.glob, a % 2 ^ 57, len⟩]

/-- Bytes of a row of scales or metadata of an operand (R258). -/
def scaleRow (scl k : Nat) : Nat := if scl = 1 then (k + 31) / 32 else if scl = 2 then 2 * ((k + 15) / 16) else 0

/-- The source ranges of an operation: operands and scales of a matrix operation, the memory of a GTLD (R257, R258, R261). -/
def Ensemble.opSources (e : Ensemble) (k : Nat) (op : GridOp) : List OpRange :=
  match op.kind with
  | .gmma | .gmmat =>
    let rows (count base str w code : Nat) : List OpRange :=
      (upFrom 0 count).flatMap fun i => e.rangeAt k code (base + i * str) ((op.k * w + 7) / 8)
    let reuse := bitAt (op.f 8 0 32) 13
    let scl := op.f 8 18 2
    (if reuse then [] else rows op.m (op.f 24 0 64) (op.f 12 0 32) (formatBits (op.f 8 0 4)) (op.f 8 14 2))
    ++ rows op.n (op.f 32 0 64) (op.f 16 0 32) (formatBits (op.f 8 4 4)) (op.f 8 16 2)
    ++ (if scl = 0 || reuse then [] else e.rangeAt k 1 (op.f 40 0 32) (op.m * scaleRow scl op.k))
    ++ (if scl = 0 then [] else e.rangeAt k 1 (op.f 44 0 32) (op.n * scaleRow scl op.k))
  | .gtld =>
    (upFrom 0 op.m).flatMap fun i =>
      e.rangeAt k (op.f 4 8 2) (op.f 16 0 64 + i * op.f 8 0 32) (op.n * moveBytes (op.f 4 0 4))
  | _ => []

/-- The words of the block region an operation writes or stores. -/
def GridOp.region (op : GridOp) : List Nat :=
  match op.kind with
  | .rbox => []
  | _ => (upFrom 0 op.m).flatMap fun i => (upFrom 0 op.n).map fun j => blockWord op.blk i j

/-- Makes the region of an operation unpredictable, tagged ACC, but for the words that writes outside the queue wrote (R263).
(DEDUCED: log entry 78.) -/
def Ensemble.smearRegion (e : Ensemble) (op : GridOp) (key : Nat) : Ensemble :=
  op.region.foldl (fun e i => if op.kept.contains i then e else e.setTileWord i (Config.freeWord key i) .acc) e

def OpRange.hits (r : OpRange) (space : Space) (a : Nat) : Bool := r.space == space && decide (r.base ≤ a) && decide (a < r.base + r.len)

/-! ### Writes outside the grid queue -/

/-- The dirty bits of R257 after a write by a thread or a copy engine. -/
def Grid.dirtied (g : Grid) (space : Space) (offs : List Nat) : Grid :=
  match space with
  | .scratch t => { g with dirtyScratch := (g.dirtyScratch ++ offs.map fun a => (t, a / 4096)).dedup }
  | .tile => { g with dirtyTile := (g.dirtyTile ++ offs.map (· / 4096)).dedup }
  | .glob => g

/-- Does a word of the reservation lie in the accumulator block of an operation (R263)? -/
def GridOp.inBlock (op : GridOp) (word : Nat) : Bool := op.kind != .rbox && word / 4096 == 4 + op.blk

/-- Does a write meet the sources of an operation, or its block? -/
def Ensemble.meets (e : Ensemble) (k : Nat) (op : GridOp) (space : Space) (offs : List Nat) : Bool :=
  (e.opSources k op).any (fun r => offs.any (r.hits space)) || (space == .tile && offs.any fun a => op.inBlock (a / 4))

/-- Operations queued or not yet waited for that a write meets: their regions become unpredictable, at once where they are done, at their
completion where they are queued; the words written keep what was written (R263).
(DEDUCED: log entry 78.) -/
def Ensemble.smear (e : Ensemble) (kOf : Nat → Nat) (key : Nat) (space : Space) (offs : List Nat) : Ensemble :=
  let words := if space = .tile then (offs.map (· / 4)).dedup else []
  let met (op : GridOp) : Bool := e.meets (kOf op.thread) op space offs
  let mark (op : GridOp) : GridOp := if met op then { op with smeared := true, kept := op.kept ++ words } else op
  let hit := (e.grid.unwaited.filter met).map mark
  let e1 := { e with grid := { e.grid with queue := e.grid.queue.map mark, unwaited := e.grid.unwaited.map mark } }
  hit.foldl (fun e op => e.smearRegion op key) e1

/-- The virtual addresses of physical bytes in the pages that an operation's global sources have been found in. -/
def GridOp.virtual (op : GridOp) (pas : List Nat) : List Nat :=
  pas.flatMap fun a => (op.seen.filter fun x => x.2 == a / 4096).map fun x => x.1 * 4096 + a % 4096

/-- Writes of global memory while operations are queued or not waited for: a queued one notes them, to be held against the pages that it finds
its sources in; one that is done has found them (R263). -/
def Ensemble.smearGlobal (e : Ensemble) (kOf : Nat → Nat) (key : Nat) (pas : List Nat) : Ensemble :=
  let far (op : GridOp) : Bool := (e.opSources (kOf op.thread) op).any fun r => r.space == .glob
  let hit := e.grid.unwaited.filter fun op => e.meets (kOf op.thread) op .glob (op.virtual pas)
  let e1 := { e with grid := { e.grid with queue := e.grid.queue.map fun op => if far op then { op with wrote := op.wrote ++ pas } else op } }
  hit.foldl (fun e op => e.smearRegion op key) e1

/-- A number below 4,096 that keeps the free words of different uses in one turn apart. -/
def State.smearKey (s : State) (eI : Nat) : Nat := s.moves * 4096 + 1024 + eI % 1024

/-- A write to scratch bytes of a troupe's slice, or to the reservation, of a grid ensemble. -/
def State.wroteLocal (s : State) (eI : Nat) (space : Space) (offs : List Nat) : State :=
  let e := s.ens eI
  if slice e.packet.toNat (8 * 48 + 8) 1 = 0 || offs.isEmpty then s
  else s.updEns eI fun e =>
    let e1 := { e with grid := e.grid.dirtied space offs }
    if e1.grid.queue.isEmpty && e1.grid.unwaited.isEmpty then e1
    else e1.smear (fun t => (s.troupe (s.thread t).troupe).k) (s.smearKey eI) space offs

/-- Writes performed in global memory: configurations of the code pages they reach go (R170), and the grid operations that read the bytes
(R263), but for those of the ensemble whose own grid queue writes them. -/
def State.wroteBytes (s : State) (pas : List Nat) (by_ : Option Nat := none) : State :=
  (upFrom 0 s.ensembles.length).foldl (fun s eI =>
    let e := s.ens eI
    if by_ = some eI || (e.grid.queue.isEmpty && e.grid.unwaited.isEmpty) then s
    else s.updEns eI fun e => e.smearGlobal (fun t => (s.troupe (s.thread t).troupe).k) (s.smearKey eI) pas) (s.codeWritten pas)

/-- The number in n bytes at a physical address of an entry. -/
def State.entryField (s : State) (at_ n : Nat) : Nat := s.readNat (upFrom at_ n)

/-- Is a structure in use: is a pin held on it, or is a command of it queued or running (R314)? -/
def State.structUsed (s : State) (x : Struct) : Bool :=
  (match x.place with
    | some a => (upFrom 0 8).any fun r => s.entryField (a + 68 + 16 * r) 4 != 0
    | none => false)
  || s.rigger.any fun c => c.live && c.ctx == x.ctx && slice c.block.toNat 0 16 == x.entry

/-- The generations that an entry's records hold. -/
def State.heldGens (s : State) (place : Nat) : List Word :=
  ((upFrom 0 8).filter fun r => s.entryField (place + 72 + 16 * r) 8 != 0).map fun r => w32 (s.entryField (place + 64 + 16 * r) 4)

/-- A structure in use whose bytes 0 to 63 someone else has written: its generations' nodes are unpredictable from now on, and its commands may fail
with any code (R314).
(DESIGN CHOICE: log entry 101.) -/
def State.spoil (s : State) (x : Struct) (place : Nat) : State :=
  { s with
    structs := s.structs.map fun y => if y.ctx == x.ctx && y.entry == x.entry then { y with spoilt := (y.spoilt ++ s.heldGens place).dedup } else y
    rigger := s.rigger.map fun c => if c.live && c.ctx == x.ctx && slice c.block.toNat 0 16 == x.entry then { c with spoilt := true } else c }

/-- Writes, other than the device's own, that reach bytes 0 to 63 of structure-table entries: they spoil a structure in use, and an entry that they make
LIVE has no base of DRIFT (R314, R335).
(DESIGN CHOICE: log entry 101.) -/
def State.entriesWritten (s : State) (pas : List Nat) : State :=
  s.structs.foldl (fun s x => match x.place with
    | none => s
    | some a =>
      if !(pas.any fun p => decide (a ≤ p) && decide (p < a + 64)) then s
      else
        let s1 := if s.structUsed x then s.spoil x a else s
        let live := s.entryField (a + 16) 1 % 2 == 1
        { s1 with structs := s1.structs.map fun y => if y.ctx == x.ctx && y.entry == x.entry then
            { y with isLive := live, drift := if live && !y.isLive then none else y.drift } else y }) s

/-- What a write in global memory by a thread, a copy or the grid reaches. -/
def State.wroteGlobal (s : State) (pas : List Nat) (by_ : Option Nat := none) : State := (s.wroteBytes pas by_).entriesWritten pas

/-- Is a function of the device at work: its readiness bit is set while the domain is up, or was when the domain began to drain (R377, R378)? -/
def Gaffer.works (g : Gaffer) (bit : Nat) : Bool :=
  match g.state with
  | .off | .verify => false
  | .bringup => g.ready.getLsbD bit
  | .on | .draining => true

/-- May an engine of a context go on: no halt, or within the skid (R347)?
(DEDUCED: log entry 28.) -/
def State.ctxRuns (s : State) (cI : Nat) : Bool :=
  let c := s.ctx cI
  c.live && !c.haltDone && match c.halt with
    | none => true
    | some h => decide (s.clock ≤ h + 128)

/-- May a unit of the device that has a readiness bit work for a context: its bit is set (R378), and the context runs or is in its skid (R347)? -/
def State.engineRuns (s : State) (cI bit : Nat) : Bool := s.ctxRuns cI && s.gaffer.works bit

/-- A store made at the memory itself: it is performed where the device's L2 holds no copy and the home can take it (R364). -/
def State.islandStore (s : State) (pas : List Nat) (bs : List Byte) : State :=
  if (unitsOf pas).all fun u => (s.l2 u).isNone && (hostHomed (u * 64) || s.homeWrites u) then
    ((pas.zip bs).foldl (fun s x => s.setMemByte x.1 x.2) s).wroteGlobal pas
  else s

/-- A store of the host has become visible, as the host has had to make sure; it comes over the link (R208, R360).
(DEDUCED: log entry 84.) -/
def State.hostStore (s : State) (pas : List Nat) (bs : List Byte) : State := if s.linkUp then s.islandStore pas bs else s

/-- Scratch bytes written by a thread or an engine. -/
def State.wroteScratch (s : State) (tr : Nat) (offs : List Nat) : State := s.wroteLocal (s.troupe tr).ens (.scratch tr) offs

end Sys2Proof.Machine
end

