-- ==== Sys2Proof/Machine/Link.lean ====
section
/-! DEFINITION. The host link: the device's L2 as a caching agent, the memory island's home agent, translation answers, and the Dailies
records that the link causes (16_link.md R360 to R369, 08_memory.md R189, R190, 09_ordering.md R206, 17_platform.md R379). -/

namespace Sys2Proof.Machine

/-! ### Mailbox and Dailies (R371, R379) -/

/-- Sets a mailbox bit; a rise of an enabled one sends an interrupt. -/
def State.setMbox (s : State) (i : Nat) : State :=
  if bitAt s.gaffer.mbox.toNat i then s
  else
    let s1 := { s with gaffer := { s.gaffer with mbox := BitVec.ofNat 5 (putSlice s.gaffer.mbox.toNat i 1 1) } }
    if bitAt s.gaffer.mboxEn.toNat i then { s1 with link := { s1.link with out := s1.link.out ++ [.interrupt (BitVec.ofNat 5 (2 ^ i))] } } else s1

/-- A record written at DLHEAD at a Gaffer time. `data` stands in the low `bits` of DATA; R379 gives the rest no content, and it is free.
(DESIGN CHOICE: log entry 18.) -/
def State.daily (s : State) (event data : Nat) (bits : Nat := 0) : State :=
  let g := s.gaffer
  let seq := g.dailySeq + 1
  let rec_ := g.time.toNat + event % 2 ^ 16 * 2 ^ 64 + seq.toNat * 2 ^ 80
    + putSlice (Config.choice (s.freshKey 300) % 2 ^ 128) 0 bits (data % 2 ^ bits) * 2 ^ 128
  let s1 := { s with gaffer := { g with
    dailySeq := seq
    dlHead := g.dlHead + 32
    dailies := (if g.dailies.length < 2048 then g.dailies else g.dailies.drop 1) ++ [BitVec.ofNat 256 rec_] } }
  if g.dlHead + 32 = 0 then s1.setMbox 4 else s1

/-- A protocol error: every resident context halts (R360, R362). -/
def State.linkFailed (s : State) : State := s.haltAll 436 .linkProtocol

/-- A message that belongs to no request that could cause it; none arrives while the link is down (R360, R362). -/
def State.unexpected (s : State) : State := if s.linkUp then s.linkFailed else s

/-! ### The device as a caching agent (R363, R364, R366) -/

/-- In `LinkReq.answer`: another cache has sent the data. -/
def fromCache : Nat := 9

/-- The data with which a request's answer of a DAT opcode can arrive: what the host die sends, while the link is up; what the memory island's home has
sent; or, where the home has another cache forward them, what that cache holds. -/
def State.arriving (s : State) (r : LinkReq) (opc : Nat) (data : Unit64) : Option Unit64 :=
  if hostHomed (r.unit * 64) then (if s.answerable r.tag then some data else none)
  else match r.answer with
  | some a => if a.1 = opc then some a.2 else if a.1 = fromCache && s.linkUp then some data else none
  | none => match (s.dirOf r.unit).open_ with
    | some (q, .fwdWait) => if q.agent = 0 && q.tag = r.tag && s.linkUp then some data else none
    | _ => none

/-- Data of the host die show what has been written there since the device last held the unit (R170, R263). -/
def State.learn (s : State) (unit : Nat) (data : Unit64) : State :=
  let new := (upFrom 0 64).filter fun i => s.memByte (unit * 64 + i) != unitByte data i
  if hostHomed (unit * 64) && !new.isEmpty then (s.setMemUnit unit new data).wroteBytes (new.map (unit * 64 + ·)) else s

/-- Another agent takes a unit to write it: configurations of code in it go (R170), and what the device knows of an entry in it may be old from now on. -/
def State.takenAway (s : State) (unit : Nat) : State := (s.codeWritten (upFrom (unit * 64) 64)).loseSight unit

/-- A grant arrives: the unit is held in a state, the requester answers with GntAck, and the request ends. -/
def State.granted (s : State) (r : LinkReq) (st : Moesi) (data : Unit64) (stored : BitVec 4) : State :=
  let s1 := ((s.learn r.unit data).addLine { unit := r.unit, state := st, data := data, stored := stored, past := r.past }).endReq r
  if hostHomed (r.unit * 64) then s1.say (.rsp 4 r.tag r.unit 0)
  else s1.setDir { s1.dirOf r.unit with resp := some (4, 0) }

/-- The state a grant gives answers the request's kind: RdS takes any, RdX and Upg need E or M. Data that come with M are dirty, and no message says
in which granules: all of them count as stored.
(DEDUCED: log entry 20.) -/
def runGrant (s : State) (tag opc : Nat) (st : Moesi) (data : Unit64) : Outcome :=
  match s.reqOf tag with
  | none => .next s.unexpected
  | some r =>
    if r.opc = 0 || (r.opc ≤ 2 && st != .s) then
      .next (match s.arriving r opc data with
        | some d => s.granted r st d (if st = .m then 15 else 0)
        | none => s)
    else .next s.unexpected

def execDats (tag : Nat) (data : Unit64) (s : State) : Outcome := runGrant s tag 0 .s data
def execDate (tag : Nat) (data : Unit64) (s : State) : Outcome := runGrant s tag 1 .e data
def execDatm (tag : Nat) (data : Unit64) (s : State) : Outcome := runGrant s tag 2 .m data

/-- Data of an uncached read reach the access that asked for them: a load that is pending, or the instruction that the thread waits at. -/
def Thread.receive (t : Thread) (seq unit : Nat) (data : Unit64) : Thread :=
  match t.loadAt seq with
  | some _ => { t with loads := t.loads.map fun l => if l.seq = seq then { l with got := l.got ++ [(unit, data)] } else l }
  | none => if t.seq = seq then { t with got := t.got ++ [(unit, data)] } else t

/-- Uncached data: they answer RdU, or are the old value of an AtomS, which stands at its own place in the unit.
(DESIGN CHOICE: log entry 20.) -/
def execDatu (tag : Nat) (data : Unit64) (s : State) : Outcome :=
  match s.reqOf tag with
  | none => .next s.unexpected
  | some r =>
    match r.store, s.arriving r 3 data with
    | none, _ => .next s.unexpected
    | some _, none => .next s
    | some (k, seq), some d =>
      let s1 := s.endReq r
      let t := s.thread k
      if r.opc = 4 then .next (s1.updThread k fun t => t.receive seq r.unit d)
      else if r.opc = 7 then
        match t.storeAt seq with
        | some p =>
          match p.atomic with
          | some o =>
            let old := p.pas.map fun a => unitByte d (a % 64)
            -- at the memory island the home has written the new value (State.homeEffect)
            let s2 := if hostHomed (r.unit * 64) then
                match o.newValue (ofBytes old) with
                | some v => ((p.pas.zip (toBytes v p.pas.length)).foldl (fun (s : State) x => s.setMemByte x.1 x.2) (s1.settlePast r.unit)).wroteGlobal p.pas
                | none => s1
              else s1
            .next ((s2.updCore (s.troupe t.troupe).core fun c => c.forget p.pas).updThread k fun t => t.atomicDone p o old s.stamp (Config.choice s.moves))
          | none => .next s.unexpected
        | none => .next s1
      else .next s.unexpected

/-- A store after a message of it has been completed: it has been performed once every byte is written at its home. -/
def PendingStore.unitDone (p : PendingStore) (tag unit : Nat) : Option PendingStore :=
  let q := { p with sent := p.sent.filter (· != tag), home := p.home ++ [unit] }
  if q.sent.isEmpty && p.bytes.all (fun b => b.loc.bypasses && q.home.contains (b.loc.addr / 64)) then none else some q

/-- A completion: Upg is granted M, a write-back has been merged at its home, an uncached or WC write of a unit is performed there, with every store that
it carried (R205, R363). A unit that CCTL.CLN has cleaned comes back (R193). -/
def execCmp (tag : Nat) (s : State) : Outcome :=
  match s.reqOf tag with
  | none => .next s.unexpected
  | some r =>
    let far := hostHomed (r.unit * 64)
    if far && !s.answerable tag || !far && r.answer.map (·.1) != some 4 then .next s
    else match r.opc with
    | 2 => .next (match s.l2 r.unit with
      | some l => s.granted r .m l.data l.stored
      | none => s.linkFailed)
    | 3 =>
      let s1 := (if far then s.setMemUnit r.unit (granuleBytes (r.en.truncate 4)) r.data else s).endReq r
      .next (if r.keep then s1.acquireUnit r.unit false { ctx := r.ctx.getD 0 } else s1)
    | 5 | 6 =>
      -- at the memory island the home has written the bytes (State.homeEffect)
      let s1 := if far then ((s.settlePast r.unit).setMemUnit r.unit (onesOf r.en.toNat 64) r.data).wroteGlobal ((onesOf r.en.toNat 64).map (r.unit * 64 + ·))
        else s
      .next ((r.store.toList ++ r.merged).foldl (fun (s : State) x => s.updThread x.1 fun t =>
        { t with stores := t.stores.filterMap fun p => if p.seq = x.2 then p.unitDone tag r.unit else some p }) (s1.endReq r))
    | _ => .next s.unexpected

/-! ### Snoops (R362, R366) -/

/-- The snoop by which a home has a cache forward: SnpFwdS for a reader, else SnpFwdX (R365). -/
def HomeReq.snoop (q : HomeReq) : Nat := if q.opc = 0 || q.opc = 4 then 1 else 2

/-- Can a snoop of a unit reach the device's L2: from the host die, or the very one that the memory island's home has sent it and that has no answer yet,
under its request's TAG and naming its requester?
(DEDUCED: log entry 26.) -/
def State.snoopable (s : State) (opc unit tag requester : Nat) : Bool :=
  if hostHomed (unit * 64) then s.linkUp
  else let d := s.dirOf unit
    d.resp.isNone && match d.open_ with
    | some (q, .invWait) => opc == 0 && d.expect.contains 0 && q.tag == tag
    | some (q, .fwdWait) | some (q, .fwdWbData) => opc == q.snoop && d.snooped == some 0 && q.tag == tag && q.agent == requester
    | _ => false

/-- The cache's answer to a snoop: a message, or for the memory island's home what it will receive. The state that RspFwd tells is 0 I, 1 S, 2 O.
(DESIGN CHOICE: log entry 20.) -/
def State.respond (s : State) (opc tag unit aux : Nat) : State :=
  if hostHomed (unit * 64) then s.say (.rsp opc tag unit (if opc = 3 then Config.keptCode aux % 8 else aux))
  else s.setDir { s.dirOf unit with resp := some (opc, aux) }

/-- RspI, with WBP while a WbM of the unit is outstanding (R362, R366). -/
def State.rspI (s : State) (unit tag : Nat) : State := s.respond 1 tag unit (if s.asked unit [3] then 1 else 0)

/-- SnpInv: a clean unit is dropped; a dirty one leaves by its write-back, and the answer carries WBP (R364, R366).
(DESIGN CHOICE: log entry 20.) -/
def execSnpinv (unit tag : Nat) (s : State) : Outcome :=
  .next (if s.snoopable 0 unit tag 0 then ((s.evictUnit unit).rspI unit tag).takenAway unit else s)

/-- SnpFwdS: the data go to the requester under its request's TAG; a dirty unit stays in O, a clean one in S.
(DESIGN CHOICE: log entry 20.) -/
def execSnpfwds (unit tag requester : Nat) (s : State) : Outcome :=
  .next (if !s.snoopable 1 unit tag requester then s
    else match s.l2 unit with
    | none => s.rspI unit tag
    | some l =>
      let keep : Moesi := if l.dirty then .o else .s
      ((s.setLine unit keep).say (.dat 0 tag unit requester l.data)).respond 3 tag unit (if l.dirty then 2 else 1))

/-- SnpFwdX: the data go to the requester, and the unit is dropped.
(DESIGN CHOICE: log entry 20.) -/
def execSnpfwdx (unit tag requester : Nat) (s : State) : Outcome :=
  .next (if !s.snoopable 2 unit tag requester then s
    else match s.l2 unit with
    | none => (s.rspI unit tag).takenAway unit
    | some l =>
      ((((s.remember unit).dropLine unit).say (.dat (if l.dirty then 2 else 1) tag unit requester l.data)).respond 3 tag unit 0).takenAway unit)

/-! ### The home agent of the memory island (R365, R366) -/

/-- Bytes of a unit, by their places, written into memory by a request at the home. -/
def State.mergeUnit (s : State) (unit : Nat) (places : List Nat) (data : Unit64) : State :=
  (s.setMemUnit unit places data).wroteGlobal (places.map (unit * 64 + ·))

/-- The home's message to the agent of a request: an opcode of DAT with data, or 4 for Cmp. The device's own agent is on the local port. -/
def State.homeSays (s : State) (q : HomeReq) (unit opc : Nat) (data : Unit64) : State :=
  if q.agent = 0 then
    { s with link := { s.link with reqs := s.link.reqs.map fun r => if r.tag == q.tag then { r with answer := some (opc, data) } else r } }
  else s.say (if opc = 4 then .rsp 0 q.tag unit 0 else .dat opc q.tag unit q.agent data)

/-- An agent of the host die that has been granted a unit alone will write it. -/
def State.grantedAway (s : State) (q : HomeReq) (unit : Nat) : State := if q.agent = 0 then s else s.takenAway unit

/-- The grant of an open transaction: data of memory, or of a WbM that joined it, or a Cmp; then GNT_WAIT (R365). A sole reader is granted E.
(DESIGN CHOICE: log entry 20.) -/
def State.grantFrom (s : State) (d : Directory) (q : HomeReq) (withData joined : Bool) : State :=
  let mem := s.memUnit d.unit
  let others := d.sharers.filter (· != q.agent)
  let sole := d.owner.isNone && others.isEmpty && !joined
  match q.opc with
  | 0 =>
    if sole then ((s.grantedAway q d.unit).homeSays q d.unit 1 mem).setDir { d with owner := some q.agent, sharers := [], open_ := some (q, .gntWait), resp := none }
    else (s.homeSays q d.unit 0 mem).setDir { d with sharers := others ++ [q.agent], open_ := some (q, .gntWait), resp := none }
  | _ =>
    ((s.grantedAway q d.unit).homeSays q d.unit (if !withData then 4 else if joined then 2 else 1) mem).setDir
      { d with owner := some q.agent, sharers := [], open_ := some (q, .gntWait), resp := none }

/-- The operation of an AtomS: the device's own store names it with its tag; else its AUX code does. -/
def State.atomOf (s : State) (q : HomeReq) : AtomicOp :=
  let new := q.data.toNat % 2 ^ 128
  let cmp := q.data.toNat / 2 ^ 128 % 2 ^ 128
  let own := match s.reqOf q.tag with
    | some r => (match r.store with
      | some (k, seq) => ((s.thread k).storeAt seq).bind (·.atomic)
      | none => none)
    | none => none
  match own, decide (q.agent = 0) with
  | some o, true => o
  | _, _ => { op := min q.op 13, tag := .f16x2, value := new, compare := cmp, dst := none }

/-- Bytes of an atomic by its AUX code (R211, R212, R362). -/
def atomBytes (op : Nat) : Nat :=
  match op with
  | 14 => 8 | 15 => 16 | _ => 4

/-- A write-back merges its granules into memory. What it changes there another agent has written; the device's own has been seen when it was performed. -/
def State.mergeBack (s : State) (unit : Nat) (q : HomeReq) : State :=
  let places := granuleBytes (q.en.truncate 4)
  if q.agent = 0 then s.setMemUnit unit places q.data
  else s.mergeUnit unit (places.filter fun i => s.memByte (unit * 64 + i) != unitByte q.data i) q.data

/-- The effect on memory of a request that grants no state, and its completion, which closes its transaction (R363, R365). A compare-and-swap that fails
writes nothing (R212). -/
def State.homeEffect (s0 : State) (unit : Nat) (q : HomeReq) : State :=
  let s := if q.opc = 3 || q.opc = 4 then s0 else s0.settlePast unit
  match q.opc with
  | 3 => (s.mergeBack unit q).homeSays q unit 4 0
  | 4 => s.homeSays q unit 3 (s.memUnit unit)
  | 7 =>
    let pas := upFrom q.addr (atomBytes q.op)
    let s1 := match (s.atomOf q).newValue (ofBytes (pas.map s.memByte)) with
      | some v => ((pas.zip (toBytes v pas.length)).foldl (fun (s : State) (x : Nat × Byte) => s.setMemByte x.1 x.2) s).wroteGlobal pas
      | none => s
    s1.homeSays q unit 3 (s.memUnit unit)
  | _ => (s.mergeUnit unit (onesOf q.en.toNat 64) q.data).homeSays q unit 4 0

/-- What opens a transaction for a request: snoops, a read of memory, or its whole effect where it grants no state and no cache holds the unit. An
owner beside sharers holds O, and is invalidated with them (R365). -/
def State.homeServe (s : State) (d : Directory) (q0 : HomeReq) : State :=
  let others := d.sharers.filter (· != q0.agent)
  let foreign := (d.owner.filter (· != q0.agent)).toList
  let sharer := d.sharers.contains q0.agent || d.owner == some q0.agent
  -- an Upg from an agent that is no sharer is served as an RdX (R366)
  let q := if q0.opc = 2 && !sharer then { q0 with opc := 1 } else q0
  let snoop (s : State) (opc a : Nat) : State := if a = 0 then s else s.say (.snp opc q.tag d.unit a q.agent)
  let invalidate : State :=
    ((others ++ foreign).foldl (fun s a => snoop s 0 a) s).setDir { d with open_ := some (q, .invWait), expect := others ++ foreign, wbDone := [], resp := none }
  let forward (opc o : Nat) : State := (snoop s opc o).setDir { d with open_ := some (q, .fwdWait), snooped := some o, resp := none }
  let fetch : State := s.setDir { d with open_ := some (q, .memWait) }
  match q.opc with
  | 0 | 4 => match foreign with
    | o :: _ => forward q.snoop o
    | [] => fetch
  | 1 => if !others.isEmpty then invalidate else match foreign with
    | o :: _ => forward q.snoop o
    | [] => fetch
  | 2 => if (others ++ foreign).isEmpty then s.grantFrom d q false false else invalidate
  | 3 => (s.homeEffect d.unit q).setDir (d.wroteBack q.agent)
  | _ => if (others ++ foreign).isEmpty then (s.homeEffect d.unit q).setDir d else invalidate

/-- A WbM of an agent that the open transaction has snooped, before that agent's answer: it joins the transaction (R365). -/
def State.joinFirst (s : State) (unit : Nat) (q : HomeReq) : Option State :=
  let d := s.dirOf unit
  let merged := s.mergeBack unit q
  match d.open_ with
  | some (o, .fwdWait) =>
    if d.snooped = some q.agent then some (merged.setDir { d.wroteBack q.agent with open_ := some (o, .fwdWbData), wbTag := some q.tag }) else none
  | some (_, .invWait) =>
    if d.expect.contains q.agent then some ((merged.homeSays q unit 4 0).setDir { d.wroteBack q.agent with wbDone := d.wbDone ++ [q.agent] }) else none
  | _ => none

/-- Those that were waiting join when the transaction opens. -/
def State.joinWaiting (s : State) (unit : Nat) : State :=
  (s.dirOf unit).waiting.foldl (fun (s : State) q =>
    match if q.opc = 3 then s.joinFirst unit q else none with
    | some s' => s'.setDir { s'.dirOf unit with waiting := (s'.dirOf unit).waiting.filter (· != q) }
    | none => s) s

/-- Serves waiting requests of a unit in their order while none is open: at most n of them. -/
def State.homeNext (s : State) (unit : Nat) : Nat → State
  | 0 => s
  | n + 1 =>
    let d := s.dirOf unit
    match d.open_, d.waiting with
    | none, q :: r => (((s.setDir { d with waiting := r }).homeServe { d with waiting := r } q).joinWaiting unit).homeNext unit n
    | _, _ => s

/-- A transaction closes, and the requests that wait follow. -/
def State.homeClose (s : State) (unit : Nat) : State :=
  let d := s.dirOf unit
  let d1 := { d with open_ := none, expect := [], wbWait := [], wbDone := [], wbTag := none, snooped := none, resp := none }
  (s.setDir d1).homeNext unit (d.waiting.length)

/-- A request arrives at the home: it waits behind an open transaction (R365). -/
def State.homeArrive (s : State) (unit : Nat) (q : HomeReq) : State :=
  let d := s.dirOf unit
  match d.open_ with
  | some _ => s.setDir { d with waiting := d.waiting ++ [q] }
  | none => s.homeServe d q

/-- A request can arrive at the home: one of the host die while the link is up, or one that the device's own agent has sent and that has not arrived
yet, before the link port's of the same fc (R365). -/
def State.mayArrive (s : State) (agent tag unit opc : Nat) : Bool :=
  let d := s.dirOf unit
  !hostHomed (unit * 64) && physOk (unit * 64) &&
    (if agent = 0 then
      s.link.arrived != some s.fclock && (s.link.reqs.any fun r => r.tag == tag && r.unit == unit && r.opc == opc && r.answer.isNone)
      && !(d.waiting.any fun q => q.agent == 0 && q.tag == tag) && !((d.open_.map fun x => x.1.agent == 0 && x.1.tag == tag).getD false)
    else s.linkUp)

/-- A request as it arrives: what the device's own agent sent is what it carries. -/
def State.homeReq (s : State) (q : HomeReq) : HomeReq :=
  match s.reqOf q.tag with
  | some r => if q.agent = 0 then
      { q with en := r.en, data := r.data, addr := if q.opc = 7 then r.unit * 64 + slice r.data.toNat 256 6 else 0, op := if q.opc = 7 then r.en.toNat else 0 }
    else q
  | none => q

/-- The fc in which a request of the link port has arrived. -/
def State.taken (s : State) (agent : Nat) : State := if agent = 0 then s else { s with link := { s.link with arrived := some s.fclock } }

def State.homeTakes (s : State) (unit : Nat) (q : HomeReq) : Outcome :=
  .next (if s.mayArrive q.agent q.tag unit q.opc then (s.homeArrive unit (s.homeReq q)).taken q.agent else s)

def execRds (agent tag unit : Nat) (s : State) : Outcome := s.homeTakes unit { agent := agent, tag := tag, opc := 0 }
def execRdx (agent tag unit : Nat) (s : State) : Outcome := s.homeTakes unit { agent := agent, tag := tag, opc := 1 }
def execUpg (agent tag unit : Nat) (s : State) : Outcome := s.homeTakes unit { agent := agent, tag := tag, opc := 2 }
def execRdu (agent tag unit : Nat) (s : State) : Outcome := s.homeTakes unit { agent := agent, tag := tag, opc := 4 }
def execWru (agent tag unit : Nat) (en : BitVec 64) (data : Unit64) (s : State) : Outcome :=
  s.homeTakes unit { agent := agent, tag := tag, opc := 5, en := en, data := data }
def execWrc (agent tag unit : Nat) (en : BitVec 64) (data : Unit64) (s : State) : Outcome :=
  s.homeTakes unit { agent := agent, tag := tag, opc := 6, en := en, data := data }
def execAtoms (agent tag addr : Nat) (op : BitVec 4) (compare new : BitVec 128) (s : State) : Outcome :=
  s.homeTakes (addr / 64) { agent := agent, tag := tag, opc := 7, addr := addr, op := op.toNat, data := BitVec.ofNat 512 (new.toNat + compare.toNat * 2 ^ 128) }

/-- The grant that follows invalidation, or an uncached request's effect. -/
def State.invalidated (s : State) (unit : Nat) : State :=
  let d := s.dirOf unit
  match d.open_ with
  | some (q, .invWait) =>
    if !d.expect.isEmpty || !d.wbWait.isEmpty then s
    else match q.opc with
      | 2 => s.grantFrom d q false false
      | 1 => s.setDir { d with open_ := some (q, .memWait) }
      | _ => (s.homeEffect unit q).homeClose unit
  | _ => s

/-- What follows a joined WbM: the grant with its data, or for an RdU the merged unit (R365). -/
def State.grantOrSupply (s : State) (d : Directory) (q : HomeReq) : State :=
  if q.opc = 4 then ((s.homeEffect d.unit q).setDir d).homeClose d.unit else s.grantFrom d q true true

/-- A WbM: one from an agent that the open transaction has snooped joins it, another waits its turn (R365). -/
def execWbm (agent tag unit : Nat) (granules : BitVec 4) (data : Unit64) (s : State) : Outcome :=
  let q := s.homeReq { agent := agent, tag := tag, opc := 3, en := BitVec.ofNat 64 granules.toNat, data := data }
  let d := s.dirOf unit
  let done := (s.mergeBack unit q).homeSays q unit 4 0
  .next (if !s.mayArrive agent tag unit 3 then s
    else (match s.joinFirst unit q, d.open_ with
    | some s', _ => s'
    | none, some (o, .fwdWbWait) =>
      if d.snooped = some agent then done.grantOrSupply (d.wroteBack agent) o else s.homeArrive unit q
    | none, some (_, .invWait) =>
      if d.wbWait.contains agent then (done.setDir { d.wroteBack agent with wbWait := d.wbWait.filter (· != agent) }).invalidated unit
      else s.homeArrive unit q
    | none, _ => s.homeArrive unit q).taken agent)

/-- Memory data arrives at the home and goes out with the granted state; RdU is answered by DatU, which closes it. -/
def execMemoryData (unit : Nat) (s : State) : Outcome :=
  let d := s.dirOf unit
  .next (match d.open_ with
    | some (q, .memWait) =>
      let s1 := s.slcFill unit
      if q.opc = 4 then (s1.homeEffect unit q).homeClose unit else s1.grantFrom d q true false
    | _ => s)

/-- Can a response of an agent arrive: the host die's while the link is up, the device's own once its L2 has given it? -/
def State.mayRespond (s : State) (agent unit opc : Nat) : Bool :=
  if agent = 0 then ((s.dirOf unit).resp.map (·.1)) == some opc else s.linkUp

/-- Does a response match the transaction that is open at the home: the device's own does, one of the host die carries its request's TAG (R362)?
(DEDUCED: log entry 26.) -/
def HomeReq.matches (q : HomeReq) (a : Sender) : Bool := a.id == 0 || a.tag == q.tag

/-- An entry whose home has received the answer of the device's own agent. -/
def Directory.heard (d : Directory) (agent : Nat) : Directory := if agent = 0 then { d with resp := none } else d

/-- RspI: an invalidation answered, or an owner that no longer holds the unit: its data come with its WbM, or where it dropped a clean copy,
from memory.
(DESIGN CHOICE: log entry 20.) -/
def execRspi (sender : Sender) (unit : Nat) (wbp0 : Bool) (s : State) : Outcome :=
  let agent := sender.id
  let d0 := s.dirOf unit
  let wbp := if agent = 0 then (d0.resp.map fun x => x.2 == 1).getD false else wbp0
  let d := d0.heard agent
  .next (if !s.mayRespond agent unit 1 then s
    else match d.open_ with
    | some (q, .invWait) =>
      if d.expect.contains agent && q.matches sender then
        let wait := wbp && !d.wbDone.contains agent
        (s.setDir { d.wroteBack agent with expect := d.expect.filter (· != agent), wbWait := if wait then d.wbWait ++ [agent] else d.wbWait }).invalidated unit
      else s.linkFailed
    | some (q, .fwdWait) =>
      if d.snooped = some agent && q.matches sender then
        if wbp then s.setDir { d with open_ := some (q, .fwdWbWait) }
        else s.setDir { d.wroteBack agent with open_ := some (q, .memWait), snooped := none }
      else s.linkFailed
    | some (q, .fwdWbData) =>
      if d.snooped = some agent && q.matches sender then
        match d.wbTag with
        | some t => (s.homeSays { agent := agent, tag := t, opc := 3 } unit 4 0).grantOrSupply d q
        | none => s.grantOrSupply d q
      else s.linkFailed
    | _ => s.linkFailed)

/-- RspS: the snooped owner now shares the unit, and memory supplies the data.
(DESIGN CHOICE: log entry 20.) -/
def execRsps (sender : Sender) (unit : Nat) (s : State) : Outcome :=
  let agent := sender.id
  let d := (s.dirOf unit).heard agent
  .next (if !s.mayRespond agent unit 2 then s
    else match d.open_ with
    | some (q, .fwdWait) =>
      if d.snooped = some agent && q.matches sender then
        s.setDir { d.wroteBack agent with sharers := d.sharers ++ [agent], open_ := some (q, .memWait), snooped := none }
      else s.linkFailed
    | _ => s.linkFailed)

/-- RspFwd: the cache has sent the data to the requester and kept O, S or I.
(DESIGN CHOICE: log entry 20.) -/
def execRspfwd (sender : Sender) (unit : Nat) (kept : BitVec 3) (s : State) : Outcome :=
  let agent := sender.id
  let d0 := s.dirOf unit
  let d := d0.heard agent
  let o := if agent = 0 then d0.resp.any (·.2 == 2) else kept.toNat == Config.keptCode 2 % 8
  .next (if !s.mayRespond agent unit 3 then s
    else match d.open_ with
    | some (q, .fwdWait) =>
      if d.snooped = some agent && q.matches sender then
        let s1 := if q.agent = 0 then s.homeSays q unit fromCache 0 else s
        match q.opc with
        | 0 =>
          s1.setDir { d with
            owner := if o then some agent else none
            sharers := (d.sharers ++ (if o then [q.agent] else [agent, q.agent])).dedup
            open_ := some (q, .gntWait)
            snooped := none }
        | 4 => s1.homeClose unit
        | _ => (s1.grantedAway q unit).setDir { d with owner := some q.agent, sharers := [], open_ := some (q, .gntWait), snooped := none }
      else s.linkFailed
    | _ => s.linkFailed)

/-- The requester's GntAck closes the transaction. -/
def execGntack (sender : Sender) (unit : Nat) (s : State) : Outcome :=
  let agent := sender.id
  let d := s.dirOf unit
  .next (if !s.mayRespond agent unit 4 then s
    else match d.open_ with
    | some (q, .gntWait) => if q.agent = agent && q.matches sender then s.homeClose unit else s.linkFailed
    | _ => if agent = 0 then s else s.linkFailed)

/-! ### Answers that do not come (R189, R206, R363) -/

/-- The fc after which a missing answer halts (R189, R206). -/
def answerLimit : Nat := 2 ^ 28

/-- A completion missing for 2^28 fc halts the context whose access caused the request (R206, R363). -/
def execAcknowledgementTimeout (tag : Nat) (s : State) : Outcome :=
  .next (match (s.reqOf tag).filter fun r => decide (answerLimit ≤ (s.fclock - r.since).toNat) with
    | some r => match r.ctx with
      | some c => s.raiseHalt c { index := 436, cause := .linkProtocol }
      | none => s
    | none => s)

/-- Every context of an address space. -/
def State.haltAsid (s : State) (asid : BitVec 16) (cause : Cause) : State :=
  (upFrom 0 s.contexts.length).foldl (fun s k =>
    if (s.ctx k).live && (s.ctx k).asid == asid then s.raiseHalt k { index := 436, cause := cause } else s) s

/-- A translation or page request without a response for 2^28 fc halts the context (R189). -/
def execTranslationLinkTimeout (tag : Nat) (s : State) : Outcome :=
  let late (since : DWord) : Bool := decide (answerLimit ≤ (s.fclock - since).toNat)
  .next (match s.xlreqs.find? (·.tag == tag), s.pgreqs.find? (·.1.tag == tag) with
    | some r, _ => if late r.since then s.haltAsid r.asid .translationLinkTimeout else s
    | none, some r => if late r.1.since then s.haltAsid r.1.asid .translationLinkTimeout else s
    | none, none => s)

/-! ### Translation (R189, R190, R367, R368) -/

/-- What a response fills: an entry of the core's first-level TLB and one of its group's second-level TLB. Which entry a full TLB gives up is
the device's: the oldest (log entry 11).
(DESIGN CHOICE: log entry 11.) -/
def State.fillTlb (s : State) (r : XlReq) (e : TlbEntry) : State :=
  let keep (n : Nat) (l : List TlbEntry) : List TlbEntry := if l.length < n then l else l.drop 1
  let l1 := s.tlb.filter fun x => x.first == some r.core
  let l2 := s.tlb.filter fun x => x.first.isNone && x.group == r.core / 4
  let rest := s.tlb.filter fun x => !(x.first == some r.core) && !(x.first.isNone && x.group == r.core / 4)
  { s with tlb := rest ++ keep 192 l1 ++ [{ e with first := some r.core }] ++ keep 3072 l2 ++ [{ e with first := none }] }

/-- A translation response, its frame within the 52 bits of a physical address (R20). The two bits of the policy are 0 WB, 1 WC and else UC: the reference
gives no codes. A stale one is discarded and its request sent again; a not-present one becomes a page request of everyone who
waits.
(DESIGN CHOICE: log entry 92.) -/
def execXlrsp (tag : Nat) (present : Bool) (frame : Nat) (size : BitVec 3) (perms : BitVec 3) (policy : BitVec 2) (tracked : Bool) (s : State) : Outcome :=
  match s.xlreqs.find? (·.tag == tag) with
  | none => .next s.unexpected
  | some r =>
    let n := pageBytes size.toNat
    if !s.answerable tag || !physOk (frame / n * n + (n - 1)) then .next s
    else if r.dead then .next { s with xlreqs := s.xlreqs.filter (·.tag != tag) }
    else if r.stale then
      .next (({ s with xlreqs := s.xlreqs.map fun (x : XlReq) => if x.tag = tag then { x with stale := false, since := s.fclock } else x }).say (.xlReq tag r.asid r.page r.kind))
    else
      let ws := (s.xlwaits.filter (·.1 == tag)).map (·.2)
      let s1 := { s with xlreqs := s.xlreqs.filter (·.tag != tag), xlwaits := s.xlwaits.filter (·.1 != tag) }
      if present then
        .next (s1.fillTlb r
          { asid := r.asid, first := none, group := r.core / 4, base := r.page * 4096 / n * n, size := n, frame := frame / n * n
            read := bitAt perms.toNat 0, write := bitAt perms.toNat 1, exec := bitAt perms.toNat 2
            policy := match policy.toNat with
              | 0 => .wb
              | 1 => .wc
              | _ => .uc
            tracked := tracked })
      else .next (ws.foldl (fun s w => s.requestPage r.asid r.page 0 0 w) s1)

/-- Does an entry meet an invalidated range? Size 0 means every translation of the ASID. -/
def rangeMeets (base size a n : Nat) : Bool := size = 0 || (decide (a < base + size) && decide (base < a + n))

/-- Is an issued access of the address space still to be performed that used a translation of the range? -/
def State.rangeBusy (s : State) (asid : BitVec 16) (base size : Nat) : Bool :=
  let inR (l : Loc) : Bool := l.scratch.isNone && rangeMeets base size l.va 1
  s.threads.any fun t => (s.ctx (s.ens t.ens).ctx).asid == asid && (t.loads.any (fun l => l.locs.any inR) || t.stores.any (fun p => p.locs.any inR))

/-- An invalidation, answered at once until the device's translation is ready (R377): matching entries go, overlapping requests become stale, and configurations whose code lies in the range go (R368, R170). -/
def execXlinv (tag : Nat) (asid : BitVec 16) (base size : Nat) (s : State) : Outcome :=
  let s1 := { s with
    tlb := s.tlb.filter fun e => !(e.asid == asid && rangeMeets base size e.base e.size)
    xlreqs := s.xlreqs.map fun (r : XlReq) => if r.asid == asid && rangeMeets base size (r.page * 4096) 4096 then { r with stale := true } else r
    xlinvs := s.xlinvs ++ [({ tag := tag, asid := asid, base := base, size := size } : XlInvOp)] }
  .next (if s.linkUp && !s.gaffer.works 1 then s.say (.xlInvCmp tag)
    else if s.linkUp then s1.dropConfigs fun _ m => (s.ctx m.ctx).asid == asid && m.vpages.any fun p => rangeMeets base size (p * 4096) 4096
    else s)

/-- XlInvCmp goes out once no access that used a dropped translation remains. -/
def execXlinvcmp (tag : Nat) (s : State) : Outcome :=
  .next (match s.xlinvs.find? (·.tag == tag) with
    | none => s
    | some o =>
      if s.rangeBusy o.asid o.base o.size then s
      else ({ s with xlinvs := s.xlinvs.filter (·.tag != tag) }).say (.xlInvCmp tag))

/-! ### Training, Present (R360, R369) -/

/-- Training ends: modules that fail are disabled; with fewer than 8 the link stays down and no function is ready. Training runs when the memory
island gains power, and at a retrain.
(DEDUCED: log entry 89.) -/
def execLinkTraining (working : BitVec 16) (s : State) : Outcome :=
  let up := decide (8 ≤ popCount working.toNat 16)
  let s1 := { s with link := { s.link with modules := working, up := up, training := false } }
  .next (if !s.link.training then s
    else if up then s1 else { s1 with gaffer := { s1.gaffer with ready := 0, grp := 0 } })

/-- A retrain that is not complete within 2^24 fc (R360). -/
def execRetrainTimeout (s : State) : Outcome :=
  .next (if s.link.training && decide (2 ^ 24 ≤ (s.fclock - s.link.trainSince).toNat) then
    let s1 := s.linkFailed.daily 8 0
    { s1 with link := { s1.link with trainSince := s.fclock } } else s)

def execPresentcmp (tag : Nat) (s : State) : Outcome :=
  .next (if s.link.presents.contains tag then if !s.answerable tag then s else { s with link := { s.link with presents := s.link.presents.filter (· != tag) } }
    else s.unexpected)

end Sys2Proof.Machine
end

