-- ==== Sys2Proof/Machine/Order.lean ====
section
/-! DEFINITION. The instants at which an issued load binds, an obligation is met, and a store or atomic reaches its visibility point
(02_encoding.md R37, 08_memory.md R184, R187, R194, 09_ordering.md R198 to R206). The turn names which; an access that may not go yet stays, and asks
for what it lacks. -/

namespace Sys2Proof.Machine

/-! ### MX blocks in pages of different policies (R76, R187) -/

/-- Is a load, or a store, of an MX block and its scale under way: part of it has been read, or asked for, or written? -/
def State.loadBegun (s : State) (k : Nat) (l : PendingLoad) : Bool :=
  l.form.scale && (!l.got.isEmpty || s.link.reqs.any fun r => r.opc == 4 && r.store == some (k, l.seq))
def PendingStore.begun (p : PendingStore) : Bool := p.mx && (!p.sent.isEmpty || !p.home.isEmpty)

/-- A block and its scale are one atomic unit: where they are reached past the caches, so that their parts can be read or written in different turns, a
load does not begin while a store of another thread to them is under way (R76).
(DESIGN CHOICE: log entry 98.) -/
def State.mixedHeld (s : State) (k : Nat) (l : PendingLoad) : Bool :=
  l.form.scale && !s.loadBegun k l && (upFrom 0 s.threads.length).any fun j =>
    j != k && (s.thread j).stores.any fun p => p.begun && p.touches l.locs

/-- Nor does a store begin while a load or another store of them is under way.
(DESIGN CHOICE: log entry 98.) -/
def State.mixedBusy (s : State) (k : Nat) (p : PendingStore) : Bool :=
  p.mx && !p.begun && p.locs.any Loc.bypasses && (upFrom 0 s.threads.length).any fun j =>
    j != k && ((s.thread j).loads.any (fun l => s.loadBegun j l && p.touches l.locs) || (s.thread j).stores.any fun q => q.begun && p.touches q.locs)

/-! ### Loads -/

/-- Which bytes of a load are scratch of unpredictable content; and their first load, once they have been loaded (R155, R176). -/
def State.vagueAt (s : State) (ls : List Loc) : List Bool := ls.map fun l => (l.scratch.map fun k => (s.troupe k).isVague l.addr).getD false
def State.loadedAt (s : State) (ls : List Loc) : State :=
  ls.foldl (fun s l => match l.scratch with
    | some k => if (s.troupe k).vague.any (·.2.2) then s.updTroupe k (·.loaded l.addr) else s
    | none => s) s

/-- A prefetch ends: the block of its address comes into the named level, 0 the L1, else the L2, once it can be read; its flag falls (R193). -/
def State.prefetch (s : State) (k : Nat) (t : Thread) (l : PendingLoad) (level : Nat) : State :=
  let pas := l.locs.map (·.addr)
  let core := (s.troupe t.troupe).core
  if !s.allReadable pas then s.acquireAll pas false { ctx := s.ctxOfTroupe t.troupe }
  else
    let s1 := if level = 0 then s.fillL1 core pas else (unitsOf pas).foldl (if level = 1 then State.allocateUnit else State.slcFill) s
    s1.updThread k fun t => { t.lowerFlag l.flag with loads := t.loads.filter fun x => x.seq != l.seq }

/-- The places of texel i of a sample. -/
def PendingLoad.texel (l : PendingLoad) (i : Nat) : List Loc :=
  let n := (l.form.image.map (·.size)).getD 1
  (l.locs.drop (i * n)).take n
def PendingLoad.texels (l : PendingLoad) : Nat := l.locs.length / max 1 ((l.form.image.map (·.size)).getD 1)

/-- The places that a load has yet to read, and all its bytes, those of the texels read earlier among them. -/
def PendingLoad.left (l : PendingLoad) : List Loc :=
  if l.part.isEmpty then l.locs else ((upFrom 0 l.texels).filter fun i => !(l.part.any (·.1 == i))).flatMap l.texel
def PendingLoad.whole (l : PendingLoad) (bs : List Byte) : List Byte :=
  if l.part.isEmpty then bs
  else ((upFrom 0 l.texels).foldl (fun x i => match l.part.find? (·.1 == i) with
    | some p => (x.1 ++ p.2, x.2)
    | none => (x.1 ++ x.2.take (l.texel i).length, x.2.drop (l.texel i).length)) (([] : List Byte), bs)).1

/-- A TEX reads those of its texels that `mask` has: each is a relaxed load of its own (R311).
(DEDUCED: log entry 52.) -/
def State.readTexels (s : State) (k index mask : Nat) : State :=
  let t := s.thread k
  match t.loads[index]? with
  | none => s
  | some l =>
    let is_ := (upFrom 0 l.texels).filter fun i => bitAt mask i && !(l.part.any (·.1 == i))
    if (l.form.image.bind (·.terms)).isNone then s
    else is_.foldl (fun s i =>
      let ls := l.texel i
      if !(s.thread k).mayBind { l with locs := ls } || s.badAt ls then s
      else match s.gather k (s.thread k) l.seq ls l.got s.viaL1 true with
        | (s1, none) => s1
        | (s1, some bs) => s1.updThread k fun t => { t with loads := t.loads.map fun x => if x.seq = l.seq then { x with part := x.part ++ [(i, bs)] } else x }) s

/-- A load of thread k binds, or asks for what it lacks; `mask` as for `Thread.bind`. -/
def State.bindLoad (s : State) (k : Nat) (t : Thread) (l : PendingLoad) (fromL1 : Bool) (mask : Option Nat := none) : State :=
  match l.form.level with
  | some n => s.prefetch k t l n
  | none =>
    if !t.mayBind l || s.mixedHeld k l then s
    else match s.gather k t l.seq l.left l.got (fromL1 && !(l.form.scale && l.locs.any Loc.bypasses)) (l.form.frag.isSome || l.form.image.isSome) with
      | (s1, none) => s1
      | (s1, some bytes) =>
        if s.badAt l.left then s.dataCheck k l.left
        else (s1.loadedAt l.locs).setThread k (t.bind l (l.whole bytes) s1.stamp (Config.choice s.moves) (s.vagueAt l.locs) (s.troupe t.troupe).relStamp mask)

/-- Has what an obligation waits for ended: the grid operation of RBOX.G, and the write-backs of a cleaned range? -/
def State.obligationEnded (s : State) (o : Obligation) : Bool := o.hold.isNone && o.units.all fun u => !s.asked u [3]

/-- An obligation writes only some of its registers yet, those that `mask` has; a load binds there (R37, R39).
(DEDUCED: log entry 8.) -/
def State.landSome (s : State) (k index mask : Nat) : State :=
  match s.threads[k]? with
  | none => s
  | some t =>
    match t.loads[index]? with
    | some l => s.bindLoad k t l s.viaL1 (some mask)
    | none =>
      match t.owed[index - t.loads.length]? with
      | none => s
      | some o =>
        if s.obligationEnded o then
          s.setThread k { t.land (o.writes.filter fun x => bitAt mask x.1) (Config.choice s.moves) with
            owed := updateAt t.owed (index - t.loads.length) fun o => { o with writes := o.writes.filter fun x => !bitAt mask x.1 } }
        else s

/-- A flagged obligation of a thread is met: `index` counts its pending loads first, then its other obligations (R37). -/
def execObligationMet (thread index : Nat) (fromL1 : Bool) (s : State) : Outcome :=
  match s.threads[thread]? with
  | none => .next s
  | some t =>
    match t.loads[index]? with
    | some l => .next (s.bindLoad thread t l fromL1)
    | none =>
      match t.owed[index - t.loads.length]? with
      | none => .next s
      | some o =>
        .next (if s.obligationEnded o then
          s.setThread thread { (t.land o.writes (Config.choice s.moves)).lowerFlag o.flag with owed := t.owed.eraseIdx (index - t.loads.length) }
        else s)

/-! ### Visibility points -/

/-- R203 for a store that is a release, at its scope, and the orders every store obeys (R201, R202, R205). -/
def State.mayShow (s : State) (t : Thread) (p : PendingStore) : Bool :=
  t.ordered.all (fun l => decide (p.seq < l.seq))
  && !t.acquirePending p.seq
  && t.stores.all (fun q => decide (p.seq ≤ q.seq) || (q.atomic.isNone && !q.touches p.locs))
  && (!uncachedAt p.locs || t.stores.all (fun q => decide (p.seq ≤ q.seq) || !uncachedAt q.locs))
  && (!p.order.releases || p.scope == .th || t.stores.all (fun q => decide (p.seq ≤ q.seq)))
  && (!p.order.releases || p.scope != .sy || (s.troupe t.troupe).linkCount == 0)

/-- Performs a store's bytes at their places, sets its full bits, and tells what a write reaches. -/
def State.performStore (s : State) (core : Nat) (bytes : List StoreByte) (setFull : Bool) : State :=
  let s1 := bytes.foldl (fun s b => s.putLoc b.loc (b.over (s.getLoc b.loc))) s
  match bytes with
  | [] => s1
  | b :: _ =>
    match b.loc.scratch with
    | some tr =>
      let s2 := if setFull then s1.updTroupe tr fun t => bytes.foldl (fun t x => t.setFullBit x.loc.addr true) t else s1
      s2.wroteScratch tr (bytes.map (·.loc.addr))
    | none => (s1.updCore core (·.writeL1 bytes)).wroteGlobal (bytes.map (·.loc.addr))

/-- Is an atomic performed at the home rather than in the L2: at scope .SY, or on an uncached page (R212)? -/
def PendingStore.atHome (p : PendingStore) : Bool := p.atomic.isSome && (p.scope == .sy || p.locs.any Loc.bypasses)

/-- The byte enables and the data of the bytes of a store in one unit, the write of a whole byte each.
(DEDUCED: log entry 29.) -/
def unitEnables (bs : List StoreByte) : BitVec 64 := BitVec.ofNat 64 (maskOf (bs.map (·.loc.addr % 64)))
def unitData (bs : List StoreByte) : Unit64 := bs.foldl (fun u b => setUnitByte u (b.loc.addr % 64) b.val) 0

/-- The units of a store's uncached bytes that have not been written at their homes. -/
def PendingStore.unitsLeft (p : PendingStore) : List Nat :=
  (unitsOf ((p.bytes.filter (·.loc.bypasses)).map (·.loc.addr))).filter fun u => !p.home.contains u

/-- Uncached bytes of a store at the memory island's home, where nothing stands in the way: memory is written past the caches. -/
def State.writeHome (s : State) (bs : List StoreByte) : State :=
  let s1 := (unitsOf (bs.map (·.loc.addr))).foldl State.settlePast s
  (bs.foldl (fun s b => s.setMemByte b.loc.addr (b.over (s.memByte b.loc.addr))) s1).wroteGlobal (bs.map (·.loc.addr))

/-- The later write-combining stores of a thread that a drain of a unit carries beside store p: plain ones of bytes of that unit alone, in program order,
none of which would pass an access that it must follow (R201, R205). -/
def Thread.combines (t : Thread) (p : PendingStore) (unit : Nat) : List PendingStore :=
  let inUnit (q : PendingStore) : Bool := q.bytes.all fun b => b.loc.bypasses && b.loc.policy == .wc && b.loc.addr / 64 == unit
  (t.stores.filter fun q => decide (p.seq < q.seq)).foldl (fun l q =>
    let open_ := t.stores.filter fun x => decide (x.seq < q.seq) && x.seq != p.seq && !(l.any fun y => y.seq == x.seq)
    if q.atomic.isNone && !q.mx && !q.order.releases && inUnit q && q.sent.isEmpty && q.home.isEmpty && t.ordered.all (fun x => decide (q.seq < x.seq))
        && !t.acquirePending q.seq && open_.all (fun x => x.atomic.isNone && !x.touches q.locs) then l ++ [q] else l) []

/-- The uncached units of a store go to their homes: at once where the memory island's can take them, else by WrU or WrC, which waits for its Cmp
(R187, R205, R206, R363). What a drain of a write-combining unit carries beside it goes with it.
(DEDUCED: log entry 29.) -/
def State.sendHome (s : State) (k : Nat) (t : Thread) (p : PendingStore) : State :=
  let b : Behalf := { ctx := s.ctxOfTroupe t.troupe, troupe := some t.troupe, access := some (k, p.seq) }
  let merged (u : Nat) : List PendingStore := if !p.mx && (p.part u).all (fun x => x.loc.policy == .wc) then t.combines p u else []
  let bytes (u : Nat) : List StoreByte := p.part u ++ (merged u).flatMap fun q => q.part u
  let near := p.unitsLeft.filter s.homeWrites
  let far := p.unitsLeft.filter fun u => !s.homeWrites u
  let counted := far.filter fun u => hostHomed (u * 64)
  if !counted.isEmpty && !s.mayCount b counted.length then s
  else
    let s1 := near.foldl (fun s u => s.writeHome (bytes u)) s
    let opc (u : Nat) : Nat := if (p.part u).any (fun x => x.loc.policy == .uc) then 5 else 6
    let s2 := far.foldl (fun s u => s.send { opc := opc u, unit := u, data := unitData (bytes u), en := unitEnables (bytes u), ctx := some b.ctx,
                                             troupe := b.troupe, store := some (k, p.seq), merged := (merged u).map fun q => (k, q.seq) }) s1
    let new := s2.link.reqs.drop s1.link.reqs.length
    let q := { p with sent := new.map (·.tag), home := p.home ++ near }
    let gone := near.flatMap fun u => (merged u).map (·.seq)
    (s2.passRelease k p).updThread k fun t =>
      let t1 := { t with stores := (t.stores.filter fun x => !gone.contains x.seq).map fun x =>
        if x.seq = p.seq then q else { x with sent := x.sent ++ (new.filter fun r => r.merged.contains (k, x.seq)).map (·.tag) } }
      if far.isEmpty && p.bytes.all (fun x => x.loc.bypasses) then t1.shown p else t1

/-- The code of an atomic's operation in AUX of AtomS (R362). -/
def AtomicOp.code (o : AtomicOp) (bytes : Nat) : Nat := if o.op = 13 then (if bytes = 8 then 14 else if bytes = 16 then 15 else 13) else o.op

/-- What an AtomS carries in its four data slots: the operand, the compare operand above bit 127, and the byte's place in the unit above bit 255. The
reference does not place them.
(DESIGN CHOICE: log entry 20.) -/
def AtomicOp.carried (o : AtomicOp) (addr : Nat) : Unit64 := BitVec.ofNat 512 (o.value % 2 ^ 128 + o.compare % 2 ^ 128 * 2 ^ 128 + addr % 64 * 2 ^ 256)

/-- An atomic performed at the home of its unit: the device's own copy leaves first, then the memory island's home performs it at once where nothing
stands in the way, else AtomS carries it (R212, R362). -/
def State.atomAtHome (s : State) (k : Nat) (t : Thread) (p : PendingStore) (o : AtomicOp) : State :=
  let pas := p.pas
  let unit := pas.headD 0 / 64
  let core := (s.troupe t.troupe).core
  let far := hostHomed (unit * 64)
  let b : Behalf := { ctx := s.ctxOfTroupe t.troupe, troupe := some t.troupe, access := some (k, p.seq) }
  if p.locs.any Loc.cached && (s.l2 unit).isSome then (if s.asked unit [0, 1, 2, 3] then s else s.evictUnit unit (some b.ctx))
  else if p.locs.any Loc.cached && s.asked unit [0, 1, 2, 3] then s
  else if s.homeWrites unit then
    let s0 := s.settlePast unit
    let old := pas.map s0.memByte
    let s1 := match o.newValue (ofBytes old) with
      | some v => ((pas.zip (toBytes v pas.length)).foldl (fun (s : State) (x : Nat × Byte) => s.setMemByte x.1 x.2) s0).wroteGlobal pas
      | none => s0
    ((s1.updCore core fun c => c.forget pas).passRelease k p).updThread k fun t =>
      t.atomicDone p o old s.stamp (Config.choice s.moves) (s.troupe t.troupe).relStamp
  else if far && !s.mayCount b then s
  else
    let s1 := (s.settlePast unit).send { opc := 7, unit := unit, data := o.carried (pas.headD 0), en := BitVec.ofNat 64 (o.code pas.length)
                                         ctx := some b.ctx, troupe := some t.troupe, store := some (k, p.seq) } (o.code pas.length)
    (s1.passRelease k p).updThread k fun t => { t with stores := t.stores.map fun x => if x.seq = p.seq then { x with sent := [s.freeTag] } else x }

/-- A store or atomic of thread k reaches its visibility point, or asks for what it lacks: ownership of its units in the L2, or for uncached bytes
and atomics at the home the completion of their messages. A failed compare-and-swap writes nothing (R212). -/
def State.showStore (s : State) (k : Nat) (t : Thread) (p : PendingStore) : State :=
  let core := (s.troupe t.troupe).core
  let cached := p.bytes.filter fun b => !b.loc.bypasses
  let pas := (cached.filter (·.loc.scratch.isNone)).map (·.loc.addr)
  let b : Behalf := { ctx := s.ctxOfTroupe t.troupe, troupe := some t.troupe, access := some (k, p.seq) }
  if !s.mayShow t p || !p.sent.isEmpty || s.mixedBusy k p then s
  else match p.atomic with
  | some o =>
    if s.badAt p.locs then s.dataCheck k p.locs
    else if p.atHome then s.atomAtHome k t p o
    else if !s.allWritable pas then s.acquireAll pas true b
    else
      let old := p.pas.map s.getPhys
      let s1 := match o.newValue (ofBytes old) with
        | some v => s.performStore core (storeOf p.locs (toBytes v p.bytes.length)) false
        | none => s
      ((s1.updCore core fun c => c.forget p.pas).passRelease k p).updThread k fun t =>
        t.atomicDone p o old s.stamp (Config.choice s.moves) (s.troupe t.troupe).relStamp
  | none =>
    if !p.unitsLeft.isEmpty then s.sendHome k t p
    else if !s.allWritable pas then s.acquireAll pas true b
    else ((s.performStore core cached p.setFull).passRelease k p).updThread k (·.shown p)

def execVisibilityPoint (thread index : Nat) (s : State) : Outcome :=
  match s.threads[thread]? with
  | none => .next s
  | some t =>
    match t.stores[index]? with
    | none => .next s
    | some p => .next (s.showStore thread t p)

/-! ### Sources read late (R39) -/

/-- Word j of a pending store's data read again, as its register now stands: bytes, and the operands of an atomic, of which a compare-and-swap has two
halves, the compare operand first. -/
def PendingStore.reread (p : PendingStore) (t : Thread) (d : DataSource) (j : Nat) : PendingStore :=
  match d.regs[j]? with
  | none => p
  | some x =>
    let r := t.reg x.1
    let v := match portRead false x.2 r with
      | .mismatch => r.val
      | y => y.get.val
    let ws := updateAt d.words j fun _ => v
    let half := ws.length / 2
    let new := if p.atomic.any (·.op == 13) then ws.drop half else ws
    let bs := match d.frag with
      | some (c, els) => c.toMem els v
      | none => (storeBytes d.type new).take p.bytes.length
    { p with src := some { d with words := ws }
             bytes := (p.bytes.zip bs).map fun x => { x.1 with val := x.2 }
             atomic := p.atomic.map fun o => { o with value := ofBytes bs, compare := if o.op = 13 then ofWords (ws.take half) else o.compare } }

/-- A store reads one of its data registers between its issue and the end of its "b" obligation: what it then holds is the value stored (R39).
(DEDUCED: log entry 8.) -/
def State.readSource (s : State) (k index j : Nat) : State :=
  match s.threads[k]? with
  | none => s
  | some t =>
    match t.stores[index]? with
    | none => s
    | some p => match p.src with
      | none => s
      | some d =>
        if p.sent.isEmpty && p.home.isEmpty && t.owed.any (fun o => o.stores.contains p.seq) then
          s.updThread k fun t => { t with stores := t.stores.map fun x => if x.seq = p.seq then p.reread t d j else x }
        else s

end Sys2Proof.Machine
end

