-- ==== Sys2Proof/Machine/Atomic.lean ====
section
/-! DEFINITION. Atomics and fences (09_ordering.md R209 to R214). An atomic is performed in a turn of its own, at its visibility point. -/

namespace Sys2Proof.Machine

/-! ### Shapes -/

/-- The tags an operand of R211 accepts. -/
def atomicWant (op : Nat) (tag : Tag) : List Tag :=
  match op with
  | 8 => []
  | 11 => wantF32
  | 12 => if tag = .bf16x2 then [.bf16x2] else [.f16x2]
  | _ => [.b32]

/-- The checked place of an atomic of z bytes (R213). -/
def State.checkAtomic (s : State) (w : Who) (base : Nat) (o : BitVec 5) (z : Nat) (reads : Bool) : Except Stop Placed :=
  s.checkGlobal w (globalAddr base (w.t.memOffset o) z) z z { read := reads, write := true, atomic := true }

/-- An atomic of the executing thread at a checked place; `regs` are the registers of its operands, with the tags that they expect, and `words` what it
has read of them: until its "b" obligation is met it may read them again (R39).
(DEDUCED: log entry 8.) -/
def Who.atomicStore (w : Who) (p : Placed) (bytes : List Byte) (act : AtomicOp) (regs : List (Nat × List Tag)) (words : List Word) : PendingStore :=
  { seq := 0, bytes := storeOf p.locs bytes, order := w.t.hints.order, scope := w.t.hints.scope, atomic := some act
    src := some { regs := regs, words := words } }

/-- An atomic with a result: it raises fa and fb (R210). -/
def State.issueAtomic (s : State) (w : Who) (t : Thread) (p : PendingStore) : Except Stop State :=
  (t.raiseFlags [w.t.fa, w.t.fb]).map fun t1 => s.addStore w (t1.owesMore { flag := w.t.fb, stores := [t1.seq] }) p

/-- The operands of ATOM and RED: FADD and HADD2 raise no floating-point flag, at their ports either; a conversion at a port of the others raises its
own (R72, R211).
(DEDUCED: log entry 75.) -/
def Thread.atomFetch (t : Thread) (op : Nat) (writes : List Grp) (reads : List Src) : Except Stop Fetched :=
  if op = 11 || op = 12 then t.fetchQuiet writes reads else t.fetch writes reads

/-- ATOM: the operand is x[c] under HINT.C, else x[d], which receives the old value (R209, R211). -/
def atomBody (op : Nat) (d b : RegField) (o : BitVec 5) (s : State) (w : Who) : Except Stop State := do
  let vr := w.t.hints.cReg.getD d.toNat
  let vt := (w.t.reg vr).tag
  let x ← w.t.atomFetch op [wr1 d] [rd2 b [.b32], .regs vr 1 1 (atomicWant op vt)]
  let p ← s.checkAtomic w (x.n 0) o 4 true
  let act : AtomicOp := { op := op, tag := atomicTag op vt, value := (x.v 1).toNat, dst := some d.toNat, flag := w.t.fa }
  s.issueAtomic w x.t (w.atomicStore p (toBytes (x.v 1).toNat 4) act [(vr, atomicWant op vt)] [x.v 1])

/-- RED: as ATOM, without a result (R209, R211). -/
def redBody (op : Nat) (d b : RegField) (o : BitVec 5) (s : State) (w : Who) : Except Stop State := do
  let vt := (w.t.reg d.toNat).tag
  let x ← w.t.atomFetch op [] [rd2 b [.b32], rd1 d (atomicWant op vt)]
  let p ← s.checkAtomic w (x.n 0) o 4 false
  s.issueStore w x.t (w.atomicStore p (toBytes (x.v 1).toNat 4) { op := op, tag := atomicTag op vt, value := (x.v 1).toNat, dst := none }
    [(d.toNat, atomicWant op vt)] [x.v 1])

/-- ATOMC, ATOMC.64 and ATOMQ on n registers: raw operands, results tagged B32 (R212). `new` is the first register of the new operand. -/
def casBody (n : Nat) (regs : List Src) (pick : Fetched → Nat × Nat) (d b : RegField) (o : BitVec 5) (new : Nat) (s : State) (w : Who) :
    Except Stop State := do
  let x ← w.t.fetch [] (rd2 b [.b32] :: regs)
  let p ← s.checkAtomic w (x.n 0) o (4 * n) true
  let v := pick x
  let act : AtomicOp := { op := 13, tag := .b32, value := v.2, compare := v.1, dst := some d.toNat, flag := w.t.fa }
  s.issueAtomic w x.t (w.atomicStore p (toBytes v.2 (4 * n)) act ((upFrom d.toNat n ++ upFrom new n).map (·, [])) (toWords v.1 n ++ toWords v.2 n))

/-! ### The atomics -/

def execAtomAdd (d b : RegField) (o : BitVec 5) (g : PredField) (s : State) : Outcome := runWord s g (atomBody 0 d b o s)
def execAtomMin (d b : RegField) (o : BitVec 5) (g : PredField) (s : State) : Outcome := runWord s g (atomBody 1 d b o s)
def execAtomMax (d b : RegField) (o : BitVec 5) (g : PredField) (s : State) : Outcome := runWord s g (atomBody 2 d b o s)
def execAtomMinN (d b : RegField) (o : BitVec 5) (g : PredField) (s : State) : Outcome := runWord s g (atomBody 3 d b o s)
def execAtomMaxN (d b : RegField) (o : BitVec 5) (g : PredField) (s : State) : Outcome := runWord s g (atomBody 4 d b o s)
def execAtomAnd (d b : RegField) (o : BitVec 5) (g : PredField) (s : State) : Outcome := runWord s g (atomBody 5 d b o s)
def execAtomOr (d b : RegField) (o : BitVec 5) (g : PredField) (s : State) : Outcome := runWord s g (atomBody 6 d b o s)
def execAtomXor (d b : RegField) (o : BitVec 5) (g : PredField) (s : State) : Outcome := runWord s g (atomBody 7 d b o s)
def execAtomExch (d b : RegField) (o : BitVec 5) (g : PredField) (s : State) : Outcome := runWord s g (atomBody 8 d b o s)
def execAtomInc (d b : RegField) (o : BitVec 5) (g : PredField) (s : State) : Outcome := runWord s g (atomBody 9 d b o s)
def execAtomDec (d b : RegField) (o : BitVec 5) (g : PredField) (s : State) : Outcome := runWord s g (atomBody 10 d b o s)
def execAtomFadd (d b : RegField) (o : BitVec 5) (g : PredField) (s : State) : Outcome := runWord s g (atomBody 11 d b o s)
def execAtomHadd2 (d b : RegField) (o : BitVec 5) (g : PredField) (s : State) : Outcome := runWord s g (atomBody 12 d b o s)
def execRedAdd (d b : RegField) (o : BitVec 5) (g : PredField) (s : State) : Outcome := runWord s g (redBody 0 d b o s)
def execRedMin (d b : RegField) (o : BitVec 5) (g : PredField) (s : State) : Outcome := runWord s g (redBody 1 d b o s)
def execRedMax (d b : RegField) (o : BitVec 5) (g : PredField) (s : State) : Outcome := runWord s g (redBody 2 d b o s)
def execRedMinN (d b : RegField) (o : BitVec 5) (g : PredField) (s : State) : Outcome := runWord s g (redBody 3 d b o s)
def execRedMaxN (d b : RegField) (o : BitVec 5) (g : PredField) (s : State) : Outcome := runWord s g (redBody 4 d b o s)
def execRedAnd (d b : RegField) (o : BitVec 5) (g : PredField) (s : State) : Outcome := runWord s g (redBody 5 d b o s)
def execRedOr (d b : RegField) (o : BitVec 5) (g : PredField) (s : State) : Outcome := runWord s g (redBody 6 d b o s)
def execRedXor (d b : RegField) (o : BitVec 5) (g : PredField) (s : State) : Outcome := runWord s g (redBody 7 d b o s)
def execRedExch (d b : RegField) (o : BitVec 5) (g : PredField) (s : State) : Outcome := runWord s g (redBody 8 d b o s)
def execRedInc (d b : RegField) (o : BitVec 5) (g : PredField) (s : State) : Outcome := runWord s g (redBody 9 d b o s)
def execRedDec (d b : RegField) (o : BitVec 5) (g : PredField) (s : State) : Outcome := runWord s g (redBody 10 d b o s)
def execRedFadd (d b : RegField) (o : BitVec 5) (g : PredField) (s : State) : Outcome := runWord s g (redBody 11 d b o s)
def execRedHadd2 (d b : RegField) (o : BitVec 5) (g : PredField) (s : State) : Outcome := runWord s g (redBody 12 d b o s)

def execAtomc (d b : RegField) (o : BitVec 5) (g : PredField) (s : State) : Outcome :=
  runWord s g (casBody 1 [rd2 d []] (fun x => (x.n 1 % 2 ^ 32, x.n 1 / 2 ^ 32)) d b o (d.toNat + 1) s)
def execAtomc64 (d b : RegField) (o : BitVec 5) (g : PredField) (s : State) : Outcome :=
  runWord s g (casBody 2 [rd4 d []] (fun x => (x.n 1 % 2 ^ 64, x.n 1 / 2 ^ 64)) d b o (d.toNat + 2) s)
def execAtomq (d b : RegField) (o : BitVec 5) (g : PredField) (s : State) : Outcome :=
  runWord s g fun w => casBody 4 [rd4 d [], .regs (w.t.hints.cReg.getD 0) 4 4 []] (fun x => (x.n 1, x.n 2)) d b o (w.t.hints.cReg.getD 0) s w

/-! ### FENCE (R214) -/

/-- R203's conditions at a scope for every earlier access of the thread.
(DEDUCED: log entry 86.) -/
def State.released (s : State) (t : Thread) (sc : Scope) : Bool :=
  match sc with
  | .th => true
  | .sy => t.ordered.isEmpty && t.stores.isEmpty && (s.troupe t.troupe).linkCount == 0
  | _ => t.ordered.isEmpty && t.stores.isEmpty

/-- Every earlier load and atomic is bound (R214). -/
def Thread.allBound (t : Thread) : Bool := t.ordered.isEmpty && t.stores.all (·.atomic.isNone)

/-- Has the thread a store to write-combining pages that is not yet performed (R205)? -/
def Thread.combining (t : Thread) : Bool := t.stores.any fun p => p.locs.any fun l => l.scratch.isNone && l.policy == .wc

/-- The scope codes of FENCE (R49).
(DEDUCED: log entry 86.) -/
def fenceScope (p : BitVec 3) : Scope :=
  match p.toNat with
  | 0 => .th | 1 => .tr | 2 => .en | 3 => .dv | _ => .sy

/-- FENCE. Of whatever order and scope it waits until the thread's write-combining stores have been drained (R205); a fence that acquires and
releases lets no later access go before an earlier store is visible, at any scope (R214).
(DEDUCED: log entry 86.) -/
def execFence (r : BitVec 2) (p : BitVec 3) (g : PredField) (s : State) : Outcome :=
  runWord s g fun w =>
    let sc := fenceScope p
    let ready := !w.t.combining && match r.toNat with
      | 0 => true
      | 1 => w.t.allBound
      | 2 => s.released w.t sc
      | _ => s.released w.t sc && w.t.ordered.isEmpty && w.t.stores.isEmpty
    if !ready then .error (.park .fence)
    else
      let s0 := if bitAt r.toNat 1 && sc != .th then s.passOn w.k else s
      let s1 := if bitAt r.toNat 1 && sc == .sy then s0.noteRelease w.cI else s0
      .ok (if bitAt r.toNat 0 then s1.updThread w.k fun t => t.acquired sc s.stamp w.tr.relStamp else s1)

end Sys2Proof.Machine
end

