-- ==== Sys2Proof/Machine/Convert.lean ====
section
/-! DEFINITION. CVT, PACKOPS, TAGOPS and SPARSE (03_formats.md, R80 to R88). -/

namespace Sys2Proof.Machine

/-! ### CVT (R80 to R83) -/

/-- The three forms of CVT. -/
inductive CvtForm where
  | plain | hi | uns
  deriving DecidableEq, Repr

/-- R81: the pairs of formats that CVT does not convert. -/
def cvtUnsupported (src dst : Tag) (form : CvtForm) (hintC : Bool) : Bool :=
  dst == .e8m0x4 || dst == .sxex2 || dst == .acc || src == .sxex2
  || (src.isSx && dst.isSx)
  || ((src.isSx || dst.isSx) && !hintC)
  || (form == .uns && src != .b32 && dst != .b32)
  || (form == .hi && src.elems == 1 && dst.elems == 1)

/-- The sides that an MX scale can apply to (R83). -/
def Tag.mxSide : Tag → Bool
  | .e4m3x4 | .e5m2x4 | .e2m1x8 | .i8x4 => true
  | _ => false

/-- The scales of element k of the group: source and destination side (R83). `c` is the operand of HINT.C, `elemBase` the base of R82,
`grp` its E. -/
def cvtScales (src dst : Tag) (c : Option Word) (elemBase grp k : Nat) : Scale × Scale :=
  match c with
  | none => (.unscaled, .unscaled)
  | some w =>
    if src.isSx || dst.isSx then
      let p0 := slice w.toNat 16 4 / grp * grp
      let q := (p0 + elemBase + k) / 4
      let sc := Scale.sx (slice w.toNat 8 8) (slice w.toNat (2 * q) 2)
      if src.isSx then (sc, .unscaled) else (.unscaled, sc)
    else
      let sc := Scale.mx (slice w.toNat 0 8)
      if src.mxSide then (sc, .unscaled) else if dst.mxSide then (.unscaled, sc) else (.unscaled, .unscaled)

/-- What a CVT works on (R82): the formats, the elements converted, and how many registers it reads and writes. -/
structure CvtShape where
  src : Tag
  dst : Tag
  n   : Nat
  gs  : Nat
  gd  : Nat
  deriving DecidableEq, Repr

def cvtShape (form : CvtForm) (t : Thread) (a : RegField) (dcode : BitVec 4) : CvtShape :=
  let src := (t.reg a.toNat).tag
  let dst := Tag.ofCode dcode.toNat
  let e := max src.elems dst.elems
  let n := if form = .hi then e / 2 else e
  { src := src, dst := dst, n := n, gs := max 1 (n / src.elems), gd := max 1 (n / dst.elems) }

/-- The registers it reads: x[a] itself accepts its own tag and the registers after it expect that tag; x[c] under HINT.C; and x[d] where
CVT.HI writes half of it (R82). -/
def cvtSrcs (form : CvtForm) (h : CvtShape) (t : Thread) (d a : RegField) : List Src :=
  .regs a.toNat h.gs h.gs [h.src] ::
    (match t.hints.cReg with
      | some c => [.regs c 1 1 []]
      | none => []) ++
    (if h.gd = 1 && form = .hi then [.regs d.toNat 1 1 []] else [])

/-- Each element's bits and flags (R82, R83). -/
def cvtResults (form : CvtForm) (h : CvtShape) (t : Thread) (x : Fetched) (rnd : BitVec 3) : List (Nat × Nat) :=
  let e := max h.src.elems h.dst.elems
  let all := (x.ws 0).flatMap h.src.unpack
  let us := if h.gs = 1 && form = .hi then all.drop (h.src.elems - h.n) else all
  let base := if form = .hi then e / 2 else 0
  let cv := t.hints.cReg.map (fun _ => x.v 1)
  let uns := form == .uns
  (upFrom 0 h.n).map fun k =>
    let sc := cvtScales h.src h.dst cv base e k
    convertElem (h.src.kind uns) (h.dst.kind uns) sc.1 sc.2 (RMode.ofCode rnd.toNat) t.hints.sat t.hints.na t.hints.aa (nth us k 0)

/-- The registers it leaves: those of the elements, or the upper half of x[d] (R82). -/
def cvtWritten (form : CvtForm) (h : CvtShape) (t : Thread) (d : RegField) (ws : List Nat) : Thread :=
  if h.gd = 1 && form = .hi then
    t.setReg d.toNat (h.dst.pack ((h.dst.unpack (t.reg d.toNat).val).take (h.dst.elems - h.n) ++ ws)) h.dst
  else t.setRegs d.toNat ((upFrom 0 h.gd).map fun r => h.dst.pack ((ws.drop (r * h.dst.elems)).take h.dst.elems)) h.dst

/-- The effect of CVT (R82). -/
def cvtBody (form : CvtForm) (d a : RegField) (dcode : BitVec 4) (rnd : BitVec 3) (t : Thread) : Except Stop Thread := do
  let h := cvtShape form t a dcode
  let x ← t.fetch [⟨d.toNat, h.gd, h.gd⟩] (cvtSrcs form h t d a)
  if cvtUnsupported h.src h.dst form t.hints.cReg.isSome then fail .formatUnsupported
  else
    let rs := cvtResults form h t x rnd
    let t' ← x.arith (orAll (rs.map (·.2))) (rs.map (·.2))
    .ok (cvtWritten form h t' d (rs.map (·.1)))

def execCvt (d a : RegField) (t : BitVec 4) (r : BitVec 3) (g : PredField) (s : State) : Outcome :=
  runThread s g (cvtBody .plain d a t r)
def execCvtHi (d a : RegField) (t : BitVec 4) (r : BitVec 3) (g : PredField) (s : State) : Outcome :=
  runThread s g (cvtBody .hi d a t r)
def execCvtN (d a : RegField) (t : BitVec 4) (r : BitVec 3) (g : PredField) (s : State) : Outcome :=
  runThread s g (cvtBody .uns d a t r)

/-! ### PACKOPS (R85) -/

/-- The tag a packed result takes: operand a's where its elements have the width, else B32. -/
def keepTag (bits : Nat) (tag : Tag) : Tag := if tag.elemBits = bits then tag else .b32

def execPack16 (d a b : RegField) (g : PredField) (s : State) : Outcome :=
  runThread s g fun t => (t.fetch [wr1 d] [rd1 a [], t.bOperand b []]).map fun x =>
    x.t.setReg d.toNat (w32 ((x.v 1).toNat % 65536 * 65536 + (x.v 0).toNat % 65536)) (keepTag 16 (x.r 0).tag)

def execPack8 (d a b : RegField) (g : PredField) (s : State) : Outcome :=
  runThread s g fun t => (t.fetch [wr1 d] [rd1 a [], t.bOperand b [], rd1 d []]).map fun x =>
    x.t.setReg d.toNat (w32 ((x.v 1).toNat % 256 * 2 ^ 24 + (x.v 0).toNat % 256 * 2 ^ 16 + (x.v 2).toNat / 65536)) (keepTag 8 (x.r 0).tag)

/-- UNPK16 and UNPK8: n elements of w bits. -/
def unpackBody (w n : Nat) (d a : RegField) (t : Thread) : Except Stop Thread :=
  (t.fetch [⟨d.toNat, n, n⟩] [rd1 a []]).map fun x =>
    let es := (upFrom 0 n).map fun i => slice (x.v 0).toNat (w * i) w
    if t.hints.sx then x.t.setRegs d.toNat (es.map fun e => w32 (wrap (signed e w) 32)) .b32
    else x.t.setRegs d.toNat (es.map w32) (keepTag w (x.r 0).tag)

def execUnpk16 (d a : RegField) (g : PredField) (s : State) : Outcome := runThread s g (unpackBody 16 2 d a)
def execUnpk8 (d a : RegField) (g : PredField) (s : State) : Outcome := runThread s g (unpackBody 8 4 d a)

/-! ### TAGOPS (R86) -/

def execTag (d a : RegField) (c : BitVec 4) (g : PredField) (s : State) : Outcome :=
  runThread s g fun t => do
    let x ← t.fetch [wr1 d] [rd1 a []]
    require (c.toNat != 15) .formatUnsupported
    .ok (x.t.setReg d.toNat (x.v 0) (Tag.ofCode c.toNat))

def execTagq (d a : RegField) (g : PredField) (s : State) : Outcome :=
  runThread s g fun t => (t.fetch [wr1 d] [rd1 a []]).map fun x => x.t.setReg d.toNat (w32 (x.r 0).tag.code) .b32

/-! ### SPARSE (R87, R88) -/

/-- Does element i outrank element j (R87)? The key of a number is its magnitude; a NaN's exceeds every number's. -/
def outranks (k : EKind) (es : List Nat) (i j : Nat) : Bool :=
  let v (n : Nat) : FVal := (elemValue k .unscaled (nth es n 0)).1.modify false true
  let a := v i
  let b := v j
  if a.isNaN then (if b.isNaN then decide (i < j) else true)
  else if b.isNaN then false
  else b.lt a || (a.eq b && decide (i < j))

/-- The indices of the two elements that R87 keeps of four, ascending. -/
def keepTwo (k : EKind) (es : List Nat) : List Nat :=
  (upFrom 0 4).filter fun i => decide (((upFrom 0 4).filter (fun j => j != i && outranks k es j i)).length < 2)

/-- SPC.H and SPC.B (R88). -/
def execSpcH (d a : RegField) (g : PredField) (s : State) : Outcome :=
  runThread s g fun t =>
    -- x[a] gives the format, and x[a + 1] then expects it (R71)
    let ta := (t.reg a.toNat).tag
    let tag : Tag := if ta = .bf16x2 || ta = .i16x2 then ta else .f16x2
    (t.fetch [wr2 d] [rd2 a [tag]]).map fun x =>
    let es := (x.ws 0).flatMap tag.unpack
    let ks := keepTwo tag.kind es
    let ix := nth ks 0 0 + 4 * nth ks 1 0
    (x.t.setReg d.toNat (tag.pack (ks.map (nth es · 0))) tag).setReg (d.toNat + 1) (w32 ix) .b32

def execSpcB (d a : RegField) (g : PredField) (s : State) : Outcome :=
  runThread s g fun t => (t.fetch [wr1 d] [rd1 a [.e4m3x4, .e5m2x4, .i8x4, .n8x4]]).map fun x =>
    let tag := (x.r 0).tag
    let es := tag.unpack (x.v 0)
    let ks := keepTwo tag.kind es
    let ix := nth ks 0 0 + 4 * nth ks 1 0
    x.t.setReg d.toNat (w32 (nth es (nth ks 0 0) 0 + 256 * nth es (nth ks 1 0) 0 + 65536 * ix)) tag

/-- SPX (R88): the kept elements at their indices, the second last. -/
def execSpx (d a b : RegField) (g : PredField) (s : State) : Outcome :=
  runThread s g fun t => do
    let tag := (t.reg a.toNat).tag
    let w := tag.elemBits
    let dst : Grp := if w = 16 then wr2 d else wr1 d
    let x ← t.fetch [dst] [rd1 a [], t.bOperand b []]
    if w = 0 then fail .formatUnsupported
    else
      let ix := slice (x.v 1).toNat (if w = 16 then 0 else 16) 4
      let e0 := slice (x.v 0).toNat 0 w
      let e1 := slice (x.v 0).toNat w w
      let es := (upFrom 0 4).map fun i => if i = ix / 4 then e1 else if i = ix % 4 then e0 else 0
      let v := es.foldr (fun e acc => e + 2 ^ w * acc) 0
      .ok (x.t.setWide d.toNat (if w = 16 then 2 else 1) v tag)

end Sys2Proof.Machine
end

