-- ==== Sys2Proof/Machine/Queue.lean ====
section
/-! DEFINITION. Relay queues (07_mapper.md R154 to R161). A parked QPUSH or QPOP completes in the ac in which its condition first holds in the order of
R159. -/

namespace Sys2Proof.Machine

def Troupe.queue (tr : Troupe) (q : Nat) : RelayQueue := nth tr.queues q {}
def State.updRelay (s : State) (tr q : Nat) (f : RelayQueue → RelayQueue) : State :=
  s.updTroupe tr fun t => { t with queues := updateAt t.queues q f }

/-- A parked operation in its place: by the ac it parked in, then by sr.tid (R159).
(DEDUCED: log entry 32.) -/
def insertWait (x : QueueWait) : List QueueWait → List QueueWait :=
  putBefore (fun y => y.since = x.since && decide (x.tid < y.tid)) x

/-- The place of an operation among those of its ac: QCFG, then QPOP and QPEEK, then QPUSH; by partition, then by sr.tid (R159). -/
def Who.queueRank (w : Who) (group : Nat) : Nat := group * 4096 + w.t.part * 1024 + w.t.tid

/-- An operation takes its place in its ac; where one behind it has been applied in that ac, it is not issued before the next (R159). -/
def State.takeRank (s : State) (w : Who) (q group : Nat) : Except Stop State :=
  match (w.tr.queue q).last with
  | some (ac, r) =>
    if ac = s.clock && decide (w.queueRank group < r) then .error (.hold s w.t.status)
    else .ok (s.updRelay w.trI q fun c => { c with last := some (s.clock, w.queueRank group) })
  | none => .ok (s.updRelay w.trI q fun c => { c with last := some (s.clock, w.queueRank group) })

/-- A word goes to the tail; its store is a write of the queue region (R154, R257). -/
def State.pushWord (s : State) (tr q : Nat) (x : Word × Tag) : State :=
  let s1 := s.updRelay tr q fun c => { c with words := c.words ++ [x] }
  match ((s.troupe tr).queue q).base with
  | some b => s1.wroteScratch tr (upFrom b 512)
  | none => s1

/-- Completes parked QPUSHes in their order while the queue has room: at most n of them. A push passes its thread's acquires on (R160, R207).
(DEDUCED: log entry 32.) -/
def State.servePushes (s : State) (tr q : Nat) : Nat → State
  | 0 => s
  | n + 1 =>
    let Q := (s.troupe tr).queue q
    match Q.pushWait with
    | y :: r =>
      if Q.words.length < 64 then
        let s1 := (s.pushWord tr q (y.word, y.tag)).updRelay tr q fun c => { c with pushWait := r }
        ((s1.passOn y.thread).retire y.thread (s.thread y.thread)).servePushes tr q n
      else s
    | [] => s

/-- A word goes from the head into a register of thread k, an acquire at .TR (R160). -/
def State.popWord (s : State) (tr q k dst : Nat) (v : Word × Tag) (vs : List (Word × Tag)) : State :=
  (s.updRelay tr q fun c => { c with words := vs }).updThread k fun t => (t.setReg dst v.1 v.2).acquired .tr s.stamp (s.troupe tr).relStamp

/-- Completes parked QPOPs in their order while the queue has words: at most n of them.
(DEDUCED: log entry 32.) -/
def State.servePops (s : State) (tr q : Nat) : Nat → State
  | 0 => s
  | n + 1 =>
    let Q := (s.troupe tr).queue q
    match Q.popWait, Q.words with
    | x :: r, v :: vs =>
      let s1 := (s.popWord tr q x.thread x.dst v vs).updRelay tr q fun c => { c with popWait := r }
      (s1.retire x.thread (s.thread x.thread)).servePops tr q n
    | _, _ => s

/-- The queues at which threads are parked: troupe and queue. -/
def State.waitedQueues (s : State) : List (Nat × Nat) :=
  (upFrom 0 s.troupes.length).flatMap fun tr =>
    (upFrom 0 8).filterMap fun q =>
      let Q := (s.troupe tr).queue q
      if Q.pushWait.isEmpty && Q.popWait.isEmpty then none else some (tr, q)

/-- The end of one ac and the start of the next: parked QPUSHes complete last in the one, parked QPOPs first in the other (R159). -/
def State.queueTick (s : State) (qs : List (Nat × Nat)) : State :=
  let s1 := qs.foldl (fun s x => s.servePushes x.1 x.2 ((s.troupe x.1).queue x.2).pushWait.length) s
  qs.foldl (fun s x => s.servePops x.1 x.2 ((s.troupe x.1).queue x.2).popWait.length) { s1 with clock := s1.clock + 1 }

/-- So many ends of an ac, one after another. -/
def State.queueTicks (s : State) (qs : List (Nat × Nat)) : Nat → State
  | 0 => s
  | n + 1 => (s.queueTick qs).queueTicks qs n

/-- What dt ac do at the queues: after as many ends of an ac as threads are parked nothing more can complete. -/
def State.passQueues (s : State) (dt : Nat) : State :=
  let qs := s.waitedQueues
  match qs with
  | [] => s
  | _ => s.queueTicks qs (min dt ((qs.map fun x =>
      let Q := (s.troupe x.1).queue x.2
      Q.pushWait.length + Q.popWait.length).foldl (· + ·) 1))

/-- A release at troupe scope waits until the thread's earlier accesses are performed (R160, R203); the QPUSHes parked before it complete first (R159). -/
def execQpush (a : RegField) (q : BitVec 3) (g : PredField) (s : State) : Outcome :=
  runWord s g fun w => do
    let x ← w.t.fetch [] [rd1 a []]
    let Q := w.tr.queue q.toNat
    if Q.base.isNone then fail .queueNotBound else .ok ()
    let s0 ← s.takeRank w q.toNat 2
    if s.released w.t .tr then .ok () else .error (.park .drain)
    let s := s0.servePushes w.trI q.toNat Q.pushWait.length
    let Q := (s.troupe w.trI).queue q.toNat
    let y : QueueWait := { thread := w.k, since := s.clock, tid := w.t.tid, word := (x.r 0).val, tag := (x.r 0).tag }
    if Q.words.length < 64 && Q.pushWait.isEmpty then
      .ok ((s.pushWord w.trI q.toNat (y.word, y.tag)).passOn w.k)
    else .error (.hold (s.updRelay w.trI q.toNat fun c => { c with pushWait := insertWait y c.pushWait }) (.parked .queue s.clock))

/-- An acquire at troupe scope, which no earlier acquire of the thread may follow (R202). -/
def execQpop (d : RegField) (q : BitVec 3) (g : PredField) (s : State) : Outcome :=
  runWord s g fun w => do
    let _ ← w.t.fetch [wr1 d] []
    let Q := w.tr.queue q.toNat
    if Q.base.isNone then fail .queueNotBound else .ok ()
    if w.t.acquirePending w.t.seq then .error (.park .drain) else .ok ()
    let s ← s.takeRank w q.toNat 1
    match Q.words with
    | v :: vs => if Q.popWait.isEmpty then .ok (s.popWord w.trI q.toNat w.k d.toNat v vs) else .error (wait s w)
    | [] => .error (wait s w)
where
  wait (s : State) (w : Who) : Stop :=
    let y : QueueWait := { thread := w.k, since := s.clock, tid := w.t.tid, dst := d.toNat }
    .hold (s.updRelay w.trI q.toNat fun c => { c with popWait := insertWait y c.popWait }) (.parked .queue s.clock)

def execQpeek (d : RegField) (q : BitVec 3) (g : PredField) (s : State) : Outcome :=
  runWord s g fun w => do
    let _ ← w.t.fetch [wr1 d] []
    let Q := w.tr.queue q.toNat
    if Q.base.isNone then fail .queueNotBound
    else (s.takeRank w q.toNat 1).map fun s => s.updThread w.k (·.setReg d.toNat (w32 Q.words.length) .b32)

/-- Unbinds a queue: its words are discarded, and its region becomes scratch of unpredictable content, under tag B32 in its first load (R155).
(DESIGN CHOICE: log entry 6.) -/
def State.unbind (s : State) (tr q : Nat) : State :=
  match ((s.troupe tr).queue q).base with
  | none => s
  | some b =>
    let s1 := s.updRelay tr q fun c => { c with base := none, words := [] }
    s1.updTroupe tr fun t =>
      let t1 := (upFrom b 512).foldl (fun t a => t.setByte a (Config.freshByte (s.freshKey (8 + q)) a)) t
      { t1 with vague := t1.vague ++ [(b, b + 512, true)] }

/-- Is a thread parked at a QPUSH or QPOP of a queue: in its place there, or at a QPUSH whose release is not performed yet? -/
def Thread.parkedAtQueue (t : Thread) (q : Nat) : Bool :=
  match t.status, t.issued with
  | .parked _ _, some (.qpush _ n _) => n.toNat == q
  | .parked _ _, some (.qpop _ n _) => n.toNat == q
  | _, _ => false

/-- Every thread parked at the queue traps (R157). -/
def State.evictWaiters (s : State) (tr q : Nat) : State :=
  let Q := (s.troupe tr).queue q
  let s1 := s.updRelay tr q fun c => { c with pushWait := [], popWait := [] }
  let ks := ((Q.pushWait ++ Q.popWait).map (·.thread) ++ (s.troupe tr).threads.filter fun k => (s.thread k).parkedAtQueue q).dedup
  ks.foldl (fun s k => s.takeTrap k .queueNotBound (s.thread k).pc 0 0) s1

/-- Do len bytes from off of the troupe at place tr meet a Carousel's stages? -/
def State.meetsCarousel (s : State) (e : Ensemble) (tr off len : Nat) : Bool :=
  e.troupes.any fun i => (s.troupe i).carousels.any fun c =>
    c.slice == tr && decide (off < c.base + c.size * c.stages.length) && decide (c.base < off + len)

def execQcfg (a : RegField) (q : BitVec 3) (g : PredField) (s : State) : Outcome :=
  runWord s g fun w => do
    let x ← w.t.fetch [] [rd1 a []]
    let cfg := (x.v 0).toNat
    let base := cfg / 512 * 512
    if slice cfg 1 8 != 0 then fail .reservedField else .ok ()
    if bitAt cfg 0 then
      let others := (upFrom 0 8).filterMap fun i => if i = q.toNat then none else (w.tr.queue i).base
      if w.tr.slice < base + 512 || others.any (meetsRegion base 512) || s.meetsCarousel w.e w.trI base 512 then
        failAt .scratchBounds base
      else .ok ()
    else .ok ()
    let s ← s.takeRank w q.toNat 0
    let s1 := (s.evictWaiters w.trI q.toNat).unbind w.trI q.toNat
    .ok (if bitAt cfg 0 then s1.updRelay w.trI q.toNat fun c => { c with base := some base } else s1)

end Sys2Proof.Machine
end

