-- ==== Sys2Proof/Machine/Ensembles.lean ====
section
/-! DEFINITION. Launch packets and their checks, what fits where, and the start of an ensemble (12_launch.md R270, R271, R274, R276, R278;
06_control.md R148; 01_machine.md R17, R18; 14_rays.md R327). -/

namespace Sys2Proof.Machine

/-! ### The launch packet (R270) -/

abbrev Packet := BitVec 1024

def pkEntry (p : Packet) : DWord := w64 (fieldOf p 0 0 64)
def pkTroupes (p : Packet) : Nat := fieldOf p 44 16 2 + 1
def pkThreads (p : Packet) : Nat := fieldOf p 40 0 16 * fieldOf p 40 16 16 * fieldOf p 44 0 16
def pkEnsembles (p : Packet) : Nat := fieldOf p 32 0 16 * fieldOf p 32 16 16 * fieldOf p 36 0 16
def pkProducer (p : Packet) : Nat := fieldOf p 44 20 2
def pkRegs (p : Packet) : Nat := fieldOf p 48 0 8
def pkGrid (p : Packet) : Bool := bitAt (fieldOf p 48 0 16) 8
def pkCompat (p : Packet) : Bool := bitAt (fieldOf p 48 0 16) 9
def pkMeshStrict (p : Packet) : Bool := bitAt (fieldOf p 48 0 16) 10
def pkBuildStrict (p : Packet) : Bool := bitAt (fieldOf p 48 0 16) 11
def pkPrio (p : Packet) : Nat := fieldOf p 48 12 2
def pkWeight (p : Packet) : Nat := fieldOf p 48 16 16
def pkScratch (p : Packet) : Nat := fieldOf p 52 0 32
def pkTileWords (p : Packet) : Nat := fieldOf p 56 0 16
def pkSucc (p : Packet) : Nat := fieldOf p 72 0 64
/-- The slice of each troupe's core (R175). -/
def pkSlice (p : Packet) : Nat := alignUp (pkScratch p) (pkTroupes p * 512) / pkTroupes p

/-- A pointer's failure: not canonical (4), or not a multiple (3). -/
def pointerBad (v align : Nat) : Option Nat :=
  if !canonical (w64 v) then some 4 else if v % align != 0 then some 3 else none

/-- A plain field's failure (2). -/
def fieldBad (bad : Bool) : Option Nat := if bad then some 2 else none

/-- Every field of the packet with its failure, by offset. -/
def packetChecks (p : Packet) : List (Nat × Option Nat) :=
  let out (v hi : Nat) : Bool := v = 0 || decide (hi < v)
  [ (0, pointerBad (fieldOf p 0 0 64) 4), (8, pointerBad (fieldOf p 8 0 64) 1), (16, pointerBad (fieldOf p 16 0 64) 1),
    (24, fieldBad (decide (2 ^ 28 < fieldOf p 24 0 32))), (28, fieldBad (decide (2 ^ 28 < fieldOf p 28 0 32))),
    (32, fieldBad (fieldOf p 32 0 16 = 0 || fieldOf p 32 16 16 = 0)),
    (36, fieldBad (fieldOf p 36 0 16 = 0 || fieldOf p 36 16 16 != 0)),
    (40, fieldBad (out (fieldOf p 40 0 16) 1024 || out (fieldOf p 40 16 16) 1024)),
    (44, fieldBad (fieldOf p 44 22 10 != 0 || fieldOf p 44 18 2 != 0 || decide (pkTroupes p ≤ pkProducer p)
      || out (fieldOf p 44 0 16) 1024 || decide (1024 < pkThreads p))),
    (48, fieldBad (pkWeight p = 0 || fieldOf p 48 14 2 != 0 || decide (pkRegs p < 8) || decide (128 < pkRegs p) || pkRegs p % 8 != 0)),
    (56, fieldBad (fieldOf p 56 16 16 != 0 || pkTileWords p % 512 != 0 || (!pkGrid p && pkTileWords p != 0))),
    (60, fieldBad (fieldOf p 60 0 32 % 8 != 0)), (64, pointerBad (fieldOf p 64 0 64) 8), (72, pointerBad (pkSucc p) 128),
    (88, pointerBad (fieldOf p 88 0 64) 8), (104, pointerBad (fieldOf p 104 0 64) 16), (112, fieldBad (fieldOf p 112 17 15 != 0)),
    (116, fieldBad (fieldOf p 116 0 96 != 0)) ]

/-- The first failure of R270: reason and offset. -/
def packetFailure (p : Packet) : Option (Nat × Nat) :=
  (packetChecks p).findSome? fun c => c.2.map fun r => (r, c.1)

/-- The threads of a troupe of n threads that partition q holds (R17). -/
def partThreads (n q : Nat) : Nat := ((upFrom 0 n).filter fun i => i / 16 % 4 == q).length

/-- R271: the first field that no core could hold. -/
def packetExceeds (p : Packet) : Option Nat :=
  let n := partThreads (pkThreads p) 0
  if 16384 < n * pkRegs p + pkTileWords p || 512 < n then some 48
  else if 458752 < pkSlice p then some 52
  else if pkGrid p && 16384 - n * pkRegs p < pkTileWords p then some 56
  else none

/-! ### What is resident (R17, R18, R276) -/

/-- Does an ensemble occupy its cores? -/
def Ensemble.occupies (e : Ensemble) : Bool := e.phase == .resident || e.phase == .draining

/-- The troupes that a core holds. -/
def State.troupesOn (s : State) (core : Nat) : List Troupe :=
  (s.ensembles.filter fun e => e.occupies && e.cores.contains core).flatMap fun e => (e.troupes.map s.troupe).filter (·.core == core)

/-- Register words and threads that a troupe takes in a partition. -/
def State.partUse (s : State) (tr : Troupe) (q : Nat) : Nat × Nat :=
  let p := (s.ens tr.ens).packet
  let n := partThreads tr.threads.length q
  (n * pkRegs p + pkTileWords p, n)

/-- Does a troupe of n threads under a packet fit a core beside what it holds? -/
def State.fitsCore (s : State) (p : Packet) (n core : Nat) : Bool :=
  let here := s.troupesOn core
  let total := (here.map fun t => t.threads.length).foldl (· + ·) 0
  let used := (here.map fun t => t.slice).foldl (· + ·) 0
  ((upFrom 0 4).all fun q =>
    let u := here.map fun t => s.partUse t q
    let m := partThreads n q
    decide ((u.map (·.1)).foldl (· + ·) 0 + m * pkRegs p + pkTileWords p ≤ 16384) && decide ((u.map (·.2)).foldl (· + ·) 0 + m ≤ 512))
  && decide (total + n ≤ 2048)
  && (if here.isEmpty then decide (pkSlice p ≤ 458752) else decide (used + pkSlice p ≤ (s.core core).scratchpad))

/-- The ensembles that occupy a core group. -/
def State.onGroup (s : State) (group : Nat) : List Ensemble := s.ensembles.filter fun e => e.occupies && e.group == group

/-- Can the cores named, in order, take the troupes of an ensemble of n threads each? -/
def State.fitsCores (s : State) (p : Packet) (n : Nat) (cores : List Nat) : Bool :=
  cores.length == pkTroupes p && decide cores.Nodup
    && (match cores with
      | [] => false
      | c :: _ =>
        cores.all (fun x => decide (x < 96) && x / 4 == c / 4 && s.fitsCore p n x)
        && (s.onGroup (c / 4)).all (fun e => !e.gridGroup)
        && (!pkGrid p || (s.onGroup (c / 4)).isEmpty))

/-- The cores of one group that take an ensemble; none where no group does. -/
def State.findCores (s : State) (p : Packet) (n : Nat) (groups : List Nat) : Option (List Nat) :=
  groups.findSome? fun gI =>
    let cs := ((upFrom (4 * gI) 4).filter (s.fitsCore p n)).take (pkTroupes p)
    if s.fitsCores p n cs then some cs else none

/-- The division of an empty core for the first ensemble placed on it: the least multiple of 32 KiB that holds as many of its slices as
registers and threads admit, at most 448 KiB (R18, R276). -/
def divisionFor (p : Packet) (n : Nat) : Nat :=
  let per (q : Nat) : Nat :=
    let m := partThreads n q
    let words := m * pkRegs p + pkTileWords p
    min (if words = 0 then 2048 else 16384 / words) (if m = 0 then 2048 else 512 / m)
  let count := [per 0, per 1, per 2, per 3].foldl min (2048 / max 1 n)
  min 458752 (alignUp (count * pkSlice p) 32768)

/-! ### The start of an ensemble (R148, R274) -/

/-- A pin slot at a thread's start: the handle of the packet that shapes it, and the launch's pin where it stands on that handle (R327; log
entry 17).
(DEDUCED: log entry 17.) -/
def startPin (own launch : Packet) (off : Nat) (pin : Option Word) : PinSlot :=
  let h := w32 (fieldOf own off 0 32)
  { handle := h, claim := match pin with
    | some g => if fieldOf launch off 0 32 = h.toNat then .launch g else .none
    | none => .none }

/-- A thread at its start: cleared registers and the call stack of R274.
(DEDUCED: log entry 17.) -/
def startThread (s : State) (e : Ensemble) (eI trI k i : Nat) (shade : Option ShadeRec) : Thread :=
  let p := e.packet
  let g := (e.index * pkTroupes p + k) * pkThreads p + i
  let l := s.launch e.launch
  let rsl := w64 (fieldOf p 64 0 64 + g * fieldOf p 60 0 32)
  { ens := eI, troupe := trI, tid := i, pc := pkEntry p, regs := List.replicate (pkRegs p) {}
    rsl := rsl, rsp := rsl + w64 (fieldOf p 60 0 32), stackTop := rsl + w64 (fieldOf p 60 0 32)
    pin0 := startPin p l.packet 80 l.pin0, pin1 := startPin p l.packet 84 l.pin1
    acqStamp := s.stamp + 1, shade := shade }

/-- A troupe at its start, with the threads it will have; `old` is the troupe whose scratch it inherits (R143, R176).
(DESIGN CHOICE: log entry 6.) -/
def startTroupe (s : State) (e : Ensemble) (eI k core base n : Nat) (old : Option Troupe) : Troupe :=
  let slice := pkSlice e.packet
  let fresh : Troupe := { ens := eI, k := k, core := core, threads := upFrom base n, slice := slice, salt := s.freshKey k
                          vague := [(0, slice, false)], latches := List.replicate ((n + 15) / 16) none }
  match old with
  | none => fresh
  | some o => { fresh with salt := o.salt, vague := carve slice (2 ^ 30) o.vague, scratch := o.scratch.filter (fun c => decide (c.1 < slice))
                           full := o.full.filter (fun g => decide (g * 16 < slice)) }

/-- Makes ensemble eI resident on cores: its troupes of n threads each, with their threads. The records of a shade ensemble's threads are its
`shades`. -/
def State.populate (s : State) (eI n : Nat) (cores : List Nat) (old : List Troupe) : State :=
  let e := s.ens eI
  let tBase := s.troupes.length
  let kBase := s.threads.length
  let ks := upFrom 0 cores.length
  let trs := ks.map fun k => startTroupe s e eI k (nth cores k 0) (kBase + k * n) n old[k]?
  let ths := ks.flatMap fun k => (upFrom 0 n).map fun i => startThread s e eI (tBase + k) k i e.shades[i]?
  let trs' := updateAt trs 0 fun t => ((upFrom 0 e.payload.length).zip e.payload).foldl (fun t x => t.setByte x.1 x.2) t
  let s1 := cores.foldl (fun s c => if (s.troupesOn c).isEmpty then
    s.updCore c fun co => { co with scratchpad := divisionFor e.packet n } else s) s
  { s1 with
    troupes := s1.troupes ++ trs'
    threads := s1.threads ++ ths
    ensembles := updateAt s1.ensembles eI fun e => { e with
      phase := .resident, gridGroup := e.gridGroup || pkGrid e.packet, cores := cores, group := (cores.headD 0) / 4, troupes := upFrom tBase cores.length, since := s.clock } }

/-- A mesh or shade ensemble that waits at its queue, ahead of those of every later launch (R292, R303). -/
def State.queueEnsemble (s : State) (e : Ensemble) : State :=
  let l := s.launch e.launch
  { s with
    ensembles := s.ensembles ++ [e]
    launches := updateAt s.launches e.launch fun l => { l with live := l.live + 1 }
    queues := updateAt s.queues l.queue fun q => { q with
      extra := putBefore (fun x => decide (e.launch < (s.ens x).launch)) s.ensembles.length q.extra } }

end Sys2Proof.Machine
end

