-- ==== Sys2Proof/Machine/Copy.lean ====
section
/-! DEFINITION. Asynchronous copies, completion maps and Carousels (10_copy.md R217 to R241). -/

namespace Sys2Proof.Machine

/-! ### The tensor descriptor (R218, R219) -/

abbrev Tensor := BitVec 1024

def tnBase (d : Tensor) : Nat := fieldOf d 0 0 64
def tnInner (d : Tensor) : Nat := fieldOf d 8 14 4
def tnSwizzle (d : Tensor) : Nat := fieldOf d 8 12 2
def tnRank (d : Tensor) : Nat := fieldOf d 8 8 4
def tnTag (d : Tensor) : Nat := fieldOf d 8 4 4
def tnElem (d : Tensor) : Nat := 2 ^ fieldOf d 8 0 4
def tnFill (d : Tensor) : Nat := fieldOf d 12 0 32
def tnStride (d : Tensor) (i : Nat) : Nat := if i = 0 then tnElem d else fieldOf d (16 + 8 * (i - 1)) 0 64
def tnSize (d : Tensor) (i : Nat) : Nat := fieldOf d (80 + 4 * i) 0 32
def tnBox (d : Tensor) (i : Nat) : Nat := fieldOf d (116 + i) 0 8

/-- N: the bytes of the box. -/
def tnBytes (d : Tensor) : Nat := ((upFrom 0 (tnRank d)).map (tnBox d)).foldl (· * ·) 1 * tnElem d

/-- The offset of the lowest failing field of a descriptor; none where it is valid (R219). -/
def tnFailure (kind : CopyKind) (d : Tensor) : Option Nat :=
  let tile := kind == .gG || kind == .gS
  let rank := tnRank d
  let stride (i : Nat) : Bool :=
    let v := fieldOf d (16 + 8 * (i - 1)) 0 64
    if rank ≤ i then v != 0 else v % 16 != 0 || decide ((if kind = .gS then 2 ^ 32 else 2 ^ 40) ≤ v)
  let base := if kind = .gS then decide (2 ^ 32 ≤ tnBase d) else !canonical (w64 (tnBase d)) || tnBase d % 16 != 0
  let word := fieldOf d 8 18 14 != 0 || decide (rank ≤ tnInner d) || rank = 0 || decide (9 < rank) || decide (3 < fieldOf d 8 0 4)
    || (tile && (tnSwizzle d != 0 || tnTag d = 15))
  let checks : List (Nat × Bool) := [(0, base), (8, word)]
    ++ ((upFrom 1 8).map fun i => (16 + 8 * (i - 1), stride i))
    ++ ((upFrom 0 9).map fun i => (80 + 4 * i, decide (rank ≤ i) && tnSize d i != 0))
    ++ ((upFrom 0 9).map fun i => (116 + i, decide (rank ≤ i) && tnBox d i != 0))
    ++ [(125, fieldOf d 125 0 24 != 0), (116, decide (131072 < tnBytes d))]
  (checks.find? (·.2)).map (·.1)

/-! ### Elements (R220, R221) -/

/-- The dimensions in traversal order: INNER, then the others ascending. -/
def tnOrder (d : Tensor) : List Nat := tnInner d :: (upFrom 0 (tnRank d)).filter (· != tnInner d)

/-- The box coordinates of element n in traversal order, by dimension. -/
def boxCoords (d : Tensor) : List Nat → Nat → List (Nat × Nat)
  | [], _ => []
  | j :: r, n => (j, n % max 1 (tnBox d j)) :: boxCoords d r (n / max 1 (tnBox d j))

/-- The memory address of byte b of the dense side; none where its element is out of bounds. -/
def byteAddr (kind : CopyKind) (d : Tensor) (origin : List Int) (b : Nat) : Option Nat :=
  let cs := (boxCoords d (tnOrder d) (b / tnElem d)).map fun x => (x.1, nth origin x.1 0 + (x.2 : Int))
  if cs.all fun c => decide (0 ≤ c.2) && decide (c.2 < tnSize d c.1) then
    some (wrap ((tnBase d + b % tnElem d : Nat) + (cs.map fun c => c.2 * (tnStride d c.1 : Int)).foldl (· + ·) 0) (if kind = .gS then 32 else 64))
  else none

/-- The fill byte of byte b. -/
def fillByte (d : Tensor) (b : Nat) : Byte := BitVec.ofNat 8 (tnFill d / 2 ^ (8 * (b % tnElem d)))

/-- The swizzle of a scratch byte address (R221). -/
def swizzle (k a : Nat) : Nat := if k = 0 then a else a ^^^ (slice a 7 k * 16)

/-- The least and greatest in-bounds source addresses of a CPYG.S, each mod 2^32 as R220 forms it; none where nothing is in bounds. -/
def tnExtent (d : Tensor) (origin : List Int) : Option (Nat × Nat) :=
  match (upFrom 0 (tnBytes d / tnElem d)).filterMap fun i => byteAddr .gS d origin (i * tnElem d) with
  | [] => none
  | a :: r => some (r.foldl min a, r.foldl max a)

/-! ### Completion maps (R226 to R228) -/

/-- The chunk of a dense byte offset. -/
def chunkOf (off : Nat) : Nat := off / 512 % 256

def CompletionMap.pend (m : CompletionMap) (j : Nat) : Nat := ((m.pending.find? fun x => x.1 == j).map (·.2)).getD 0
def CompletionMap.setPend (m : CompletionMap) (j n : Nat) : CompletionMap :=
  { m with pending := (m.pending.filter fun x => x.1 != j) ++ (if n = 0 then [] else [(j, n)]) }
def CompletionMap.setBit (m : CompletionMap) (j : Nat) (v : Bool) : CompletionMap :=
  { m with bits := BitVec.ofNat 256 (putSlice m.bits.toNat j 1 (if v then 1 else 0)) }
/-- A chunk that a copy will write. -/
def CompletionMap.begin (m : CompletionMap) (j : Nat) : CompletionMap := (m.setPend j (m.pend j + 1)).setBit j false
/-- A copy's share of a chunk has landed. -/
def CompletionMap.landed (m : CompletionMap) (j : Nat) : CompletionMap :=
  if m.pend j ≤ 1 then (m.setPend j 0).setBit j true else m.setPend j (m.pend j - 1)

def State.updMap (s : State) (tr map : Nat) (f : CompletionMap → CompletionMap) : State :=
  s.updTroupe tr fun t => { t with maps := updateAt t.maps map f }
def State.updCarousel (s : State) (tr i : Nat) (f : Carousel → Carousel) : State :=
  s.updTroupe tr fun t => { t with carousels := updateAt t.carousels i f }

/-- The chunks that granules of a dense side lie in. -/
def Copy.chunks (c : Copy) (gs : List Nat) : List Nat := (gs.map fun g => chunkOf (c.dense + 16 * g)).dedup

/-! ### Carousel stages (R235, R239) -/

/-- The address of stage i for a thread of troupe index k. -/
def State.stageAddr (s : State) (c : Carousel) (k i : Nat) : Nat := (k ^^^ (s.troupe c.slice).k) * 2 ^ 30 + c.base + i * c.size

/-- The stage that starts at an address given to a thread of troupe index k. -/
def State.stageAt (s : State) (c : Carousel) (k a : Nat) : Option Nat :=
  let off := a % 2 ^ 30
  if c.stages.isEmpty || (k ^^^ (a / 2 ^ 30)) != (s.troupe c.slice).k || decide (off < c.base) then none
  else
    let i := (off - c.base) / max 1 c.size
    if (off - c.base) % max 1 c.size = 0 && decide (i < c.stages.length) then some i else none

def Carousel.stage (c : Carousel) (i : Nat) : Stage := nth c.stages i .free
def Carousel.setStage (c : Carousel) (i : Nat) (v : Stage) : Carousel := { c with stages := updateAt c.stages i fun _ => v }

/-! ### Issue (R224, R225, R240) -/

/-- A trap of a descriptor with its field's offset. -/
def descriptorFault {α : Type} (off : Nat) : Except Stop α := .error (.trap .copyDescriptor 0 (w64 off) 0)

/-- The descriptor's bytes, read with its address causes; the thread waits here until they can be read (R224). -/
def State.readDescriptor (s : State) (w : Who) (scratch : Bool) (a : Nat) : Except Stop (State × Tensor) := do
  let ls ← if scratch then do
      let l ← s.checkScratch w a 128 128
      .ok (scratchLocs l.1 l.2 128)
    else do
      let p ← s.checkGlobal w (w64 a) 128 128 { read := true } false
      .ok p.locs
  let b ← s.readNow w ls
  .ok (b.1, BitVec.ofNat 1024 (ofBytes b.2))

/-- The scratch place of a dense range, or of an in-bounds source address (R225): a range of no byte lies nowhere outside. -/
def State.rangePlace (s : State) (w : Who) (a len : Nat) : Except Stop (Nat × Nat) :=
  if len = 0 then .ok (w.trI, a % 2 ^ 30) else s.checkScratch w a len 1

/-- The copies in flight that a group's engine holds. -/
def State.engineLoad (s : State) (group : Nat) : Nat :=
  (s.copies.filter fun c => c.live && (s.troupe c.troupe).core / 4 == group).length

/-- A copy of any kind: `map` is its completion map, or its Carousel. The source range of a CPYG.S is checked before its tile range: of the two causes
SCRATCH_BOUNDS has the lower code (R342).
(DEDUCED: log entry 8.) -/
def issueCopy (kind : CopyKind) (d a : RegField) (map : Nat) (ds : Bool) (s0 : State) (w : Who) : Except Stop State := do
  let x ← w.t.fetch [] [rd4 d [.b32], if ds then rd1 a [.b32] else rd2 a [.b32]]
  let ws := (x.ws 0).map (·.toNat)
  let xd := nth ws 0 0
  let (s, desc) ← s0.readDescriptor w ds (x.n 1)
  require (w.tr.k == pkProducer w.e.packet) .copyRights
  match tnFailure kind desc with
  | some off => descriptorFault off
  | none => .ok ()
  let tile := kind == .gG || kind == .gS
  if tile && tileBytes w.e.packet = 0 then fail .gridNotOwned else .ok ()
  if kind != .cb && xd % 16 != 0 then failAt .misaligned xd else .ok ()
  let n := tnBytes desc
  let origin := (upFrom 0 9).map fun j => if j < 3 then (nth (x.ws 0) (j + 1) 0).toInt else 0
  (match if kind = .gS then tnExtent desc origin else none with
    | some r => do
      let _ ← s.rangePlace w r.1 (tnElem desc)
      let _ ← s.rangePlace w r.2 (tnElem desc)
      .ok ()
    | none => .ok () : Except Stop Unit)
  let place ← if tile then
      if n != 0 && decide (tileBytes w.e.packet < xd + n) then descriptorFault 0 else .ok (w.trI, xd)
    else s.rangePlace w xd n
  let car := nth w.tr.carousels map {}
  let stage ← if kind = .cb then
      match s.stageAt car w.tr.k xd with
      | some i => if car.stage i = .acq && n ≤ car.size then .ok i else fail .carouselProtocol
      | none => fail .carouselProtocol
    else .ok 0
  let m := nth w.tr.maps map {}
  if 64 ≤ s.engineLoad w.group || (kind != .cb && 16 ≤ m.inflight) then .error (.park .copyRoom) else .ok ()
  let t ← x.t.owe { flag := w.t.fb }
  let s1 := s.setThread w.k t
  if n = 0 then .ok (if kind = .cb then s1.updCarousel w.trI map (·.setStage stage .full) else s1)
  else
    let gs := upFrom 0 ((n + 15) / 16)
    let c : Copy := { troupe := w.trI, kind := kind, map := map, stage := stage, desc := desc, origin := origin, denseTr := place.1,
                      dense := place.2, todo := gs, after := [(w.k, w.t.seq)] }
    let s2 := { s1 with copies := s1.copies ++ [c] }
    .ok (if kind = .cb then s2.updCarousel w.trI map (·.setStage stage .filling)
      else s2.updMap w.trI map fun m => { (c.chunks gs).foldl CompletionMap.begin m with inflight := m.inflight + 1 })

def execCpyLd (d a : RegField) (c : BitVec 4) (g : PredField) (ds : BitVec 1) (s : State) : Outcome := runWord s g (issueCopy .ld d a c.toNat (ds == 1#1) s)
def execCpySt (d a : RegField) (c : BitVec 4) (g : PredField) (ds : BitVec 1) (s : State) : Outcome := runWord s g (issueCopy .st d a c.toNat (ds == 1#1) s)
def execCpygG (d a : RegField) (c : BitVec 4) (g : PredField) (ds : BitVec 1) (s : State) : Outcome := runWord s g (issueCopy .gG d a c.toNat (ds == 1#1) s)
def execCpygS (d a : RegField) (c : BitVec 4) (g : PredField) (ds : BitVec 1) (s : State) : Outcome := runWord s g (issueCopy .gS d a c.toNat (ds == 1#1) s)
def execCpyCb (d a : RegField) (c : BitVec 3) (g : PredField) (ds : BitVec 1) (s : State) : Outcome := runWord s g (issueCopy .cb d a c.toNat (ds == 1#1) s)

/-! ### The engine (R227 to R229) -/

/-- A copy stops on a fault: what it has written stays, its uncompleted chunks lose a count without their bits, and the latch or the stage
records the fault. -/
def State.stopCopy (s : State) (i : Nat) (c : Copy) (cause : Cause) (addr : DWord) : State :=
  let s1 := s.updCopy i fun x => { x with live := false, todo := [], waiting := false }
  if c.kind = .cb then s1.updCarousel c.troupe c.map (·.setStage c.stage (.fault cause addr))
  else s1.updMap c.troupe c.map fun m =>
    let m1 := (c.chunks c.todo).foldl (fun m j => m.setPend j (m.pend j - 1)) m
    { m1 with inflight := m.inflight - 1, latch := m.latch.or (some (cause, addr)) }

/-- What the check of a global byte of a copy comes to. -/
def State.copyCheck (s : State) (c : Copy) (a : Nat) : Except PageStop TlbEntry :=
  let e := s.ens (s.troupe c.troupe).ens
  if !canonical (w64 a) then .error (.deny .addressNoncanonical)
  else s.pageCheck (s.ctx e.ctx).asid (s.troupe c.troupe).core (a % 2 ^ 57) { read := c.kind != .st, write := c.kind == .st }

/-- The in-bounds addresses of granules of a copy, on its tensor side. -/
def Copy.addrs (c : Copy) (gs : List Nat) : List Nat :=
  let n := tnBytes c.desc
  gs.flatMap fun g => ((upFrom (16 * g) 16).filter fun b => decide (b < n)).filterMap (byteAddr c.kind c.desc c.origin)

/-- The lowest address among those still to be moved that is known to fail, with its cause (R229).
(DEDUCED: log entry 71.) -/
def State.copyFault (s : State) (c : Copy) (gs : List Nat) : Option (Cause × Nat) :=
  (c.addrs gs).foldl (fun best a => match s.copyCheck c a with
    | .error (.deny cause) => (match best with
      | some b => if b.2 ≤ a then best else some (cause, a)
      | none => some (cause, a))
    | _ => best) none

/-- The first page among some addresses that is not present or must be tracked. -/
def State.copyMiss (s : State) (c : Copy) (as : List Nat) : Option (Nat × PageStop) :=
  as.findSome? fun a => match s.copyCheck c a with
    | .error (.deny _) => none
    | .error p => some (a, p)
    | .ok _ => none

/-- The physical address of a global byte whose check passes. -/
def State.copyPhys (s : State) (c : Copy) (a : Nat) : Nat :=
  match s.copyCheck c a with
  | .ok e => e.phys (a % 2 ^ 57)
  | .error _ => 0

/-- The scratch place of a byte address as a thread of the copy's troupe names it. -/
def State.copyScratch (s : State) (c : Copy) (a : Nat) : Nat × Nat :=
  let tr := s.troupe c.troupe
  (((s.ens tr.ens).scratchPlace tr.k a).getD (c.troupe, a % 2 ^ 30))

/-- A granule has landed: its chunk, and the copy, complete with their last granule. -/
def State.granuleLanded (s : State) (i g : Nat) (c : Copy) : State :=
  let todo := c.todo.filter (· != g)
  let c1 := { c with todo := todo, waiting := false, live := !todo.isEmpty }
  let s1 := s.updCopy i fun _ => c1
  let j := chunkOf (c.dense + 16 * g)
  if c.kind = .cb then
    if todo.isEmpty then s1.updCarousel c.troupe c.map (·.setStage c.stage .full) else s1
  else
    s1.updMap c.troupe c.map fun m =>
      let m1 := if (c.chunks todo).contains j then m else m.landed j
      if todo.isEmpty then { m1 with inflight := m1.inflight - 1 } else m1

/-- The bytes of a granule of the dense side: offset in the dense side, and where they lie after the swizzle. -/
def Copy.denseBytes (c : Copy) (g : Nat) : List (Nat × Nat) :=
  let base := swizzle (if c.kind = .gG || c.kind = .gS then 0 else tnSwizzle c.desc) (c.dense + 16 * g)
  ((upFrom 0 16).filter fun i => decide (16 * g + i < tnBytes c.desc)).map fun i => (16 * g + i, base + i)

/-- Who a copy's accesses are made for. -/
def State.copyFor (s : State) (c : Copy) : Behalf := { ctx := s.ctxOfTroupe c.troupe, troupe := some c.troupe }

/-- The units of a copy's global bytes that its pages have it reach past the caches (R187). -/
def State.copyPast (s : State) (c : Copy) (as : List Nat) : List Nat :=
  unitsOf ((as.filter fun a => match s.copyCheck c a with
    | .ok e => e.policy != .wb
    | .error _ => false).map (s.copyPhys c))

/-- The data of a copy's global byte fail their check: its context halts, the record holding the address (R194, R229, R349). -/
def State.copyBad (s : State) (c : Copy) (a : Nat) : State :=
  s.raiseHalt (s.copyFor c).ctx { index := 384 + (s.troupe c.troupe).core / 4, cause := .dataCheck, addr := w64 a }

/-- The data that a CPY.ST writes in a granule fail their check where they reach memory or the link (R194). -/
def State.copyStoreBad (s : State) (i g : Nat) : State :=
  match s.copies[i]? with
  | some c => if c.live && c.kind == .st && c.todo.contains g then s.copyBad c ((c.addrs [g]).headD 0) else s
  | none => s

/-- A granule of CPY.ST is written: it has landed at once, or where its bytes go past the caches to the host die, when their WrUs are complete (R187,
R207, R228). -/
def State.storeGranule (s : State) (i g : Nat) (c : Copy) (out : List (Nat × Byte)) (past : List Nat) : State :=
  let pas := out.map (·.1)
  let s1 := ((s.writePhys pas (out.map (·.2)) (s.copyFor c)).wroteGlobal pas).strikeHeap (s.copyFor c).ctx ((c.addrs [g]).map (· % 2 ^ 57))
  let s2 := s1.updCore (s.troupe c.troupe).core fun o => o.forget pas
  if s2.passing past then s2.updCopy i fun x => { x with sent := x.sent ++ [(g, past)], waiting := false } else s2.granuleLanded i g c

/-- Moves a granule whose global pages are at hand, once its source can be read, or its destination written, as their pages' policy says; source data that
fail their check halt the context (R187, R194, R229).
(DEDUCED: log entry 27.) -/
def State.moveGranule (s : State) (i g : Nat) (c : Copy) : State :=
  let bs := c.denseBytes g
  let source (b : Nat) : Byte := match byteAddr c.kind c.desc c.origin b with
    | none => fillByte c.desc b
    | some a => if c.kind = .gS then let p := s.copyScratch c a; (s.troupe p.1).getByte p.2 else s.getPhys (s.copyPhys c a)
  let as := if c.kind = .gS then [] else c.addrs [g]
  let pas := as.map (s.copyPhys c)
  let past := s.copyPast c as
  let u : Use := { read := c.kind != .st, write := c.kind == .st }
  match if u.read then s.firstBad pas else none with
  | some j => s.copyBad c (nth as j 0)
  | none =>
  if !s.engineMay pas past u (s.copyFor c) then s.engineAsk pas past u (s.copyFor c)
  else match c.kind with
  | .st => s.storeGranule i g c
      (bs.filterMap fun x => (byteAddr c.kind c.desc c.origin x.1).map fun a => (s.copyPhys c a, (s.troupe c.denseTr).getByte x.2)) past
  | .gG | .gS =>
    let eI := (s.troupe c.troupe).ens
    let vs := bs.map fun x => (x.2, source x.1)
    let s1 := s.updEns eI fun e => vs.foldl (fun e x => e.setTileByte x.1 x.2 (Tag.ofCode (tnTag c.desc))) e
    (s1.wroteLocal eI .tile (vs.map (·.1))).granuleLanded i g c
  | _ =>
    let vs := bs.map fun x => (x.2, source x.1)
    let s1 := s.updTroupe c.denseTr fun t => vs.foldl (fun t x => (t.setByte x.1 x.2).setFullBit x.1 true) t
    (s1.wroteScratch c.denseTr (vs.map (·.1))).granuleLanded i g c

/-- The copy engine moves a granule of a copy, in an order of its own. -/
def execCopyGranuleWrite (copy granule : Nat) (s : State) : Outcome :=
  match s.copies[copy]? with
  | none => .next s
  | some c =>
    let early := c.after.any fun x => (s.thread x.1).stores.any fun p => decide (p.seq < x.2)
    if !c.live || !c.todo.contains granule || early || s.waits (.copy copy) || !s.engineRuns (s.ens (s.troupe c.troupe).ens).ctx 3 then .next s
    else if let some x := c.sent.find? (·.1 == granule) then
      .next (if s.passing x.2 then s else s.granuleLanded copy granule { c with sent := c.sent.filter (·.1 != granule) })
    else if c.kind = .gS then .next (s.moveGranule copy granule c)
    else
      let e := s.ens (s.troupe c.troupe).ens
      let core := (s.troupe c.troupe).core
      let asid := (s.ctx e.ctx).asid
      -- a granule that fails stops the copy at its lowest failing address, once every page below is known
      let fault := if (s.copyFault c [granule]).isSome then s.copyFault c c.todo else none
      let below := match fault with
        | some f => (c.addrs c.todo).filter fun a => decide (a < f.2)
        | none => c.addrs [granule]
      match fault, s.copyMiss c below with
      | some f, none => .next (s.stopCopy copy c f.1 (w64 f.2))
      | _, some (a, .track) => .next ((s.requestPage asid (a % 2 ^ 57 / 4096) 1 0 (.copy copy)).updCopy copy fun x => { x with waiting := true })
      | _, some (a, _) =>
        .next ((s.requestXl asid core (a % 2 ^ 57) (if c.kind = .st then 1 else 0) (.copy copy)).updCopy copy fun x => { x with waiting := true })
      | none, none => .next (s.moveGranule copy granule c)

/-! ### Waiting, testing and cancelling (R230 to R232) -/

def execCwait (a : RegField) (c : BitVec 4) (g : PredField) (s : State) : Outcome :=
  runWord s g fun w => do
    let x ← w.t.fetch [] [rd1 a []]
    let v := (x.v 0).toNat
    let n := slice v 8 9
    if 256 < n || slice v 17 15 != 0 then fail .reservedField else .ok ()
    require (w.tr.k == pkProducer w.e.packet) .copyRights
    let m := nth w.tr.maps c.toNat {}
    let clear := (upFrom 0 n).any fun i => !bitAt m.bits.toNat ((v + i) % 256)
    if !clear then .ok s
    else match m.latch with
      | some f => .error (.trap f.1 f.2 (w64 (c.toNat + 32)) 0)
      | none => .error (.park .completionMap)

def execCtest (d a : RegField) (c : BitVec 4) (g : PredField) (st : BitVec 1) (s : State) : Outcome :=
  runWord s g fun w => do
    let x ← w.t.fetch [wr1 d] [rd1 a []]
    require (w.tr.k == pkProducer w.e.packet) .copyRights
    let m := nth w.tr.maps c.toNat {}
    let j0 := (x.v 0).toNat % 256
    let bits := ofBits ((upFrom 0 32).map fun i => bitAt m.bits.toNat ((j0 + i) % 256))
    let status := (match m.latch with
      | some f => f.1.code
      | none => 0) + m.inflight * 256
    let t ← x.t.oweRegs d.toNat [w32 (if st = 1#1 then status else bits)] .b32
    .ok (s.setThread w.k t)

/-- CPYC: no copy of the map writes again, which is so once the writes that have left for a home are performed there; chunks that were pending are
clear (R232). -/
def execCpyc (c : BitVec 4) (g : PredField) (s : State) : Outcome :=
  runWord s g fun w => do
    require (w.tr.k == pkProducer w.e.packet) .copyRights
    let mine (x : Copy) : Bool := x.live && x.troupe == w.trI && x.kind != .cb && x.map == c.toNat
    if s.copies.any fun x => mine x && x.sent.any fun y => s.passing y.2 then .error (.park .copyCancel) else .ok ()
    let cancel (x : Copy) : Copy :=
      if mine x then { x with live := false, todo := [], waiting := false } else x
    let s1 := { s with copies := s.copies.map cancel }
    .ok (s1.updMap w.trI c.toNat fun m =>
      { (m.pending.foldl (fun m x => m.setBit x.1 false) m) with pending := [], inflight := 0, latch := none })

/-! ### Carousels (R235 to R239) -/

/-- The Carousel that an instruction reaches: place of its troupe, and the Carousel. -/
def State.carouselOf (s : State) (w : Who) (c : BitVec 3) (v : BitVec 2) : Except Stop (Nat × Carousel) :=
  match w.e.troupes[w.tr.k ^^^ v.toNat]? with
  | some tr => .ok (tr, nth (s.troupe tr).carousels c.toNat {})
  | none => fail .carouselProtocol

/-- May a parked or newly issued operation go: is no other parked before it?
(DEDUCED: log entry 85.) -/
def firstWaiter (l : List Nat) (k : Nat) : Bool :=
  match l with
  | [] => true
  | x :: _ => x == k

/-- A thread no longer parks at a Carousel: it takes a stage there, or traps. -/
def State.leaveCarousel (s : State) (tr i k : Nat) : State :=
  s.updCarousel tr i fun o => { o with acqWait := o.acqWait.filter (· != k), popWait := o.popWait.filter (· != k) }

def execCbinit (a : RegField) (c : BitVec 3) (g : PredField) (v : BitVec 2) (s : State) : Outcome :=
  runWord s g fun w => do
    let x ← w.t.fetch [] [rd2 a []]
    let r ← s.carouselOf w c v
    let base := (nth (x.ws 0) 0 0).toNat
    let cfg := (nth (x.ws 0) 1 0).toNat
    if slice cfg 20 12 != 0 then fail .reservedField else .ok ()
    let size := 512 * slice cfg 0 16
    let count := slice cfg 16 4 + 1
    if size != 0 && base % 512 != 0 then failAt .misaligned base else .ok ()
    let place ← if size = 0 then .ok (r.1, 0) else s.checkScratch w base (size * count) 1
    let busy := r.2.stages.any fun st => match st with
      | .acq | .filling | .held => true
      | _ => false
    let clash := size != 0 && w.e.troupes.any fun i => (upFrom 0 8).any fun j =>
      let o := nth (s.troupe i).carousels j {}
      !(i == r.1 && j == c.toNat) && !o.stages.isEmpty && o.slice == place.1
        && decide (o.base < place.2 + size * count) && decide (place.2 < o.base + o.size * o.stages.length)
    if busy || clash then fail .carouselProtocol else .ok ()
    .ok (s.updCarousel r.1 c.toNat fun o =>
      if size = 0 then { o with slice := 0, base := 0, size := 0, head := 0, tail := 0, stages := [] }
      else { o with slice := place.1, base := place.2, size := size, head := 0, tail := 0, stages := List.replicate count .free })

/-- CBACQ: an acquire at .EN; the next stage in ring order.
(DEDUCED: log entry 85.) -/
def execCbacq (d : RegField) (c : BitVec 3) (g : PredField) (v : BitVec 2) (s : State) : Outcome :=
  runWord s g fun w => do
    let x ← w.t.fetch [wr1 d] []
    let r ← s.carouselOf w c v
    let o := r.2
    if o.stages.isEmpty then .error (.trapIn (s.leaveCarousel r.1 c.toNat w.k) .carouselProtocol 0 0) else .ok ()
    if o.stage o.head = .free && firstWaiter o.acqWait w.k then
      let t := (x.t.setReg d.toNat (w32 (s.stageAddr o w.tr.k o.head)) .b32).acquired .en s.stamp
      .ok ((s.setThread w.k t).updCarousel r.1 c.toNat fun o =>
        { o.setStage o.head .acq with head := (o.head + 1) % o.stages.length, acqWait := o.acqWait.filter (· != w.k) })
    else .error (.hold (s.updCarousel r.1 c.toNat fun o => { o with acqWait := if o.acqWait.contains w.k then o.acqWait else o.acqWait ++ [w.k] })
      (.parked .carousel s.clock))

/-- CBWAIT: an acquire at .EN; a FAULT stage traps and stays.
(DEDUCED: log entry 85.) -/
def execCbwait (d : RegField) (c : BitVec 3) (g : PredField) (v : BitVec 2) (s : State) : Outcome :=
  runWord s g fun w => do
    let x ← w.t.fetch [wr1 d] []
    let r ← s.carouselOf w c v
    let o := r.2
    let leave (s : State) : State := s.leaveCarousel r.1 c.toNat w.k
    if o.stages.isEmpty then .error (.trapIn (leave s) .carouselProtocol 0 0) else .ok ()
    let wait : Except Stop State :=
      .error (.hold (s.updCarousel r.1 c.toNat fun o => { o with popWait := if o.popWait.contains w.k then o.popWait else o.popWait ++ [w.k] })
        (.parked .carousel s.clock))
    if !firstWaiter o.popWait w.k then wait
    else match o.stage o.tail with
      | .full =>
        let t := (x.t.setReg d.toNat (w32 (s.stageAddr o w.tr.k o.tail)) .b32).acquired .en s.stamp
        .ok ((leave (s.setThread w.k t)).updCarousel r.1 c.toNat fun o => { o.setStage o.tail .held with tail := (o.tail + 1) % o.stages.length })
      | .fault cause addr => .error (.trapIn (leave s) cause addr (w64 (c.toNat + 48)))
      | _ => wait

/-- CBCMT and CBREL: a release at .EN of a stage in one state, to another. -/
def stageRelease (a : RegField) (c : BitVec 3) (v : BitVec 2) (old new : Stage) (s : State) (w : Who) : Except Stop State := do
  let x ← w.t.fetch [] [rd1 a [.b32]]
  let r ← s.carouselOf w c v
  match s.stageAt r.2 w.tr.k (x.v 0).toNat with
  | none => fail .carouselProtocol
  | some i =>
    if r.2.stage i != old then fail .carouselProtocol
    else if s.released w.t .en then .ok ((s.setThread w.k x.t).updCarousel r.1 c.toNat (·.setStage i new))
    else .error (.park .drain)

def execCbcmt (a : RegField) (c : BitVec 3) (g : PredField) (v : BitVec 2) (s : State) : Outcome := runWord s g (stageRelease a c v .acq .full s)
def execCbrel (a : RegField) (c : BitVec 3) (g : PredField) (v : BitVec 2) (s : State) : Outcome := runWord s g (stageRelease a c v .held .free s)

end Sys2Proof.Machine
end

