-- ==== Sys2Proof/Machine/Box.lean ====
section
/-! DEFINITION. Nodes, references, and the box and triangle tests that RBOX, RBOX.G and RTRI share (14_rays.md R316 to R325, 11_matrix.md
R267). -/

namespace Sys2Proof.Machine

/-! ### Nodes (R316, R317, R319) -/

abbrev Node := BitVec 1024

def refKind (r : Nat) : Nat := r % 4
def refCount (r : Nat) : Nat := slice r 2 5
/-- The target's low 57 bits. -/
def refAddr (r : Nat) : Nat := slice r 7 50 * 128
/-- A reference is malformed by its own bits. -/
def refMalformed (r : Nat) : Bool := refKind r == 3 || r / 2 ^ 57 != 0 || (decide (refKind r < 2) && refCount r != 0)
/-- The bytes of a reference's target: a node, or a leaf's records. -/
def refBytes (r : Nat) : Nat := if refKind r = 1 then 128 else if refKind r = 2 then (refCount r + 1) * 48 else 0

def Node.org (n : Node) (axis : Nat) : Nat := fieldOf n (4 * axis) 0 32
def Node.exp (n : Node) (axis : Nat) : Int := signed (fieldOf n (12 + axis) 0 8) 8
def Node.qlo (n : Node) (i axis : Nat) : Nat := fieldOf n (16 + 6 * i + axis) 0 8
def Node.qhi (n : Node) (i axis : Nat) : Nat := fieldOf n (19 + 6 * i + axis) 0 8
def Node.child (n : Node) (i : Nat) : Nat := fieldOf n (64 + 8 * i) 0 64

/-- A node that breaks a rule of R319 other than that of the pool. -/
def Node.malformed (n : Node) : Bool :=
  (upFrom 0 8).any (fun i => refMalformed (n.child i))
  || (upFrom 0 3).any (fun x => n.exp x == -128 || !(fF32.decode (n.org x)).finite)
  || fieldOf n 15 0 8 != 0

/-- The decoded box of child i on an axis: lo rounds down, hi rounds up. -/
def Node.bound (n : Node) (i axis : Nat) (hi : Bool) : FVal :=
  let q := if hi then n.qhi i axis else n.qlo i axis
  let v := ((fF32.decode (n.org axis)).add .rne (.num false q (n.exp axis))).1
  fF32.decode (fF32.encode (if hi then .rup else .rdn) false v).1

/-! ### The box test (R322, R323) -/

/-- A ray: origin, tmin, inverse direction, tmax, as F32 patterns. -/
abbrev Ray := List Word

def Ray.val (r : Ray) (i : Nat) : FVal := fF32.decode (nth r i 0).toNat

/-- A ray that hits nothing. -/
def Ray.void (r : Ray) : Bool := (upFrom 0 8).any (fun i => (Ray.val r i).isNaN) || (Ray.val r 7).lt (Ray.val r 3)

def FVal.minOf (a b : FVal) : FVal := if b.below a then b else a
def FVal.maxOf (a b : FVal) : FVal := if a.below b then b else a
def FVal.isZero : FVal → Bool
  | .num _ m _ => m == 0
  | _ => false
def FVal.isInf : FVal → Bool
  | .inf _ => true
  | _ => false

/-- a × b, where an exact zero times an infinity counts as the infinity given. -/
def mulSlab (neg : Bool) (a b : FVal) : FVal :=
  if (a.isZero && b.isInf) || (a.isInf && b.isZero) then .inf neg else (a.mul b).1

/-- a - b exactly. -/
def FVal.sub (a b : FVal) : FVal := (a.add .rne (b.modify true false)).1

/-- The entry of child i where it is hit. Where a bound and the origin are the same infinity, R323 states no result: a free value.
(DESIGN CHOICE: log entry 80.) -/
def Node.hit (n : Node) (r : Ray) (i : Nat) : Option FVal :=
  if Ray.void r || refKind (n.child i) = 0 || (upFrom 0 3).any (fun x => decide (n.qhi i x < n.qlo i x)) then none
  else
    let d (axis : Nat) (hi : Bool) : FVal := (n.bound i axis hi).sub (Ray.val r axis)
    if (upFrom 0 3).any fun x => (d x false).isNaN || (d x true).isNaN then
      let w := Config.freeWord (ofWords r + 2 ^ 256 * n.toNat) i
      let v := fF32.decode (Config.freeWord (ofWords r + 2 ^ 256 * n.toNat) (8 + i)).toNat
      if bitAt w.toNat 0 && !v.isNaN then some v else none
    else
      let near (x : Nat) : FVal := (mulSlab true (d x false) (Ray.val r (4 + x))).minOf (mulSlab true (d x true) (Ray.val r (4 + x)))
      let far (x : Nat) : FVal := (mulSlab false (d x false) (Ray.val r (4 + x))).maxOf (mulSlab false (d x true) (Ray.val r (4 + x)))
      let entry := (((Ray.val r 3).maxOf (near 0)).maxOf (near 1)).maxOf (near 2)
      let leave := (((Ray.val r 7).minOf (far 0)).minOf (far 1)).minOf (far 2)
      if leave.lt entry then none else some entry

/-- Puts a hit in its place: ascending entry, ties to the lower index, which comes first. -/
def insertHit (x : Nat × FVal) : List (Nat × FVal) → List (Nat × FVal) := putBefore (fun y => x.2.lt y.2) x

/-- What a ray finds in a node: the word of mask and order, and the least entry rounded down as F32. -/
def Node.test (n : Node) (r : Ray) : Word × Word :=
  let hits := (upFrom 0 8).filterMap fun i => (n.hit r i).map fun e => (i, e)
  let sorted := hits.foldl (fun l x => insertHit x l) []
  let mask := maskOf (hits.map (·.1))
  let order := sorted.map (·.1) ++ (upFrom 0 8).filter fun i => !bitAt mask i
  let least := match sorted with
    | [] => fF32.infBits false
    | x :: _ => (fF32.encode .rdn false x.2).1
  (w32 (mask + 256 * order.foldr (fun i acc => i + 8 * acc) 0), w32 least)

/-- The record of a node that tests as hit by nothing. -/
def missRecord : Word × Word := (w32 (256 * (upFrom 0 8).foldr (fun i acc => i + 8 * acc) 0), w32 (fF32.infBits false))

/-! ### The triangle test (R318, R325) -/

abbrev TriRec := BitVec 384

def TriRec.vertex (t : TriRec) (v axis : Nat) : FVal := fF32.decode (fieldOf t (12 * v + 4 * axis) 0 32)
def TriRec.prim (t : TriRec) : Word := w32 (fieldOf t 36 0 32)
def TriRec.noHit (t : TriRec) : Bool := fieldOf t 40 0 1 == 1
/-- res0 fields that are not zero (R319). -/
def TriRec.malformed (t : TriRec) : Bool := fieldOf t 40 1 31 != 0 || fieldOf t 44 0 32 != 0

/-- A finite value times 2^320, an integer for every F32 value. -/
def FVal.scaled (v : FVal) : Int :=
  match v with
  | .num n m e => let k : Int := (m * 2 ^ (e + 320).toNat : Nat); if n then -k else k
  | _ => 0

/-- The part of b × c on the axis that follows j and comes before the next: axes i and j, in their turning order. -/
def turn2 (b c : Nat → Int) (i j : Nat) : Int := b i * c j - b j * c i

/-- det(a, b, c), as the sum over the axes of a times b × c. -/
def det3 (a b c : Nat → Int) : Int := ((upFrom 0 3).map fun i => a i * turn2 b c ((i + 1) % 3) ((i + 2) % 3)).foldl (· + ·) 0

/-- t, u and v of a hit. The direction is the exact reciprocal of the inverse direction, taken here times the product of its finite components'
numerators: a positive or negative common factor of dir scales e0, e1, e2 and S alike and leaves e/S as it is; t is in units of 1/dir, so
that the factor is divided out.
(DESIGN CHOICE: log entry 80.) -/
def TriRec.hit (t : TriRec) (r : Ray) : Option (Word × Word × Word) :=
  let inv (x : Nat) : FVal := Ray.val r (4 + x)
  let finiteAll := (upFrom 0 3).all fun v => (upFrom 0 3).all fun x => (t.vertex v x).finite
  if Ray.void r || t.noHit || !finiteAll || (upFrom 0 3).any (fun x => (inv x).isZero) then none
  else if (upFrom 0 3).any fun x => !(Ray.val r x).finite then
    -- an infinite origin: R325's arithmetic states no result, a free value
    let w := Config.freeWord (ofWords r + 2 ^ 256 * t.toNat)
    if bitAt (w 0).toNat 0 then some (w 1, w 2, w 3) else none
  else
    -- dir x = 2^320 / q x, where q is the scaled inverse; over the common denominator Q the numerators are 2^320 × Q / q x
    let q (x : Nat) : Int := if (inv x).finite then (inv x).scaled else 1
    let den := q 0 * q 1 * q 2
    let dir (x : Nat) : Int := if (inv x).finite then 2 ^ 320 * (den / q x) else 0
    let p (v : Nat) (x : Nat) : Int := (t.vertex v x).scaled - (Ray.val r x).scaled
    let e0 := det3 (p 1) (p 2) dir
    let e1 := det3 (p 2) (p 0) dir
    let e2 := det3 (p 0) (p 1) dir
    let sum := e0 + e1 + e2
    -- t = det(p0, p1, p2) / S: p carries 2^320 thrice over S's twice, and dir carries den
    let num := det3 (p 0) (p 1) (p 2) * den
    let dt := sum * 2 ^ 320
    let edges := [e0, e1, e2]
    let inside := edges.all (fun e => decide (0 ≤ e)) || edges.all (fun e => decide (e ≤ 0))
    if sum = 0 || !inside then none
    else
      -- tmin ≤ t ≤ tmax, compared as t.num × 2^320 against bound × t.den
      let sgn : Int := if dt < 0 then -1 else 1
      let above (b : FVal) : Bool := match b with
        | .inf n => n
        | v => decide (v.scaled * dt * sgn ≤ num * sgn * 2 ^ 320)
      let under (b : FVal) : Bool := match b with
        | .inf n => !n
        | v => decide (num * sgn * 2 ^ 320 ≤ v.scaled * dt * sgn)
      if above (Ray.val r 3) && under (Ray.val r 7) then some (ratioF32 num dt, ratioF32 e1 sum, ratioF32 e2 sum) else none

end Sys2Proof.Machine
end

