-- ==== Sys2Proof/Machine/Matrix.lean ====
section
/-! DEFINITION. The order of sums, and the SIMT matrix instructions MMA, MMAS, TLD and TST (11_matrix.md R242 to R250, 06_control.md R147). -/

namespace Sys2Proof.Machine

/-! ### The order of sums (R242, R243) -/

/-- The class that the tag of x[a] selects; MX and integer forms lie within one class (R243, R247). -/
def Tag.matClass : Tag → Option MatClass
  | .f16x2 | .bf16x2 => some .half
  | .e4m3x4 | .e5m2x4 => some .byte
  | .i8x4 => some .int
  | .e2m1x8 => some .nib
  | .sx8x4 | .sx5x4 => some .sx
  | .sx3x4 => some .sx3
  | _ => none

/-- The depths of a K-slice. -/
def sliceDepth (c : MatClass) (mx : Bool) : Nat :=
  match c with
  | .half => 8
  | .byte => if mx then 32 else 16
  | .int => if mx then 32 else 16
  | .nib | .sx | .sx3 => 32

/-- One slice: acc + P, rounded once; no addition where no depth of it takes part. acc is an F32 pattern. -/
def addSlice (acc : Nat) (terms : List (FVal × FVal)) : Nat :=
  if terms.isEmpty then acc
  else
    let p := (FVal.sum .rne (terms.map fun x => (x.1.mul x.2).1)).1
    (fF32.encode .rne false ((fF32.decode acc).add .rne p).1).1

/-- The terms of depths lo to hi - 1 that take part. -/
def termsOf (a b : List FVal) (use : Nat → Bool) (lo hi : Nat) : List (FVal × FVal) :=
  (((upFrom 0 hi).zip (a.zip b)).drop lo).filterMap fun x => if use x.1 then some x.2 else none

/-- The floating-point element over K depths: the slices in ascending order. -/
def dotFloat (acc : Nat) (depth k : Nat) (a b : List FVal) (use : Nat → Bool) : Nat :=
  (upFrom 0 ((k + (depth - 1)) / depth)).foldl (fun acc s => addSlice acc (termsOf a b use (s * depth) (min k ((s + 1) * depth)))) acc

/-- The integer form: one exact sum, wrapped, or clamped under .SAT. -/
def dotInt (acc : Nat) (k : Nat) (a b : List FVal) (use : Nat → Bool) (sat : Bool) : Nat :=
  let e : Int := (termsOf a b use 0 k).foldl (fun (e : Int) x => e + (x.1.toInt .rne).1 * (x.2.toInt .rne).1) (signed acc 32)
  wrap (if sat then clampInt e (-2147483648) 2147483647 else e) 32

/-! ### Fragments (R244, R248) -/

/-- A's and B's elements with their tags, k ascending. -/
def elemsOf (ws : List (Word × Tag)) : List (Nat × Tag) := ws.flatMap fun w => (w.2.unpack w.1).map fun b => (b, w.2)

/-- The elements' values under their scales. An integer zero keeps no sign. -/
def matVals (es : List (Nat × Tag)) (scale : Nat → Scale) (neg : Bool) : List FVal :=
  ((upFrom 0 es.length).zip es).map fun x =>
    modifyElem neg false (x.2.2 == .i8x4) (elemValue x.2.2.kind (scale x.1) x.2.1).1

/-- The scale of depth k: from an MX scale register, from SX metadata registers, or none. -/
def fragScale (c : MatClass) (mx : Bool) (extra : List Word) (k : Nat) : Scale :=
  if mx then .mx (slice (nth extra (extra.length - 1) 0).toNat (8 * (k / 32)) 8)
  else match c with
    | .sx | .sx3 =>
      let m := slice (nth extra (k / 32) 0).toNat (16 * (k / 16 % 2)) 16
      .sx (m / 256) (slice m (2 * (k % 16 / 4)) 2)
    | _ => .unscaled

/-- A 2:4-sparse row's kept elements at their logical depths, +0 elsewhere; nibble g of the metadata gives group g's indices (R88, R248). -/
def sparseExpand (es : List (Nat × Tag)) (metaBits : Nat) : List (Nat × Tag) :=
  (upFrom 0 (es.length / 2)).flatMap fun g =>
    let ix := slice metaBits (4 * g) 4
    let e0 := nth es (2 * g) (0, .b32)
    let e1 := nth es (2 * g + 1) (0, .b32)
    (upFrom 0 4).map fun i => if i = ix / 4 then e1 else if i = ix % 4 then e0 else (0, e0.2)

/-- Registers of an A group and of those after it; of a B group likewise (R244, R248). -/
structure FragShape where
  a    : Nat
  aExt : Nat
  b    : Nat
  bExt : Nat
  k    : Nat
  deriving DecidableEq, Repr

def fragShape (c : MatClass) (sparse mx : Bool) : FragShape :=
  let e := if mx then 1 else 0
  match c with
  | .half => if sparse then ⟨8, 1, 16, 0, 32⟩ else ⟨8, 0, 8, 0, 16⟩
  | .byte | .int => if sparse then ⟨8, 2 + e, 16, e, 64⟩ else ⟨8, e, 8, e, 32⟩
  | .nib => ⟨8, e, 8, e, 64⟩
  | .sx | .sx3 => ⟨16, 2, 16, 2, 64⟩

/-- B accepts the other 8-bit float format (R247). -/
def Tag.partners (t : Tag) : List Tag :=
  match t with
  | .e4m3x4 => [.e4m3x4, .e5m2x4]
  | .e5m2x4 => [.e5m2x4, .e4m3x4]
  | x => [x]

/-- What the accumulator expects (R247). -/
def accTags (intForm : Bool) : List Tag := if intForm then [.b32] else [.f32, .acc]

/-- Registers read at their ports, with the tags of what was read; a matrix instruction raises no flags (R242).
(DEDUCED: log entry 75.) -/
def Thread.portWords (t : Thread) (base n : Nat) (want : List Tag) : List (Word × Tag) :=
  (upFrom base n).map fun r => let p := (portRead false want (t.reg r)).get; (p.val, p.tag)
def Thread.rawWords (t : Thread) (base n : Nat) : List Word := (upFrom base n).map fun r => (t.reg r).val

/-! ### The mask pair (R245) -/

/-- The lanes of a thread's crew that exist. -/
def Troupe.crewMask (tr : Troupe) (crew : Nat) : Nat := 2 ^ min 16 (tr.threads.length - 16 * crew) - 1

/-- x[c] and x[c + 1], or all of the crew and all ones. -/
def Who.maskPair (w : Who) : DWord :=
  match w.t.hints.cReg with
  | some c => pairOf (w.t.reg c).val (w.t.reg (c + 1)).val
  | none => w64 (w.tr.crewMask w.t.crew + 0xFFFFFFFFFFFF0000)

/-- The rows, the depths of K and the columns that take part. -/
def maskRow (m : DWord) (i : Nat) : Bool := bitAt m.toNat (16 + i)
def maskCol (m : DWord) (n : Nat) : Bool := bitAt m.toNat (32 + n)
def maskDepth (m : DWord) (kTotal k : Nat) : Bool := bitAt m.toNat (48 + k * 16 / kTotal)

/-- The registers of HINT.C as a source. -/
def Thread.maskSrc (t : Thread) : List Src := match t.hints.cReg with
  | some c => [.regs c 2 2 []]
  | none => []

/-- The arrival of a matrix instruction; `done` has all arrivals, whose THREADS names exactly the crew (R245). -/
def runMatrix (s : State) (i : Instr) (g : PredField) (check : Who → Except Stop Unit) (done : DWord → List (Nat × Nat) → State → State) : Outcome :=
  match s.whoOf s.cur with
  | none => .fault .unlinkedState
  | some w =>
    if w.t.guard g then
      match check w with
      | .error e => .next (s.stopped w e)
      | .ok _ =>
        let m := w.maskPair
        .next (s.meet w i m fun here s1 =>
          if m.toNat % 65536 = w.tr.crewMask w.t.crew then done m here s1
          else s1.failAtPc (s1.crewOf w.tr w.t.crew) w.t.pc w.t.lane)
    else .next ((s.passBy w).retire w.k w.t)

/-! ### MMA and MMAS (R246 to R248) -/

/-- The latch that an instruction with ha uses: loaded from the same a field, in the same form, and by the class that x[a]'s tag selects, or by any
where that tag selects none (R147).
(DEDUCED: log entry 34.) -/
def latchUsed (latch : Option ALatch) (t : Thread) (sparse : Bool) (a : RegField) : Option ALatch :=
  latch.filter fun h => t.hints.ha && h.field == a && h.sparse == sparse && h.mx == t.hints.sx
    && match (t.reg a.toNat).tag.matClass with
      | some c => c == h.cls
      | none => true

/-- The latch's registers of a lane. -/
def ALatch.row (h : ALatch) (lane : Nat) : List (Word × Tag) := ((h.rows.find? fun r => r.1 == lane).map (·.2)).getD []

/-- The checks at an arrival, in the order of R247; the A registers themselves are not read where the latch stands for them (R147). -/
def mmaCheck (sparse : Bool) (d a b : RegField) (w : Who) : Except Stop Unit := do
  let t := w.t
  let latch := latchUsed (nth w.tr.latches t.crew none) t sparse a
  t.checked [] (if latch.isSome then [] else [rd1 a []])
  let tag := match latch with
    | some h => ((h.row t.lane).headD (0, (t.reg a.toNat).tag)).2
    | none => (t.reg a.toNat).tag
  match tag.matClass with
  | none => fail .formatUnsupported
  | some c =>
    require (!sparse || c == .half || c == .byte || c == .int) .formatUnsupported
    let mx := t.hints.sx
    let z := fragShape c sparse mx
    let intForm := c == .int && !mx
    let aGrp : Grp := ⟨a.toNat, z.a + z.aExt, 8⟩
    let aSrc (want : List Tag) (n : Nat) : List Src := if latch.isSome then [] else [.regs a.toNat n 8 want]
    t.checked [aGrp] (aSrc [] (z.a + z.aExt) ++ [.regs b.toNat (z.b + z.bExt) 8 [], .regs d.toNat 16 8 []] ++ t.maskSrc)
    require (!((mx && (c == .half || c == .sx || c == .sx3)) || (t.hints.sat && !intForm))) .reservedField
    t.checked [] (aSrc [tag] z.a ++ [.regs b.toNat z.b 8 tag.partners])
    t.checked [] [.regs d.toNat 16 8 (accTags intForm)]
    let _ ← t.raiseFlags [t.fa, t.fb]
    .ok ()

/-- What a lane brings to a product: the class its tag selects, its A registers, and its column of B. -/
structure MatLane where
  lane : Nat
  k    : Nat
  t    : Thread
  cls  : Option MatClass
  a    : List (Word × Tag)
  b    : List FVal
  deriving Repr

/-- What a lane brings, from its registers and its row of A. -/
def matLaneOf (c : Option MatClass) (sparse : Bool) (tag : Tag) (row : List (Word × Tag)) (b : RegField) (x : Nat × Nat) (t : Thread) : MatLane :=
  let z := fragShape (c.getD .half) sparse t.hints.sx
  let bw := elemsOf (t.portWords b.toNat z.b tag.partners)
  { lane := x.1, k := x.2, t := t, cls := c, a := row
    b := matVals bw (fragScale (c.getD .half) t.hints.sx (t.rawWords (b.toNat + z.b) z.bExt)) t.hints.nb }

/-- (DEDUCED: log entry 34.) -/
def matLane (sparse : Bool) (a b : RegField) (s : State) (x : Nat × Nat) : MatLane :=
  let t := s.thread x.2
  let latch := latchUsed (nth (s.troupe t.troupe).latches t.crew none) t sparse a
  let tag := match latch with
    | some h => ((h.row x.1).headD (0, (t.reg a.toNat).tag)).2
    | none => (t.reg a.toNat).tag
  let c := tag.matClass
  let z := fragShape (c.getD .half) sparse t.hints.sx
  let row := match latch with
    | some h => h.row x.1
    | none => t.portWords a.toNat z.a [tag] ++ t.portWords (a.toNat + z.a) z.aExt []
  matLaneOf c sparse tag row b x t

/-- The values of a row of A from its registers. -/
def rowVals (c : MatClass) (sparse mx neg : Bool) (ws : List (Word × Tag)) : List FVal :=
  let z := fragShape c sparse mx
  let ext := (ws.drop z.a).map (·.1)
  let es := elemsOf (ws.take z.a)
  let es' := if sparse then sparseExpand es (ofWords (ext.take (if c = .half then 1 else 2))) else es
  matVals es' (fragScale c mx ext) neg

/-- One element D(i, n) of the result. -/
def mmaElem (c : MatClass) (mx : Bool) (m : DWord) (kTotal : Nat) (t : Thread) (old : Word) (a b : List FVal) : Word :=
  let z := t.hints.aa
  let use := maskDepth m kTotal
  if c == .int && !mx then w32 (dotInt (if z then 0 else old.toNat) kTotal a b use t.hints.sat)
  else w32 (dotFloat (if z then 0 else old.toNat) (sliceDepth c mx) kTotal a b use)

/-- The registers that a lane's part of a product writes. Arrivals of different classes have no stated result, which is then a free value, named by `key`.
(DESIGN CHOICE: log entry 35.) -/
def mmaWrites (c : MatClass) (sparse mx agree : Bool) (key : Nat) (m : DWord) (d : RegField) (lanes : List MatLane) (l : MatLane) :
    List (Nat × Word × Tag) :=
  let intForm := c == .int && !mx
  let av := rowVals c sparse mx l.t.hints.na l.a
  let acc := l.t.portWords d.toNat 16 (accTags intForm)
  (lanes.filter fun o => maskRow m l.lane && maskCol m o.lane).map fun o =>
    (d.toNat + o.lane,
      (if agree then mmaElem c mx m (fragShape c sparse mx).k l.t (nth acc o.lane (0, .b32)).1 av o.b
        else Config.freeWord (key * 64 + 32 + l.lane) o.lane),
      if intForm then Tag.b32 else Tag.f32)

/-- The obligations of a matrix instruction: "b" is met when its sources are read, "a" writes its results (R48, R247).
(DEDUCED: log entry 8.) -/
def Thread.oweMatrix (t : Thread) (key : Nat) (writes : List (Nat × Word × Tag)) : Thread :=
  match t.raiseFlags [t.fa, t.fb] with
  | .ok t' => { t' with owed := t'.owed ++ [{ flag := t.fb, simt := true, late := some (.product key) },
                                            { flag := t.fa, writes := writes, simt := true, late := some (.result key) }] }
  | .error _ => t

/-- Is a product still read by a thread? -/
def State.productOpen (s : State) (tr : Troupe) (key : Nat) : Bool :=
  tr.threads.any fun k => (s.thread k).owed.any fun o => o.late == some (.product key)

/-- All arrivals are there: the A latch is used, loaded or released (R147), and every unmasked element is computed. Arrivals of different
classes have no stated result, which is then a free value.
(DEDUCED: log entry 34; DESIGN CHOICE: log entry 35.) -/
def mmaDone (sparse : Bool) (d a b : RegField) (m : DWord) (arr : List (Nat × Nat)) (s : State) : State :=
  match arr with
  | [] => s
  | x0 :: _ =>
    let t0 := s.thread x0.2
    let mx := t0.hints.sx
    let lanes := arr.map (matLane sparse a b s)
    let c := ((lanes.head?.bind (·.cls)).getD .half)
    let agree := lanes.all fun l => l.cls == some c
    let rows := lanes.map fun l => (l.lane, l.a)
    let latch := latchUsed (nth (s.troupe t0.troupe).latches t0.crew none) t0 sparse a
    let newLatch : Option ALatch := if t0.hints.ha then
        some (match latch with
          | some h => h
          | none => { field := a, cls := c, sparse := sparse, mx := mx, rows := rows })
      else none
    let key := s.freshKey t0.crew
    let work : MatWork :=
      { key := key, cls := c, sparse := sparse, mx := mx, agree := agree, latched := t0.hints.ha, mask := m, d := d, a := a, b := b
        lanes := lanes.map fun l => { lane := l.lane, thread := l.k, hints := l.t.hints, regs := l.t.regs, row := l.a } }
    let s1 := s.updTroupe t0.troupe fun tr => { tr with
      latches := updateAt tr.latches t0.crew fun _ => newLatch
      works := (tr.works.filter fun x => s.productOpen tr x.key) ++ [work] }
    lanes.foldl (fun s l => (s.updThread l.k (·.oweMatrix key (mmaWrites c sparse mx agree key m d lanes l))).retire l.k l.t) s1

/-! ### Sources of a product read late (R39) -/

/-- Register n of a thread read again, with what it now holds: as an operand, and where it stands in the row of A that does not come of a latch. -/
def MatWork.reread (w : MatWork) (k n : Nat) (r : Reg) : MatWork :=
  let z := fragShape w.cls w.sparse w.mx
  let fresh (x : MatSnap) : MatSnap :=
    let regs := updateAt x.regs n fun _ => r
    let t : Thread := { regs := regs }
    let want := if n < w.a.toNat + z.a then (x.row.head?.map (·.2)).toList else []
    { x with
      regs := regs
      row := if w.latched || decide (n < w.a.toNat) || decide (w.a.toNat + z.a + z.aExt ≤ n) then x.row
        else updateAt x.row (n - w.a.toNat) fun _ => (t.portWords n 1 want).headD (0, .b32) }
  { w with lanes := w.lanes.map fun x => if x.thread = k then fresh x else x }

/-- The registers that its lanes write. -/
def MatWork.results (w : MatWork) : List (Nat × List (Nat × Word × Tag)) :=
  let lanes := w.lanes.map fun x =>
    matLaneOf (some w.cls) w.sparse ((x.row.head?).map (·.2) |>.getD .b32) x.row w.b (x.lane, x.thread) { hints := x.hints, regs := x.regs }
  lanes.map fun l => (l.k, mmaWrites w.cls w.sparse w.mx w.agree w.key w.mask w.d lanes l)

/-- A product reads a source register of thread k between its completion and the end of that thread's "b" obligation: the results that are not yet
written are those of the value that it then holds (R39).
(DEDUCED: log entry 8.) -/
def State.readProduct (s : State) (k key n : Nat) : State :=
  let t := s.thread k
  match (s.troupe t.troupe).works.find? (·.key == key) with
  | none => s
  | some w =>
    let w1 := w.reread k n (t.reg n)
    let s1 := s.updTroupe t.troupe fun tr => { tr with works := tr.works.map fun x => if x.key = key then w1 else x }
    let redone (ws : List (Nat × Word × Tag)) (o : Obligation) : Obligation :=
      if o.late == some (.result key) then { o with writes := o.writes.map fun y => (ws.find? fun z => z.1 == y.1).getD y } else o
    w1.results.foldl (fun s x => s.updThread x.1 fun t => { t with owed := t.owed.map (redone x.2) }) s1

def execMma (d a b : RegField) (g : PredField) (s : State) : Outcome :=
  runMatrix s (.mma d a b g) g (mmaCheck false d a b) (mmaDone false d a b)
def execMmas (d a b : RegField) (g : PredField) (s : State) : Outcome :=
  runMatrix s (.mmas d a b g) g (mmaCheck true d a b) (mmaDone true d a b)

/-! ### TLD and TST (R249) -/

def fragCtl (w : Word) : FragCtl := ⟨bitAt w.toNat 30, slice w.toNat 28 2, slice w.toNat 24 4, slice w.toNat 0 24⟩

/-- The memory formats of the kinds.
(DEDUCED: log entry 76.) -/
def FragCtl.admitted (c : FragCtl) : Bool :=
  match c.kind with
  | 0 | 1 => (decide (2 ≤ c.type) && decide (c.type ≤ 7)) || c.type == 10
  | 2 => decide (c.type ≤ 3)
  | _ => c.type == 1

/-- The elements that a lane moves: n of them. -/
def FragCtl.count (c : FragCtl) : Nat := if c.kind < 2 then c.regs * (Tag.ofCode c.type).elems else 16

/-- The checks at an arrival: the operands, the control word, the tile reservation.
(DEDUCED: log entry 76.) -/
def fragCheck (store : Bool) (d a b : RegField) (w : Who) : Except Stop Unit := do
  let t := w.t
  t.checked [] [rd1 b []]
  let cw := (t.reg b.toNat).val
  let c := fragCtl cw
  let base : List Src := if c.kind = 3 then [] else if c.scratch then [rd1 a [.b32]] else [rd2 a [.b32]]
  if store then t.checked [] (base ++ [.regs d.toNat c.regs 8 []] ++ t.maskSrc)
  else t.checked [⟨d.toNat, c.regs, 8⟩] (base ++ t.maskSrc)
  require (!bitAt cw.toNat 31 && !(c.kind == 3 && (store || a != 0 || slice c.str 4 4 != 0 || slice c.str 12 12 != 0))) .reservedField
  require c.admitted .formatUnsupported
  if c.kind = 3 then do
    require (tileBytes w.e.packet != 0) .gridNotOwned
    require (decide (slice c.str 0 4 < blockCount w.e.packet)) .matrixParam
  else .ok ()
  let _ ← t.raiseFlags [if store then t.fb else t.fa]
  .ok ()

/-- Does element n of a lane take part? -/
def FragCtl.live (c : FragCtl) (m : DWord) (lanes lane n : Nat) : Bool :=
  match c.kind with
  | 0 => maskRow m lane && maskDepth m c.count n
  | 1 => maskDepth m c.count n && maskCol m lane
  | _ => maskRow m lane && maskCol m n && bitAt lanes n

/-- The byte offset of element n of a lane from the base, and whether it is a high nibble. -/
def FragCtl.offset (c : FragCtl) (lane n : Nat) : Nat × Bool :=
  match c.kind with
  | 1 => (n * c.str + lane * c.width / 8, c.width == 4 && lane % 2 == 1)
  | _ => (lane * c.str + n * c.width / 8, c.width == 4 && n % 2 == 1)

/-- The virtual or scratch address of an element at an offset from the base in x[a] (R249). -/
def fragAddr (w : Who) (c : FragCtl) (a : RegField) (off : Nat) : Nat :=
  let base := ofWords ((w.t.portWords a.toNat (if c.scratch then 1 else 2) [.b32]).map (·.1))
  if c.scratch then (base + off) % 2 ^ 32 else (base + off) % 2 ^ 64

/-- The places of the elements that a lane moves, with the element and whether it is a high nibble: every check of each, then the watchpoints of all
(R249, R345). -/
def fragPlaces (s : State) (w : Who) (c : FragCtl) (a : RegField) (store : Bool) (m : DWord) : Except Stop (List ((Nat × Bool) × List Loc)) := do
  let lanes := w.tr.crewMask w.t.crew
  let ns := (upFrom 0 c.count).filter (c.live m lanes w.t.lane)
  let at_ (n : Nat) : Nat := fragAddr w c a (c.offset w.t.lane n).1
  let ps ← ns.mapM fun n =>
    if c.scratch then (s.checkScratch w (at_ n) c.bytes c.bytes).map fun l => scratchLocs l.1 l.2 c.bytes
    else (s.checkGlobal w (w64 (at_ n)) c.bytes c.bytes { read := !store, write := store } false).map (·.locs)
  w.watchAll (if c.scratch then [] else ns.map fun n => (at_ n, c.bytes)) (!store) store
  .ok ((ns.map fun n => (n, (c.offset w.t.lane n).2)).zip ps)

/-- The register of the group at d that holds element n, and the element as it goes to memory. -/
def FragCtl.regOf (c : FragCtl) (d : RegField) (n : Nat) : Nat := d.toNat + (if c.kind < 2 then n / (Tag.ofCode c.type).elems else n)
def FragCtl.stored (c : FragCtl) (t : Thread) (d : RegField) (n : Nat) : Nat := c.element n (t.reg (c.regOf d n)).val

/-- The effect of TLD for one arrival: relaxed loads of its elements, which bind later as any load does (R198, R249). KIND 3 reads the tile
reservation at once. -/
def tldOne (d a b : RegField) (m : DWord) (w : Who) (s : State) : Except Stop State := do
  let c := fragCtl (w.t.reg b.toNat).val
  if c.kind = 3 then do
    let j := slice c.str 0 4
    let q := slice c.str 8 2
    let p := slice c.str 10 2
    let elem (n : Nat) : Word :=
      if c.live m (w.tr.crewMask w.t.crew) w.t.lane n then (w.e.tileWord (blockWord j (16 * q + w.t.lane) (16 * p + n))).1 else 0
    let t' ← w.t.owe { flag := w.t.fa, writes := (upFrom d.toNat 16).zip ((upFrom 0 16).map fun n => (elem n, .acc)), simt := true }
    .ok (s.setThread w.k t')
  else do
    let ps ← fragPlaces s w c a false m
    let t' ← w.t.raiseFlags [w.t.fa]
    .ok (s.setThread w.k (t'.pushLoad
      { seq := 0, locs := ps.flatMap (·.2), scope := if c.scratch then .en else .dv, flag := w.t.fa
        form := { type := c.type, dst := d.toNat, count := c.regs, frag := some (c, ps.map (·.1)) }, born := s.moves }))

/-- Stores of nibbles that fall in one byte of a lane are one store. -/
def mergeNibbles (l : List StoreByte) : List StoreByte :=
  l.foldl (fun acc b => if acc.any fun x => x.loc == b.loc then
    acc.map fun x => if x.loc = b.loc then { x with val := x.val ||| b.val, mask := x.mask ||| b.mask } else x
    else acc ++ [b]) []

/-- Nibbles of TST: in scratch and on WB pages each is a masked write; on WC and UC pages the byte is read, and written back whole (R249). -/
def nibbleStores (s : State) (w : Who) (l : List StoreByte) : Except Stop (State × List (List StoreByte)) := do
  let part (b : StoreByte) : Bool := b.loc.bypasses && b.mask != 0xFF
  let r ← s.readNow w ((l.filter part).map (·.loc))
  let old := ((l.filter part).map (·.loc)).zip r.2
  .ok (r.1, l.map fun b => match old.find? fun x => x.1.same b.loc with
    | some x => if part b then [{ b with val := b.over x.2, mask := 0xFF }] else [b]
    | none => [b])

/-- The effect of TST for one arrival: each element is a relaxed store of its own. -/
def tstOne (d a b : RegField) (m : DWord) (w : Who) (s : State) : Except Stop State := do
  let c := fragCtl (w.t.reg b.toNat).val
  let ps ← fragPlaces s w c a true m
  let bytes := ps.map fun x =>
    let v := c.stored w.t d x.1.1
    if c.width = 4 then storeNibble x.2 x.1.2 v else storeOf x.2 (toBytes v c.bytes)
  let r ← if c.width = 4 then nibbleStores s w (mergeNibbles bytes.flatten) else .ok (s, bytes)
  let t' ← w.t.owe { flag := w.t.fb, simt := true, stores := upFrom w.t.seq r.2.length }
  .ok (r.2.foldl (fun (s : State) bs =>
    s.addStore w (s.thread w.k) { seq := 0, bytes := bs, scope := if c.scratch then .en else .dv, src := source c ps bs }) (r.1.setThread w.k t'))
where
  /-- The register of a store's elements, those that lie at its first byte, where they are of one register; a nibble written back with its neighbour is
  read once. -/
  source (c : FragCtl) (ps : List ((Nat × Bool) × List Loc)) (bs : List StoreByte) : Option DataSource :=
    let at_ := (bs.head?).map (·.loc)
    let els := (ps.filter fun x => x.2.head? == at_).map (·.1)
    match els with
    | [] => none
    | x :: _ =>
      if (els.any fun y => c.regOf d y.1 != c.regOf d x.1) || (c.width == 4 && bs.any fun b => b.loc.bypasses) then none
      else some { frag := some (c, els), regs := [(c.regOf d x.1, [])], words := [(w.t.reg (c.regOf d x.1)).val] }
  storeNibble (ls : List Loc) (high : Bool) (v : Nat) : List StoreByte :=
    ls.map fun l => { loc := l, val := BitVec.ofNat 8 (if high then v * 16 else v), mask := if high then 0xF0 else 0x0F }

/-- One arrival moves its elements: it leaves, traps, or waits with its rendezvous recorded as completed. -/
def fragOne (one : DWord → Who → State → Except Stop State) (m : DWord) (k : Nat) (s : State) : State :=
  match s.whoOf k with
  | none => s
  | some w =>
    match one m w s with
    | .ok s' => s'.retire k w.t
    | .error e =>
      let s1 := s.stopped w e
      match e with
      | .trap _ _ _ _ | .trapIn _ _ _ _ => s1.updThread k fun t => { t with split := false }
      | _ => s1.updThread k fun t => { t with split := true }

/-- TLD and TST: a rendezvous, but for an arrival that retries alone. -/
def runFragment (store : Bool) (i : Instr) (d a b : RegField) (g : PredField) (one : DWord → Who → State → Except Stop State) (s : State) : Outcome :=
  match s.whoOf s.cur with
  | none => .fault .unlinkedState
  | some w =>
    if w.t.split then .next (fragOne one w.maskPair w.k s)
    else runMatrix s i g (fragCheck store d a b) fun m arr s => arr.foldl (fun s x => fragOne one m x.2 s) s

def execTld (d a b : RegField) (g : PredField) (s : State) : Outcome :=
  runFragment false (.tld d a b g) d a b g (tldOne d a b) s
def execTst (d a b : RegField) (g : PredField) (s : State) : Outcome :=
  runFragment true (.tst d a b g) d a b g (tstOne d a b) s

end Sys2Proof.Machine
end

