-- ==== Sys2Proof/Machine/Grid.lean ====
section
/-! DEFINITION. The grid: its instructions, gang latches, the grid queue, steps, moves, drain and faults (11_matrix.md R251 to R267). -/

namespace Sys2Proof.Machine

def State.updGrid (s : State) (eI : Nat) (f : Grid → Grid) : State := s.updEns eI fun e => { e with grid := f e.grid }

/-- The threads of an ensemble. -/
def State.threadsOf (s : State) (e : Ensemble) : List Nat := e.troupes.flatMap fun k => (s.troupe k).threads

/-- The arrivals at an ensemble's gang latch (R256). -/
def State.latched (s : State) (e : Ensemble) : List Nat :=
  (s.threadsOf e).filter fun k => match (s.thread k).status with
    | .latched _ _ => true
    | _ => false

/-- Every arrival at the gang latch traps GANG_MISMATCH. -/
def State.gangMismatch (s : State) (eI : Nat) : State :=
  (s.latched (s.ens eI)).foldl (fun s k => s.takeTrap k .gangMismatch (s.thread k).pc 0 0) s

/-! ### Arrangement, gangs and OPFENCE (R253 to R257) -/

def execGridOn (g : PredField) (s : State) : Outcome :=
  runWord s g fun w => do
    require (fieldOf w.e.packet 48 8 1 == 1) .gridNotOwned
    require (decide (1536 ≤ fieldOf w.e.packet 56 0 16)) .gridShape
    if w.e.grid.on then .ok s
    else if (s.threadsOf w.e).any fun k => (s.thread k).owed.any (·.simt) || (s.thread k).loads.any (·.form.frag.isSome) then .error (.park .gridSwitch)
    else .ok (s.updGrid w.eI fun q => { q with on := true })

/-- A thread that waits here for the queue has already had its say over the open latch.
(DEDUCED: log entry 22.) -/
def execGridOff (g : PredField) (s : State) : Outcome :=
  runWord s g fun w =>
    if !w.e.grid.on then .ok s
    else
      let again := match w.t.status with
        | .parked .gridEmpty _ => true
        | _ => false
      let s1 := if again then s else s.gangMismatch w.eI
      if !w.e.grid.queue.isEmpty then .error (.hold s1 (.parked .gridEmpty s.clock))
      else .ok (s1.updGrid w.eI fun q => { q with on := false, fault := none })

/-- The gang word's members: ensemble crew numbers (R255). -/
def gangCrews (word : Nat) : List Nat := (onesOf (slice word 8 6) 6).map (slice word 0 8 + ·)

/-- Does a crew of the ensemble exist? -/
def State.crewExists (s : State) (e : Ensemble) (crew : Nat) : Bool :=
  match e.troupes[crew / 64]? with
  | some k => decide (crew % 64 * 16 < (s.troupe k).threads.length)
  | none => false

def execGang (a : RegField) (g : PredField) (s : State) : Outcome :=
  runWord s g fun w => do
    let x ← w.t.fetch [] [rd1 a [.b32]]
    let v := (x.v 0).toNat
    let memb := slice v 8 6
    require (v / 2 ^ 14 == 0) .reservedField
    require (!(memb == 0 && slice v 0 8 != 0) && popCount memb 6 != 1 && (gangCrews v).all (s.crewExists w.e)) .gridShape
    .ok (((s.setThread w.k x.t).gangMismatch w.eI).updGrid w.eI fun q => { q with gang := w32 v })

def execOpfence (g : PredField) (s : State) : Outcome :=
  runWord s g fun w =>
    if w.t.stores.any fun p => p.bytes.any (·.loc.scratch.isSome) then .error (.park .drain)
    else .ok (s.updGrid w.eI fun q => { q with dirtyScratch := [], dirtyTile := [] })

/-! ### Operation formats (R243, R258) -/

/-- The class of a format code. -/
def formatClass (code : Nat) : Option MatClass :=
  match code with
  | 2 | 3 => some .half
  | 4 | 5 => some .byte
  | 6 => some .nib
  | 7 => some .int
  | 10 | 11 => some .sx
  | 12 => some .sx3
  | _ => none

def GridOp.fa (op : GridOp) : Nat := op.f 8 0 4
def GridOp.fb (op : GridOp) : Nat := op.f 8 4 4
def GridOp.zero (op : GridOp) : Bool := bitAt (op.f 8 0 32) 12
def GridOp.reuse (op : GridOp) : Bool := bitAt (op.f 8 0 32) 13
def GridOp.scl (op : GridOp) : Nat := op.f 8 18 2
def GridOp.intForm (op : GridOp) : Bool := bitAt (op.f 8 0 32) 20
/-- The depths of a step, and the number of steps. -/
def GridOp.depth (op : GridOp) : Nat := sliceDepth ((formatClass op.fa).getD .half) (op.scl == 1)
def GridOp.steps (op : GridOp) : Nat := (op.k + (op.depth - 1)) / op.depth
/-- GMMAT: does element (m, n) lie above the diagonal (R260)? -/
def GridOp.above (op : GridOp) (m n : Nat) : Bool := op.kind == .gmmat && decide (signed (op.f 48 0 16) 16 < (n : Int) - m)

/-- Is a scaling invalid for a class (R258)? -/
def sclBad (c : MatClass) (scl : Nat) (intForm : Bool) : Bool :=
  match c with
  | .half => scl != 0 || intForm
  | .byte | .nib => decide (1 < scl) || intForm
  | .int => if intForm then scl != 0 else scl != 1
  | .sx | .sx3 => scl != 2 || intForm

/-- REUSEA with no panel, or with one that other fields latched.
(DEDUCED: log entry 77.) -/
def GridOp.panelBad (op : GridOp) (g : Grid) : Bool :=
  op.reuse && match g.panel with
    | none => true
    | some p => p.m != op.m || p.k != op.k || p.fa != op.fa || p.scl != op.scl || p.ascl != op.f 40 0 32

/-- A base's failure: an operand-store or scratch base above 32 bits, an operand-store range beyond the stores, a global base. -/
def baseBad (src base str count bytes : Nat) : Bool :=
  match src with
  | 0 => base / 2 ^ 32 != 0 || (decide (0 < count) && decide (0 < bytes) && decide (65536 < base + (count - 1) * str + bytes))
  | 1 => base / 2 ^ 32 != 0
  | _ => !canonical (w64 base) || base % 16 != 0

/-- The bytes of a row of K elements. -/
def rowBytes (code k : Nat) : Nat := (k * formatBits code + 7) / 8

/-- The offset of the lowest failing field of a parameter block (R258, step 3; log entry 21).
(DEDUCED: log entry 21.) -/
def GridOp.paramFailure (op : GridOp) (g : Grid) (blocks : Nat) : Option Nat :=
  let a := formatClass op.fa
  let codes := match a with
    | some c => formatClass op.fb != some c || sclBad c op.scl op.intForm
    | none => true
  let bad : List (Nat × Bool) :=
    [ (0, decide (64 < op.m) || decide (64 < op.n)), (4, op.f 4 24 8 != 0),
      (8, op.f 8 21 11 != 0 || op.f 8 14 2 == 3 || op.f 8 16 2 == 3 || codes || decide (blocks ≤ op.blk) || op.panelBad g),
      (12, op.f 12 0 32 % 16 != 0), (16, op.f 16 0 32 % 16 != 0), (20, op.f 20 0 32 != 0),
      (24, baseBad (op.f 8 14 2) (op.f 24 0 64) (op.f 12 0 32) op.m (rowBytes op.fa op.k)),
      (32, baseBad (op.f 8 16 2) (op.f 32 0 64) (op.f 16 0 32) op.n (rowBytes op.fb op.k)),
      (48, op.f 48 16 16 != 0 || (op.kind == .gmma && op.f 48 0 16 != 0)), (52, op.kind == .gmma && op.f 52 0 32 != 0),
      (56, op.f 56 0 64 != 0) ]
  (bad.find? (·.2)).map (·.1)

/-- The offset of the lowest failing field of a move block (R261).
(DEDUCED: log entry 21.) -/
def GridOp.moveFailure (op : GridOp) (blocks : Nat) : Option Nat :=
  let mf := op.f 4 0 4
  let spc := op.f 4 8 2
  let base := op.f 16 0 64
  let bad : List (Nat × Bool) :=
    [ (0, decide (64 < op.m) || decide (64 < op.n)),
      (4, op.f 4 10 22 != 0 || spc == 0 || spc == 3 || decide (3 < mf) || decide (blocks ≤ op.blk)),
      (8, op.f 8 0 32 % moveBytes mf != 0), (12, op.f 12 0 32 != 0),
      (16, base % moveBytes mf != 0 || (spc == 2 && !canonical (w64 base)) || (spc == 1 && base / 2 ^ 32 != 0)),
      (24, op.f 24 0 320 != 0) ]
  (bad.find? (·.2)).map (·.1)

/-- The scratch ranges of an operation, by address and length (R258 step 4, R261). Those of A of a REUSEA operation, which it does not read, are not
checked, though its parameters are.
(DESIGN CHOICE: log entry 107.) -/
def GridOp.scratchRanges (op : GridOp) : List (Nat × Nat) :=
  let rows (count base str len : Nat) : List (Nat × Nat) := (upFrom 0 count).map fun i => ((base + i * str) % 2 ^ 32, len)
  let all := match op.kind with
    | .gmma | .gmmat =>
      (if op.f 8 14 2 = 1 && !op.reuse then rows op.m (op.f 24 0 64) (op.f 12 0 32) (rowBytes op.fa op.k) else [])
      ++ (if op.f 8 16 2 = 1 then rows op.n (op.f 32 0 64) (op.f 16 0 32) (rowBytes op.fb op.k) else [])
      ++ (if op.reuse then [] else [(op.f 40 0 32, op.m * scaleRow op.scl op.k)])
      ++ [(op.f 44 0 32, op.n * scaleRow op.scl op.k)]
    | .gtld | .gtst =>
      if op.f 4 8 2 = 1 then rows op.m (op.f 16 0 64) (op.f 8 0 32) (op.n * moveBytes (op.f 4 0 4)) else []
    | .rbox => []
  all.filter fun r => r.2 != 0

/-- Does an operation's source overlap a dirty range (R257)? -/
def Ensemble.sourceDirty (e : Ensemble) (k : Nat) (op : GridOp) : Bool :=
  let block : List OpRange := if op.zero then [] else [⟨.tile, 65536 + 16384 * op.blk, 16384⟩]
  (e.opSources k op ++ block).any fun r => r.len != 0 && match r.space with
    | .tile => e.grid.dirtyTile.any fun i => decide (i * 4096 < r.base + r.len) && decide (r.base < (i + 1) * 4096)
    | .scratch t => e.grid.dirtyScratch.any fun x => x.1 == t && decide (x.2 * 4096 < r.base + r.len) && decide (r.base < (x.2 + 1) * 4096)
    | .glob => false

/-! ### Acceptance (R256, R258, R261) -/

/-- The acceptance checks of a block at a scratch address, for arrivals of which the first names the troupe (log entry 22); it waits while an
arrival's earlier store to the block or acquire is outstanding (R202), and while the queue is full.
(DEDUCED: log entry 22.) -/
def State.checkOp (s : State) (kind : GridKind) (addr : Nat) (ks : List Nat) (w : Who) : Except Stop GridOp := do
  let l ← s.checkScratch w addr 64 64
  let ls := scratchLocs l.1 l.2 64
  if ks.any fun k => (s.thread k).stores.any (·.touches ls) || (s.thread k).acquirePending (s.thread k).seq then .error (.park .gridRoom) else .ok ()
  require w.e.grid.on .gridNotOwned
  let op : GridOp :=
    { kind := kind, seq := w.e.grid.issued + 1, block := BitVec.ofNat 512 (ofBytes (ls.map s.getLoc)), thread := w.k
      after := ks.map fun k => (k, (s.thread k).seq) }
  match (if op.isMatrix then op.paramFailure w.e.grid (blockCount w.e.packet) else op.moveFailure (blockCount w.e.packet)) with
  | some off => .error (.trap .matrixParam 0 (w64 off) 0)
  | none => .ok ()
  let _ ← op.scratchRanges.mapM fun r => s.checkScratch w r.1 r.2 1
  require (!(op.isMatrix && w.e.sourceDirty w.tr.k op)) .operandFenceMissing
  if 8 ≤ w.e.grid.queue.length then .error (.park .gridRoom) else .ok ()
  .ok op

/-- Is a latching operation still in the queue: one whose A is not the panel at hand? -/
def GridOp.latching (op : GridOp) : Bool := op.isMatrix && !op.reuse

/-- An accepted operation enters the queue with the next sequence number; the latched panel is that of the last GMMA or GMMAT accepted.
(DEDUCED: log entry 77.) -/
def Grid.enter (g : Grid) (op : GridOp) : Grid :=
  let own : Option Panel := if op.latching then some { m := op.m, k := op.k, fa := op.fa, scl := op.scl, ascl := op.f 40 0 32 } else none
  let op' := { op with panel := if op.reuse && !(g.queue.any (·.latching)) then g.panel else own }
  { g with issued := op.seq, queue := g.queue ++ [op'], panel := if op.latching then own else g.panel }

/-- Accepts an operation for its arrivals: each receives the sequence number in its own destination and leaves. -/
def State.accept (s : State) (kind : GridKind) (addr : Nat) (ks : List (Nat × RegField)) : Except Stop State :=
  match ks with
  | [] => .ok s
  | k0 :: _ =>
    match s.whoOf k0.1 with
    | none => .ok s
    | some w => (s.checkOp kind addr (ks.map (·.1)) w).map fun op =>
      ks.foldl (fun s k => (s.updThread k.1 (·.setReg k.2.toNat op.seq .b32)).retire k.1 (s.thread k.1)) (s.updGrid w.eI (·.enter op))

/-- The destination of an arrival's instruction. -/
def latchedDst (i : Instr) : RegField :=
  match i with
  | .gmma d _ _ => d
  | .gmmat d _ _ => d
  | _ => 0

/-- Has every member crew of the gang arrived? Then the operation is accepted, or every arrival traps, or all stay parked.
(DEDUCED: log entry 22.) -/
def State.tryLatch (s : State) (eI : Nat) : State :=
  let e := s.ens eI
  let ks := s.latched e
  let crews := ks.map fun k => 64 * (s.troupe (s.thread k).troupe).k + (s.thread k).crew
  match ks with
  | [] => s
  | k0 :: _ =>
    match (s.thread k0).status with
    | .latched i b =>
      if (gangCrews e.grid.gang.toNat).all crews.contains then
        let kind : GridKind := match i with
          | .gmmat _ _ _ => .gmmat
          | _ => .gmma
        let dst (k : Nat) : RegField := match (s.thread k).status with
          | .latched j _ => latchedDst j
          | _ => 0
        match s.accept kind b.toNat (ks.map fun k => (k, dst k)) with
        | .ok s' => s'
        | .error (.trap c a v _) => ks.foldl (fun s k => s.takeTrap k c (s.thread k).pc a v) s
        | .error _ => s
      else s
    | _ => s

/-- Do two instructions have one sub-code? -/
def sameSub (i j : Instr) : Bool :=
  match i, j with
  | .gmma _ _ _, .gmma _ _ _ => true
  | .gmmat _ _ _, .gmmat _ _ _ => true
  | _, _ => false

/-- GMMA and GMMAT: accepted for their own crew where there is no gang, else an arrival at the gang latch. A thread at the latch tries again.
(DEDUCED: log entry 22.) -/
def runGang (i : Instr) (kind : GridKind) (d a : RegField) (g : PredField) (s : State) : Outcome :=
  match s.whoOf s.cur with
  | none => .fault .unlinkedState
  | some w =>
    match w.t.status with
    | .latched _ _ => .next (s.tryLatch w.eI)
    | _ =>
      if !w.t.guard g then .next (s.retire w.k w.t)
      else match w.t.fetch [wr1 d] [rd1 a [.b32]] with
        | .error e => .next (s.stopped w e)
        | .ok x =>
          let addr := x.v 0
          let s1 := s.setThread w.k x.t
          if slice w.e.grid.gang.toNat 8 6 = 0 then
            match s1.accept kind addr.toNat [(w.k, d)] with
            | .ok s' => .next s'
            | .error e => .next (s1.stopped w e)
          else
            let crew := 64 * w.tr.k + w.t.crew
            let others := s.latched w.e
            let fits := (gangCrews w.e.grid.gang.toNat).contains crew && others.all fun k =>
              (match (s.thread k).status with
                | .latched j b => sameSub i j && b == addr
                | _ => true)
              && 64 * (s.troupe (s.thread k).troupe).k + (s.thread k).crew != crew
            let s2 := s1.updThread w.k fun t => { t with status := .latched i addr }
            .next (if fits then s2.tryLatch w.eI else s2.gangMismatch w.eI)

def execGmma (d a : RegField) (g : PredField) (s : State) : Outcome := runGang (.gmma d a g) .gmma d a g s
def execGmmat (d a : RegField) (g : PredField) (s : State) : Outcome := runGang (.gmmat d a g) .gmmat d a g s

/-- GTLD and GTST take no gang. -/
def runMove (kind : GridKind) (d a : RegField) (g : PredField) (s : State) : Outcome :=
  match s.whoOf s.cur with
  | none => .fault .unlinkedState
  | some w =>
    if !w.t.guard g then .next (s.retire w.k w.t)
    else match w.t.fetch [wr1 d] [rd1 a [.b32]] with
      | .error e => .next (s.stopped w e)
      | .ok x =>
        let s1 := s.setThread w.k x.t
        match s1.accept kind (x.v 0).toNat [(w.k, d)] with
        | .ok s' => .next s'
        | .error e => .next (s1.stopped w e)

def execGtld (d a : RegField) (g : PredField) (s : State) : Outcome := runMove .gtld d a g s
def execGtst (d a : RegField) (g : PredField) (s : State) : Outcome := runMove .gtst d a g s

/-- q - p modulo 2^32 lies below 2^31: p is at or below q in sequence order. -/
def seqAtOrBelow (p q : Word) : Bool := decide ((q - p).toNat < 2 ^ 31)

/-- (DEDUCED: log entry 79.) -/
def execGwait (a : RegField) (g : PredField) (s : State) : Outcome :=
  runWord s g fun w => do
    let x ← w.t.fetch [] [rd1 a [.b32]]
    let q := x.v 0
    let gr := w.e.grid
    if q = 0 then .ok (s.setThread w.k x.t)
    else
      let ahead := (q - gr.issued).toNat
      require (!(decide (1 ≤ ahead) && decide (ahead < 2 ^ 31))) .matrixParam
      if !seqAtOrBelow q gr.done then .error (.park .gridSequence)
      else
        match gr.fault.filter fun f => seqAtOrBelow f.2.2 q with
        | some f => .error (.trap f.1 f.2.1 (w64 f.2.2.toNat) x.fl)
        | none => .ok ((s.setThread w.k x.t).updGrid w.eI fun gq => { gq with unwaited := gq.unwaited.filter fun op => !seqAtOrBelow op.seq q })

/-- RBOX.G (R267). -/
def execRboxG (d a : RegField) (g : PredField) (s : State) : Outcome :=
  runWord s g fun w => do
    let x ← w.t.fetch [wr1 d] [rd4 a []]
    let ws := x.ws 0
    let v (i : Nat) : Nat := (nth ws i 0).toNat
    require w.e.grid.on .gridNotOwned
    if v 0 % 32 != 0 then failAt .misaligned (v 0) else .ok ()
    if v 1 % 128 != 0 then failAt .misaligned (v 1) else .ok ()
    if v 2 % 8 != 0 then failAt .misaligned (v 2) else .ok ()
    let n := v 3 % 128
    let ranges : List (Nat × Nat) := [(v 0, 32 * n), (v 1, 128), (v 2, 8 * n)]
    let _ ← (ranges.filter fun r => r.2 != 0).mapM fun r => s.checkScratch w r.1 r.2 1
    require (v 3 / 128 == 0) .reservedField
    require (decide (n ≤ 64)) .matrixParam
    if 8 ≤ w.e.grid.queue.length then .error (.park .gridRoom) else .ok ()
    let t ← x.t.owe { flag := w.t.fa, hold := some s.moves }
    let op : GridOp := { kind := .rbox, key := s.moves, thread := w.k, dst := d.toNat, raddrs := ws, after := [(w.k, w.t.seq)] }
    .ok ((s.setThread w.k t).updGrid w.eI fun q => { q with queue := q.queue ++ [op] })

/-! ### Running operations (R259 to R264) -/

/-- Why the grid cannot go on: a fault to latch, or it has asked for what it lacks. -/
inductive GridStop where
  | latch (cause : Cause) (addr : Nat)
  | wait (s : State)

/-- May the ensemble's grid run: resident, its context not halted beyond the skid, no page awaited (R265)? Before a save every obligation of a thread
completes (R38) and the image has no place for RBOX.G (R266): a draining grid goes on as far as the last RBOX.G of its queue.
(DEDUCED: log entry 100.) -/
def State.gridRuns (s : State) (eI : Nat) (e : Ensemble) : Bool :=
  (e.phase == .resident || (e.phase == .draining && e.grid.queue.any (·.kind == .rbox))) && e.grid.on && !s.waits (.grid eI) && match (s.ctx e.ctx).halt with
    | none => true
    | some h => decide (s.clock ≤ h + 128) && !(s.ctx e.ctx).haltDone

/-- Every store that the operation must follow has been performed, and every acquire before it has been bound (R202). -/
def State.opReady (s : State) (op : GridOp) : Bool :=
  op.after.all fun x => (s.thread x.1).stores.all (fun p => decide (x.2 ≤ p.seq)) && !(s.thread x.1).acquirePending x.2

/-- The places of n bytes at an address of a space's code. -/
def Ensemble.placesAt (e : Ensemble) (k code a n : Nat) : List (Space × Nat) :=
  (upFrom a n).map fun x => match code with
    | 0 => (.tile, x)
    | 1 => match e.scratchPlace k (x % 2 ^ 32) with
      | some p => (.scratch p.1, p.2)
      | none => (.tile, 2 ^ 32)
    | _ => (.glob, x % 2 ^ 64)

/-- The grid's check of a global byte. -/
def State.gridCheck (s : State) (e : Ensemble) (a : Nat) (u : Use) : Except PageStop TlbEntry :=
  if !canonical (w64 a) then .error (.deny .addressNoncanonical)
  else s.pageCheck (s.ctx e.ctx).asid (e.cores.headD 0) (a % 2 ^ 57) u

/-- Who the grid's accesses are made for: its ensemble's first troupe counts their messages (R206).
(DEDUCED: log entry 27.) -/
def Ensemble.behalf (e : Ensemble) : Behalf := { ctx := e.ctx, troupe := e.troupes.head? }

/-- The data of a global byte of the grid fail their check: its context halts, the record holding the address (R194, R264, R349). -/
def State.gridBad (s : State) (e : Ensemble) (a : Nat) : State :=
  s.raiseHalt e.ctx { index := 408 + e.group, cause := .dataCheck, addr := w64 a }

/-- The physical addresses of the global bytes among some places, each with its address: the lowest byte that fails decides, by a latched fault or by
the page that is asked for; then data that are read and fail their check halt the context; then the link is asked for what is lacking, as the pages'
policies say (R187, R194, R264). The units that are reached past the caches come second.
(DEDUCED: log entries 27, 71.) -/
def State.gridPhys (s : State) (eI : Nat) (e : Ensemble) (ps : List (Space × Nat)) (u : Use) :
    Except GridStop (List (Nat × Nat) × List Nat) :=
  let asid := (s.ctx e.ctx).asid
  let gs := ps.filterMap fun p => match p.1 with
    | .glob => some p.2
    | _ => none
  let drain (s : State) : State := s.updGrid eI fun q => { q with drained := true }
  let failing := gs.filterMap fun a => match s.gridCheck e a u with
    | .error p => some (a, p)
    | .ok _ => none
  match failing with
  | x :: r =>
    let low := r.foldl (fun (m : Nat × PageStop) y => if y.1 < m.1 then y else m) x
    match low.2 with
    | .deny c => .error (.latch c low.1)
    | .track => .error (.wait (drain (s.requestPage asid (low.1 % 2 ^ 57 / 4096) 1 0 (.grid eI))))
    | .miss => .error (.wait (drain (s.requestXl asid (e.cores.headD 0) (low.1 % 2 ^ 57) u.kind (.grid eI))))
  | [] =>
    let found := gs.map fun a => (a, match s.gridCheck e a u with
      | .ok t => (t.phys (a % 2 ^ 57), t.policy)
      | .error _ => (0, .wb))
    let ps := found.map (·.2.1)
    let past := unitsOf ((found.filter fun x => x.2.2 != .wb).map (·.2.1))
    match if u.read then s.firstBad ps else none with
    | some i => .error (.wait (s.gridBad e (nth gs i 0)))
    | none =>
      if s.engineMay ps past u e.behalf then .ok (found.map fun x => (x.1, x.2.1), past)
      else .error (.wait (s.engineAsk ps past u e.behalf))

/-- An operation with the pages that it has found its global sources in. -/
def GridOp.finds (op : GridOp) (pas : List (Nat × Nat)) : GridOp :=
  { op with seen := (op.seen ++ pas.map fun (x : Nat × Nat) => (x.1 % 2 ^ 57 / 4096, x.2 / 4096)).dedup }

/-- A byte that the grid reads, its global addresses translated. -/
def State.gridByte (s : State) (e : Ensemble) (pas : List (Nat × Nat)) (p : Space × Nat) : Byte :=
  match p.1 with
  | .tile => e.tileByte p.2
  | .scratch t => (s.troupe t).getByte p.2
  | .glob => match pas.find? fun x => x.1 == p.2 with
    | some x => s.getPhys x.2
    | none => 0

/-- Exact values of n elements of a format from a step's bytes and its scale bytes. -/
def gridVals (fmt scl n : Nat) (bytes scales : List Byte) : List FVal :=
  let w := formatBits fmt
  let v := ofBytes bytes
  let sc := ofBytes scales
  let es := (upFrom 0 n).map fun i =>
    let e := slice v (i * w) w
    (if 10 ≤ fmt then e % 2 ^ (w - 1) + (if bitAt e (w - 1) then 128 else 0) else e, Tag.ofCode fmt)
  let scale (k : Nat) : Scale :=
    match scl with
    | 1 => .mx (sc % 256)
    | 2 => let m := slice sc (16 * (k / 16)) 16; .sx (m / 256) (slice m (2 * (k % 16 / 4)) 2)
    | _ => .unscaled
  matVals es scale false

/-- Bytes of a row that a step reads, and of its scales. -/
def GridOp.stepBytes (op : GridOp) (code s : Nat) : Nat := (min op.depth (op.k - s * op.depth) * formatBits code + 7) / 8
def GridOp.stepScales (op : GridOp) (s : Nat) : Nat :=
  match op.scl with
  | 1 => 1
  | 2 => 2 * ((min op.depth (op.k - s * op.depth) + 15) / 16)
  | _ => 0

/-- The places of row or column i of an operand in step s, and of its scales. -/
def GridOp.operandPlaces (op : GridOp) (e : Ensemble) (k : Nat) (isA : Bool) (s i : Nat) : List (Space × Nat) × List (Space × Nat) :=
  let code := if isA then op.fa else op.fb
  let src := if isA then op.f 8 14 2 else op.f 8 16 2
  let base := if isA then op.f 24 0 64 else op.f 32 0 64
  let str := if isA then op.f 12 0 32 else op.f 16 0 32
  let scales := if isA then op.f 40 0 32 else op.f 44 0 32
  let per := if op.scl = 2 then 4 else 1
  (e.placesAt k src (base + i * str + s * op.depth * formatBits code / 8) (op.stepBytes code s),
   e.placesAt k 1 (scales + i * scaleRow op.scl op.k + s * per) (op.stepScales s))

/-- ZERO and the fill of GMMAT, when an operation begins. -/
def Ensemble.beginOp (e : Ensemble) (op : GridOp) : Ensemble :=
  (upFrom 0 op.m).foldl (fun e m => (upFrom 0 op.n).foldl (fun e n =>
    if op.above m n then e.setTileWord (blockWord op.blk m n) (w32 (op.f 52 0 32)) .acc
    else if op.zero then e.setTileWord (blockWord op.blk m n) 0 .acc else e) e) e

/-- RBOX.G ends: its obligation will write the count. -/
def State.endRbox (s : State) (op : GridOp) (count : Word) : State :=
  s.updThread op.thread fun t => { t with owed := t.owed.map fun o => if o.hold = some op.key then
    { o with hold := none, writes := [(op.dst, count, .b32)] } else o }

/-- A panel's bytes reach the operations that reuse it: those queued behind, up to the next latching one.
(DEDUCED: log entry 77.) -/
def passPanel (p : Option Panel) : List GridOp → List GridOp
  | [] => []
  | op :: r => if op.latching then op :: r else (if op.reuse then { op with panel := p } else op) :: passPanel p r

/-- The head of the queue is done (R258, R263).
(DEDUCED: log entry 78.) -/
def State.finishOp (s : State) (eI : Nat) (op : GridOp) : State :=
  let s1 := s.updGrid eI fun g =>
    let rest := g.queue.drop 1
    { g with
      queue := if op.latching then passPanel op.panel rest else rest
      done := if op.kind = .rbox then g.done else op.seq
      unwaited := if op.kind = .rbox then g.unwaited else g.unwaited ++ [op]
      panel := if op.latching && !(rest.any (·.latching)) && g.panel.isSome then op.panel else g.panel }
  let k := (s.troupe (s.thread op.thread).troupe).k
  if op.smeared || (s.ens eI).meets k op .glob (op.virtual op.wrote) then s1.updEns eI fun e => e.smearRegion op (s.smearKey eI) else s1

/-- A fault ends the operation where it stands, discards the later ones, and empties the panel latch; the first fault stands in the latch
(R264).
(DEDUCED: log entry 79; DESIGN CHOICE: log entry 90.) -/
def State.gridFault (s : State) (eI : Nat) (op : GridOp) (cause : Cause) (addr : Nat) : State :=
  let q := (s.ens eI).grid.queue
  let last := ((q.filter fun o => o.kind != .rbox).map (·.seq)).getLastD op.seq
  let s1 := (q.filter fun o => o.kind == .rbox).foldl (fun s o => s.endRbox o (Config.freeWord (s.moves * 4096 + 3072) o.thread)) s
  s1.updGrid eI fun g => { g with queue := [], done := last, panel := none, fault := g.fault.or (some (cause, w64 addr, op.seq)) }

/-- One K-slice step of the operation at the head of the queue (R242, R259, R265). An operation with M = 0 fetches nothing of B; one with N = 0
still fetches its A for the panel latch.
(DESIGN CHOICE: log entry 107.) -/
def State.matrixStep (s : State) (eI : Nat) (e : Ensemble) (op : GridOp) : State :=
  let e1 := if op.begun then e else e.beginOp op
  let st := op.next
  if op.steps ≤ st then
    ({ s with ensembles := updateAt s.ensembles eI fun _ => e1 }).finishOp eI { op with begun := true }
  else
    let k := (s.troupe (s.thread op.thread).troupe).k
    let aPlaces := if op.reuse then [] else (upFrom 0 op.m).map (op.operandPlaces e1 k true st)
    let bPlaces := if op.m = 0 then [] else (upFrom 0 op.n).map (op.operandPlaces e1 k false st)
    match s.gridPhys eI e1 ((aPlaces ++ bPlaces).flatMap fun p => p.1 ++ p.2) { read := true } with
    | .error (.latch c a) => ({ s with ensembles := updateAt s.ensembles eI fun _ => e1 }).gridFault eI op c a
    | .error (.wait s') => s'
    | .ok (pas, _) =>
      let read (l : List (Space × Nat)) : List Byte := l.map (s.gridByte e1 pas)
      let panel : Panel := op.panel.getD {}
      let wa := op.depth * formatBits op.fa / 8
      let ws := if op.scl = 2 then 4 else 1
      let aBytes : List (List Byte × List Byte) := if op.reuse then
          (upFrom 0 op.m).map fun m => (((nth panel.rows m []).drop (st * wa)).take (op.stepBytes op.fa st),
            ((nth panel.scales m []).drop (st * ws)).take (op.stepScales st))
        else aPlaces.map fun p => (read p.1, read p.2)
      let panel' : Panel := if op.reuse then panel else
        { panel with
          rows := (upFrom 0 op.m).map fun m => nth panel.rows m [] ++ (nth aBytes m ([], [])).1
          scales := (upFrom 0 op.m).map fun m => nth panel.scales m [] ++ (nth aBytes m ([], [])).2 }
      let n := min op.depth (op.k - st * op.depth)
      let av := aBytes.map fun b => gridVals op.fa op.scl n b.1 b.2
      let bv := bPlaces.map fun p => gridVals op.fb op.scl n (read p.1) (read p.2)
      let all (_ : Nat) : Bool := true
      let e2 := (upFrom 0 op.m).foldl (fun (e : Ensemble) m => (upFrom 0 op.n).foldl (fun (e : Ensemble) c =>
        if op.above m c then e
        else
          let i := blockWord op.blk m c
          let old := (e.tileWord i).1.toNat
          let a := nth av m []
          let b := nth bv c []
          e.setTileWord i (w32 (if op.intForm then dotInt old n a b all false else addSlice old (termsOf a b all 0 n))) .acc) e) e1
      let op' := { op.finds pas with begun := true, next := st + 1, panel := if op.reuse then op.panel else some panel' }
      let s1 := { s with ensembles := updateAt s.ensembles eI fun _ =>
        { e2 with grid := { e2.grid with drained := false, queue := op' :: e2.grid.queue.drop 1 } } }
      if op.steps ≤ st + 1 then s1.finishOp eI op' else s1

/-- At a step boundary the bands that sr.gshape names have power, and no others (R373). -/
def State.powerBands (s : State) (e : Ensemble) : State :=
  { s with gaffer := { s.gaffer with bands := updateAt s.gaffer.bands e.group fun _ => e.grid.gshape.toNat } }

def execGridStep (ens : Nat) (s : State) : Outcome :=
  match s.ensembles[ens]? with
  | none => .next s
  | some e =>
    match e.grid.queue with
    | [] => .next s
    | op :: _ => .next (if op.isMatrix && s.gridRuns ens e && s.opReady op then (s.matrixStep ens e op).powerBands e else s)

/-- The places and words of a move's elements: row by row. -/
def GridOp.moveCells (op : GridOp) (e : Ensemble) (k : Nat) : List (Nat × List (Space × Nat)) :=
  let z := moveBytes (op.f 4 0 4)
  (upFrom 0 op.m).flatMap fun m => (upFrom 0 op.n).map fun n =>
    (blockWord op.blk m n, e.placesAt k (op.f 4 8 2) (op.f 16 0 64 + m * op.f 8 0 32 + n * z) z)

/-- The data that a GTST at the head of the queue writes fail their check where they reach memory or the link (R194). -/
def State.gridStoreBad (s : State) (eI : Nat) : State :=
  let e := s.ens eI
  match e.grid.queue with
  | op :: _ => if op.kind == .gtst && s.gridRuns eI e && op.f 4 8 2 == 2 then s.gridBad e (op.f 16 0 64) else s
  | [] => s

/-- A GTST has written: it ends at once, or where bytes go past the caches to the host die, when their WrUs are complete (R187, R261). -/
def State.endStore (s : State) (eI : Nat) (op : GridOp) (past : List Nat) : State :=
  if s.passing past then s.updGrid eI fun g => { g with queue := { op with sent := past } :: g.queue.drop 1 } else s.finishOp eI op

/-- GTLD and GTST: the whole range is translated, then moved (R261). -/
def State.gridMoveOp (s : State) (eI : Nat) (e : Ensemble) (op : GridOp) : State :=
  let k := (s.troupe (s.thread op.thread).troupe).k
  let cells := op.moveCells e k
  let mf := op.f 4 0 4
  let store := op.kind == .gtst
  let f16 := (Tag.ofCode mf).kind
  let conv (src dst : EKind) (v : Nat) : Nat := (convertElem src dst .unscaled .unscaled .rne false false false v).1
  if !op.sent.isEmpty then (if s.passing op.sent then s else s.finishOp eI op)
  else match s.gridPhys eI e (cells.flatMap (·.2)) { read := !store, write := store } with
  | .error (.latch c a) => s.gridFault eI op c a
  | .error (.wait s') => s'
  | .ok (pas, past) =>
    let s0 := s.updGrid eI fun g => { g with drained := false }
    if store then
      let out := cells.flatMap fun c =>
        let w := (e.tileWord c.1).1.toNat
        c.2.zip (toBytes (if mf < 2 then w else conv (.flt fF32) f16 w) (moveBytes mf))
      let s1 := out.foldl (fun (s : State) x => match x.1.1 with
        | .scratch t => s.updTroupe t (·.setByte x.1.2 x.2)
        | _ => s) s0
      let far := out.filter fun x => x.1.1 == .glob
      let at_ (x : (Space × Nat) × Byte) : Nat := ((pas.find? fun p => p.1 == x.1.2).map (·.2)).getD 0
      let s2 := s1.writePhys (far.map at_) (far.map (·.2)) e.behalf
      let s3 := e.cores.foldl (fun (s : State) c => s.updCore c fun o => o.forget (pas.map (·.2))) s2
      ((s3.wroteGlobal (pas.map (·.2)) (some eI)).strikeHeap e.ctx (pas.map (·.1))).endStore eI op past
    else
      let e1 := cells.foldl (fun (x : Ensemble) c =>
        let v := ofBytes (c.2.map (s.gridByte e pas))
        x.setTileWord c.1 (w32 (if mf < 2 then v else conv f16 (.flt fF32) v)) .acc) e
      ({ s0 with ensembles := updateAt s0.ensembles eI fun x => { e1 with grid := x.grid } }).finishOp eI (op.finds pas)

/-- RBOX.G: each ray of the area against the node (R267, R319). -/
def State.gridBoxes (s : State) (eI : Nat) (e : Ensemble) (op : GridOp) : State :=
  let k := (s.troupe (s.thread op.thread).troupe).k
  let v (i : Nat) : Nat := (nth op.raddrs i 0).toNat
  let read (a n : Nat) : List Byte := (e.placesAt k 1 a n).map (s.gridByte e [])
  let node : Node := BitVec.ofNat 1024 (ofBytes (read (v 1) 128))
  let n := v 3 % 128
  let recs := (upFrom 0 n).map fun r =>
    if node.malformed then missRecord else node.test (toWords (ofBytes (read (v 0 + 32 * r) 32)) 8)
  let s1 := ((upFrom 0 n).zip recs).foldl (fun (s : State) x =>
    ((e.placesAt k 1 (v 2 + 8 * x.1) 8).zip (toBytes (pairOf x.2.1 x.2.2).toNat 8)).foldl (fun (s : State) y => match y.1.1 with
      | .scratch t => s.updTroupe t (·.setByte y.1.2 y.2)
      | _ => s) s) s
  let count := (recs.filter fun r => r.1.toNat % 256 != 0).length
  (s1.finishOp eI op).endRbox op (w32 count)

def execGridMove (ens : Nat) (s : State) : Outcome :=
  match s.ensembles[ens]? with
  | none => .next s
  | some e =>
    match e.grid.queue with
    | [] => .next s
    | op :: _ =>
      .next (if op.isMatrix || !s.gridRuns ens e || !s.opReady op then s
        else if op.kind = .rbox then s.gridBoxes ens e op else s.gridMoveOp ens e op)

/-- Steps are whole turns of the model, so that a drain finds the row in flight done and NEXT with its operation (R265). -/
def execGridDrain (ens : Nat) (s : State) : Outcome :=
  match s.ensembles[ens]? with
  | none => .next s
  | some e => .next (if s.gridRuns ens e then s else s.updGrid ens fun g => { g with drained := true })

end Sys2Proof.Machine
end

