-- ==== Sys2Proof/Machine/Structs.lean ====
section
/-! DEFINITION. Accesses that the device's engines make for a context, and the structure table: entries, generation records, pins (14_rays.md
R313, R314, R327 to R330, R401; 08_memory.md R189). -/

namespace Sys2Proof.Machine

/-! ### Engine accesses -/

/-- An engine of a context goes on with an access once its units can be read, or written, as their page's policy says; data that fail their check halt the
context, the record holding the lowest such address (R187, R194).
(DEDUCED: log entry 27.) -/
def State.engineReady (s : State) (cI index : Nat) (pas : List Nat) (u : Use) (past : List Nat := []) (va : Nat := 0) : Except State (List Nat) :=
  match if u.read then s.firstBad pas else none with
  | some i => .error (s.raiseHalt cI { index := index, cause := .dataCheck, addr := canonicalOf (va + i) })
  | none => if s.engineMay pas past u { ctx := cI } then .ok pas else .error (s.engineAsk pas past u { ctx := cI })

/-- The physical addresses of a checked engine access for context cI; else the state in which it waits on a request, or in which a failure
has halted the context with the engine's stop record holding the address (R273, R401).
(DEDUCED: log entry 27.) -/
def State.engineAccess (s : State) (cI index core : Nat) (wt : Waiter) (a : DWord) (len : Nat) (u : Use) : Except State (List Nat) :=
  let c := s.ctx cI
  let halted (at_ : DWord) : Except State (List Nat) :=
    .error (s.raiseHalt cI { index := index, cause := .machineCheckOther, addr := at_ })
  match (upFrom 0 len).find? fun i => !canonical (a + w64 i) with
  | some i => halted (a + w64 i)
  | none =>
    match s.engineTranslate c.asid core (va57 a) len u with
    | .ok pas => s.engineReady cI index pas u (s.pastUnits c.asid core (va57 a) len) (va57 a)
    | .error (p, .miss) => .error (if s.waits wt then s else s.requestXl c.asid core p u.kind wt)
    | .error (p, .track) => .error (if s.waits wt then s else s.requestPage c.asid (p / 4096) 1 0 wt)
    | .error (p, .deny _) => halted (canonicalOf p)

/-- An engine of a context writes bytes that it has found ready. -/
def State.engineWrite (s : State) (cI : Nat) (pas : List Nat) (bs : List Byte) : State := (s.writePhys pas bs { ctx := cI }).wroteGlobal pas

/-- Are writes past the caches that an engine of a context has made still on their way to their homes? -/
def State.engineOwes (s : State) (cI : Nat) : Bool := s.link.reqs.any fun r => r.opc == 5 && r.ctx == some cI && r.store.isNone

/-! ### Structure-table entries (R313) -/

abbrev Entry := BitVec 2048

def Entry.pool (e : Entry) : Nat := fieldOf e 0 0 64
def Entry.size (e : Entry) : Nat := fieldOf e 8 0 64
def Entry.tag (e : Entry) : Nat := fieldOf e 16 16 16
def Entry.isLive (e : Entry) : Bool := fieldOf e 16 0 1 == 1
def Entry.cur (e : Entry) : Word := w32 (fieldOf e 20 0 32)
def Entry.gen (e : Entry) (r : Nat) : Word := w32 (fieldOf e (64 + 16 * r) 0 32)
def Entry.pins (e : Entry) (r : Nat) : Nat := fieldOf e (68 + 16 * r) 0 32
def Entry.root (e : Entry) (r : Nat) : Nat := fieldOf e (72 + 16 * r) 0 64

/-- The record of a generation. -/
def Entry.record (e : Entry) (g : Word) : Option Nat := (upFrom 0 8).find? fun r => e.root r != 0 && e.gen r == g

/-- A handle's entry index, where the table has that entry. -/
def Ctx.handleIndex (c : Ctx) (h : Word) : Option Nat :=
  let i := h.toNat % 65536
  if i != 0 && decide (i < c.field 40 0 16) then some i else none
def Ctx.entryAddr (c : Ctx) (i : Nat) : DWord := w64 (c.field 32 0 64 + 256 * i)

/-- Does an entry answer a handle? -/
def Entry.valid (e : Entry) (h : Word) : Bool := e.isLive && e.tag == h.toNat / 65536

/-- The entry that physical bytes hold. -/
def State.entryAt (s : State) (pas : List Nat) : Entry := BitVec.ofNat 2048 (s.readNat pas)
/-- The device writes n bytes at an offset of an entry, for a context. -/
def State.putEntry (s : State) (ctx : Nat) (pas : List Nat) (off n v : Nat) : State :=
  (s.writePhys ((pas.drop off).take n) (toBytes v n) { ctx := ctx }).wroteBytes ((pas.drop off).take n)

/-- The device-private bytes 192 to 255 after what they stand for has changed: their layout is not architected, and what they mean is kept in
`Struct` (R313, R314).
(DESIGN CHOICE: log entry 101.) -/
def State.putPrivate (s : State) (ctx : Nat) (pas : List Nat) : State :=
  s.putEntry ctx pas 192 64 (ofBytes ((upFrom 192 64).map (Config.freshByte (s.freshKey 304))))

/-- A thread's access to an entry: stalls and the address causes of R188 at its instruction (R401); it waits while an earlier acquire is not bound
(R202), and for the unit. -/
def State.threadEntry (s : State) (w : Who) (i : Nat) (write : Bool) : Except Stop (List Nat × Entry) := do
  let p ← s.checkGlobal w (w.c.entryAddr i) 256 1 { read := true, write := write } false
  let pas := p.locs.map (·.addr)
  if w.t.acquirePending w.t.seq then .error (.park .drain)
  else if s.badPhys pas then .error (.hold (s.dataCheck w.k p.locs) (.parked .drain s.clock))
  else
    let past := unitsOf ((p.locs.filter Loc.bypasses).map (·.addr))
    let u : Use := { read := true, write := write }
    if s.engineMay pas past u w.behalf then .ok (pas, s.entryAt pas)
    else .error (.hold (s.engineAsk pas past u w.behalf) (.parked .drain s.clock))

/-! ### What the device keeps of an entry -/

def State.structOf (s : State) (ctx entry : Nat) : Option Struct := s.structs.find? fun x => x.ctx == ctx && x.entry == entry

def State.updStruct (s : State) (ctx entry : Nat) (f : Struct → Struct) : State :=
  match s.structOf ctx entry with
  | some x => { s with structs := (s.structs.filter fun y => !(y.ctx == ctx && y.entry == entry)) ++ [f x] }
  | none => { s with structs := s.structs ++ [f { ctx := ctx, entry := entry }] }

/-- Bytes 0 to 63 of an entry but for CUR. -/
def Entry.head (e : Entry) : Nat := putSlice (e.toNat % 2 ^ 512) 160 32 0

/-- Notes an entry as it is found. Where its bytes 0 to 63 have changed unseen while it is in use, the structure is spoilt; where it has become LIVE, or
may have been made LIVE anew unseen, it has no base of DRIFT (R314, R335).
(DESIGN CHOICE: log entry 101.) -/
def State.noteEntry (s : State) (ctx entry : Nat) (pas : List Nat) (e : Entry) : State :=
  let old := s.structOf ctx entry
  let s1 := match old with
    | some x => if x.place.isSome && x.head != e.head && s.structUsed x then s.spoil x (pas.headD 0) else s
    | none => s
  s1.updStruct ctx entry fun x => { x with
    place := pas.head?, head := e.head, isLive := e.isLive, pool := e.pool, size := e.size
    drift := if e.isLive && (!x.isLive || (x.unseen && Config.choice (s.freshKey 306) % 2 == 1)) then none else x.drift
    unseen := false }

/-- Are the nodes of a generation of a structure unpredictable (R314)? -/
def State.isSpoilt (s : State) (ctx entry : Nat) (g : Word) : Bool := ((s.structOf ctx entry).map fun x => x.spoilt.contains g).getD false

/-! ### Pins -/

/-- PINS of a generation rises by 1. -/
def State.pinUp (s : State) (ctx entry : Nat) (pas : List Nat) (g : Word) : State :=
  let e := s.entryAt pas
  match e.record g with
  | some r => (s.noteEntry ctx entry pas e).putEntry ctx pas (68 + 16 * r) 4 (e.pins r + 1)
  | none => s

/-- release(g): PINS falls by 1; at 0 a generation that is not current is RECLAIMING (R330).
(DEDUCED: log entry 82.) -/
def State.pinDown (s : State) (ctx entry : Nat) (pas : List Nat) (g : Word) : State :=
  let e := s.entryAt pas
  match e.record g with
  | some r =>
    let s1 := s.putEntry ctx pas (68 + 16 * r) 4 (e.pins r - 1)
    if e.pins r ≤ 1 && e.cur != g then s1.updStruct ctx entry fun x => { x with reclaim := insertUp r x.reclaim } else s1
  | none => s

/-- The generation that a thread's pin slot holds: its own, or the launch's while that pin is held (R327, R328). -/
def State.pinHeld (s : State) (w : Who) (slot : Nat) : Option (Word × Word) :=
  let p := if slot = 0 then w.t.pin0 else w.t.pin1
  let l := s.launch w.e.launch
  match p.claim with
  | .none => none
  | .own g => some (p.handle, g)
  | .launch g => if (if slot = 0 then l.pin0 else l.pin1).isSome then some (p.handle, g) else none

def Thread.pin (t : Thread) (slot : Nat) : PinSlot := if slot = 0 then t.pin0 else t.pin1
def Thread.setPin (t : Thread) (slot : Nat) (p : PinSlot) : Thread := if slot = 0 then { t with pin0 := p } else { t with pin1 := p }

/-- Releases a slot's own pin, which may stall or trap at its entry; nothing where the slot holds no own pin. -/
def State.releaseOwn (s : State) (w : Who) (slot : Nat) : Except Stop State :=
  let p := w.t.pin slot
  match p.claim with
  | .own g =>
    match w.c.handleIndex p.handle with
    | some i => (s.threadEntry w i true).map fun x => s.pinDown w.cI i x.1 g
    | none => .ok s
  | _ => .ok s

end Sys2Proof.Machine
end

