-- ==== Sys2Proof/Machine/Mesh.lean ====
section
/-! DEFINITION. The task and mesh stages and the emission of a mesh troupe's primitives (13_graphics.md R287 to R300). -/

namespace Sys2Proof.Machine

/-! ### Roles and payload staging (R289, R290) -/

/-- (DEDUCED: log entry 55.) -/
def Ensemble.isTask (e : Ensemble) : Bool := e.role == .task || e.succeeded
/-- (DEDUCED: log entry 55.) -/
def Ensemble.isMesh (e : Ensemble) : Bool :=
  match e.role with
  | .mesh _ _ _ => !e.succeeded
  | _ => false
/-- The pass of a mesh or shade ensemble. -/
def Ensemble.passI (e : Ensemble) : Option Nat :=
  match e.role with
  | .task => none
  | .mesh p _ _ => some p
  | .shade p => some p

/-- The payload staging: the highest 16 KiB of a slice. -/
def stagingBytes : Nat := 16384
def Troupe.staging (tr : Troupe) : Nat := tr.slice - stagingBytes

def execTpay (d a : RegField) (g : PredField) (s : State) : Outcome :=
  runWord s g fun w => do
    let x ← w.t.fetch [] [rd1 a [.b32], rd4 d []]
    let o := x.n 0
    let at_ := w.tr.staging + o
    if o % 16 != 0 then failAt .misaligned at_ else .ok ()
    require (w.e.isTask && decide (o < stagingBytes) && decide (stagingBytes ≤ w.tr.slice)) .payloadProtocol
    let l ← s.checkScratch w at_ 16 16
    s.issueStore w x.t { seq := 0, bytes := storeOf (scratchLocs l.1 l.2 16) (toBytes (x.n 1) 16), scope := .en, src := dataOf 0 d.toNat (x.ws 1) }

/-! ### The mesh output store (R293 to R295) -/

/-- V, P and A of a troupe. -/
def MeshStore.v (m : MeshStore) : Nat := (m.counts.getD (0, 0, 0)).1
def MeshStore.p (m : MeshStore) : Nat := (m.counts.getD (0, 0, 0)).2.1
def MeshStore.a (m : MeshStore) : Nat := (m.counts.getD (0, 0, 0)).2.2

/-- Slot i of vertex v; zero until it is written (R294). -/
def MeshStore.vert (m : MeshStore) (v i : Nat) : QWord := ((m.verts.find? fun x => x.1 == (v, i)).map (·.2)).getD 0
/-- Primitive p: its pair, and the cull flag in force. -/
def MeshStore.prim (m : MeshStore) (p : Nat) : DWord × Bool := ((m.prims.find? fun x => x.1 == p).map (·.2)).getD (0, false)

def MeshStore.setVert (m : MeshStore) (v i : Nat) (q : QWord) : MeshStore :=
  { m with verts := ((v, i), q) :: m.verts.filter fun x => x.1 != (v, i) }
def MeshStore.setPrim (m : MeshStore) (p : Nat) (x : DWord × Bool) : MeshStore :=
  { m with prims := (p, x) :: m.prims.filter fun y => y.1 != p }

/-- Does a primitive's pair name a vertex beyond V, or the reserved identifier (R295)? -/
def MeshStore.primBad (m : MeshStore) (v : Nat) : Bool :=
  (upFrom 0 3).any (fun i => decide (m.v ≤ slice v (8 * i) 8)) || slice v 32 32 == 2 ^ 32 - 1

/-- MCNT: of the causes that fail together MESH_BOUNDS comes before PAYLOAD_PROTOCOL, by their codes (R342). -/
def execMcnt (a : RegField) (g : PredField) (s : State) : Outcome :=
  runWord s g fun w => do
    let x ← w.t.fetch [] [rd1 a [.b32]]
    let c := x.n 0
    require (slice c 22 10 == 0) .reservedField
    let n := (slice c 0 9, slice c 9 10, slice c 19 3)
    require (decide (n.1 ≤ 256) && decide (n.2.1 ≤ 512) && (w.tr.mesh.counts == none || w.tr.mesh.counts == some n)) .meshBounds
    require w.e.isMesh .payloadProtocol
    .ok ((s.setThread w.k x.t).updTroupe w.trI fun tr => { tr with mesh := { tr.mesh with counts := some n } })

/-- Is the troupe strict: by sr.fmode MS, or because the launch, or the entry that shapes the ensemble, has MSTRICT (R270, R292, R295)? -/
def State.meshStrict (s : State) (w : Who) : Bool :=
  bitAt w.t.fmode.toNat 1 || pkMeshStrict w.e.packet || pkMeshStrict (s.launch w.e.launch).packet

/-- A count that saturates at 2^32 - 1 (R296). -/
def satCount (n : Nat) : Nat := min (n + 1) (2 ^ 32 - 1)

/-- MESH_BOUNDS in a strict troupe, with the vertex or primitive (R295). -/
def Who.boundsTrap {α : Type} (_w : Who) (n : Nat) : Except Stop α := .error (.trap .meshBounds 0 (w64 (n % 512)) 0)

/-- (DEDUCED: log entry 48.) -/
def execMvtx (d a : RegField) (g : PredField) (s : State) : Outcome :=
  runWord s g fun w => do
    let x ← w.t.fetch [] [rd1 a [.b32], rd4 d []]
    let vw := x.n 0
    require (slice vw 11 21 == 0) .reservedField
    require w.e.isMesh .payloadProtocol
    let v := slice vw 0 8
    let i := slice vw 8 3
    let out := decide (w.tr.mesh.v ≤ v) || decide (w.tr.mesh.a < i)
    if out && s.meshStrict w then w.boundsTrap v else .ok ()
    let t ← x.t.owe { flag := w.t.fb, late := if out then none else some (.vert v i d.toNat (x.ws 1)) }
    let s1 := s.setThread w.k t
    .ok (if out then s1.updLaunch w.e.launch fun l => { l with dropped := satCount l.dropped }
      else s1.updTroupe w.trI fun tr => { tr with mesh := tr.mesh.setVert v i (BitVec.ofNat 128 (x.n 1)) })

/-- (DEDUCED: log entry 48.) -/
def execMprim (d a : RegField) (g : PredField) (s : State) : Outcome :=
  runWord s g fun w => do
    let x ← w.t.fetch [] [rd1 a [.b32], rd2 d []]
    let pw := x.n 0
    let v := x.n 1
    require (slice pw 9 23 == 0 && slice v 25 7 == 0) .reservedField
    require w.e.isMesh .payloadProtocol
    let p := slice pw 0 9
    let out := decide (w.tr.mesh.p ≤ p)
    let bad := w.tr.mesh.primBad v
    if (out || bad) && s.meshStrict w then w.boundsTrap p else .ok ()
    let t ← x.t.owe { flag := w.t.fb, late := if out || s.meshStrict w then none else some (.prim p d.toNat (x.ws 1)) }
    let s1 := s.setThread w.k t
    if out then .ok (s1.updLaunch w.e.launch fun l => { l with dropped := satCount l.dropped })
    else
      let s2 := s1.updTroupe w.trI fun tr => { tr with mesh := tr.mesh.setPrim p (w64 v, bitAt v 24 || bad) }
      .ok (if bad then s2.updLaunch w.e.launch fun l => { l with culled := satCount l.culled } else s2)

/-! ### Sources read late (R39) -/

/-- Word j of the registers of an MVTX or MPRIM read again, while what it has written still stands: the newer value takes its place. A trap of MPRIM in a
strict troupe is decided by the pair as it was at issue (R38), so there it is not read again.
(DEDUCED: log entry 8.) -/
def State.readMesh (s : State) (k index j : Nat) : State :=
  let t := s.thread k
  let again (base : Nat) (ws : List Word) : List Word := updateAt ws j fun _ => (t.reg (base + j)).val
  let note (l : LateRead) (s : State) : State := s.updThread k fun t => { t with owed := updateAt t.owed index fun o => { o with late := some l } }
  let mesh := (s.troupe t.troupe).mesh
  match (t.owed[index]?).bind (·.late) with
  | some (.vert v i base ws) =>
    let ws' := again base ws
    if mesh.vert v i != BitVec.ofNat 128 (ofWords ws) then s
    else note (.vert v i base ws') (s.updTroupe t.troupe fun tr => { tr with mesh := mesh.setVert v i (BitVec.ofNat 128 (ofWords ws')) })
  | some (.prim p base ws) =>
    let ws' := again base ws
    let bad := mesh.primBad (ofWords ws)
    let bad' := mesh.primBad (ofWords ws')
    if mesh.prim p != (w64 (ofWords ws), bitAt (ofWords ws) 24 || bad) then s
    else
      let s1 := note (.prim p base ws') (s.updTroupe t.troupe fun tr =>
        { tr with mesh := mesh.setPrim p (w64 (ofWords ws'), bitAt (ofWords ws') 24 || bad') })
      if bad' && !bad then s1.updLaunch (s.ens t.ens).launch fun l => { l with culled := satCount l.culled } else s1
  | _ => s

/-! ### The pass descriptor (R298) -/

abbrev PassDesc := BitVec 1024

def pdWidth (p : PassDesc) : Nat := fieldOf p 0 0 16
def pdHeight (p : PassDesc) : Nat := fieldOf p 0 16 16
def pdSamp (p : PassDesc) : Nat := fieldOf p 4 0 2
def pdDerivs (p : PassDesc) : Bool := bitAt (fieldOf p 4 0 32) 2
def pdCull (p : PassDesc) : Nat := fieldOf p 4 3 2
def pdCw (p : PassDesc) : Bool := bitAt (fieldOf p 4 0 32) 5
def pdShade (p : PassDesc) : DWord := w64 (fieldOf p 8 0 64)
def pdBinArr (p : PassDesc) : DWord := w64 (fieldOf p 16 0 64)
def pdBinCnt (p : PassDesc) : Nat := fieldOf p 24 0 16

/-- May a pointer field be followed? -/
def pointerOk (v : DWord) (align : Nat) : Bool := (pointerBad v.toNat align).isNone

/-- A chunk address that is not canonical or no multiple of 2 MiB. -/
def chunkBad (c : DWord) : Bool := !pointerOk c (2 ^ 21)

/-- Does a shade packet fail R270 or the limits of R298? -/
def shadeBad (p : Packet) : Bool :=
  (packetFailure p).isSome || pkTroupes p != 1 || fieldOf p 40 16 16 != 1 || fieldOf p 44 0 16 != 1 || fieldOf p 40 0 16 % 4 != 0

/-- The offset of the lowest failing field of a pass descriptor, its shade packet judged beside it (R291).
(DEDUCED: log entry 46.) -/
def passFailure (p : PassDesc) (shade : Option Packet) : Option Nat :=
  let out (v : Nat) : Bool := decide (v < 2) || decide (16384 < v)
  let shadeFails : Bool := match shade with
    | some q => shadeBad q
    | none => true
  let bad : List (Nat × Bool) :=
    [ (0, out (pdWidth p) || out (pdHeight p)), (4, fieldOf p 4 6 26 != 0 || pdCull p == 3),
      (8, !pointerOk (pdShade p) 128 || shadeFails), (16, !pointerOk (pdBinArr p) 8), (24, pdBinCnt p == 0 || fieldOf p 24 16 16 != 0),
      (28, fieldOf p 28 0 800 != 0) ]
  (bad.find? (·.2)).map (·.1)

/-! ### TDISP (R291, R292) -/

/-- A thread's load of n bytes, aligned to n's power of two, as one number.
(DEDUCED: log entry 9.) -/
def State.loadRecord (s : State) (w : Who) (a : DWord) (n align : Nat) : Except Stop (State × Nat) := do
  let p ← s.checkGlobal w a n align { read := true }
  let b ← s.readNow w p.locs
  .ok (b.1, ofBytes b.2)

/-- Entry k of the successor table; none where the table or the entry is empty (R278). -/
def State.successorEntry (s : State) (w : Who) (k : Nat) : Except Stop (State × Option Packet) :=
  if pkSucc w.e.packet = 0 then .ok (s, none)
  else do
    let (s, v) ← s.loadRecord w (w64 (pkSucc w.e.packet + 128 * k)) 128 128
    let p : Packet := BitVec.ofNat 1024 v
    .ok (s, if (pkEntry p).toNat = 0 then none else some p)

/-- What the first TDISP that names a pass reads: the descriptor, and through its pointers the shade packet and the chunk addresses. A pointer
that fails its own check is not followed.
(DEDUCED: log entry 46.) -/
def State.readPass (s : State) (w : Who) (a : DWord) : Except Stop (State × PassDesc × Option Packet × List DWord) := do
  let (s, v) ← s.loadRecord w a 128 128
  let p : PassDesc := BitVec.ofNat 1024 v
  let (s, shade) ← if pointerOk (pdShade p) 128 then (s.loadRecord w (pdShade p) 128 128).map fun q => (q.1, some (BitVec.ofNat 1024 q.2))
    else .ok (s, none)
  let (s, chunks) ← if pointerOk (pdBinArr p) 8 && pdBinCnt p != 0 then
      (s.loadRecord w (pdBinArr p) (8 * pdBinCnt p) 8).map fun c => (c.1, (upFrom 0 (pdBinCnt p)).map fun i => w64 (c.2 / 2 ^ (64 * i)))
    else .ok (s, [])
  .ok (s, p, shade, chunks)

/-- PAYLOAD_PROTOCOL with its offset (R291). -/
def payloadTrap {α : Type} (off : Nat) : Except Stop α := .error (.trap .payloadProtocol 0 (w64 off) 0)

/-- Does a thread wait at a TDISP on a core: on an ensemble that is there, of a context that runs? -/
def State.atRing (s : State) (core k : Nat) : Bool :=
  let t := s.thread k
  let e := s.ens t.ens
  (match t.status, t.issued with
  | .parked _ _, some (.tdisp _ _) => true
  | _, _ => false) && (s.troupe t.troupe).core == core && e.occupies && (s.ctx e.ctx).halt.isNone

/-- Is the thread the first to be served: none that parked at the ring before it waits still (R291)? -/
def State.ringFirst (s : State) (w : Who) : Bool := (((s.core w.tr.core).ringWait.filter (s.atRing w.tr.core)).headD w.k) == w.k

/-- The thread parks at the ring; it keeps its place while it waits there. -/
def State.ringPark (s : State) (w : Who) : State :=
  s.updCore w.tr.core fun c => { c with
    ringWait := if c.ringWait.contains w.k && s.atRing w.tr.core w.k then c.ringWait else c.ringWait.filter (· != w.k) ++ [w.k] }

/-- The lowest FREE slot after the last one taken, in ring order. -/
def Core.freeSlot (c : Core) : Option Nat :=
  ((upFrom 1 4).map fun i => (c.ringLast + i) % 4).find? fun i => (nth c.ring i {}).left == 0

/-- The bytes of a payload; a slice smaller than the staging has none to give, and they are unpredictable.
(DEDUCED: log entry 46.) -/
def State.stagedBytes (s : State) (w : Who) (n : Nat) : List Byte :=
  (upFrom 0 n).map fun i => if stagingBytes ≤ w.tr.slice then w.tr.getByte (w.tr.staging + i) else Config.freshByte (s.freshKey 64) i

/-- (DEDUCED: log entry 46.) -/
def execTdisp (a : RegField) (g : PredField) (s : State) : Outcome :=
  runWord s g fun w => do
    let x ← w.t.fetch [] [rd4 a [.b32]]
    let v := x.n 0
    require (slice v 19 13 == 0 && slice v 47 17 == 0) .reservedField
    let n := slice v 0 16
    let bytes := slice v 32 15
    let pass := w64 (slice v 64 64)
    let (s, entry) ← s.successorEntry w (slice v 16 3)
    let l := s.launch w.e.launch
    let known : Option Pass := match l.pass with
      | some i => s.passes[i]?
      | none => none
    let (s, read) ← if (known.map (·.addr)) == some pass then .ok (s, none) else (s.readPass w pass).map fun r => (r.1, some r.2)
    let mesh : Packet := entry.getD 0
    if bytes % 16 != 0 || decide (stagingBytes < bytes) || entry.isNone || (packetFailure mesh).isSome || decide (pkSlice mesh < bytes)
      || (known.isSome && read.isSome) then payloadTrap 0xFF else .ok ()
    match read with
    | some r => match passFailure r.1 r.2.1 with
      | some off => payloadTrap off
      | none => if r.2.2.any chunkBad then payloadTrap 0xFF else .ok ()
    | none => .ok ()
    if w.e.isTask then .ok () else payloadTrap 0xFF
    -- the pass is the launch's from its first TDISP on
    let passI := l.pass.getD s.passes.length
    let s1 := match read with
      | some r => { (s.updLaunch w.e.launch fun l => { l with pass := some passI }) with
          passes := s.passes ++ [({ ctx := w.cI, launch := w.e.launch, addr := pass, desc := r.1, shade := r.2.1.getD 0, chunks := r.2.2 } : Pass)] }
      | none => s
    let s2 := s1.setThread w.k x.t
    if n = 0 then .ok s2
    else if !s.ringFirst w then .error (.hold (s.ringPark w) (.parked .ringSlot s.clock))
    else match (s.core w.tr.core).freeSlot with
      | none => .error (.hold (s.ringPark w) (.parked .ringSlot s.clock))
      | some slot =>
        if !s.released w.t .dv then .error (.hold (s.ringPark w) (.parked .drain s.clock))
        else
          let data := s.stagedBytes w bytes
          let s3 := s2.updCore w.tr.core fun c => { c with ring := updateAt c.ring slot fun _ => { left := n, data := data }, ringLast := slot, ringWait := c.ringWait.filter (· != w.k) }
          .ok ((upFrom 0 n).foldl (fun (s : State) i => s.queueEnsemble
            { ctx := w.cI, launch := w.e.launch, index := i, packet := mesh, role := .mesh passI w.tr.core slot, group := w.group, payload := data }) s3)

/-- A mesh ensemble that retires, is saved for the first time, or is halted lets go of its ring slot (R292).
(DEDUCED: log entry 55.) -/
def State.leaveRing (s : State) (eI : Nat) : State :=
  let e := s.ens eI
  match e.role with
  | .mesh _ core slot =>
    if e.ringHeld then
      (s.updCore core fun c => { c with ring := updateAt c.ring slot fun r => { r with left := r.left - 1 } }).updEns eI
        fun e => { e with ringHeld := false }
    else s
  | _ => s

/-! ### Screen space (R300) -/

/-- n / d rounded to the nearest integer, ties to even; d is positive.
(DEDUCED: log entry 88.) -/
def roundRatio (n d : Int) : Int :=
  let q := n / d
  let r := n % d
  if 2 * r < d then q else if d < 2 * r then q + 1 else if q % 2 = 0 then q else q + 1

/-- A vertex in screen space: snapped x and y in 1/256 pixel, and z and w as integers of one scale. -/
structure ScreenVert where
  x : Int
  y : Int
  z : Int
  w : Int
  deriving Repr

/-- Component i of a clip-space position. -/
def clipVal (pos : QWord) (i : Nat) : FVal := fF32.decode (slice pos.toNat (32 * i) 32)

/-- A vertex mapped to the screen; none where w ≤ 0 or a coordinate is not finite.
(DEDUCED: log entry 88.) -/
def screenVert (p : PassDesc) (pos : QWord) : Option ScreenVert :=
  let c := clipVal pos
  let x := (c 0).scaled
  let y := (c 1).scaled
  let w := (c 3).scaled
  if (upFrom 0 4).all (fun i => (c i).finite) && decide (0 < w) then
    some { x := roundRatio ((x + w) * pdWidth p * 128) w, y := roundRatio ((w - y) * pdHeight p * 128) w, z := (c 2).scaled, w := w }
  else none

/-- Twice the signed area of a, b and a point. -/
def edgeAt (a b : ScreenVert) (x y : Int) : Int :=
  let dx := b.x - a.x
  let dy := b.y - a.y
  dx * (y - a.y) - dy * (x - a.x)

/-- Twice the snapped signed area; positive: clockwise on the screen, where y grows down. -/
def area2 (a b c : ScreenVert) : Int := edgeAt a b c.x c.y

/-- Is a primitive of that area front-facing? -/
def frontFacing (p : PassDesc) (area : Int) : Bool := decide (0 < area) == pdCw p

/-- The three vertices of a primitive that R300 does not discard. -/
def screenPrim (p : PassDesc) (pos : List QWord) : Option (ScreenVert × ScreenVert × ScreenVert) :=
  match pos.map (screenVert p) with
  | [some a, some b, some c] =>
    let area := area2 a b c
    if area = 0 || (pdCull p == 1 && !frontFacing p area) || (pdCull p == 2 && frontFacing p area) then none else some (a, b, c)
  | _ => none

/-- The tiles of a pass across, and in all. -/
def tilesAcross (p : PassDesc) : Nat := (pdWidth p + 31) / 32
def tileCount (p : PassDesc) : Nat := tilesAcross p * ((pdHeight p + 31) / 32)

/-- The pixels of a tile. -/
def tilePixels (p : PassDesc) (tile : Nat) : List (Nat × Nat) :=
  let x0 := tile % tilesAcross p * 32
  let y0 := tile / tilesAcross p * 32
  (upFrom y0 (min 32 (pdHeight p - y0))).flatMap fun y => (upFrom x0 (min 32 (pdWidth p - x0))).map fun x => (x, y)

/-- The tiles that the bounding box of a primitive meets. -/
def primTiles (p : PassDesc) (v : ScreenVert × ScreenVert × ScreenVert) : List Nat :=
  let lo (f : ScreenVert → Int) : Int := min (f v.1) (min (f v.2.1) (f v.2.2))
  let hi (f : ScreenVert → Int) : Int := max (f v.1) (max (f v.2.1) (f v.2.2))
  (upFrom 0 (tileCount p)).filter fun t =>
    let x0 : Int := (t % tilesAcross p * 32 * 256 : Nat)
    let y0 : Int := (t / tilesAcross p * 32 * 256 : Nat)
    decide (lo (·.x) < x0 + 8192) && decide (x0 ≤ hi (·.x)) && decide (lo (·.y) < y0 + 8192) && decide (y0 ≤ hi (·.y))

/-! ### Emission (R297) -/

/-- The records that a mesh troupe emits, from place `base` of its pass: its primitives in index order, less those that the binning unit
discards.
(DEDUCED: log entry 48.) -/
def meshRecords (p : PassDesc) (m : MeshStore) (base : Nat) : List BinRec :=
  let recs := (upFrom 0 m.p).filterMap fun i =>
    let pr := m.prim i
    let vs := (upFrom 0 3).map fun j => (upFrom 0 (m.a + 1)).map fun sl => m.vert (slice pr.1.toNat (8 * j) 8) sl
    if pr.2 then none
    else (screenPrim p (vs.map fun v => nth v 0 0)).map fun sv =>
      ({ prim := w32 (slice pr.1.toNat 32 32), verts := vs, tiles := primTiles p sv } : BinRec)
  (recs.zip (upFrom base recs.length)).map fun x => { x.1 with order := x.2 }

/-- The records that a pass's chunks take.
(DESIGN CHOICE: log entry 47.) -/
def Pass.capacity (p : Pass) (i : Nat) : Nat := ((upFrom 0 p.chunks.length).map (Config.binCapacity i)).foldl (· + ·) 0

/-- The binning unit's stop-record index (R349). -/
def binIndex : Nat := 437

/-- BINCNT and the entries past the count last read, read again after a bin request (R298).
(DESIGN CHOICE: log entry 47.) -/
def State.rescanBins (s : State) (core i : Nat) : Except State State :=
  let p := nth s.passes i {}
  if !p.rescan then .ok s
  else do
    let cp ← s.engineAccess p.ctx binIndex core (.bins i) (p.addr + 24) 2 { read := true }
    let n := s.readNat cp
    let old := p.chunks.length
    let cs ← (upFrom old (n - old)).mapM fun j => do
      let at_ := pdBinArr p.desc + w64 (8 * j)
      let pas ← s.engineAccess p.ctx binIndex core (.bins i) at_ 8 { read := true }
      let c := w64 (s.readNat pas)
      if chunkBad c then .error (s.raiseHalt p.ctx { index := binIndex, cause := .machineCheckOther, addr := at_ }) else .ok c
    .ok (s.updPass i fun p => { p with chunks := p.chunks ++ cs, rescan := false })

/-- The emission of a mesh troupe, at the EXIT of its last thread: the records join the pass, or the thread waits on a bin request.
(DESIGN CHOICE: log entry 47.) -/
def State.emit (s : State) (w : Who) : Except Stop State :=
  match w.e.passI with
  | none => .ok s
  | some i =>
    match s.rescanBins w.tr.core i with
    | .error s' => .error (.hold s' (.stalled .binMemoryExhausted 0))
    | .ok s1 =>
      let p := nth s1.passes i {}
      let recs := meshRecords p.desc w.tr.mesh p.recs.length
      if p.capacity i < p.recs.length + recs.length then
        .error (.hold (s1.requestPage w.c.asid 0 2 p.addr (.thread w.k)) (.stalled .binMemoryExhausted 0))
      else .ok (s1.updPass i fun p => { p with recs := p.recs ++ recs })

end Sys2Proof.Machine
end

