-- ==== Sys2Proof/Machine/Visibility.lean ====
section
/-! DEFINITION. Rasterisation, the visibility resolvers, the forming of shade threads, and VISRD, ATTR and DERIV (13_graphics.md R300 to
R307). -/

namespace Sys2Proof.Machine

/-! ### Coverage (R301) -/

/-- The place of sample j in a pixel, in sixteenths, by SAMP. -/
def samplePlace (samp j : Nat) : Nat × Nat :=
  let table : List (Nat × Nat) := match samp with
    | 0 => [(8, 8)]
    | 1 => [(4, 4), (12, 12)]
    | 2 => [(2, 6), (10, 2), (6, 14), (14, 10)]
    | _ => [(1, 9), (3, 3), (5, 13), (7, 7), (9, 1), (11, 11), (13, 5), (15, 15)]
  nth table j (8, 8)

/-- Does the edge from a to b, opposite c, take the samples that lie on it: is it a top or a left edge?
(DEDUCED: log entry 88.) -/
def edgeTakes (a b c : ScreenVert) : Bool :=
  if a.y = b.y then decide (a.y < c.y)
  else decide (area2 a b c < 0) == decide (a.y < b.y)

/-- The three edge values of a point, opposite the vertices in order, positive inside. -/
def edgeValues (v : ScreenVert × ScreenVert × ScreenVert) (x y : Int) : Int × Int × Int :=
  let s : Int := if area2 v.1 v.2.1 v.2.2 < 0 then -1 else 1
  (s * edgeAt v.2.1 v.2.2 x y, s * edgeAt v.2.2 v.1 x y, s * edgeAt v.1 v.2.1 x y)

/-- Is a point covered by the three edges? -/
def insideEdges (v : ScreenVert × ScreenVert × ScreenVert) (x y : Int) : Bool :=
  let e := edgeValues v x y
  let ok (n : Int) (a b c : ScreenVert) : Bool := decide (0 < n) || (n == 0 && edgeTakes a b c)
  ok e.1 v.2.1 v.2.2 v.1 && ok e.2.1 v.2.2 v.1 v.2.1 && ok e.2.2 v.1 v.2.1 v.2.2

/-- D of a point: the plane value of zs quantised; none outside [0, 1].
(DEDUCED: log entry 88.) -/
def depthAt (v : ScreenVert × ScreenVert × ScreenVert) (x y : Int) : Option Nat :=
  let e := edgeValues v x y
  let num := e.1 * v.1.z * v.2.1.w * v.2.2.w + e.2.1 * v.2.1.z * v.1.w * v.2.2.w + e.2.2 * v.2.2.z * v.1.w * v.2.1.w
  let den := (e.1 + e.2.1 + e.2.2) * v.1.w * v.2.1.w * v.2.2.w
  if decide (0 ≤ num) && decide (num ≤ den) then some (roundRatio (num * (2 ^ 24 - 1)) den).toNat else none

/-- D of sample j of a pixel where a primitive covers it. -/
def sampleDepth (p : PassDesc) (v : ScreenVert × ScreenVert × ScreenVert) (px py j : Nat) : Option Nat :=
  let pl := samplePlace (pdSamp p) j
  let x : Int := (px * 256 + pl.1 * 16 : Nat)
  let y : Int := (py * 256 + pl.2 * 16 : Nat)
  if insideEdges v x y then depthAt v x y else none

/-! ### The resolvers (R302) -/

/-- One covering sample competes with the entry that stands. Where ID and depth are equal either record may stand.
(DESIGN CHOICE: log entry 49.) -/
def Pass.cover (p : Pass) (n : SampleEntry) (either : Bool) : Pass :=
  let at_ (e : SampleEntry) : Bool := e.px == n.px && e.py == n.py && e.j == n.j
  match p.entries.find? at_ with
  | none => { p with entries := p.entries ++ [n] }
  | some e =>
    if n.depth < e.depth || (n.depth == e.depth && (decide (n.prim < e.prim) || (n.prim == e.prim && either))) then
      { p with entries := p.entries.map fun x => if at_ x then n else x }
    else p

/-- The record's screen vertices. -/
def BinRec.screen (r : BinRec) (p : PassDesc) : Option (ScreenVert × ScreenVert × ScreenVert) := screenPrim p (r.verts.map fun v => nth v 0 0)

/-- A record applied to every tile it is binned to. -/
def Pass.applyRecord (p : Pass) (r : BinRec) (choice : Nat) : Pass :=
  match r.screen p.desc with
  | none => p
  | some v =>
    let pixels := r.tiles.flatMap (tilePixels p.desc)
    let samples := pixels.flatMap fun x => (upFrom 0 (2 ^ pdSamp p.desc)).filterMap fun j =>
      (sampleDepth p.desc v x.1 x.2 j).map fun d => ({ px := x.1, py := x.2, j := j, prim := r.prim, depth := d, order := r.order } : SampleEntry)
    samples.foldl (fun q n => q.cover n (bitAt choice (n.j + 8 * (n.px % 32 + 32 * (n.py % 32))))) p

def execBinRecord (pass record : Nat) (s : State) : Outcome :=
  match s.passes[pass]? with
  | none => .next s
  | some p =>
    match p.recs[record]? with
    | none => .next s
    | some r =>
      if !p.live || r.tiles.isEmpty || !s.engineRuns p.ctx 5 then .next s
      else .next (s.updPass pass fun p =>
        let q := p.applyRecord r (Config.choice s.moves)
        { q with recs := updateAt q.recs record fun x => { x with tiles := [] } })

/-- Has the geometry phase of a pass ended: has every ensemble of the task launch, and every mesh ensemble, retired (R299)? -/
def State.geometryDone (s : State) (l : Nat) : Bool :=
  let la := s.launch l
  decide (pkEnsembles la.packet ≤ la.placed) && s.ensembles.all fun e =>
    e.launch != l || e.phase == .retired || (match e.role with
      | .shade _ => true
      | _ => false)

/-! ### Shade threads (R303) -/

/-- The perspective-correct barycentrics of vertices i1 and i2 at a pixel's centre; where the exact value is a division by zero it is free.
(DESIGN CHOICE: log entry 51.) -/
def centreBary (v : ScreenVert × ScreenVert × ScreenVert) (px py : Nat) (free : Nat → Word) : Word × Word :=
  let e := edgeValues v (px * 256 + 128 : Nat) (py * 256 + 128 : Nat)
  let n0 := e.1 * v.2.1.w * v.2.2.w
  let n1 := e.2.1 * v.1.w * v.2.2.w
  let n2 := e.2.2 * v.1.w * v.2.1.w
  let den := n0 + n1 + n2
  if den = 0 then (free 0, free 1) else (ratioF32 n1 den, ratioF32 n2 den)

/-- What a thread at a pixel captures of a record: its winning entries there, ascending by sample; none of them for a helper. -/
def shadeRec (p : Pass) (px py : Nat) (wins : List SampleEntry) (order : Nat) (free : Nat → Word) : ShadeRec :=
  let r := nth p.recs order {}
  let base : ShadeRec := { prim := r.prim, px := px, py := py, coverage := BitVec.ofNat 8 (maskOf (wins.map (·.j))), helper := wins.isEmpty
                           samp := pdSamp p.desc, depth := BitVec.ofNat 24 ((wins.head?.map (·.depth)).getD 0), attrs := r.verts }
  match r.screen p.desc with
  | none => base
  | some v =>
    let b := centreBary v px py free
    { base with front := frontFacing p.desc (area2 v.1 v.2.1 v.2.2), bary1 := b.1, bary2 := b.2 }

/-- The visible threads of a pixel: one for each distinct primitive among its winning entries, which are taken by rising sample.
(DESIGN CHOICE: log entry 49.) -/
def visibleAt (p : Pass) (px py : Nat) (free : Nat → Word) : List ShadeRec :=
  let wins := (upFrom 0 8).filterMap fun j => p.entries.find? fun e => e.px == px && e.py == py && e.j == j
  ((wins.map (·.prim)).dedup).map fun id =>
    let mine := wins.filter fun e => e.prim == id
    shadeRec p px py mine ((mine.head?.map (·.order)).getD 0) free

/-- The pixel that anchors a pixel quad. -/
def quadAnchor (x extent : Nat) : Nat := if x + 1 = extent && extent % 2 = 1 then extent - 2 else x - x % 2

/-- The units that fill troupes: single visible threads, or with DERIVS pixel quads, their empty places filled by helpers.
(DESIGN CHOICE: log entry 50.) -/
def shadeUnits (p : Pass) (tile : Nat) (free : Nat → Nat → Word) : List (List ShadeRec) :=
  let key (x y : Nat) : Nat := 8 * (x + 16384 * y)
  let seen := (tilePixels p.desc tile).flatMap fun x => visibleAt p x.1 x.2 fun i => free 0 (key x.1 x.2 + i)
  if !pdDerivs p.desc then seen.map fun r => [r]
  else
    let anchor (r : ShadeRec) : (Nat × Nat) × Word := ((quadAnchor r.px (pdWidth p.desc), quadAnchor r.py (pdHeight p.desc)), r.prim)
    ((seen.map anchor).dedup).map fun a =>
      let mine := seen.filter fun r => anchor r == a
      let order := (p.recs.findIdx? fun r => (mine.head?.map (·.attrs)) == some r.verts && r.prim == a.2).getD 0
      (upFrom 0 4).map fun i =>
        let x := a.1.1 + i % 2
        let y := a.1.2 + i / 2
        (mine.find? fun r => r.px == x && r.py == y).getD (shadeRec p x y [] order fun n => free 1 (key x y + n))

/-- A list cut into pieces of the given sizes. -/
def cutInto {α : Type} : List Nat → List α → List (List α)
  | [], _ => []
  | n :: r, l => l.take n :: cutInto r (l.drop n)

/-- The tile is final and its shade threads form: `order` lists its units, and `sizes` how many threads each troupe holds; what R303 does
not allow does not happen.
(DESIGN CHOICE: log entry 50.) -/
def execShadeThreadFormation (pass tile : Nat) (order sizes : List Nat) (s : State) : Outcome :=
  match s.passes[pass]? with
  | none => .next s
  | some p =>
    let tx := fieldOf p.shade 40 0 16
    let units := shadeUnits p tile fun a b => Config.freeWord (s.freshKey (128 + a)) b
    let threads := (order.flatMap fun i => nth units i [])
    let total := sizes.foldl (· + ·) 0
    let final := p.live && decide (tile < tileCount p.desc) && !p.formed.contains tile && s.geometryDone p.launch
      && p.recs.all fun r => !r.tiles.contains tile
    let fair := decide order.Nodup && order.all (fun i => decide (i < units.length)) && order.length == units.length
      && total == threads.length && sizes.all fun n => decide (0 < n) && decide (n ≤ tx) && (!pdDerivs p.desc || n % 4 == 0)
    if !final || !fair || (s.ctx p.ctx).halt.isSome || !s.engineRuns p.ctx 5 then .next s
    else
      let troupes := cutInto sizes threads
      let withQuads (l : List ShadeRec) : List ShadeRec := if pdDerivs p.desc then
        (l.zip (upFrom 0 l.length)).map fun x => { x.1 with quad := some (x.2 / 4 * 4) } else l
      let s1 := s.updPass pass fun p => { p with formed := p.formed ++ [tile] }
      .next (troupes.foldl (fun (s : State) l => s.queueEnsemble
        { ctx := p.ctx, launch := p.launch, index := Config.shadeIndex s.ensembles.length % 2 ^ 48, packet := p.shade, role := .shade pass
          shades := withQuads l }) s1)

/-! ### VISRD and ATTR (R305, R306) -/

def execVisrd (d : RegField) (g : PredField) (m : BitVec 1) (s : State) : Outcome :=
  runWord s g fun w => do
    let x ← w.t.fetch [if m = 0#1 then wr4 d else wr2 d] []
    match w.t.shade with
    | none => fail .payloadProtocol
    | some r =>
      let t ← if m = 0#1 then
          x.t.oweRegs d.toNat [r.prim, w32 (r.px + r.py * 65536),
            w32 (r.coverage.toNat + (if r.helper then 256 else 0) + (if r.front then 512 else 0) + r.samp * 1024), w32 r.depth.toNat] .b32
        else x.t.oweRegs d.toNat [r.bary1, r.bary2] .f32
      .ok (s.setThread w.k t)

/-- The weighted sum of R306 for one component, exact but for one rounding. -/
def interpolate (a0 a1 a2 b1 b2 : Word) : Word :=
  let v (w : Word) : FVal := fF32.decode w.toNat
  let term (b x y : FVal) : FVal := (b.mul (x.sub y)).1
  w32 (fF32.encode .rne false (FVal.sum .rne [v a0, term (v b1) (v a1) (v a0), term (v b2) (v a2) (v a0)]).1).1

def execAttr (d a : RegField) (g : PredField) (s : State) : Outcome :=
  runWord s g fun w => do
    let x ← w.t.fetch [wr4 d] [rd1 a [.b32]]
    let aw := x.n 0
    require (slice aw 4 28 == 0) .reservedField
    match w.t.shade with
    | none => fail .payloadProtocol
    | some r =>
      let i := slice aw 0 3
      require (decide (i < (nth r.attrs 0 []).length)) .meshBounds
      let comp (v c : Nat) : Word := w32 (slice (nth (nth r.attrs v []) i 0).toNat (32 * c) 32)
      let t ← if bitAt aw 3 then x.t.oweRegs d.toNat ((upFrom 0 4).map (comp 0)) .b32
        else x.t.oweRegs d.toNat ((upFrom 0 4).map fun c => interpolate (comp 0 c) (comp 1 c) (comp 2 c) r.bary1 r.bary2) .f32
      .ok (s.setThread w.k t)

/-! ### DERIV (R307) -/

/-- The first lane of a thread's pixel quad; none outside one. -/
def Thread.quadLane (t : Thread) : Option Nat := (t.shade.bind (·.quad)).map (· % 16)

/-- The lane of the neighbour in a pixel quad: 0 horizontal, 1 vertical; and whether it stands at the larger coordinate. -/
def neighbourLane (lane axis : Nat) : Nat × Bool :=
  let b := 2 ^ axis
  if bitAt lane axis then (lane - b, false) else (lane + b, true)

/-- The difference of two values, the one at the larger coordinate first. -/
def differenceF32 (hi lo : Word) : Word :=
  w32 (fF32.encode .rne false ((fF32.decode hi.toNat).sub (fF32.decode lo.toNat))).1

/-- A register read as F32 at a port, its flags dropped (R307 writes none). -/
def Thread.floatAt (t : Thread) (n : Nat) : Word := (t.port1 n [.f32, .acc]).val

def execDeriv (d a : RegField) (g : PredField) (m : BitVec 1) (s : State) : Outcome :=
  match s.whoOf s.cur with
  | none => .fault .unlinkedState
  | some w =>
    if !w.t.guard g then .next ((s.passBy w).retire w.k w.t)
    else
      match (do
        w.t.checked [wr1 d] [rd1 a [.f32, .acc]]
        let _ ← w.t.raiseFlags [w.t.fa]
        .ok ()) with
      | .error e => .next (s.stopped w e)
      | .ok _ =>
        match w.t.quadLane with
        | none =>
          match w.t.oweRegs d.toNat [0] .f32 with
          | .ok t => .next ((s.setThread w.k t).retire w.k w.t)
          | .error e => .next (s.stopped w e)
        | some q =>
          .next (s.arrive w (.deriv d a g m) (w32 (15 * 2 ^ q)) fun here s =>
            let val (lane : Nat) : Word := match here.find? fun x => x.1 == lane with
              | some x => (s.thread x.2).floatAt a.toNat
              | none => 0
            here.foldl (fun (s' : State) x =>
              let n := neighbourLane x.1 m.toNat
              let r := if n.2 then differenceF32 (val n.1) (val x.1) else differenceF32 (val x.1) (val n.1)
              s'.updThread x.2 fun t => match t.oweRegs d.toNat [r] .f32 with
                | .ok t' => t'
                | .error _ => t) s)

end Sys2Proof.Machine
end

