-- ==== Sys2Proof/Machine/Sync.lean ====
section
/-! DEFINITION. Barriers, EXIT and EXIT.S, and the end of an ensemble (06_control.md R142, R143; 12_launch.md R281; 11_matrix.md R253;
13_graphics.md R297). -/

namespace Sys2Proof.Machine

/-! ### Barriers (R281) -/

/-- The threads among a list that have not exited. -/
def State.alive (s : State) (ks : List Nat) : List Nat := ks.filter fun k => (s.thread k).status != .exited

/-- Does an arrival set complete its barrier? -/
def State.completes (s : State) (ks arrived : List Nat) : Bool := !(s.alive ks).isEmpty && (s.alive ks).all arrived.contains

/-- The threads parked at a barrier leave it, an acquire at its scope; `rel` is what their arrivals, releases, have passed on (R207). -/
def State.leaveBarrier (s : State) (arrived : List Nat) (sc : Scope) (rel : Nat) : State :=
  arrived.foldl (fun s k =>
    let t := s.thread k
    match t.status with
    | .barred _ => (s.setThread k (t.acquired sc s.stamp rel)).retire k t
    | _ => s) s

/-- Completes the troupe barrier where every thread that has not exited has arrived. -/
def State.serveBar (s : State) (trI : Nat) : State :=
  let tr := s.troupe trI
  if s.completes tr.threads tr.barrier.arrived then
    (s.updTroupe trI fun t => { t with barrier := { arrived := [], phase := t.barrier.phase + 1 } }).leaveBarrier tr.barrier.arrived .tr tr.relStamp
  else s

/-- The same for the ensemble barrier. -/
def State.serveEbar (s : State) (eI : Nat) : State :=
  let e := s.ens eI
  if s.completes (s.threadsOf e) e.ebar.arrived then
    (s.updEns eI fun e => { e with ebar := { arrived := [], phase := e.ebar.phase + 1 } }).leaveBarrier e.ebar.arrived .en 0
  else s

/-- The same for the split barrier, at which nothing is parked as an arrival. -/
def State.serveSplit (s : State) (eI : Nat) : State :=
  let e := s.ens eI
  if s.completes (s.threadsOf e) e.sbar.arrived then s.updEns eI fun e => { e with sbar := { arrived := [], phase := e.sbar.phase + 1 } } else s

/-- The meaning of BAR and EBAR: a release, then the arrival. -/
def runBarrier (s : State) (g : PredField) (sc : Scope) (join : Who → State) : Outcome :=
  match s.whoOf s.cur with
  | none => .fault .unlinkedState
  | some w =>
    if !w.t.guard g then .next (s.retire w.k w.t)
    else if !s.released w.t sc then .next (s.stopped w (.park .drain))
    else .next (join w)

def execBar (g : PredField) (s : State) : Outcome :=
  runBarrier s g .tr fun w =>
    let s1 := (s.passOn w.k).updThread w.k fun t => { t with status := .barred w.tr.barrier.phase }
    (s1.updTroupe w.trI fun t => { t with barrier := { t.barrier with arrived := t.barrier.arrived ++ [w.k] } }).serveBar w.trI

def execEbar (g : PredField) (s : State) : Outcome :=
  runBarrier s g .en fun w =>
    let s1 := s.updThread w.k fun t => { t with status := .barred w.e.ebar.phase }
    (s1.updEns w.eI fun e => { e with ebar := { e.ebar with arrived := e.ebar.arrived ++ [w.k] } }).serveEbar w.eI

/-- A second arrival waits for the next phase. -/
def execArrive (d : RegField) (g : PredField) (s : State) : Outcome :=
  runWord s g fun w => do
    let x ← w.t.fetch [wr1 d] []
    if w.e.sbar.arrived.contains w.k then .error (.park .split) else .ok ()
    if !s.released w.t .en then .error (.park .drain) else .ok ()
    let s1 := s.setThread w.k (x.t.setReg d.toNat w.e.sbar.phase .b32)
    .ok ((s1.updEns w.eI fun e => { e with sbar := { e.sbar with arrived := e.sbar.arrived ++ [w.k] } }).serveSplit w.eI)

def execAwait (a : RegField) (g : PredField) (s : State) : Outcome :=
  runWord s g fun w => do
    let x ← w.t.fetch [] [rd1 a [.b32]]
    let ahead := (w.e.sbar.phase - x.v 0).toNat
    if decide (1 ≤ ahead) && decide (ahead < 2 ^ 31) then .ok (s.setThread w.k (x.t.acquired .en s.stamp)) else .error (.park .split)

/-! ### The end of an ensemble -/

/-- An ensemble's residence is charged to its queue: the ac that each of its cores held it (R275). -/
def State.charge (s : State) (eI : Nat) : State :=
  let e := s.ens eI
  let l := s.launch e.launch
  s.updQueue l.queue fun q => { q with deficit := q.deficit - (e.cores.length * (s.clock - e.since).toNat : Nat) }

/-- Has a queue no pending launch and no resident ensemble (R275)? -/
def State.idleQueue (s : State) (qI : Nat) : Bool :=
  let q : UQueue := nth s.queues qI {}
  q.pending.isEmpty && q.vacated.isEmpty && q.extra.isEmpty
    && !(s.ensembles.any fun e => (e.phase == .resident || e.phase == .draining) && (s.launch e.launch).queue == qI)

/-- The deficit of a queue that has become idle: D := min(D, 0) (R275). -/
def State.settle (s : State) (qI : Nat) : State := if s.idleQueue qI then s.updQueue qI fun q => { q with deficit := min q.deficit 0 } else s

/-- The ensemble without what it occupies; the threads that name it stay exited. -/
def State.retireEns (s : State) (eI : Nat) : State :=
  let e := s.ens eI
  (((s.charge eI).leaveRing eI).updLaunch e.launch (fun l => { l with live := l.live - 1, retired := l.retired + 1 }) |>.updEns eI
    fun e => { e with phase := .retired, tile := [], grid := {}, payload := [] }).settle (s.launch e.launch).queue

/-- The successor starts in place: on the same cores, with the scratch, the full bits and the reservation that it inherits (R143, R150).
(DEDUCED: log entry 55.) -/
def State.startSuccessor (s : State) (eI : Nat) (p : Packet) : State :=
  let e := s.ens eI
  let old := e.troupes.map s.troupe
  let s0 := ((s.charge eI).leaveRing eI).updLaunch e.launch fun l => { l with retired := l.retired + 1 }
  let s1 := s0.updEns eI fun e => { e with
    packet := p, successor := none, succeeded := true, ebar := {}, sbar := {}, grid := {}, payload := [], shades := []
    tile := e.tile.filter fun x => decide (4 * x.1 < tileBytes p) }
  s1.populate eI (pkThreads p) (e.cores.take (pkTroupes p)) old

/-- Can the successor's troupes stand on the ensemble's cores, its own troupes gone (R143)?
(DEDUCED: log entry 56.) -/
def State.successorFits (s : State) (w : Who) (p : Packet) : Bool :=
  let s1 := s.updEns w.eI fun e => { e with phase := .retired }
  let total := pkSlice w.e.packet * pkTroupes w.e.packet
  decide (pkSlice p * pkTroupes p ≤ total) && decide (pkTileWords p ≤ pkTileWords w.e.packet) && decide (pkTroupes p ≤ w.e.cores.length)
    && (w.e.cores.take (pkTroupes p)).all fun c =>
      s1.fitsCore p (pkThreads p) c
        && decide (((s1.troupesOn c).map (·.slice)).foldl (· + ·) 0 + pkSlice p ≤ (s.core c).scratchpad)

/-- The selection of EXIT.S: read and checked at the ensemble's first one (R143).
(DEDUCED: log entry 56.) -/
def State.selectSuccessor (s : State) (w : Who) (k : Nat) : Except Stop (State × Nat × Packet) :=
  match w.e.successor with
  | some x => if x.1 = k then .ok (s, x) else fail .successorInvalid
  | none => do
    let e ← s.successorEntry w k
    match e.2 with
    | none => fail .successorInvalid
    | some p => if (packetFailure p).isSome || !s.successorFits w p then fail .successorInvalid else .ok (e.1, k, p)

/-! ### EXIT (R142) -/

/-- Is thread w the last of a list that has not exited? -/
def State.lastOf (s : State) (w : Who) (ks : List Nat) : Bool := (s.alive ks).all (· == w.k)

/-- What holds an exit back.
(DEDUCED: log entry 57.) -/
def State.exitPending (s : State) (w : Who) : Bool :=
  !w.t.quiet || w.t.call.isSome
  || (w.tr.k == pkProducer w.e.packet && s.lastOf w w.tr.threads && s.copies.any fun c => c.live && c.troupe == w.trI)
  || (pkGrid w.e.packet && s.lastOf w (s.threadsOf w.e) && w.e.grid.queue.any fun op => op.kind != .rbox)

/-- The pending rendezvous of a crew that name an exited lane: SPLIT goes on without it, and the others fail (R138, R140). -/
def State.exitCrew (s : State) (tr : Troupe) (t : Thread) : State :=
  let crew := s.crewOf tr t.crew
  (s.pcsNaming crew t.lane).foldl (fun (s : State) pc =>
    let here := s.arrivals crew pc t.lane
    match here with
    | [] => s
    | x0 :: _ =>
      match (s.thread x0.2).status with
      | .arrived (.split d a _) m =>
        if crew.all fun x => !bitAt m.toNat x.1 || (here.any fun y => y.1 == x.1) || (s.thread x.2).status == .exited then
          here.foldl (fun s' x => s'.retire x.2 (s.thread x.2)) (splitDone d a here s)
        else s
      | _ => s.failAtPc crew pc t.lane) s

/-- What ends with the last thread of a troupe: its queues unbind (R155). -/
def State.endTroupe (s : State) (trI : Nat) : State := (upFrom 0 8).foldl (fun s q => s.unbind trI q) s

/-- What ends with the last thread of an ensemble. -/
def State.endEns (s : State) (eI : Nat) : State :=
  match (s.ens eI).successor with
  | some x => s.startSuccessor eI x.2
  | none => s.retireEns eI

/-- What an exit does once it may: the pins' claims and the call slot go, then the thread leaves its rendezvous, its barriers, its troupe and
its ensemble. s is the state it began in, and s3 the one in which its pins are released.
(DEDUCED: log entry 57.) -/
def State.exitDone (s : State) (w : Who) (next : Option (Nat × Packet)) (s3 : State) : State :=
  let s4 := s3.updThread w.k fun t => { t with
    status := .exited, pin0 := { t.pin0 with claim := .none }, pin1 := { t.pin1 with claim := .none }, callSlot := none }
  let s5 := match w.t.callSlot with
    | some n => s4.updCtx w.cI fun c => { c with callSlots := c.callSlots.filter (· != n) }
    | none => s4
  let s6 := (s5.updEns w.eI fun e => { e with successor := next }).exitCrew w.tr w.t
  let s7 := ((s6.serveBar w.trI).serveEbar w.eI).serveSplit w.eI
  let s8 := if s.lastOf w w.tr.threads then s7.endTroupe w.trI else s7
  if s.lastOf w (s.threadsOf w.e) then s8.endEns w.eI else s8

/-- The successor that an exit leaves selected: EXIT.S selects one, EXIT keeps what is selected (R143). -/
def State.nextOf (s : State) (w : Who) (sel : Option Nat) : Except Stop (State × Option (Nat × Packet)) :=
  match sel with
  | some k => (s.selectSuccessor w k).map fun x => (x.1, some x.2)
  | none => .ok (s, w.e.successor)

/-- A thread that may exit, all that can stop it checked before anything changes.
(DEDUCED: log entry 57.) -/
def exitBody (sel : Option Nat) (s : State) (w : Who) : Except Stop State := do
  let (s, next) ← s.nextOf w sel
  if s.exitPending w then fail .exitWithPending else .ok ()
  let _ ← s.releaseOwn w 0
  let _ ← s.releaseOwn w 1
  let s1 ← if s.lastOf w w.tr.threads && w.e.isMesh then s.emit w else .ok s
  let s2 ← s1.releaseOwn w 0
  let s3 ← s2.releaseOwn w 1
  .ok (s.exitDone w next s3)

def execExit (g : PredField) (s : State) : Outcome := runWord s g (exitBody none s)
def execExitS (k : BitVec 3) (g : PredField) (s : State) : Outcome := runWord s g (exitBody (some k.toNat) s)

end Sys2Proof.Machine
end

