-- ==== Sys2Proof/Machine/Launch.lean ====
section
/-! DEFINITION. Submission, queues, arbitration, placement, completion, LAUNCH and LWAIT, and pre-emption (12_launch.md R269 to R286). -/

namespace Sys2Proof.Machine

/-- The Ringmaster's stop-record index (R349). -/
def ringmaster : Nat := 436

/-- An access of the Ringmaster for a context (R273, R401).
(DEDUCED: log entry 59.) -/
def State.ringAccess (s : State) (cI : Nat) (a : DWord) (len : Nat) (u : Use) : Except State (List Nat) :=
  s.engineAccess cI ringmaster 0 .engine a len u

/-! ### Submission (R269 to R272) -/

/-- The answer to a packet on a queue: status, reason and field. A reason that concerns no field of the packet (QUEUE_FULL, QUEUE_DISABLED, BAD_STORE) comes
with FIELD 0: R271 gives none.
(DESIGN CHOICE: log entry 108.) -/
def State.judgePacket (s : State) (qI : Nat) (p : Packet) : Nat × Nat × Nat :=
  let q : UQueue := nth s.queues qI {}
  if q.disabled then (3, 6, 0)
  else match packetFailure p with
    | some (reason, off) => (3, reason, off)
    | none =>
      match packetExceeds p with
      | some off => (3, 1, off)
      | none =>
        if q.ring ≤ q.pending.length then (3, 5, 0)
        else if q.slot.isSome then (0, 0, 0) else (1, 0, 0)

/-- The layout of the ERR word. -/
def errWord (x : Nat × Nat × Nat) : Word := w32 (x.1 + x.2.1 * 256 + x.2.2 * 65536)

/-- The ERR word after a submission store: STATUS of the latest, and REASON and FIELD of the latest that was rejected (R269). -/
def UQueue.errAfter (q : UQueue) (ans : Nat × Nat × Nat) : Word := if ans.1 = 3 then errWord ans else w32 (putSlice q.err.toNat 0 2 ans.1)

/-- What a read of n bytes of a submission page finds at an offset: ERR, ACCEPT, and zero elsewhere (R9, R269). -/
def UQueue.readPage (q : UQueue) (off n : Nat) : Nat := slice (q.err.toNat * 2 ^ 1024 + q.accept.toNat * 2 ^ 1088) (8 * off) (8 * n)

/-- An accepted packet takes a ring entry; its launch number is the queue's ACCEPT count after it. -/
def State.acceptPacket (s : State) (qI : Nat) (p : Packet) : State :=
  let q : UQueue := nth s.queues qI {}
  let l : Launch := { ctx := q.ctx, queue := qI, packet := p, number := w32 (q.accept + 1).toNat, entry := q.tail }
  ({ s with launches := s.launches ++ [l] }).updQueue qI fun q => { q with
    accept := q.accept + 1, tail := (q.tail + 1) % max 1 q.ring, pending := q.pending ++ [s.launches.length] }

/-- The bytes of an entry of a queue's ring, in the driver's memory (R272).
(DESIGN CHOICE: log entry 102.) -/
def UQueue.entryBytes (q : UQueue) (i : Nat) : List Nat := upFrom (q.base + 128 * i) 128

/-- A packet that has been judged: an accepted one is queued, and where the queue is unmapped appended to its image, whose units must be at hand
first (R272). The new state, or the one that has asked for them.
(DESIGN CHOICE: log entry 102.) -/
def State.enqueue (s : State) (qI : Nat) (p : Packet) (status : Nat) : Except State State :=
  let q : UQueue := nth s.queues qI {}
  match status with
  | 0 => .ok (s.acceptPacket qI p)
  | 1 => do
    -- while the domain has no Ringmaster the memory island writes the image (R377)
    if !s.gaffer.works 2 then return (s.acceptPacket qI p).islandStore (q.entryBytes q.tail) (toBytes p.toNat 128)
    let pas ← s.engineReady q.ctx ringmaster (q.entryBytes q.tail) { write := true }
    .ok ((s.acceptPacket qI p).engineWrite q.ctx pas (toBytes p.toNat 128))
  | _ => .ok s

/-- A store to a submission page, which comes over the link (R360): `whole` says that it is one aligned store of 128 bytes, and `sameFc` that an unmap of
the queue took effect in its fc. A page of no queue answers nothing.
(DEDUCED: log entry 68.) -/
def execSubmission (page : Nat) (whole sameFc : Bool) (pkt : Packet) (s : State) : Outcome :=
  match findIdx (fun (q : UQueue) => q.page == page) s.queues with
  | none => .next s
  | some qI =>
    let q : UQueue := nth s.queues qI {}
    if !s.linkUp then .next s
    else if sameFc && q.slot.isNone && s.gaffer.works 2 then .next (s.say (.status page 2))
    else
      let ans := if whole then s.judgePacket qI pkt else (3, 7, 0)
      match s.enqueue qI pkt ans.1 with
      | .error s' => .next s'
      | .ok s1 => .next ((s1.updQueue qI fun q => { q with err := q.errAfter ans }).say (.status page (BitVec.ofNat 2 ans.1)))

/-- Firmware maps a queue into a free slot of the 64 and reads its pending packets from the image, in order (R272), once the Ringmaster is ready
(R377).
(DESIGN CHOICE: log entry 102.) -/
def execQueueMap (queue slot : Nat) (s : State) : Outcome :=
  let taken := s.queues.any fun q => q.slot == some slot
  match s.queues[queue]? with
  | none => .next s
  | some q =>
    if decide (64 ≤ slot) || taken || q.slot.isSome || !s.gaffer.works 2 || s.gaffer.state == .draining then .next s
    else match s.engineReady q.ctx ringmaster (q.pending.flatMap fun l => q.entryBytes (s.launch l).entry) { read := true } with
      | .error s' => .next s'
      | .ok _ =>
        let s1 := q.pending.foldl (fun (s : State) l => s.updLaunch l fun x => { x with packet := BitVec.ofNat 1024 (s.readNat (q.entryBytes x.entry)) }) s
        .next (s1.updQueue queue fun q => { q with slot := some slot })

/-- Unmapping writes the pending packets back to the image, in order; or the state that has asked for the units.
(DESIGN CHOICE: log entry 102.) -/
def State.unmapQueue (s : State) (queue : Nat) : Except State State := do
  let q : UQueue := nth s.queues queue {}
  if q.slot.isNone then return s
  let _ ← s.engineReady q.ctx ringmaster (q.pending.flatMap fun l => q.entryBytes (s.launch l).entry) { write := true }
  let s1 := q.pending.foldl (fun (s : State) l => s.engineWrite q.ctx (q.entryBytes (s.launch l).entry) (toBytes (s.launch l).packet.toNat 128)) s
  return s1.updQueue queue fun q => { q with slot := none }

def execQueueUnmap (queue : Nat) (s : State) : Outcome :=
  match s.unmapQueue queue with
  | .ok s' | .error s' => .next s'

/-- The driver creates a queue: a page of the aperture that no other queue has, and the ring's size and place. -/
def execQueueCreation (ctx page ring base : Nat) (s : State) : Outcome :=
  if decide (page < 16384) && !(s.queues.any fun q => q.page == page) && ((s.contexts[ctx]?.map (·.live)).getD false)
      && decide (base + 128 * ring ≤ 2 ^ 52) then
    .next { s with queues := s.queues ++ [({ ctx := ctx, page := page, ring := ring, base := base } : UQueue)] }
  else .next s

def execQueueDisable (queue : Nat) (s : State) : Outcome := .next (s.updQueue queue fun q => { q with disabled := true })

/-! ### LAUNCH and LWAIT (R284, R285) -/

/-- Does a thread before this one in its bundle wait still at the LAUNCH that they issued? Its packet is accepted first (R284). -/
def State.launchHeld (s : State) (w : Who) : Bool :=
  w.t.ahead.any fun j =>
    let t := s.thread j
    t.pc == w.t.pc && t.inHandler == w.t.inHandler && (s.ens t.ens).occupies && match t.status, t.issued with
      | .parked _ _, some (.launch _ _ _) => true
      | .stalled _ _, _ => true
      | _, _ => false

def execLaunch (d a : RegField) (g : PredField) (s : State) : Outcome :=
  runWord s g fun w => do
    let x ← w.t.fetch [wr1 d] [rd2 a [.b32]]
    let (s, v) ← s.loadRecord w (w64 (x.n 0)) 128 128
    if !s.released w.t .dv || s.launchHeld w then .error (.park .launchStatus) else .ok ()
    let qI := (s.launch w.e.launch).queue
    let p : Packet := BitVec.ofNat 1024 v
    let ans := s.judgePacket qI p
    match s.enqueue qI p ans.1 with
    | .error s' => .error (.hold s' (.parked .launchStatus s.clock))
    | .ok s1 => .ok (s1.setThread w.k (x.t.setReg d.toNat (errWord ans) .b32))

/-- LWAIT reads the counter as an acquire at .SY each time it executes. -/
def execLwait (a : RegField) (g : PredField) (s : State) : Outcome :=
  runWord s g fun w => do
    let x ← w.t.fetch [] [rd4 a [.b32]]
    let (s, v) ← { s with viaL1 := false }.loadRecord w (w64 (x.n 0)) 8 8
    if x.n 0 / 2 ^ 64 ≤ v then .ok (s.setThread w.k (x.t.acquired .sy s.stamp)) else .error (.park (.counter (w64 (x.n 0))))

/-- The counter of a parked LWAIT takes a value that a host write gave it; the thread is then retried.
(DEDUCED: log entry 84.) -/
def execLwaitCounter (thread : Nat) (value : DWord) (s : State) : Outcome :=
  match s.whoOf thread with
  | none => .next s
  | some w =>
    match w.t.status with
    | .parked (.counter a) _ =>
      match s.engineTranslate w.c.asid w.tr.core (va57 a) 8 {} with
      | .ok pas => .next (s.hostStore pas (toBytes value.toNat 8))
      | .error _ => .next s
    | _ => .next s

/-! ### Arbitration (R273, R275) -/

/-- What stands at the head of a queue: a saved ensemble, a mesh or shade ensemble, or the next ensemble of the first pending launch. -/
inductive Head where
  | saved (e : Nat) | extra (e : Nat) | fresh (l : Nat)
  deriving DecidableEq, Repr

/-- (DEDUCED: log entry 58.) -/
def UQueue.head (q : UQueue) : Option Head :=
  match q.vacated, q.extra, q.pending with
  | e :: _, _, _ => some (.saved e)
  | [], e :: _, _ => some (.extra e)
  | [], [], l :: _ => some (.fresh l)
  | [], [], [] => none

/-- The launch of a head. -/
def State.headLaunch (s : State) : Head → Nat
  | .saved e | .extra e => (s.ens e).launch
  | .fresh l => l

/-- The packet that shapes a head's ensemble, and the threads of its largest troupe. -/
def State.headShape (s : State) : Head → Packet × Nat
  | .saved e => ((s.ens e).packet, ((s.ens e).troupes.map fun k => (s.troupe k).threads.length).foldl max 0)
  | .extra e => ((s.ens e).packet, match (s.ens e).role with
      | .shade _ => (s.ens e).shades.length
      | _ => pkThreads (s.ens e).packet)
  | .fresh l => ((s.launch l).packet, pkThreads (s.launch l).packet)

/-- The core groups a head may take: those that are ready (R378), and for a mesh ensemble that has not been placed its TDISP's (R292). -/
def State.headGroups (s : State) (h : Head) : List Nat :=
  let up := (upFrom 0 24).filter fun gI => s.gaffer.grp.getLsbD gI
  match h with
  | .extra e => match (s.ens e).role with
    | .mesh _ core _ => up.filter (· == core / 4)
    | _ => up
  | _ => up

/-- Reads a launch's dependence counter: met, or the state in which the launch waits (R273).
(DEDUCED: log entry 60.) -/
def State.checkDep (s : State) (lI : Nat) : State :=
  let l := s.launch lI
  let addr := fieldOf l.packet 88 0 64
  if l.depMet then s
  else if addr = 0 then s.updLaunch lI fun l => { l with depMet := true }
  else match s.ringAccess l.ctx (w64 addr) 8 { read := true } with
    | .error s' => s'
    | .ok pas => if fieldOf l.packet 96 0 64 ≤ s.readNat pas then s.updLaunch lI fun l => { l with depMet := true } else s

/-- The launches at the heads of the mapped queues whose dependence is open are read.
(DEDUCED: log entry 60.) -/
def State.checkDeps (s : State) : State :=
  s.queues.foldl (fun s q => match q.slot, q.head with
    | some _, some (.fresh l) => if (s.ctx q.ctx).halt.isNone then s.checkDep l else s
    | _, _ => s) s

/-- May a queue's head be placed but for resources? -/
def State.headReady (s : State) (q : UQueue) : Bool :=
  q.slot.isSome && (s.ctx q.ctx).halt.isNone && (s.ctx q.ctx).live && match q.head with
    | none => false
    | some (.fresh l) => (s.launch l).depMet
    | some _ => true

/-- The cores that a head would take: those named, where they fit, else any that fit. -/
def State.headCores (s : State) (h : Head) (cores : List Nat) : Option (List Nat) :=
  let sh := s.headShape h
  let gs := s.headGroups h
  if s.fitsCores sh.1 sh.2 cores && cores.all fun c => gs.contains (c / 4) then some cores else s.findCores sh.1 sh.2 gs

def State.placeable (s : State) (q : UQueue) : Bool :=
  s.headReady q && match q.head with
    | some h => (s.headCores h []).isSome
    | none => false

/-- A queue's level and quantum: PRIO and WEIGHT are fields of each packet (R270), and the launch at the queue's head gives its queue's.
(DESIGN CHOICE: log entry 108.) -/
def State.level (s : State) (q : UQueue) : Nat := (q.head.map fun h => pkPrio (s.launch (s.headLaunch h)).packet).getD 0
def State.quantum (s : State) (q : UQueue) : Int := (q.head.map fun h => (pkWeight (s.launch (s.headLaunch h)).packet * 65536 : Nat)).getD 65536

/-- The queue in a slot. -/
def State.queueIn (s : State) (slot : Nat) : Option Nat := findIdx (fun (q : UQueue) => q.slot == some slot) s.queues

/-- The next slot after one, in order and around, whose queue stands at the level with something pending. -/
def State.nextSlot (s : State) (lv slot : Nat) : Nat :=
  (((upFrom 1 64).map fun i => (slot + i) % 64).find? fun sl => match s.queueIn sl with
    | some qI => let q : UQueue := nth s.queues qI {}
                 q.head.isSome && s.level q == lv
    | none => false).getD slot

/-- The loop of R275 at one level: the queue it serves, with the deficits and the pointer it leaves. -/
def State.arbitrate (s : State) (lv : Nat) : Nat → State × Option Nat
  | 0 => (s, none)
  | n + 1 =>
    let ptr := nth s.ptrs lv 0
    let here := match s.queueIn ptr with
      | some qI => let q : UQueue := nth s.queues qI {}
                   if s.placeable q && s.level q == lv && decide (0 < q.deficit) then some qI else none
      | none => none
    match here with
    | some qI => (s, some qI)
    | none =>
      let nx := s.nextSlot lv ptr
      let s1 := { s with ptrs := updateAt s.ptrs lv fun _ => nx }
      match s.queueIn nx with
      | some qI => (s1.updQueue qI fun q => { q with deficit := min (q.deficit + s.quantum q) (s.quantum q) }).arbitrate lv n
      | none => s1.arbitrate lv n

/-- Passes enough for every deficit to rise above 0. -/
def State.arbitrationFuel (s : State) : Nat := 64 * ((s.queues.map fun q => (-q.deficit).toNat / 65536 + 3).foldl max 3)

/-- The highest level with a placeable head, and there the queue served. -/
def State.chooseQueue (s : State) : State × Option Nat :=
  match [3, 2, 1, 0].find? fun lv => s.queues.any fun q => s.level q == lv && s.placeable q with
  | some lv => s.arbitrate lv s.arbitrationFuel
  | none => (s, none)

/-! ### Context descriptors and images (R339, R350) -/

/-- Are a descriptor's res0 fields zero and its fields within their ranges? A watchpoint that matches nothing (WPKIND 0) may have WPLEN 0, its reset value,
which is below the field's range; FULL of MAPCTL, which is RO, may have either value and is not taken.
(DESIGN CHOICE: log entry 109.) -/
def descriptorOk (d : BitVec 2048) : Bool :=
  let f (off lo n : Nat) : Nat := fieldOf d off lo n
  let handler := w64 (f 0 0 64)
  let mapctl := f 80 0 32
  (handler = 0 || pointerOk handler 4) && f 8 0 64 % 4096 == 0 && f 16 0 32 % 4096 == 0 && f 24 0 64 % 64 == 0 && f 32 0 64 % 256 == 0
    && f 40 16 16 == 0 && decide (f 44 0 32 ≤ 2 ^ 20) && f 48 0 64 % 64 == 0 && f 56 0 64 % 4096 == 0
    && f 64 0 64 % 4096 == 0 && decide (f 64 0 64 ≤ 2 ^ 40) && f 76 1 31 == 0
    && slice mapctl 12 20 == 0 && slice mapctl 6 2 == 0 && slice mapctl 3 1 == 0 && slice mapctl 4 2 != 3
    && f 84 0 96 == 0 && f 192 0 512 == 0
    && (upFrom 0 4).all fun i => f (96 + 8 * i) 1 1 == 0 && f (140 + 16 * i) 2 30 == 0 && (f (140 + 16 * i) 0 2 == 0 || f (136 + 16 * i) 0 32 != 0)

/-- A context takes what its descriptor holds: nothing of one that is not in order; where a breakpoint or watchpoint changes, the context's
configurations are invalidated (R170, R339).
(DEDUCED: log entry 63.) -/
def State.takeDescriptor (s : State) (ctx : Nat) (desc : BitVec 2048) : State :=
  if !descriptorOk desc then s
  else
    let s1 := if fieldOf desc 96 0 768 = fieldOf (s.ctx ctx).desc 96 0 768 then s else s.dropAll ctx
    s1.updCtx ctx fun c => { c with desc := desc }

/-- The most bytes that an ensemble's image needs (R350).
(DESIGN CHOICE: log entry 62.) -/
def State.imageBound (s : State) (eI : Nat) : Nat :=
  let e := s.ens eI
  let p := e.packet
  let n := (s.threadsOf e).length
  let slice := pkSlice p
  let t := e.troupes.length
  8192 + n * (5 * pkRegs p + 384) + t * (slice + slice / 128) + (if pkGrid p then 80 * pkTileWords p + 49152 else 0)
    + (if e.isMesh then 40960 * t else 0)

/-- The bytes of its slot that an image takes.
(DESIGN CHOICE: log entry 62.) -/
def State.imageBytes (s : State) (eI : Nat) : Nat := min (alignUp (s.imageBound eI) 4096) ((s.ctx (s.ens eI).ctx).field 16 0 32)

/-- The image slot that an ensemble's image takes; none where no slot is free or the image exceeds one. An image of at most the bound may be
smaller: where a slot is smaller than the bound, whether it exceeds is the device's.
(DESIGN CHOICE: log entry 62.) -/
def State.imageSlot (s : State) (eI : Nat) : Option Nat :=
  let e := s.ens eI
  let c := s.ctx e.ctx
  let fits := decide (alignUp (s.imageBound eI) 4096 ≤ c.field 16 0 32) || Config.choice s.moves % 2 == 1
  if fits then (upFrom 0 (c.images.length + 1)).find? fun i => decide (i < c.field 20 0 32) && !c.images.contains i else none

/-- Where an image slot lies: past the context header. -/
def State.imageAddr (s : State) (ctx slot : Nat) : DWord := w64 ((s.ctx ctx).field 8 0 64 + 4096 + (s.ctx ctx).field 16 0 32 * slot)

/-- Bytes of a context's save area written: the layout of a slot and of the header is not architected, and what they stand for is kept in the state.
(DESIGN CHOICE: log entry 31.) -/
def State.putFree (s : State) (ctx : Nat) (pas : List Nat) : State := s.engineWrite ctx pas (pas.map (Config.freshByte (s.freshKey 512)))

/-! ### Placement and restore (R276, R286, R350) -/

/-- The launch pins, at the start of a launch's first ensemble (R327); or the state in which the Ringmaster waits, or has halted the context. -/
def State.pinLaunch (s : State) (lI : Nat) : Except State State := do
  let l := s.launch lI
  let c := s.ctx l.ctx
  let look (off : Nat) : Except State (Option (Nat × List Nat × Word)) :=
    let h := w32 (fieldOf l.packet off 0 32)
    match c.handleIndex h with
    | none => .ok none
    | some i => do
      let pas ← s.ringAccess l.ctx (c.entryAddr i) 256 { read := true }
      let e := s.entryAt pas
      if e.valid h && e.cur != 0 then do
        let _ ← s.ringAccess l.ctx (c.entryAddr i) 256 { write := true }
        .ok (some (i, pas, e.cur))
      else .ok none
  let a ← look 80
  let b ← look 84
  let pin (s : State) (x : Option (Nat × List Nat × Word)) : State := match x with
    | some y => s.pinUp l.ctx y.1 y.2.1 y.2.2
    | none => s
  .ok ((pin (pin s a) b).updLaunch lI fun l => { l with
    started := true, start := s.fclock, pin0 := a.map (·.2.2), pin1 := b.map (·.2.2) })

/-- The Ringmaster divides empty cores between scratchpad and L1 for the ensemble placed there (R18, R276). -/
def State.divide (s : State) (p : Packet) (n : Nat) (cores : List Nat) : State :=
  cores.foldl (fun s c => if (s.troupesOn c).isEmpty then s.updCore c fun co => { co with scratchpad := divisionFor p n } else s) s

/-- A saved ensemble resumes on cores: its context's descriptor and its image are read again, and the image's slot is free (R339, R350). What it
reads on another core may stand in no L1 line of before. The state that has asked for what is lacking, where something is.
(DESIGN CHOICE: log entries 31, 103.) -/
def State.restore (s : State) (eI n : Nat) (cores : List Nat) : Except State State := do
  let e := s.ens eI
  let at_ := (s.ctx e.ctx).descAt
  let d ← s.engineReady e.ctx ringmaster (upFrom at_ 256) { read := true }
  let s0 := s.takeDescriptor e.ctx (BitVec.ofNat 2048 (s.readNat d))
  let header ← s0.ringAccess e.ctx (w64 ((s0.ctx e.ctx).field 8 0 64)) 4096 { write := true }
  match e.image with
  | some i => (s0.ringAccess e.ctx (s0.imageAddr e.ctx i) (s0.imageBytes eI) { read := true }).map fun _ => ()
  | none => .ok ()
  let s1 := (s0.putFree e.ctx header).divide e.packet n cores
  let s2 := (e.troupes.zip cores).foldl (fun (s : State) x => s.updTroupe x.1 fun t => { t with core := x.2 }) s1
  let s3 := (s.threadsOf e).foldl (fun (s : State) k => s.updThread k fun t => { t with acqStamp := s.stamp + 1 }) s2
  let s4 := s3.updEns eI fun e => { e with
    phase := .resident, cores := cores, group := (cores.headD 0) / 4, since := s.clock, image := none }
  .ok (s4.updCtx e.ctx fun c => { c with images := match e.image with
    | some i => c.images.filter (· != i)
    | none => c.images })

/-- The head of a queue takes its cores.
(DEDUCED: log entry 58.) -/
def State.placeHead (s : State) (qI : Nat) (h : Head) (cores : List Nat) : State :=
  let n := (s.headShape h).2
  match h with
  | .saved e => match (s.updQueue qI fun q => { q with vacated := q.vacated.drop 1 }).restore e n cores with
    | .ok s' => s'
    | .error s' => s'.updQueue qI fun q => { q with vacated := (nth s.queues qI {}).vacated }
  | .extra e => (s.updQueue qI fun q => { q with extra := q.extra.drop 1 }).populate e n cores []
  | .fresh l =>
    match (if (s.launch l).started then .ok s else s.pinLaunch l) with
    | .error s' => s'
    | .ok s1 =>
      let la := s1.launch l
      let e : Ensemble := { ctx := la.ctx, launch := l, index := la.placed, packet := la.packet }
      let s2 := ({ s1 with ensembles := s1.ensembles ++ [e] }).updLaunch l fun x => { x with placed := x.placed + 1, live := x.live + 1 }
      let s3 := if pkEnsembles la.packet ≤ la.placed + 1 then s2.updQueue qI fun q => { q with pending := q.pending.drop 1 } else s2
      s3.populate s1.ensembles.length n cores []

/-- Deficits of idle queues, and since when each head lacks only resources (R275, R286). -/
def State.tidyQueues (s : State) : State :=
  { s with queues := (s.queues.zip (upFrom 0 s.queues.length)).map fun x =>
      let q := x.1
      { q with
        deficit := if s.idleQueue x.2 then min q.deficit 0 else q.deficit
        wait := if s.headReady q && !s.placeable q then (if q.wait = 0 then s.fclock else q.wait) else 0 } }

/-- One placement opportunity; `cores` are those that the Ringmaster would choose (R276). -/
def execPlacementOpportunity (cores : List Nat) (s : State) : Outcome :=
  if !s.gaffer.ready.getLsbD 2 || s.gaffer.state == .draining then .next s
  else
    let s1 := s.checkDeps.tidyQueues
    match s1.chooseQueue with
    | (s2, none) => .next s2
    | (s2, some qI) =>
      match (nth s2.queues qI {}).head with
      | none => .next s2
      | some h => match s2.headCores h cores with
        | some cs => .next (s2.placeHead qI h cs)
        | none => .next s2

/-- A write by the host to a dependence counter: the value stands at the address, for each context that waits on it, and every waiting launch
is judged again.
(DEDUCED: log entries 59, 60, 84.) -/
def execDependenceWrite (addr : Nat) (value : DWord) (s : State) : Outcome :=
  let waits := s.launches.filter fun l => !l.depMet && !l.done && fieldOf l.packet 88 0 64 == addr && addr != 0
  match waits with
  | [] => .next s
  | l :: _ =>
    match s.engineTranslate (s.ctx l.ctx).asid 0 (addr % 2 ^ 57) 8 {} with
    | .ok pas => .next (s.hostStore pas (toBytes value.toNat 8)).checkDeps
    | .error _ => .next s.checkDeps

/-- The clear engines have finished a troupe (R149); not where its context's halt line has risen, as it has where their check failed (R150). -/
def execRegisterClear (troupe : Nat) (s : State) : Outcome :=
  .next (if (s.ctx (s.ctxOfTroupe troupe)).halt.isSome then s else s.updTroupe troupe fun t => { t with cleared := true })

/-! ### Completion (R279, R296) -/

/-- Have all accesses of a launch's threads been performed, and its link messages been acknowledged, so that its release covers them (R203, R206)? -/
def State.launchQuiet (s : State) (l : Nat) : Bool :=
  (s.threads.all fun t => (s.ens t.ens).launch != l || (t.loads.isEmpty && t.stores.isEmpty))
    && s.troupes.all fun t => (s.ens t.ens).launch != l || t.linkCount == 0

/-- Has the last work of a launch retired, its pass shaded in full (R279, R299)? -/
def State.launchEnded (s : State) (lI : Nat) : Bool :=
  let l := s.launch lI
  decide (pkEnsembles l.packet ≤ l.placed) && l.live == 0 && !l.done && match l.pass with
    | none => true
    | some i => let p : Pass := nth s.passes i {}
                !(s.ensembles.any fun e => e.launch == lI && e.role != .task) || (upFrom 0 (tileCount p.desc)).all p.formed.contains

/-- Step n of a completion: 0 the overflow record, 1 the completion record, 2 the counter, a release at .SY, 3 the message, once what the engines have
written past the caches has reached its homes, 4 and 5 the launch pins.
(DEDUCED: log entry 58.) -/
def State.completionStep (s : State) (lI n : Nat) : Except State State :=
  let l := s.launch lI
  let c := s.ctx l.ctx
  let addr := fieldOf l.packet 104 0 64
  let put (a len v : Nat) : Except State State := do
    let pas ← s.ringAccess l.ctx (w64 a) len { write := true }
    .ok (s.engineWrite l.ctx pas (toBytes v len))
  let unpin (off : Nat) (pin : Option Word) : Except State State :=
    match pin, c.handleIndex (w32 (fieldOf l.packet off 0 32)) with
    | some gen, some i => do
      let pas ← s.ringAccess l.ctx (c.entryAddr i) 256 { read := true, write := true }
      .ok (s.pinDown l.ctx i pas gen)
    | _, _ => .ok s
  match n with
  | 0 => if addr != 0 && (s.ensembles.any fun e => e.launch == lI && (match e.role with
        | .mesh _ _ _ => true
        | _ => false)) then put (addr + 16) 8 (l.dropped + l.culled * 2 ^ 32) else .ok s
  | 1 => if addr != 0 then put (addr + 8) 8 (l.number.toNat + l.retired % 2 ^ 32 * 2 ^ 32) else .ok s
  | 2 => if addr != 0 then do
      let pas ← s.ringAccess l.ctx (w64 addr) 8 { read := true, write := true, atomic := true }
      .ok ((s.engineWrite l.ctx pas (toBytes (s.readNat pas + 1) 8)).noteRelease l.ctx)
    else .ok s
  | 3 => if s.engineOwes l.ctx then .error s else .ok (if fieldOf l.packet 112 16 1 = 1 then s.say (.notify c.asid (BitVec.ofNat 16 (fieldOf l.packet 112 0 16))) else s)
  | 4 => unpin 80 l.pin0
  | _ => unpin 84 l.pin1

/-- The steps of a completion from where it stands. -/
def State.completeFrom (s : State) (lI : Nat) : Nat → State
  | 0 => s.updLaunch lI fun l => { l with done := true, pin0 := none, pin1 := none }
  | n + 1 =>
    match s.completionStep lI (5 - n) with
    | .error s' => s'
    | .ok s' => (s'.updLaunch lI fun l => { l with recorded := 6 - n }).completeFrom lI n

/-- The Ringmaster completes a launch whose last work has retired, while it works (R377). -/
def execLaunchCompletion (launch : Nat) (s : State) : Outcome :=
  match s.launches[launch]? with
  | none => .next s
  | some l =>
    if s.gaffer.works 2 && s.launchEnded launch && s.launchQuiet launch && (s.ctx l.ctx).halt.isNone && !s.waits .engine then .next (s.completeFrom launch (6 - l.recorded))
    else .next s

/-- A launch resident for longer than WDOG halts its context (R341). -/
def execWatchdog (launch : Nat) (s : State) : Outcome :=
  match s.launches[launch]? with
  | none => .next s
  | some l =>
    let limit := (s.ctx l.ctx).field 72 0 32 * 2 ^ 20
    if l.started && !l.done && limit != 0 && decide (limit < (s.fclock - l.start).toNat) then .next (s.raiseHalt l.ctx { index := ringmaster, cause := .watchdog })
    else .next s

/-! ### Pre-emption (R286) -/

/-- The ensembles that a request for cores makes victims: a grid ensemble brings its whole group. -/
def Ensemble.victimOf (e : Ensemble) (cores : List Nat) : Bool :=
  e.occupies && (if e.gridGroup then cores.any (fun c => c / 4 == e.group) else cores.any e.cores.contains)

/-- A request: its victims drain from now on, and each victim's context has until 2^20 fc after it. One for cores that an earlier one in progress names is
merged into that.
(DEDUCED: log entry 61.) -/
def State.preempt (s : State) (cores : List Nat) : State :=
  let hit := s.ensembles.filter fun e => e.victimOf cores
  let s1 := { s with ensembles := s.ensembles.map fun e => if e.victimOf cores then { e with phase := .draining } else e }
  ((hit.map (·.ctx)).dedup).foldl (fun (s : State) c => s.updCtx c fun x => { x with
    preempt := if x.preempt.any fun p => cores.all p.1.contains then x.preempt else x.preempt ++ [(cores, s.fclock)] }) s1

/-- Is a victim of a request still to be saved in a context? -/
def State.requestOpen (s : State) (ctx : Nat) (cores : List Nat) : Bool :=
  s.ensembles.any fun e => e.ctx == ctx && e.phase == .draining && e.victimOf cores

/-- The cores that a context holds. -/
def State.coresOf (s : State) (ctx : Nat) : List Nat := ((s.ensembles.filter fun e => e.occupies && e.ctx == ctx).flatMap (·.cores)).dedup

/-- The driver's request at a context switch names every core of the context. -/
def execPreemptionRequest (ctx : Nat) (cores : List Nat) (s : State) : Outcome :=
  .next (if (s.coresOf ctx).all cores.contains && !cores.isEmpty then s.preempt cores else s)

/-- Victims in the order they are chosen: the lowest level first, within a level the most recently placed. -/
def State.victimBefore (s : State) (a b : Ensemble) : Bool :=
  let la := pkPrio (s.launch a.launch).packet
  let lb := pkPrio (s.launch b.launch).packet
  decide (la < lb) || (la == lb && decide (b.since < a.since))
def State.insertVictim (s : State) (x : Nat) : List Nat → List Nat := putBefore (fun y => s.victimBefore (s.ens x) (s.ens y)) x

/-- A head that has lacked only resources for 8,192 fc: the cores named, which only lower levels hold, are ones that it takes when the fewest ensembles of
lower levels on the groups that it may take are gone, in the order of victims.
(DEDUCED: log entry 61.) -/
def execPreemptStarvation (queue : Nat) (cores : List Nat) (s : State) : Outcome :=
  match s.queues[queue]? with
  | none => .next s
  | some q =>
    match q.head with
    | some h =>
      let lowerOnly := s.ensembles.all fun e => !e.victimOf cores || decide (pkPrio (s.launch e.launch).packet < s.level q)
      if q.wait = 0 || (s.fclock - q.wait).toNat < 8192 || !s.headReady q || s.placeable q || !lowerOnly then .next s
      else
        let sh := s.headShape h
        let groups := s.headGroups h
        let lower := (upFrom 0 s.ensembles.length).filter fun i =>
          (s.ens i).occupies && groups.contains (s.ens i).group && decide (pkPrio (s.launch (s.ens i).launch).packet < s.level q)
        let order := lower.foldl (fun l i => s.insertVictim i l) []
        let without (n : Nat) : State := (order.take n).foldl (fun (s : State) i => s.updEns i fun e => { e with phase := .saved }) s
        match (upFrom 1 order.length).find? fun n => ((without n).findCores sh.1 sh.2 groups).isSome with
        | some n => .next (if (without n).fitsCores sh.1 sh.2 cores && cores.all (fun c => groups.contains (c / 4)) then s.preempt cores else s)
        | none => .next s
    | none => .next s

/-- A thread as its image holds it: what it was parked at is not done, and rendezvous arrivals and latches are not saved (R139, R350).
(DEDUCED: log entry 61.) -/
def Thread.vacate (t : Thread) : Thread :=
  { t with
    ahead := []
    gapUntil := none
    got := []
    seq := t.seq + 1
    status := match t.status with
      | .barred p => .barred p
      | .exited => .exited
      | .trapping c p a i => .trapping c p a i
      | _ => .ready }

/-- May an ensemble's image be written: obligations complete, copies out of flight, link counters at zero, the grid drained (R286)? -/
def State.drainedEns (s : State) (eI : Nat) : Bool :=
  let e := s.ens eI
  (s.threadsOf e).all (fun k =>
    let t := s.thread k
    t.quiet && t.loads.isEmpty && t.stores.isEmpty && t.owed.isEmpty && (match t.status with
      | .trapping _ _ _ _ => false
      | _ => true))
  && e.troupes.all (fun k => (s.troupe k).linkCount == 0 && !(s.copies.any fun c => c.live && c.troupe == k))
  && (e.grid.queue.isEmpty || e.grid.drained)

/-- The troupe's parked queue and Carousel operations leave their lists: they execute again.
(DEDUCED: log entry 61.) -/
def Troupe.vacate (t : Troupe) : Troupe :=
  { t with queues := t.queues.map fun q => { q with pushWait := [], popWait := [] }
           carousels := t.carousels.map fun c => { c with acqWait := [], popWait := [] } }

/-- Nobody of an ensemble waits on an outstanding request any more: what it lacks it meets again when it is restored (R397). -/
def State.dropWaits (s : State) (eI : Nat) : State :=
  let mine (w : Waiter) : Bool := w == .grid eI || (s.threadsOf (s.ens eI)).any fun k => w == .thread k
  { s with
    xlwaits := s.xlwaits.filter fun x => !mine x.2
    pgreqs := s.pgreqs.map fun x => (x.1, x.2.filter fun w => !mine w) }

/-- An ensemble's image is written, its pages and the header's at hand: its threads and cores are let go (R286 steps 4 and 5, R350).
(DESIGN CHOICE: log entry 31.) -/
def State.writeImage (s : State) (eI slot : Nat) (header pas : List Nat) : State :=
  let e := s.ens eI
  let s1 := (s.threadsOf e).foldl (fun (s : State) k => s.updThread k Thread.vacate) ((s.dropWaits eI).putFree e.ctx (header ++ pas))
  let s2 := e.troupes.foldl (fun (s : State) k => s.updTroupe k Troupe.vacate) s1
  let s3 := (s2.leaveRing eI).updEns eI fun e => { e with phase := .saved, image := some slot }
  s3.updCtx e.ctx fun c => { c with images := c.images ++ [slot] }

/-- A drained victim's image is written, it is charged, and it returns to the head of its queue, or its context halts for want of a slot. R286 gives several
victims of one queue no order: the one saved last stands first.
(DESIGN CHOICE: log entry 108.) -/
def execVictimSave (ens : Nat) (s : State) : Outcome :=
  match s.ensembles[ens]? with
  | none => .next s
  | some e =>
    if e.phase != .draining || !s.drainedEns ens || (s.ctx e.ctx).halt.isSome then .next s
    else
      match s.imageSlot ens with
      | none => .next ((s.raiseHalt e.ctx { index := ringmaster, cause := .machineCheckOther }).updCtx e.ctx fun c => { c with imageLost := true })
      | some slot =>
        match (do
          let header ← s.ringAccess e.ctx (w64 ((s.ctx e.ctx).field 8 0 64)) 4096 { write := true }
          let pas ← s.ringAccess e.ctx (s.imageAddr e.ctx slot) (s.imageBytes ens) { write := true }
          Except.ok (header, pas)) with
        | .error s' => .next s'
        | .ok at_ =>
          let s1 := (s.dropConfigs fun i _ => e.cores.contains i).charge ens
          let s2 := (s1.writeImage ens slot at_.1 at_.2).updQueue (s.launch e.launch).queue fun q => { q with vacated := ens :: q.vacated }
          .next (s2.updCtx e.ctx fun c => { c with preempt := c.preempt.filter fun p => s2.requestOpen e.ctx p.1 })

/-- A pre-emption not finished 2^20 fc after its request halts the context. -/
def execPreemptTimeout (ctx : Nat) (s : State) : Outcome :=
  match s.contexts[ctx]? with
  | none => .next s
  | some c =>
    if c.preempt.any fun p => decide (2 ^ 20 ≤ (s.fclock - p.2).toNat) && s.requestOpen ctx p.1 then
      .next (s.raiseHalt ctx { index := ringmaster, cause := .preemptTimeout })
    else .next s

end Sys2Proof.Machine
end

