-- ==== Sys2Proof/Machine/Rigger.lean ====
section
/-! DEFINITION. The Rigger: what a command may publish, its status record, publication and reclamation (14_rays.md R315 to R319, R330 to
R335). The tree that a command builds is the engine's choice, given with its event; a tree that R333 and R334 do not allow is no step. -/

namespace Sys2Proof.Machine

/-! ### Trees (R316 to R318) -/

/-- A node or leaf of a tree: its address and level, the chain of nodes and child indices above it (nearest first), and what it holds. -/
structure TreeItem where
  addr  : Nat
  level : Nat
  above : List (Node × Nat)
  node  : Option Node
  recs  : List TriRec
  deriving Repr

/-- The items of a tree in a fixed order, read through `view`; none where the fuel is out. -/
def walkTree {ε : Type} (view : Nat → Nat → Except ε Nat) : Nat → List (Nat × Nat × List (Node × Nat)) → Except ε (List TreeItem)
  | 0, _ => .ok []
  | _ + 1, [] => .ok []
  | fuel + 1, (r, level, above) :: todo => do
    let a := (canonicalOf (refAddr r)).toNat
    match refKind r with
    | 1 =>
      let v ← view a 128
      let n : Node := BitVec.ofNat 1024 v
      let kids := (upFrom 0 8).map fun i => (n.child i, level + 1, (n, i) :: above)
      let rest ← walkTree view fuel (kids.filter (fun k => refKind k.1 != 0) ++ todo)
      .ok ({ addr := a, level := level, above := above, node := some n, recs := [] } :: rest)
    | 2 =>
      let recs ← (upFrom 0 (refCount r + 1)).mapM fun i => do
        let v ← view (a + 48 * i) 48
        .ok (BitVec.ofNat 384 v : TriRec)
      let rest ← walkTree view fuel todo
      .ok ({ addr := a, level := level, above := above, node := none, recs := recs } :: rest)
    | _ => walkTree view fuel todo

def TreeItem.bytes (x : TreeItem) : Nat := if x.node.isSome then 128 else 48 * x.recs.length
/-- Does an item meet n bytes from a? -/
def TreeItem.hits (x : TreeItem) (a n : Nat) : Bool := decide (x.addr < a + n) && decide (a < x.addr + x.bytes)

/-! ### The statistics of R335 -/

/-- A box: lower and upper corner, scaled to integers. -/
abbrev IBox := List (Int × Int)

def Node.ibox (n : Node) (i : Nat) : IBox := (upFrom 0 3).map fun x => ((n.bound i x false).scaled, (n.bound i x true).scaled)

/-- Half the surface area. -/
def IBox.half (b : IBox) : Nat :=
  let d (i : Nat) : Nat := ((nth b i (0, 0)).2 - (nth b i (0, 0)).1).toNat
  d 0 * d 1 + d 1 * d 2 + d 2 * d 0
def IBox.join (a b : IBox) : IBox := (a.zip b).map fun x => (min x.1.1 x.2.1, max x.1.2 x.2.2)
/-- Half the area of an intersection; 0 where the boxes do not meet. -/
def IBox.meetHalf (a b : IBox) : Nat :=
  let m : IBox := (a.zip b).map fun x => (max x.1.1 x.2.1, min x.1.2 x.2.2)
  if m.any fun x => decide (x.2 < x.1) then 0 else IBox.half m

/-- The boxes of a node's children that are not empty. -/
def Node.boxes (n : Node) : List IBox := ((upFrom 0 8).filter fun i => refKind (n.child i) != 0).map n.ibox

/-- The box that A(n) takes for an item: its parent's decoded one, or for the root the smallest that holds its children's. -/
def TreeItem.box (x : TreeItem) : IBox :=
  match x.above with
  | (n, i) :: _ => n.ibox i
  | [] => match x.node.map Node.boxes with
    | some (b :: r) => r.foldl IBox.join b
    | _ => [(0, 0), (0, 0), (0, 0)]

/-- The sum of SAH's inner terms, the root's among them, and leaf terms; and A(root). -/
def treeCost (items : List TreeItem) : Nat × Nat :=
  ((items.map fun x => IBox.half x.box * (if x.node.isSome then 1 else x.recs.length)).foldl (· + ·) 0,
   (items.head?.map fun x => IBox.half x.box).getD 0)

/-- SAH: the sum over A(root), times 1,000, rounded down. -/
def treeSah (items : List TreeItem) : Nat :=
  let c := treeCost items
  if c.2 = 0 then 0 else min (1000 * c.1 / c.2) (2 ^ 32 - 1)

/-- The sum over pairs of a list. -/
def pairSum (f : IBox → IBox → Nat) : List IBox → Nat
  | [] => 0
  | b :: r => (r.map (f b)).foldl (· + ·) 0 + pairSum f r

/-- OVERLAP times 1,000, exactly, as a numerator and a denominator. -/
def treeOverlap (items : List TreeItem) : Nat × Nat :=
  let inner := items.filter fun x => x.node.isSome
  let terms := inner.map fun x =>
    let a := IBox.half x.box
    if a = 0 then (0, 1) else (pairSum IBox.meetHalf ((x.node.map Node.boxes).getD []), a)
  let s := terms.foldl (fun (t : Nat × Nat) x => (t.1 * x.2 + x.1 * t.2, t.2 * x.2)) (0, 1)
  (1000 * s.1, s.2 * max 1 inner.length)

/-- A ratio as the engine rounds it: R335 gives OVERLAP and DRIFT no direction, and the engine's figure stands where it is the floor or the
ceiling (log entry 24); saturated.
(DESIGN CHOICE: log entry 24.) -/
def roundedAs (p : Nat × Nat) (given : Word) : Nat :=
  let floor := p.1 / max 1 p.2
  min 65535 (if given.toNat = floor + 1 && p.1 % max 1 p.2 != 0 then floor + 1 else floor)

/-! ### Inputs (R333, R334) -/

/-- An input triangle: its vertices' words where every index lies in the array. -/
structure InTri where
  prim  : Nat
  verts : Option (List Word)
  deriving Repr

/-- Excluded: an index beyond the array, or a vertex component that is not finite. -/
def InTri.excluded (t : InTri) : Bool :=
  match t.verts with
  | some ws => !(ws.all fun w => (fF32.decode w.toNat).finite)
  | none => true

/-- Exactly zero area: the cross product of two edges is zero. -/
def InTri.zeroArea (t : InTri) : Bool :=
  let c (i : Nat) : Int := (fF32.decode (nth (t.verts.getD []) i 0).toNat).scaled
  let e (v x : Nat) : Int := c (3 * v + x) - c x
  let cr (i j : Nat) : Int := e 1 i * e 2 j - e 1 j * e 2 i
  cr 1 2 == 0 && cr 2 0 == 0 && cr 0 1 == 0

/-- The record of a kept triangle. -/
def InTri.record (t : InTri) (noHit : Bool) : TriRec :=
  BitVec.ofNat 384 (ofWords (t.verts.getD [] ++ [w32 t.prim, if noHit then 1 else 0, 0]))

/-- Reads triangle i through a view. -/
def readTri {ε : Type} (view : Nat → Nat → Except ε Nat) (vtx idx stride nvtx i : Nat) : Except ε InTri := do
  let ix ← (upFrom 0 3).mapM fun j => view (idx + 12 * i + 4 * j) 4
  if ix.all fun v => decide (v < nvtx) then do
    let vs ← ix.mapM fun v => view (vtx + stride * v) 12
    .ok { prim := i, verts := some (vs.flatMap fun v => toWords v 3) }
  else .ok { prim := i, verts := none }

/-! ### What a command may publish (R315, R333, R334) -/

/-- A vertex lies in every box above it. -/
def TreeItem.contains (x : TreeItem) (t : TriRec) : Bool :=
  x.above.all fun b => (upFrom 0 3).all fun v => (upFrom 0 3).all fun ax =>
    !((t.vertex v ax).lt (b.1.bound b.2 ax false)) && !((b.1.bound b.2 ax true).lt (t.vertex v ax))

/-- Every item is well formed, inside the pool, and, but for what is never hit, inside the boxes above it. -/
def treeSound (pool size : Nat) (items : List TreeItem) : Bool :=
  items.all fun x => decide (pool ≤ x.addr) && decide (x.addr + x.bytes ≤ pool + size)
    && (match x.node with
      | some n => !n.malformed
      | none => x.recs.all fun t => !t.malformed && (t.noHit || x.contains t))

def allRecs (items : List TreeItem) : List TriRec := items.flatMap (·.recs)

/-- A stretch of the pool: its first byte and its length. -/
abbrev Span := Nat × Nat
def Span.hits (x : Span) (a n : Nat) : Bool := decide (x.1 < a + n) && decide (a < x.1 + x.2)
def TreeItem.span (x : TreeItem) : Span := (x.addr, x.bytes)

/-- BUILD: the kept triangles once each, in no existing node; with none kept, a root and no more.
(DESIGN CHOICE: log entry 24.) -/
def buildAllowed (input : List InTri) (old : List Span) (items : List TreeItem) : Bool :=
  let kept := input.filter fun t => !t.excluded
  let recs := allRecs items
  recs.length == kept.length && (!kept.isEmpty || items.length == 1) && (kept.all fun t => recs.contains (t.record t.zeroArea))
    && items.all fun x => old.all fun y => !y.hits x.addr x.bytes

/-- Two nodes that differ at most in boxes and target addresses. -/
def sameShape (a b : Node) : Bool := (upFrom 0 8).all fun i => refKind (a.child i) == refKind (b.child i) && refCount (a.child i) == refCount (b.child i)

/-- Do two items hold the same bytes? -/
def TreeItem.sameBytes (a b : TreeItem) : Bool :=
  a.recs == b.recs && match a.node, b.node with
    | some m, some n => m == n
    | none, none => true
    | _, _ => false

/-- Everything that has not changed is shared: an item with the bytes of one of the current generation is that one (R315). -/
def sharesRest (cur items : List TreeItem) : Bool :=
  items.all fun x => let same := cur.filter x.sameBytes
    same.isEmpty || same.any fun y => y.addr == x.addr

/-- REFIT: the topology of the current generation, leaf for leaf, with the new vertices; what has not changed is shared.
(DESIGN CHOICE: log entry 24.) -/
def refitAllowed (input : List InTri) (cur items : List TreeItem) : Bool :=
  cur.length == items.length && sharesRest cur items && (cur.zip items).all fun p =>
    (match p.1.node, p.2.node with
      | some a, some b => sameShape a b
      | none, none => true
      | _, _ => false)
    && p.1.recs.length == p.2.recs.length && (p.1.recs.zip p.2.recs).all fun r =>
      r.1.prim == r.2.prim && match input[r.1.prim.toNat]? with
        | some t => if t.excluded then r.2.noHit else r.2 == t.record t.zeroArea
        | none => r.2 == r.1

/-- REBALANCE: the same triangles; rotations that lower the SAH cost, or none; what has not changed is shared.
(DESIGN CHOICE: log entry 24.) -/
def rebalanceAllowed (cur items : List TreeItem) : Bool :=
  let a := allRecs cur
  let b := allRecs items
  let old := treeCost cur
  let new := treeCost items
  let lower := decide (new.1 * old.2 < old.1 * new.2)
  a.length == b.length && (a.all fun r => a.count r == b.count r) && sharesRest cur items && (lower || cur.map (·.addr) == items.map (·.addr))

/-- COMPACT: the same shape and contents in a run of addresses, the lowest free one that holds it.
(DESIGN CHOICE: log entry 24.) -/
def compactAllowed (pool : Nat) (live : List Span) (cur items : List TreeItem) : Bool :=
  let same := cur.length == items.length && (cur.zip items).all fun p =>
    (match p.1.node, p.2.node with
      | some a, some b => sameShape a b && a.toNat % 2 ^ 512 == b.toNat % 2 ^ 512
      | none, none => true
      | _, _ => false) && p.1.recs == p.2.recs
  let lo := (items.map (·.addr)).foldl min ((items.head?.map (·.addr)).getD pool)
  let hi := (items.map fun x => alignUp (x.addr + x.bytes) 128).foldl max lo
  let total := (items.map fun x => alignUp x.bytes 128).foldl (· + ·) 0
  let starts := (pool :: live.map fun x => alignUp (x.1 + x.2) 128).filter fun a => decide (a < lo)
  same && hi - lo == total && starts.all fun a => live.any fun x => x.hits a (hi - lo)

/-! ### When the pool cannot hold a command's output (R333) -/

/-- The lowest place of the pool, a multiple of 128, at which n bytes meet none of some stretches. -/
def firstFit (pool size : Nat) (used : List Span) (n : Nat) : Option Nat :=
  let places := (pool :: used.map fun x => alignUp (x.1 + x.2) 128).filter fun a => decide (pool ≤ a) && decide (a + n ≤ pool + size) && !(used.any fun x => x.hits a n)
  places.head?.map fun a => places.foldl min a

/-- Do items of some sizes find room in the pool, the largest first, each where it first fits? -/
def packs (pool size : Nat) (used : List Span) (sizes : List Nat) : Bool :=
  ((sizes.foldl (fun l n => putBefore (fun m => decide (m < n)) n l) []).foldl (fun (u : Option (List Span)) n =>
    u.bind fun l => (firstFit pool size l n).map fun a => (a, n) :: l) (some used)).isSome

/-- Must a REFIT write a leaf anew: does the input change a record of it? -/
def leafChanged (input : List InTri) (x : TreeItem) : Bool :=
  x.recs.any fun r => match input[r.prim.toNat]? with
    | some t => if t.excluded then !r.noHit else r != t.record t.zeroArea
    | none => false

/-- The items of a tree in its fixed order that must be written anew where some leaves are: those leaves and every node above one of them. -/
def anew (changed : TreeItem → Bool) : List TreeItem → List TreeItem
  | [] => []
  | x :: r =>
    let below := r.takeWhile fun y => decide (x.level < y.level)
    if changed x || below.any changed then x :: anew changed r else anew changed r

/-- May a command fail with BUILD_NOMEM: does what it must write not fit what no live generation uses? A BUILD writes at most a node and a leaf for each
triangle that it keeps, as the engine divides them; a REFIT the leaves that its input changes and the nodes above them; a REBALANCE at most a
copy of each node, as it rotates them; a COMPACT a copy in one run.
(DESIGN CHOICE: log entry 24.) -/
def noMemAllowed (op pool size : Nat) (input : List InTri) (live : List Span) (cur : List TreeItem) : Bool :=
  let kept := (input.filter fun t => !t.excluded).length
  !packs pool size live (match op with
    | 0 => List.replicate (max 1 kept + kept) 128
    | 1 => (anew (leafChanged input) cur).map TreeItem.bytes
    | 2 => (cur.filter fun x => x.node.isSome).map TreeItem.bytes
    | _ => [(cur.map fun x => alignUp x.bytes 128).foldl (· + ·) 0])

/-! ### The event -/

/-- Why a view of memory stops: a wait in a state, or a failure at an address. -/
inductive RigStop where
  | wait (s : State)
  | deny

/-- The stop-record index of the engine that runs a command (R349). -/
def State.rigIndex (s : State) (cmd : Nat) : Nat := 432 + (((s.rigger[cmd]?).bind (·.engine)).getD 0)

/-- The number that n bytes at an address hold, read for a command; or why not. -/
def State.rigRead (s : State) (cI cmd : Nat) (a n : Nat) : Except RigStop Nat :=
  let asid := (s.ctx cI).asid
  if (upFrom 0 n).any fun i => !canonical (w64 a + w64 i) then .error .deny
  else match s.engineTranslate asid 0 (a % 2 ^ 57) n { read := true } with
    | .ok pas => match s.engineReady cI (s.rigIndex cmd) pas { read := true } (s.pastUnits asid 0 (a % 2 ^ 57) n) a with
      | .ok _ => .ok (s.readNat pas)
      | .error s' => .error (.wait s')
    | .error (_, .deny _) => .error .deny
    | .error (p, .track) => .error (.wait (if s.waits (.rigger cmd) then s else s.requestPage asid (p / 4096) 1 0 (.rigger cmd)))
    | .error (p, .miss) => .error (.wait (if s.waits (.rigger cmd) then s else s.requestXl asid 0 p 0 (.rigger cmd)))

/-- The places of tree bytes in the pool, once all of them can be written, or why not; a byte that cannot be written fails the command as an input fault
does.
(DESIGN CHOICE: log entry 24.) -/
def State.rigPlaces (s : State) (cI cmd : Nat) (tree : List (Nat × Byte)) : Except RigStop (List Nat) := do
  let asid := (s.ctx cI).asid
  let pas ← tree.mapM fun x => match s.engineTranslate asid 0 (x.1 % 2 ^ 57) 1 { write := true } with
    | .ok pas => .ok (pas.headD 0)
    | .error (_, .deny _) => .error .deny
    | .error (p, .track) => .error (.wait (if s.waits (.rigger cmd) then s else s.requestPage asid (p / 4096) 1 0 (.rigger cmd)))
    | .error (p, .miss) => .error (.wait (if s.waits (.rigger cmd) then s else s.requestXl asid 0 p 1 (.rigger cmd)))
  match s.engineReady cI (s.rigIndex cmd) pas { write := true } ((tree.flatMap fun x => s.pastUnits asid 0 (x.1 % 2 ^ 57) 1).dedup) with
  | .ok _ => .ok pas
  | .error s' => .error (.wait s')

/-- A view of memory as it will be once tree bytes stand in it. -/
def overlaid {ε : Type} (tree : List (Nat × Byte)) (view : Nat → Nat → Except ε Nat) (a n : Nat) : Except ε Nat :=
  let new := (upFrom a n).map fun x => (tree.find? fun y => y.1 == x).map (·.2)
  if new.all (·.isSome) then .ok (ofBytes (new.map (·.getD 0)))
  else do
    let v ← view a n
    .ok (ofBytes ((toBytes v n).zip new |>.map fun x => x.2.getD x.1))

/-- The physical addresses of a command's status record. Where it can no longer be written as the command runs the context halts with MACHINE_CHECK_OTHER.
(DESIGN CHOICE: log entry 107.) -/
def State.rigStatus (s : State) (cmd : Nat) (c : RigCmd) : Except State (List Nat) :=
  s.engineAccess c.ctx (432 + c.engine.getD 0) 0 (.rigger cmd) (w64 c.status) 32 { write := true }

def State.updRig (s : State) (cmd : Nat) (f : RigCmd → RigCmd) : State := { s with rigger := updateAt s.rigger cmd f }

/-- Writes a status record's eight words; the command has ended. -/
def State.rigEnd (s : State) (cmd : Nat) (pas : List Nat) (ws : List Word) : State :=
  (s.engineWrite (((s.rigger[cmd]?).map (·.ctx)).getD 0) pas (toBytes (ofWords ws) 32)).updRig cmd fun c => { c with live := false }

/-- A command fails: words 1 to 7 are zero (R335). -/
def State.rigFail (s : State) (cmd : Nat) (pas : List Nat) (err : Nat) : State := s.rigEnd cmd pas [w32 (3 + 256 * err), 0, 0, 0, 0, 0, 0, 0]

/-- The next generation number: 0 is skipped (R315). -/
def nextGen (g : Word) : Word := if g + 1 = 0 then 1 else g + 1

/-- Permission and canonical failures of what a command reads or writes fail it with BUILD_INPUT (R332). -/
def orInput {α : Type} (fail_ : State) (x : Except RigStop α) (go : α → Except RigStop State) : Except RigStop State :=
  match x with
  | .ok v => go v
  | .error .deny => .ok fail_
  | .error (.wait s) => .error (.wait s)

/-- A view to which what may not be read is empty: of a generation that the device has not published, what it can know of the places in use. -/
def softly (view : Nat → Nat → Except RigStop Nat) (a n : Nat) : Except RigStop Nat :=
  match view a n with
  | .error .deny => .ok 0
  | x => x

/-- The stretches of the pool that the generations of an entry use: those that the device has published it knows, others it finds (R315).
(DESIGN CHOICE: log entry 24.) -/
def Entry.liveSpans (e : Entry) (known : List (Word × List (Nat × Nat))) (treeOf : Nat → Except RigStop (List TreeItem)) : Except RigStop (List Span) := do
  let held := (upFrom 0 8).filter fun r => e.root r != 0
  let all ← held.mapM fun r => match known.find? fun x => x.1 == e.gen r with
    | some x => .ok x.2
    | none => (treeOf (e.root r)).map fun items => items.map TreeItem.span
  .ok all.flatten

/-- A command that runs: its failures in the order of R333, the tree it writes, the record and CUR. `tree`, `root`, `memOk` and `stats` (DRIFT,
OVERLAP, and DEPTH of a tree with no leaf) are the engine's.
(DESIGN CHOICE: log entries 24, 101.) -/
def State.rigRun (s : State) (cmd : Nat) (c : RigCmd) (tree : List (Nat × Byte)) (root : DWord) (memOk : Bool) (stats : List Word) :
    Except RigStop State := do
  let cx := s.ctx c.ctx
  let b := c.block
  let op := fieldOf b 4 0 4
  let ntri := fieldOf b 24 0 32
  let lift (x : Except State (List Nat)) : Except RigStop (List Nat) := match x with
    | .ok p => .ok p
    | .error s' => .error (.wait s')
  let st ← lift (s.rigStatus cmd c)
  match cx.handleIndex (w32 (fieldOf b 0 0 32)) with
  | none => .ok (s.rigFail cmd st 4)
  | some i =>
    let pas ← lift (s.engineAccess c.ctx (432 + c.engine.getD 0) 0 (.rigger cmd) (cx.entryAddr i) 256 { read := true })
    let e := s.entryAt pas
    if !e.valid (w32 (fieldOf b 0 0 32)) then .ok (s.rigFail cmd st 4)
    else
      let s0 := s.noteEntry c.ctx i pas e
      let kept := (s0.structOf c.ctx i).getD { ctx := c.ctx, entry := i }
      -- of a generation that the device has not built it may hold any NTRI
      let same := match kept.ntri with
        | some n => ntri == n
        | none => Config.choice (s.freshKey 302) % 2 == 1
      let any := Config.choice (s.freshKey 303) % 6
      if op != 0 && (e.cur = 0 || (op == 1 && !same)) then .ok (s0.rigFail cmd st 5)
      else if c.spoilt && any != 0 then .ok (s0.rigFail cmd st any)
      else
        let view := s0.rigRead c.ctx cmd
        let unread := s0.rigFail cmd st 2
        orInput unread (if op < 2 then
            (upFrom 0 ntri).mapM (readTri view (fieldOf b 8 0 64) (fieldOf b 16 0 64) (fieldOf b 40 0 16) (fieldOf b 28 0 32)) else .ok []) fun input =>
          let fuel := e.size / 48 + 1
          let treeOf (view : Nat → Nat → Except RigStop Nat) (r : Nat) : Except RigStop (List TreeItem) := walkTree view fuel [(r, 1, [])]
          do
          let live ← e.liveSpans kept.spans (treeOf (softly view))
          orInput unread (match e.record e.cur with
              | some r => if op = 0 then .ok [] else treeOf view (e.root r)
              | none => .ok []) fun cur =>
          if !memOk then .ok (if noMemAllowed op e.pool e.size input live cur then s0.rigFail cmd st 1 else s)
          else
            let free := tree.all fun x => decide (e.pool ≤ x.1) && decide (x.1 < e.pool + e.size) && !(live.any fun (y : Span) => y.hits x.1 1)
            if !free then .ok s
            else
              orInput unread (s0.rigPlaces c.ctx cmd tree) fun at_ =>
                orInput unread (treeOf (overlaid tree view) root.toNat) fun items => do
                let s1 := s0.engineWrite c.ctx at_ (tree.map (·.2))
                let excluded := (input.filter InTri.excluded).map (·.prim)
                let allowed := treeSound e.pool e.size items && refKind root.toNat == 1 && !refMalformed root.toNat
                    && (kept.spoilt.contains e.cur || match op with
                  | 0 => buildAllowed input live items
                  | 1 => refitAllowed (input.map fun t => if kept.excluded.contains t.prim then { t with verts := none } else t) cur items
                  | 2 => rebalanceAllowed cur items
                  | _ => compactAllowed e.pool live cur items)
                if !allowed then .ok s
                else
                  match (upFrom 0 8).find? fun r => e.root r == 0 with
                  | none => .ok (s1.rigFail cmd st 3)
                  | some r =>
                    let _ ← lift (s0.engineAccess c.ctx (s.rigIndex cmd) 0 (.rigger cmd) (cx.entryAddr i) 256 { read := true, write := true })
                    let gen := nextGen e.cur
                    let flat := if 1 < op then 0 else
                      (input.filter fun t => !t.excluded && t.zeroArea && !(op == 1 && kept.excluded.contains t.prim)).length
                    let excl := if 1 < op then 0 else if op = 0 then excluded.length else (excluded ++ kept.excluded).dedup.length
                    let sah := treeSah items
                    let base := if op = 0 || op = 2 then some sah else kept.drift
                    let drift := match base with
                      | some v => if v = 0 then 0 else roundedAs (1000 * sah, v) (nth stats 0 0)
                      | none => 0
                    let leaves := items.filter fun x => x.node.isNone
                    let depth := if leaves.isEmpty then (nth stats 2 0).toNat else (leaves.map (·.level)).foldl max 0
                    let ws := [2, gen, w32 flat, w32 excl, w32 sah, w32 depth, w32 leaves.length,
                      w32 (drift * 65536 + roundedAs (treeOverlap items) (nth stats 1 0))]
                    let s2 := s1.rigEnd cmd st ws
                    let s3 := (s2.putEntry c.ctx pas (64 + 16 * r) 16 (gen.toNat + root.toNat * 2 ^ 64)).putEntry c.ctx pas 20 4 gen.toNat
                    let s4 := match e.record e.cur with
                      | some o => if e.pins o = 0 then s3.updStruct c.ctx i fun x => { x with reclaim := insertUp o x.reclaim } else s3
                      | none => s3
                    .ok ((s4.putPrivate c.ctx pas).updStruct c.ctx i fun x => { x with
                      spans := (x.spans.filter fun y => y.1 != gen) ++ [(gen, items.map TreeItem.span)]
                      ntri := if op = 0 then some ntri else x.ntri
                      excluded := if op = 0 then excluded else x.excluded
                      drift := base })

/-- A Rigger engine takes a queued command, the first of its structure, or runs the one it holds. Words 1 to 7 of the status record hold unpredictable
values while it runs (R335).
(DESIGN CHOICE: log entry 24.) -/
def execRiggerCommand (cmd : Nat) (tree : List (Nat × BitVec 8)) (root : BitVec 64) (memOk : Bool) (stats : List (BitVec 32)) (s : State) : Outcome :=
  match s.rigger[cmd]? with
  | none => .next s
  | some c =>
    let key (x : RigCmd) : Nat := fieldOf x.block 0 0 16
    let first := (s.rigger.take cmd).all fun x => !x.live || x.ctx != c.ctx || key x != key c
    let ready := (s.thread c.thread).stores.all fun p => decide (c.seq ≤ p.seq)
    if !c.live || !first || !ready || !s.engineRuns c.ctx 4 || s.waits (.rigger cmd) then .next s
    else match c.engine with
      | none =>
        match (upFrom 0 4).find? fun n => !(s.rigger.any fun x => x.live && x.engine == some n) with
        | none => .next s
        | some n =>
          match s.rigStatus cmd c with
          | .error s' => .next s'
          | .ok pas => .next ((s.engineWrite c.ctx pas (toBytes (ofWords (1 :: (upFrom 1 7).map (Config.freeWord s.moves))) 32)).updRig cmd fun x =>
              { x with engine := some n })
      | some _ =>
        match s.rigRun cmd c tree root memOk stats with
        | .ok s' => .next s'
        | .error (.wait s') => .next s'
        | .error .deny => .next s

/-- A reclaiming generation's reads have completed, which they have when they issue (log entry 9): its record is cleared (R330). Of the four Rigger engines
it is engine 0 whose stop record holds an address that fails (R401).
(DEDUCED: log entries 9, 82; DESIGN CHOICE: log entry 107.) -/
def execReclamation (ctx entry record : Nat) (s : State) : Outcome :=
  match s.structOf ctx entry with
  | none => .next s
  | some x =>
    if !x.reclaim.contains record || !s.engineRuns ctx 4 || s.waits .engine then .next s
    else match s.engineAccess ctx 432 0 .engine ((s.ctx ctx).entryAddr entry) 256 { read := true, write := true } with
      | .error s' => .next s'
      | .ok pas =>
        let gen := (s.entryAt pas).gen record
        .next (((s.putEntry ctx pas (64 + 16 * record) 16 0).putPrivate ctx pas).updStruct ctx entry fun y => { y with
          reclaim := y.reclaim.filter (· != record), spoilt := y.spoilt.filter (· != gen), spans := y.spans.filter (·.1 != gen) })

/-- Bytes of the pool of a structure that is unpredictable take unpredictable values (R314).
(DESIGN CHOICE: log entry 101.) -/
def State.scramble (s : State) (ctx entry addr n : Nat) : State :=
  match s.structOf ctx entry with
  | none => s
  | some x =>
    if x.spoilt.isEmpty || decide (addr < x.pool) || decide (x.pool + x.size < addr + n) || decide (4096 < n) then s
    else match s.engineTranslate (s.ctx ctx).asid 0 (addr % 2 ^ 57) n {} with
      | .ok pas => if s.allWritable pas then (s.writePhys pas (pas.map (Config.freshByte (s.freshKey 305))) { ctx := ctx }).wroteBytes pas else s
      | .error _ => s

end Sys2Proof.Machine
end

