-- ==== Sys2Proof/Machine/Events.lean ====
section
/-! DEFINITION. Trap entry, halts and stop records, contexts, page responses, and the expiry of waits (15_system.md R339 to R350; 08_memory.md
R186, R189; 06_control.md R132, R144). -/

namespace Sys2Proof.Machine

/-! ### Trap entry and expiries -/

/-- A trapping thread whose obligations have completed enters the handler, unless its context halts in the same ac (R343, R347); where an update of the
descriptor has meanwhile taken the handler away, it halts the context (R340). -/
def execTrapEntry (thread : Nat) (s : State) : Outcome :=
  match s.whoOf thread with
  | none => .next s
  | some w =>
    match w.t.status with
    | .trapping c p a i =>
      let open_ := match w.c.halt with
        | some h => decide (h < s.clock) && s.ctxRuns w.cI
        | none => true
      .next (if !w.t.quiet || !open_ || w.t.inHandler || !w.e.occupies then s
        else if w.c.handler = 0 then s.trapHalts w c p a
        else s.setThread thread (w.t.enterHandler s.clock w.c.handler c p a i))
    | _ => .next s

/-- The scratch address that a thread parked at a granule gave (R175). -/
def Who.granuleAddr (w : Who) (granule : Nat) : Nat :=
  let k := (w.e.troupes.findIdx? (· == granule / 2 ^ 26)).getD 0
  (k ^^^ w.tr.k) * 2 ^ 30 + granule % 2 ^ 26 * 16

/-- A thread parked at LDFE for 2^24 ac traps. -/
def execFeWaitExpired (thread : Nat) (s : State) : Outcome :=
  match s.whoOf thread with
  | none => .next s
  | some w =>
    match w.t.status with
    | .parked (.fullEmpty granule) since =>
      .next (if 2 ^ 24 ≤ (s.clock - since).toNat then s.takeTrap thread .feWaitExpired w.t.pc (w64 (w.granuleAddr granule)) 0 else s)
    | _ => .next s

def execSleepExpiry (thread : Nat) (s : State) : Outcome :=
  .next (s.updThread thread fun t => match t.status with
    | .sleeping wake => if wake ≤ s.clock then { t with status := .ready } else t
    | _ => t)

def execIssueGapExpiry (thread : Nat) (s : State) : Outcome :=
  .next (s.updThread thread fun t => match t.gapUntil with
    | some n => if n ≤ s.clock then { t with gapUntil := none } else t
    | none => t)

/-- Does a thread of a regroup set make a thread at the point wait (R132)?
(DEDUCED: log entry 43.) -/
def State.awaited (s : State) (k : Nat) (pc : DWord) (set : List Nat) : Bool :=
  set.any fun j =>
    let t := s.thread j
    j != k && t.status != .exited && !(match t.status with
      | .parked _ _ | .arrived _ _ | .latched _ _ | .barred _ | .stalled _ _ => true
      | _ => false) && t.pc != pc && (s.ens t.ens).phase == .resident && match t.regroup with
        | some (pc', _, _) => pc' == pc
        | none => false

/-- Does a regroup point hold its thread: found there less than 64 ac ago, with another thread of the set awaited (R132)?
(DEDUCED: log entry 43.) -/
def State.regroupHolds (s : State) (k : Nat) (t : Thread) : Bool :=
  match t.regroup with
  | some (pc, set, since) => t.pc == pc && s.awaited k pc set && match since with
    | some n => decide ((s.clock - n).toNat < 64)
    | none => true
  | none => false

/-- A hold at a regroup point ends, after 64 ac or because no other thread of the set is awaited; the point is cleared (R132).
(DEDUCED: log entry 43.) -/
def execRegroupHoldExpiry (thread : Nat) (s : State) : Outcome :=
  .next (s.updThread thread fun t => match t.regroup with
    | some (pc, _, _) => if t.pc = pc && !s.regroupHolds thread t then { t with regroup := none } else t
    | none => t)

/-! ### Requests to halt -/

/-- The driver's request, a debug agent's, and an uncorrectable error of an on-core memory (R341, R194). -/
def execHaltRequest (ctx : Nat) (s : State) : Outcome := .next (s.raiseHalt ctx { index := ringmaster, cause := .haltRequest })
def execDebugHalt (ctx : Nat) (s : State) : Outcome := .next (s.raiseHalt ctx { index := ringmaster, cause := .debugHalt })

/-- Every context with work on a core halts, one of the core's partitions having found the failure.
(DESIGN CHOICE: log entry 90.) -/
def State.haltCore (s : State) (core : Nat) (cause : Cause) : State :=
  let cs := ((s.ensembles.filter fun e => e.occupies && e.cores.contains core).map (·.ctx)).dedup
  cs.foldl (fun (s' : State) c => s'.raiseHalt c { index := 4 * core + Config.choice s.moves % 4, cause := cause }) s

/-- (DEDUCED: log entry 89.) -/
def execSramUncorrectable (core : Nat) (s : State) : Outcome := .next (s.haltCore core .sramUncorrectable)

/-! ### Stop records and halt images (R347 to R350) -/

/-- A stop record but for what every record shares. -/
structure StopRec where
  index : Nat
  state : Nat := 0
  mapped : Bool := false
  pc    : DWord := 0
  next  : Nat := 0
  seq   : Word := 0
  launch : Word := 0
  ens   : Word := 0
  info  : Nat := 0
  deriving Repr

/-- KIND of an engine (R349). -/
def engineKind (index : Nat) : Nat :=
  if index < 384 then 1 else if index < 408 then 2 else if index < 432 then 3 else if index < 436 then 4 else if index = 436 then 5
  else if index = 437 then 6 else 7

/-- The launch number and the ensemble index of an ensemble. -/
def State.workOf (s : State) (eI : Nat) : Word × Word := ((s.launch (s.ens eI).launch).number, w32 (s.ens eI).index)

/-- The threads of a context that a partition holds. -/
def State.heldBy (s : State) (ctx index : Nat) : List Nat :=
  ((s.ensembles.filter fun e => e.occupies && e.ctx == ctx).flatMap s.threadsOf).filter fun k =>
    4 * (s.troupe (s.thread k).troupe).core + (s.thread k).part == index

/-- Is a thread in its handler; parked? -/
def Thread.isParked (t : Thread) : Bool :=
  match t.status with
  | .parked _ _ | .arrived _ _ | .latched _ _ | .barred _ | .stalled _ _ => true
  | _ => false

/-- A partition's record.
(DEDUCED: log entry 45.) -/
def State.partRecord (s : State) (ctx index : Nat) (raiser : Option Raiser) : StopRec :=
  let ks := s.heldBy ctx index
  let last := ((s.core (index / 4)).lastPc.find? fun x => x.1 == index % 4 && ks.contains x.2.2)
  let k := match raiser.bind (·.thread), last with
    | some k, _ => k
    | none, some x => x.2.2
    | none, none => ks.headD 0
  let t := s.thread k
  let mapped := ((s.core (index / 4)).configOf k).isSome || raiser.any (·.mapped)
  let work := s.workOf t.ens
  { index := index
    state := (if ks.any fun k => (s.thread k).inHandler then 1 else 0) + (if ks.any fun k => (s.thread k).isParked then 2 else 0)
      + (if ks.any fun k => (s.ens (s.thread k).ens).grid.on then 4 else 0)
    mapped := mapped
    pc := if mapped then t.pc else match raiser, last with
      | some r, _ => r.pc
      | none, some x => x.2.1
      | none, none => t.pc
    launch := work.1, ens := work.2
    info := t.tid + (s.troupe t.troupe).k * 1024 + ((raiser.map fun r => slice r.info.toNat 12 1).getD 0) * 4096 }

/-- The records of the engines that hold work of a context, the raisers' among them.
(DEDUCED: log entries 64, 65.) -/
def State.stopRecords (s : State) (ctx : Nat) : List StopRec :=
  let c := s.ctx ctx
  let raiserAt (i : Nat) : Option Raiser := c.raisers.find? fun r => r.index == i
  let mine := (upFrom 0 s.ensembles.length).filter fun i => (s.ens i).occupies && (s.ens i).ctx == ctx
  let parts := ((upFrom 0 384).filter fun i => !(s.heldBy ctx i).isEmpty || (raiserAt i).isSome).map fun i => s.partRecord ctx i (raiserAt i)
  let copies := ((upFrom 0 24).filterMap fun gI => (s.copies.find? fun x => x.live && (s.troupe x.troupe).core / 4 == gI
      && mine.contains (s.troupe x.troupe).ens).map fun x =>
    let work := s.workOf (s.troupe x.troupe).ens
    ({ index := 384 + gI, state := 1, launch := work.1, ens := work.2 } : StopRec))
  let grids := (mine.filter fun i => pkGrid (s.ens i).packet && (!(s.ens i).grid.queue.isEmpty || (s.ens i).grid.on)).map fun i =>
    let g := (s.ens i).grid
    let work := s.workOf i
    ({ index := 408 + (s.ens i).group, state := if g.queue.isEmpty then 0 else if g.drained then 2 else 1
       next := (g.queue.head?.map (·.next)).getD 0, seq := (g.queue.head?.map (·.seq)).getD 0, launch := work.1, ens := work.2 } : StopRec)
  let riggers := s.rigger.filterMap fun r => if r.live && r.ctx == ctx then r.engine.map fun n =>
    let work := s.workOf (s.thread r.thread).ens
    ({ index := 432 + n, state := 1, launch := work.1, ens := work.2 } : StopRec) else none
  let passes := s.passes.filter fun p => p.live && p.ctx == ctx
  let busyBins := passes.any fun p => p.rescan || !s.geometryDone p.launch
  let launchOf (l : List Pass) : Word := (l.head?.map fun p => (s.launch p.launch).number).getD 0
  let bins := if busyBins || (raiserAt binIndex).isSome then [({ index := binIndex, state := if busyBins then 1 else 0, launch := launchOf passes } : StopRec)]
    else []
  let resolvers := (upFrom 0 6).filterMap fun i =>
    let busy := passes.filter fun p => p.recs.any fun r => r.tiles.any fun t => t % 6 == i
    if busy.isEmpty then none else some ({ index := 438 + i, state := 1, launch := launchOf busy } : StopRec)
  let standing := s.ensembles.any fun e => e.ctx == ctx && e.phase == .saved
  let busyRing := !mine.isEmpty || s.launches.any fun l => l.ctx == ctx && l.started && !l.done
  let ring : StopRec := { index := ringmaster, state := if busyRing then 1 else 0
                          info := (if c.imageLost then 1 else 0) + (if standing then 2 else 0) }
  let others := (c.raisers.filter fun r => decide (384 ≤ r.index) && r.index != ringmaster && r.index != binIndex
      && !((copies ++ grids ++ riggers ++ resolvers).any fun x => x.index == r.index)).map fun r => ({ index := r.index } : StopRec)
  parts ++ copies ++ grids ++ riggers ++ [ring] ++ bins ++ resolvers ++ others

/-- The 64 bytes of a record. TIME is an instant within the skid, the engine's own.
(DEDUCED: log entry 28.) -/
def State.stopBytes (s : State) (c : Ctx) (r : StopRec) : List Byte :=
  let raiser := c.raisers.find? fun x => x.index == r.index
  let first := (raiser.map (·.first)).getD false
  let h := (c.halt.getD s.clock).toNat
  let span := min 128 (s.clock.toNat - h)
  let time := h + Config.choice (s.freshKey (1024 + r.index)) % (span + 1)
  let cause := (raiser.map fun x => x.cause.code).getD Cause.siblingHalt.code
  toBytes (r.index + engineKind r.index * 2 ^ 24) 4
    ++ toBytes (cause + (if r.mapped then 64 else 0) + (if first then 128 else 0) + r.state * 256) 4
    ++ toBytes r.pc.toNat 8 ++ toBytes ((raiser.map fun x => x.addr.toNat).getD 0) 8 ++ toBytes r.next 4 ++ toBytes r.seq.toNat 4
    ++ toBytes time 8 ++ toBytes r.launch.toNat 4 ++ toBytes r.ens.toNat 4 ++ toBytes r.info 8 ++ toBytes 0 8

/-- Where n bytes at an address of a halting context are written, at hand; none where a page may not be written; else the state that has asked for what
is lacking.
(DEDUCED: log entry 59.) -/
def State.haltPlace (s : State) (ctx : Nat) (a : DWord) (n : Nat) : Except State (Option (List Nat)) :=
  let asid := (s.ctx ctx).asid
  match s.engineTranslate asid 0 (va57 a) n { write := true } with
  | .error (p, .miss) => .error (if s.waits .engine then s else s.requestXl asid 0 p 1 .engine)
  | .error (p, .track) => .error (if s.waits .engine then s else s.requestPage asid (p / 4096) 1 0 .engine)
  | .error (_, .deny _) => .ok none
  | .ok pas =>
    let past := s.pastUnits asid 0 (va57 a) n
    if s.engineMay pas past { write := true } { ctx := ctx } then .ok (some pas) else .error (s.engineAsk pas past { write := true } { ctx := ctx })

/-- The records, at STOP + 64 × index, with their places. A page that may not be written gets none.
(DEDUCED: log entry 59.) -/
def State.stopPlaces (s : State) (ctx : Nat) (rs : List StopRec) : Except State (List (StopRec × List Nat)) :=
  (rs.mapM fun r => (s.haltPlace ctx (w64 ((s.ctx ctx).field 24 0 64 + 64 * r.index)) 64).map fun p => p.map fun pas => (r, pas)).map fun l => l.filterMap id
def State.writeStops (s : State) (ctx : Nat) (rs : List (StopRec × List Nat)) : State :=
  rs.foldl (fun s x => s.engineWrite ctx x.2 (s.stopBytes (s.ctx ctx) x.1)) s

/-- The pages of the context header and of a halt image; none where one may not be written, so that the image is lost.
(DESIGN CHOICE: log entry 31.) -/
def State.imagePlace (s : State) (ctx eI slot : Nat) : Except State (Option (List Nat)) := do
  let header ← s.haltPlace ctx (w64 ((s.ctx ctx).field 8 0 64)) 4096
  let image ← s.haltPlace ctx (s.imageAddr ctx slot) (s.imageBytes eI)
  .ok (header.bind fun h => image.map fun i => h ++ i)

/-- An image is lost: the Ringmaster's own cause is then MACHINE_CHECK_OTHER, where it has none, and its record says so (R350). -/
def Ctx.loseImage (c : Ctx) : Ctx :=
  { c with imageLost := true
           raisers := if c.raisers.any fun r => r.index == ringmaster then c.raisers
             else c.raisers ++ [{ index := ringmaster, cause := .machineCheckOther, first := false }] }

/-- The halt image of one ensemble, its places judged in the state `s0` in which the engines have stopped; for want of a slot, or of a page that may be
written, it is lost.
(DESIGN CHOICE: log entry 31.) -/
def State.haltImage (s s0 : State) (ctx eI : Nat) : Except State State := do
  let place ← match s.imageSlot eI with
    | some slot => (s0.imagePlace ctx eI slot).map fun p => p.map fun pas => (slot, pas)
    | none => .ok none
  .ok (match place with
    | some (slot, pas) => ((s.putFree ctx pas).updEns eI fun e => { e with phase := .saved, image := some slot, imageHalt := true }).updCtx ctx fun c =>
        { c with images := c.images ++ [slot] }
    | none => (s.updEns eI fun e => { e with phase := .saved, imageHalt := true }).updCtx ctx Ctx.loseImage)

/-- The halt images of a context's resident ensembles.
(DESIGN CHOICE: log entry 31.) -/
def State.haltImages (s : State) (ctx : Nat) : Except State State :=
  ((upFrom 0 s.ensembles.length).filter fun i => (s.ens i).occupies && (s.ens i).ctx == ctx).foldlM (fun (s1 : State) i => s1.haltImage s ctx i) s

def Copy.stop (x : Copy) : Copy := { x with live := false }
def RigCmd.stop (x : RigCmd) : RigCmd := { x with live := false }
def Pass.stop (x : Pass) : Pass := { x with live := false }
def UQueue.shut (x : UQueue) : UQueue := { x with disabled := true }

/-- A halting context's threads leave the configurations they are inside (R167, R173). -/
def Core.haltInside (c : Core) (ctx : Nat) : Core :=
  let mine := c.configs.filter (·.ctx == ctx)
  { c with
    configs := c.configs.map fun m => if m.ctx == ctx then { m with inside := [] } else m
    counters := { c.counters with exitPreempt := c.counters.exitPreempt + w32 ((mine.map (·.inside.length)).foldl (· + ·) 0) } }

/-- The driver is told of a halt, and the Dailies hold it, once what was written for it past the caches has reached its homes (R347, R379). -/
def State.noteHalt (s : State) (ctx : Nat) : State :=
  let c := s.ctx ctx
  if !c.haltDone || c.noted || s.engineOwes ctx then s
  else ((s.updCtx ctx fun c => { c with noted := true }).say (.haltNote c.asid)).daily 7
    ((c.raisers.head?.map fun r => r.cause.code).getD 0 + c.asid.toNat * 2 ^ 16) 32

/-- The mesh ensembles of a context let go of their ring slots (R292). -/
def State.leaveRings (s : State) (ctx : Nat) : State :=
  ((upFrom 0 s.ensembles.length).filter fun i => (s.ens i).ctx == ctx).foldl State.leaveRing s

/-- The engines of a context have stopped: images and records are written, its commands, copies and passes end, its queues are disabled, and the
driver is told.
(DEDUCED: log entry 28.) -/
def execHaltLine (ctx : Nat) (s : State) : Outcome :=
  match s.contexts[ctx]? with
  | none => .next s
  | some c =>
    if c.halt.isNone then .next s
    else if c.haltDone then .next (s.noteHalt ctx)
    else
      -- the images and the records are judged in the state in which the engines have stopped, and all are written together
      match (do
        let s1 ← s.haltImages ctx
        let recs ← s.stopPlaces ctx ((s.updCtx ctx fun _ => s1.ctx ctx).stopRecords ctx)
        Except.ok (s1.writeStops ctx recs)) with
      | .error s' => .next s'
      | .ok s1 =>
        let s2 := (s1.leaveRings ctx).updCtx ctx fun c => { c with haltDone := true, preempt := [] }
        let s3 := { s2 with
          cores := s2.cores.map (fun (x : Core) => x.haltInside ctx)
          copies := s2.copies.map (fun (x : Copy) => if (s2.ens (s2.troupe x.troupe).ens).ctx = ctx then x.stop else x)
          rigger := s2.rigger.map (fun (x : RigCmd) => if x.ctx = ctx then x.stop else x)
          passes := s2.passes.map (fun (x : Pass) => if x.ctx = ctx then x.stop else x)
          queues := s2.queues.map (fun (x : UQueue) => if x.ctx = ctx then x.shut else x) }
        .next (s3.noteHalt ctx)

/-! ### Contexts (R339) -/

/-- A read of the descriptor at an address in memory, for context ctx; or the state that has asked for it.
(DESIGN CHOICE: log entry 103.) -/
def State.readContext (s : State) (ctx addr : Nat) : Except State (BitVec 2048) :=
  (s.engineReady ctx ringmaster (upFrom addr 256) { read := true }).map fun pas => BitVec.ofNat 2048 (s.readNat pas)

/-- The driver creates a context with an address space of its own and a descriptor in memory, aligned to 256; a bad one makes the creation fail. FULL of its
MAPCTL is RO and starts clear, whatever the descriptor says.
(DEDUCED: log entry 63; DESIGN CHOICE: log entries 103, 109.) -/
def execContextCreation (asid : BitVec 16) (desc : BitVec 64) (s : State) : Outcome :=
  let at_ := desc.toNat
  if at_ % 256 != 0 || decide (2 ^ 52 ≤ at_) || s.contexts.any fun c => c.live && c.asid == asid then .next s
  else match s.readContext s.contexts.length at_ with
    | .error s' => .next s'
    | .ok d =>
      if descriptorOk d then
        .next { s with contexts := s.contexts ++ [({ asid := asid, descAt := at_, desc := d, mapctl := w32 (putSlice (fieldOf d 80 0 32) 2 1 0) } : Ctx)] }
      else .next s

/-- A posted update of a live context: the descriptor is read from the address posted and taken; a bad one makes the update fail.
(DEDUCED: log entry 63; DESIGN CHOICE: log entry 103.) -/
def execDescriptorUpdate (ctx : Nat) (desc : BitVec 64) (s : State) : Outcome :=
  let at_ := desc.toNat
  if at_ % 256 != 0 || decide (2 ^ 52 ≤ at_) || !(s.contexts[ctx]?.any fun c => c.live) then .next s
  else match s.readContext ctx at_ with
    | .error s' => .next s'
    | .ok d =>
      if descriptorOk d then .next ((s.takeDescriptor ctx d).updCtx ctx fun c => { c with descAt := at_ })
      else .next s

def UQueue.emptied (q : UQueue) : UQueue := { q with slot := none, disabled := true, pending := [], vacated := [], extra := [] }

/-- The driver destroys a context with nothing resident: its saved ensembles, queues and page requests go with it. -/
def execContextDestruction (ctx : Nat) (s : State) : Outcome :=
  if s.ensembles.any fun e => e.ctx == ctx && e.occupies then .next s
  else
    let s1 := (s.leaveRings ctx).updCtx ctx fun c => { c with live := false, images := [] }
    .next { s1 with
      ensembles := s1.ensembles.map (fun (e : Ensemble) => if e.ctx = ctx then { e with phase := .retired, image := none } else e)
      queues := s1.queues.map (fun (q : UQueue) => if q.ctx = ctx then q.emptied else q)
      structs := s1.structs.filter fun x => x.ctx != ctx }

/-! ### Page responses (R189, R297, R367) -/

/-- The request has been resolved: whoever waits on it retries, a page that was tracked is translated anew, and the binning unit of a pass reads
its chunks again; or the contexts of the address space halt.
(DEDUCED: log entry 70.) -/
def execPgrsp (tag : Nat) (halt : Bool) (s : State) : Outcome :=
  match s.pgreqs.find? (·.1.tag == tag) with
  | none => .next s.unexpected
  | some r =>
    if !s.answerable tag then .next s else
    let s1 := { s with pgreqs := s.pgreqs.filter fun x => x.1.tag != tag }
    if halt then .next (s1.haltAsid r.1.asid .haltRequest)
    else
      let s2 := if r.1.aux = 1 then
          { s1 with tlb := s1.tlb.filter fun e => e.asid != r.1.asid || decide (r.1.page * 4096 < e.base) || decide (e.base + e.size ≤ r.1.page * 4096) }
        else s1
      .next (if r.1.aux = 2 then { s2 with passes := s2.passes.map (fun (p : Pass) =>
          if p.live && p.addr == r.1.pass && (s2.ctx p.ctx).asid == r.1.asid then { p with rescan := true } else p) } else s2)

end Sys2Proof.Machine
end

