-- ==== Sys2Proof/Machine/Flit.lean ====
section
/-! DEFINITION. The link controller: how messages stand in slots, what a flit brings, sending with credits, and Present (16_link.md R360 to R363, R367,
R369). -/

namespace Sys2Proof.Machine

/-! ### Slots (R361, R362, R367) -/

/-- A header slot. `addr` is bits 127:82: a unit's number, or twice that of a 4 KiB page. -/
def headerSlot (cls opc aux asid tag addr : Nat) : BitVec 128 :=
  BitVec.ofNat 128 (cls % 8 + opc % 32 * 2 ^ 3 + aux % 2 ^ 16 * 2 ^ 16 + asid % 2 ^ 16 * 2 ^ 32 + tag % 2 ^ 16 * 2 ^ 48 + addr % 2 ^ 46 * 2 ^ 82)

/-- The four data slots of a unit, its lowest bytes first; R361 does not order them.
(DESIGN CHOICE: log entry 110.) -/
def dataSlots (u : Unit64) : List (BitVec 128) := (upFrom 0 4).map fun i => BitVec.ofNat 128 (u.toNat / 2 ^ (128 * i))
def fromSlots (ds : List (BitVec 128)) : Unit64 := BitVec.ofNat 512 (ds.foldr (fun d n => d.toNat + n * 2 ^ 128) 0)

/-- The class of a message; none: it does not go in a flit. -/
def OutMsg.cls (m : OutMsg) : Option Nat :=
  match m with
  | .req .. => some 0
  | .snp .. => some 1
  | .rsp .. | .status .. => some 2
  | .dat .. => some 3
  | .xlReq .. | .xlInvCmp .. | .pgReq .. | .notify .. | .haltNote .. | .present .. => some 4
  | .interrupt .. => none

/-- The TAG of a message; none: it is of no transaction of the device's, or answers a store of the host whose TAG is the host's. -/
def OutMsg.tag (m : OutMsg) : Option Nat :=
  match m with
  | .req _ t _ _ _ _ | .snp _ t _ _ _ | .rsp _ t _ _ | .dat _ t _ _ _ | .xlReq t _ _ _ | .xlInvCmp t | .pgReq t _ _ _ _ | .present t _ _ => some t
  | .notify .. | .haltNote .. | .status .. | .interrupt .. => none

/-- The slots of a message. Where a MGT message's data stand in their slot, and the TAG of one that is of no transaction, R367 does not give; the TAG and
the address of the store that a submission's status answers are the host's.
(DESIGN CHOICE: log entry 110.) -/
def OutMsg.slots (m : OutMsg) : List (BitVec 128) :=
  match m with
  | .req opc t unit data en aux =>
    headerSlot 0 opc aux 0 t unit :: ((if decide (opc = 3) || decide (5 ≤ opc) then dataSlots data else [])
      ++ (if opc = 5 || opc = 6 then [BitVec.ofNat 128 en.toNat] else []))
  | .snp opc t unit _ requester => [headerSlot 1 opc (if opc = 0 then 0 else requester) 0 t unit]
  | .rsp opc t unit aux => [headerSlot 2 opc aux 0 t unit]
  | .status page code => [headerSlot 2 0 code.toNat 0 (Config.freeWord 0 (2 ^ 20 + 2 * page)).toNat (Config.freeWord 0 (2 ^ 20 + 2 * page + 1)).toNat]
  | .dat opc t unit _ data => headerSlot 3 opc 0 0 t unit :: dataSlots data
  | .xlReq t asid page kind => [headerSlot 4 0 kind asid.toNat t (2 * page)]
  | .xlInvCmp t => [headerSlot 4 3 0 0 t 0]
  | .pgReq t asid page aux pass =>
    if aux = 2 then [headerSlot 4 4 2 asid.toNat t 0, BitVec.ofNat 128 pass.toNat] else [headerSlot 4 4 aux asid.toNat t (2 * page)]
  | .notify asid nvec => [headerSlot 4 6 nvec.toNat asid.toNat 0 0]
  | .haltNote asid => [headerSlot 4 7 0 asid.toNat 0 0]
  | .present t surface plane => [headerSlot 4 8 0 0 t 0, BitVec.ofNat 128 (surface.toNat + plane * 2 ^ 64)]
  | .interrupt _ => []

/-- What the link has carried, slot by slot. -/
def Link.wire (l : Link) : List (BitVec 128) := l.sent.flatMap OutMsg.slots

/-! ### Sending (R362) -/

/-- The link controller sends a message that has been handed to it: over the link while it is up, behind earlier messages of its class and TAG, and where its
class waits for credits for one of them. An interrupt goes by the sideband.
(DESIGN CHOICE: log entry 26.) -/
def State.transmit (s : State) (i : Nat) : State :=
  match s.link.out[i]? with
  | none => s
  | some m =>
    let behind := (s.link.out.take i).any fun x => x.cls == m.cls && x.tag == m.tag && m.tag.isSome
    let paid := match m.cls with
      | none | some 2 | some 3 => true
      | some c => nth s.link.credits c 0 != 0
    if (m.cls.isSome && !s.linkUp) || behind || !paid then s
    else { s with link := { s.link with
      out := s.link.out.eraseIdx i
      sent := s.link.sent ++ [m]
      credits := match m.cls with
        | none | some 2 | some 3 => s.link.credits
        | some c => updateAt s.link.credits c (· - 1) } }

/-- The host die's end gives credits of a class.
(DESIGN CHOICE: log entry 26.) -/
def State.credit (s : State) (cls n : Nat) : State :=
  if s.linkUp then { s with link := { s.link with credits := updateAt s.link.credits cls (· + n) } } else s

/-! ### Receiving (R360 to R363) -/

def hdCls (h : Nat) : Nat := slice h 0 3
def hdOpc (h : Nat) : Nat := slice h 3 5
def hdAux (h : Nat) : Nat := slice h 16 16
def hdAsid (h : Nat) : Nat := slice h 32 16
def hdTag (h : Nat) : Nat := slice h 48 16
def hdAddr (h : Nat) : Nat := slice h 82 46

/-- Is a header of a defined class and opcode, with its reserved fields, and ASID where it is no MGT message's, zero?
(DEDUCED: log entry 110.) -/
def headerDefined (h : Nat) : Bool :=
  let used := match hdCls h, hdOpc h with
    | 0, 3 | 0, 7 => 4
    | 1, 1 | 1, 2 => 16
    | 2, 0 => 2
    | 2, 1 => 1
    | 2, 3 => 3
    | 4, _ => 16
    | _, _ => 0
  let top := match hdCls h with
    | 0 => 8 | 1 => 3 | 2 => 5 | 3 => 4 | 4 => 10 | _ => 0
  decide (hdOpc h < top) && slice h 64 18 == 0 && slice h 8 8 == 0 && decide (hdAux h < 2 ^ used) && (hdCls h == 4 || hdAsid h == 0)

/-- The slots of the message that a header begins. -/
def slotCount (h : Nat) : Nat :=
  match hdCls h, hdOpc h with
  | 0, 3 | 0, 7 => 5
  | 0, 5 | 0, 6 => 6
  | 3, _ => 5
  | 4, 1 => if bitAt (hdAux h) 0 then 1 else 2
  | 4, 2 | 4, 8 => 2
  | 4, 4 => if hdAux h % 4 = 2 then 2 else 1
  | _, _ => 1

/-- A completion of the host die answers a request that went to it. -/
def State.farCmp (s : State) (tag : Nat) : Outcome :=
  match s.reqOf tag with
  | some r => if hostHomed (r.unit * 64) then execCmp tag s else .next s.unexpected
  | none => .next s.unexpected

/-- A message that has come whole: its header and its data slots. The requests and responses of the host die come as its agent 1's, since no header
names their sender; a MGT message that only the device sends is dropped.
(DESIGN CHOICE: log entry 110.) -/
def State.deliver (s : State) (h : Nat) (ds : List (BitVec 128)) : Outcome :=
  let t := hdTag h
  let unit := hdAddr h
  let data := fromSlots (ds.take 4)
  let en : BitVec 64 := BitVec.ofNat 64 ((nth ds 4 0).toNat)
  let d := (nth ds 0 0).toNat
  match hdCls h, hdOpc h with
  | 0, 0 => execRds 1 t unit s
  | 0, 1 => execRdx 1 t unit s
  | 0, 2 => execUpg 1 t unit s
  | 0, 3 => execWbm 1 t unit (BitVec.ofNat 4 (hdAux h)) data s
  | 0, 4 => execRdu 1 t unit s
  | 0, 5 => execWru 1 t unit en data s
  | 0, 6 => execWrc 1 t unit en data s
  | 0, 7 => execAtoms 1 t (unit * 64 + slice data.toNat 256 6) (BitVec.ofNat 4 (hdAux h)) (BitVec.ofNat 128 (data.toNat / 2 ^ 128))
      (BitVec.ofNat 128 data.toNat) s
  | 1, n =>
    if !hostHomed (unit * 64) then .next s
    else match n with
      | 0 => execSnpinv unit t s
      | 1 => execSnpfwds unit t (hdAux h) s
      | _ => execSnpfwdx unit t (hdAux h) s
  | 2, 0 => s.farCmp t
  | 2, 1 => execRspi ⟨1, t⟩ unit (bitAt (hdAux h) 0) s
  | 2, 2 => execRsps ⟨1, t⟩ unit s
  | 2, 3 => execRspfwd ⟨1, t⟩ unit (BitVec.ofNat 3 (hdAux h)) s
  | 2, 4 => execGntack ⟨1, t⟩ unit s
  | 3, 0 => execDats t data s
  | 3, 1 => execDate t data s
  | 3, 2 => execDatm t data s
  | 3, 3 => execDatu t data s
  | 4, 1 => execXlrsp t (!bitAt (hdAux h) 0) (slice d 0 40 * 4096) (BitVec.ofNat 3 (slice d 40 3)) (BitVec.ofNat 3 (slice d 43 3))
      (BitVec.ofNat 2 (slice d 46 2)) (bitAt d 48) s
  | 4, 2 => execXlinv t (BitVec.ofNat 16 (hdAsid h)) (slice d 0 64) (slice d 64 64) s
  | 4, 5 => execPgrsp t (bitAt (hdAux h) 0) s
  | 4, 9 => execPresentcmp t s
  | _, _ => .next s

/-- The messages that have come whole are taken in their order, at most n of them; an undefined header halts every resident context, and what follows it is
lost (R362). -/
def State.deliverAll (s : State) : Nat → Outcome
  | 0 => .next s
  | n + 1 =>
    match s.link.rx with
    | [] => .next s
    | h :: r =>
      let rest (l : List (BitVec 128)) : State := { s with link := { s.link with rx := l } }
      if !headerDefined h.toNat then .next (rest []).linkFailed
      else if r.length + 1 < slotCount h.toNat then .next s
      else match (rest (r.drop (slotCount h.toNat - 1))).deliver h.toNat (r.take (slotCount h.toNat - 1)) with
        | .next s' => s'.deliverAll n
        | o => o

/-- A flit brings up to 15 slots, while the link is up. A CRC error is replayed, which changes nothing here; one that the adapter cannot recover halts every
resident context, goes into the Dailies, and the link retrains.
(DEDUCED: log entry 89.) -/
def execFlit (crcOk recovered : Bool) (slots : List (BitVec 128)) (s : State) : Outcome :=
  if !s.linkUp then .next s
  else if !crcOk then
    .next (if recovered then s
      else let s1 := s.linkFailed.daily 8 0
           { s1 with link := { s1.link with training := true, trainSince := s.fclock, rx := [] } })
  else { s with link := { s.link with rx := s.link.rx ++ slots.take 15 } }.deliverAll 20

/-! ### Present (R369) -/

/-- Does a surface hold some of n bytes at a virtual address? -/
def surfaceMeets (f : Surface) (a n : Nat) : Bool := decide (a < f.addr.toNat % 2 ^ 57 + f.size) && decide (f.addr.toNat % 2 ^ 57 < a + n)

/-- Is a write of a context to a surface still to be performed: a store of a thread, a copy, a GTST, or what an engine has sent past the caches? -/
def State.surfaceBusy (s : State) (ctx : Nat) (f : Surface) : Bool :=
  (s.threads.any fun t => (s.ens t.ens).ctx == ctx && t.stores.any fun p => p.locs.any fun l => l.scratch.isNone && surfaceMeets f l.va 1)
  || (s.copies.any fun c => c.live && c.kind == .st && (s.copyFor c).ctx == ctx && (c.addrs (c.todo ++ c.sent.map (·.1))).any fun a => surfaceMeets f (a % 2 ^ 57) 1)
  || (s.ensembles.any fun e => e.ctx == ctx && e.grid.queue.any fun op => op.kind == .gtst && op.f 4 8 2 == 2 && (upFrom 0 op.m).any fun i =>
      surfaceMeets f ((op.f 16 0 64 + i * op.f 8 0 32) % 2 ^ 57) (op.n * moveBytes (op.f 4 0 4)))
  || s.engineOwes ctx

/-- Present names a surface and a plane, after a release at .SY of the context that covers the surface's writes: one has been performed, and no write of the
surface is on its way.
(DEDUCED: log entry 111.) -/
def execPresent (ctx : Nat) (surface : Surface) (plane : Nat) (s : State) : Outcome :=
  .next (if (s.ctx ctx).live && (s.ctx ctx).released && s.gaffer.works 2 && !s.surfaceBusy ctx surface then
    let tag := s.freeTag
    ({ s with link := { s.link with nextTag := tag + 1, presents := s.link.presents ++ [tag] } }).say (.present tag surface.addr plane)
  else s)

end Sys2Proof.Machine
end

