-- ==== Sys2Proof/Machine/Image.lean ====
section
/-! DEFINITION. Images: descriptors, texels, IMLD, IMST, TLDI and TEX (13_graphics.md R308 to R311). -/

namespace Sys2Proof.Machine

/-! ### Image descriptors (R308) -/

abbrev ImageDesc := BitVec 256

def imBase (p : ImageDesc) : Nat := fieldOf p 0 0 64
def imWidth (p : ImageDesc) : Nat := fieldOf p 8 0 14 + 1
def imHeight (p : ImageDesc) : Nat := fieldOf p 8 14 14 + 1
def imTop (p : ImageDesc) : Nat := fieldOf p 8 28 4
def imLayers (p : ImageDesc) : Nat := fieldOf p 12 0 11 + 1
def imFormat (p : ImageDesc) : Nat := fieldOf p 12 16 4

/-- RESERVED_FIELD of a descriptor. -/
def imReserved (p : ImageDesc) : Bool :=
  fieldOf p 12 11 5 != 0 || fieldOf p 12 20 12 != 0 || fieldOf p 16 0 128 != 0 || !pointerOk (w64 (imBase p)) 256

/-- The bytes of a texel. -/
def texelBytes (fmt : Nat) : Nat := nth [1, 4, 4, 2, 8, 4, 16, 4] fmt 1

/-- The extents and the row pitch of a level. -/
def levelWidth (p : ImageDesc) (l : Nat) : Nat := max 1 (imWidth p / 2 ^ l)
def levelHeight (p : ImageDesc) (l : Nat) : Nat := max 1 (imHeight p / 2 ^ l)
def levelPitch (p : ImageDesc) (l : Nat) : Nat := alignUp (levelWidth p l * texelBytes (imFormat p)) 256

/-- Where a level starts. -/
def levelStart (p : ImageDesc) : Nat → Nat
  | 0 => imBase p
  | l + 1 => levelStart p l + imLayers p * levelHeight p l * levelPitch p l

/-- The address of texel (i, j) of a layer on a level. -/
def texelAddr (p : ImageDesc) (l y i j : Nat) : DWord :=
  w64 (levelStart p l + (y * levelHeight p l + j) * levelPitch p l + i * texelBytes (imFormat p))

/-- A descriptor of n bytes, read as a load of the thread.
(DEDUCED: log entries 9, 54.) -/
def readDescriptor (s : State) (w : Who) (a : DWord) (n : Nat) : Except Stop (State × Nat) := s.loadRecord w a n n

/-- The causes that an image descriptor's content raises, each at its address; format 7 is for IMLD and IMST only. -/
def checkImage (p : ImageDesc) (a : DWord) (raw : Bool) : Except Stop Unit :=
  if imReserved p then failAt .reservedField a.toNat
  else if decide (7 < imFormat p) || (!raw && imFormat p == 7) then failAt .formatUnsupported a.toNat
  else .ok ()

/-! ### IMLD, IMST and TLDI (R311) -/

/-- The group of HINT.C: i, j, layer and level. -/
def Thread.texelCoords (t : Thread) : Src := .regs (t.hints.cReg.getD 0) 4 4 [.b32]

/-- The address of the texel that coordinates name; none beyond an extent. -/
def coordAddr (p : ImageDesc) (c : List Word) : Option DWord :=
  let n (i : Nat) : Nat := (nth c i 0).toNat
  if n 3 ≤ imTop p && n 2 < imLayers p && n 0 < levelWidth p (n 3) && n 1 < levelHeight p (n 3) then
    some (texelAddr p (n 3) (n 2) (n 0) (n 1))
  else none

/-- The descriptor of a pair, read and checked.
(DEDUCED: log entry 54.) -/
def imageAt (s : State) (w : Who) (a : DWord) (raw : Bool) : Except Stop (State × ImageDesc) := do
  let (s, v) ← readDescriptor s w a 32
  let p : ImageDesc := BitVec.ofNat 256 v
  checkImage p a raw
  .ok (s, p)

/-- IMLD and TLDI: a relaxed load of the texel that coordinates name; beyond an extent four zeros.
(DEDUCED: log entry 54.) -/
def imageLoad (s : State) (w : Who) (d a : RegField) (raw : Bool) : Except Stop State := do
  let x ← w.t.fetch [wr4 d] [rd2 a [.b32], w.t.texelCoords]
  let (s, p) ← imageAt s w (w64 (x.n 0)) raw
  match coordAddr p (x.ws 1) with
  | none => (x.t.oweRegs d.toNat [0, 0, 0, 0] (if raw then .b32 else .f32)).map fun t => s.setThread w.k t
  | some at_ =>
    let n := texelBytes (imFormat p)
    let l ← s.checkGlobal w at_ n 1 { read := true }
    s.issueLoad w x.t l { type := 0, dst := d.toNat, count := 4, image := some { fmt := imFormat p, size := n, raw := raw } } .dv

def execImld (d a : RegField) (g : PredField) (s : State) : Outcome := runWord s g fun w => imageLoad s w d a true
def execTldi (d a : RegField) (g : PredField) (s : State) : Outcome := runWord s g fun w => imageLoad s w d a false

/-- A helper's IMST does nothing (R304).
(DEDUCED: log entry 54.) -/
def execImst (d a : RegField) (g : PredField) (s : State) : Outcome :=
  runWord s g fun w => do
    let x ← w.t.fetch [] [rd2 a [.b32], rd4 d [], w.t.texelCoords]
    if (w.t.shade.map (·.helper)).getD false then (x.t.owe { flag := w.t.fb }).map fun t => s.setThread w.k t
    else
      let (s, p) ← imageAt s w (w64 (x.n 0)) true
      match coordAddr p (x.ws 2) with
      | none => (x.t.owe { flag := w.t.fb }).map fun t => s.setThread w.k t
      | some at_ =>
        let n := texelBytes (imFormat p)
        let l ← s.checkGlobal w at_ n 1 { write := true }
        s.issueStore w x.t { seq := 0, bytes := storeOf l.locs (toBytes (x.n 1) n), src := dataOf 0 d.toNat (x.ws 1) }

/-! ### Sampling (R309, R310) -/

abbrev SamplerDesc := BitVec 128

/-- RESERVED_FIELD of a sampler descriptor. -/
def smReserved (p : SamplerDesc) : Bool :=
  fieldOf p 0 10 22 != 0 || fieldOf p 0 8 2 == 3 || fieldOf p 0 2 2 == 3 || fieldOf p 4 16 16 != 0 || fieldOf p 12 0 32 != 0

/-- The border colour. -/
def smBorder (p : SamplerDesc) : List Word :=
  match fieldOf p 0 8 2 with
  | 0 => [0, 0, 0, 0]
  | 1 => [0, 0, 0, oneF32]
  | _ => [oneF32, oneF32, oneF32, oneF32]

/-- An integer coordinate on an extent under an address mode; none: the border. -/
def mapCoord (mode : Nat) (i : Int) (n : Nat) : Option Nat :=
  match mode with
  | 0 => some (i % (n : Int)).toNat
  | 1 => some (clampInt i 0 ((n : Int) - 1)).toNat
  | 2 => let k := (i % (2 * n : Nat)).toNat
         some (if k < n then k else 2 * n - 1 - k)
  | _ => if 0 ≤ i && decide (i < (n : Int)) then some i.toNat else none

/-- A finite value as an integer over 2^149; a value that is not finite counts as 0. -/
def fixed149 (w : Word) : Int :=
  match fF32.decode w.toNat with
  | .num n m e => let k : Int := (m * 2 ^ (e + 149).toNat : Nat); if n then -k else k
  | _ => 0

/-- ⌊log2 (p / q)⌋ of a positive rational. -/
def floorLog2 (p q : Nat) : Int :=
  let d : Int := (Nat.log2 p : Int) - Nat.log2 q
  let le : Bool := if 0 ≤ d then decide (2 ^ d.toNat * q ≤ p) else decide (q ≤ p * 2 ^ (-d).toNat)
  if le then d else d - 1

/-- A finite F32 value in units of 1/256 as an integer over a power of two with as small an exponent as it needs. -/
def lodUnits (w : Word) : Int × Nat :=
  match fF32.decode w.toNat with
  | .num n m e =>
    -- m × 2^(e + 8), its trailing zeros taken out
    let z := ((upFrom 0 24).filter fun i => m % 2 ^ (i + 1) == 0).length
    let f : Int := e + 8 + z
    let k : Int := (m / 2 ^ z * 2 ^ f.toNat : Nat)
    if m = 0 then (0, 0) else (if n then -k else k, (-f).toNat)
  | _ => (0, 0)

/-- ⌊256 × (log2 √(p / q) + bias / 256) + extra⌋ for an extra term n / 2^k in units of 1/256. -/
def lodOf (p q : Nat) (bias n : Int) (k : Nat) : Int := (floorLog2 (p ^ (128 * 2 ^ k)) (q ^ (128 * 2 ^ k)) + n) / (2 ^ k : Nat) + bias

/-- How the LOD of a TEX is found. -/
inductive LodForm where
  | implicit | explicit | bias
  deriving DecidableEq, Repr

def LodForm.ofCode : BitVec 2 → LodForm
  | 1#2 => .explicit
  | 2#2 => .bias
  | _ => .implicit

/-- λ in units of 1/256 after truncation and its bounds. `rho2` is ρ² over 2^298; none: not stated. Values that the rule does not state, a
NaN term or ρ of TEX.B in a pixel quad, are free. Where MINL exceeds MAXL the rule does not say which bound holds: a value below MINL takes MINL, another
above MAXL takes MAXL.
(DEDUCED: log entry 52; DESIGN CHOICE: log entry 109.) -/
def lambda (form : LodForm) (p : ImageDesc) (sm : SamplerDesc) (rho2 : Option Nat) (extra : Word) (free : Nat) : Nat :=
  let minL := fieldOf sm 8 0 16
  let maxL := fieldOf sm 8 16 16
  let bias := signed (fieldOf sm 4 0 16) 16
  let clamp (v : Int) : Nat := min (clampInt v minL maxL).toNat (256 * imTop p)
  let ev := fF32.decode extra.toNat
  let u := lodUnits extra
  let withExtra (f : Int → Nat → Int) : Nat :=
    match ev with
    | .nan _ => clamp free
    | .inf n => if n then clamp minL else clamp maxL
    | _ => clamp (f u.1 u.2)
  match form, rho2 with
  | .explicit, _ => withExtra fun n k => n / (2 ^ k : Nat)
  | .implicit, some r => if r = 0 then clamp minL else clamp (lodOf r (2 ^ 298) bias 0 0)
  | .bias, some r => if r = 0 then clamp minL else withExtra fun n k => lodOf r (2 ^ 298) bias n k
  | _, none => clamp free

/-- The texels of one level with their weights over 2^16: coordinates, none for the border. -/
def levelTexels (p : ImageDesc) (sm : SamplerDesc) (linear : Bool) (u v : Int) (l : Nat) : List (Option (Nat × Nat) × Nat) :=
  let w := levelWidth p l
  let h := levelHeight p l
  let au := fieldOf sm 0 4 2
  let av := fieldOf sm 0 6 2
  let at_ (i j : Int) : Option (Nat × Nat) :=
    match mapCoord au i w, mapCoord av j h with
    | some x, some y => some (x, y)
    | _, _ => none
  if linear then
    let t (c : Int) (n : Nat) : Int := c * n - 2 ^ 148
    let i := t u w / 2 ^ 149
    let j := t v h / 2 ^ 149
    let fx := (t u w % 2 ^ 149 / 2 ^ 141).toNat
    let fy := (t v h % 2 ^ 149 / 2 ^ 141).toNat
    [(at_ i j, (256 - fx) * (256 - fy)), (at_ (i + 1) j, fx * (256 - fy)), (at_ i (j + 1), (256 - fx) * fy), (at_ (i + 1) (j + 1), fx * fy)]
  else [(at_ (u * w / 2 ^ 149) (v * h / 2 ^ 149), 65536)]

/-- The texels of a sample with their levels, and weights over 2^24.
(DESIGN CHOICE: log entry 53.) -/
def sampleTexels (p : ImageDesc) (sm : SamplerDesc) (u v : Int) (lam : Nat) : List (Nat × Option (Nat × Nat) × Nat) :=
  let linear := if lam = 0 then bitAt (fieldOf sm 0 0 8) 0 else bitAt (fieldOf sm 0 0 8) 1
  let level (l wt : Nat) : List (Nat × Option (Nat × Nat) × Nat) := (levelTexels p sm linear u v l).map fun x => (l, x.1, x.2 * wt)
  match fieldOf sm 0 2 2 with
  | 0 => level 0 256
  | 1 => level ((lam + 128) / 256) 256
  | _ => level (lam / 256) (256 - lam % 256) ++ level (min (imTop p) (lam / 256 + 1)) (lam % 256)

/-- ρ² over 2^298 from the neighbours' coordinates, horizontal then vertical. -/
def rhoSquared (p : ImageDesc) (u v : Word) (near : List Word) : Nat :=
  let d (x : Word) (i n : Nat) : Nat := ((fixed149 (nth near i 0) - fixed149 x) * n).natAbs
  let sq (i : Nat) : Nat := d u i (imWidth p) ^ 2 + d v (i + 1) (imHeight p) ^ 2
  max (sq 0) (sq 2)

/-- A layer coordinate rounded and clamped. -/
def texLayer (p : ImageDesc) (w : Word) : Nat :=
  match fF32.decode w.toNat with
  | .nan _ => 0
  | .inf n => if n then 0 else imLayers p - 1
  | v => (clampInt (v.toInt .rne).1 0 ((imLayers p : Int) - 1)).toNat

/-- The sources of a TEX: the descriptor pairs, and of the group c what the form reads. -/
def Thread.texSrcs (t : Thread) (a : RegField) (form : LodForm) : List Src :=
  [rd4 a [.b32], .regs (t.hints.cReg.getD 0) (if form = .implicit then 3 else 4) 1 [.f32]]

/-- The sample of one thread, its neighbours known where it stands in a pixel quad.
(DEDUCED: log entry 52.) -/
def texOne (form : LodForm) (d a : RegField) (w : Who) (s : State) : Except Stop State := do
  let x ← w.t.fetch [wr4 d, ⟨w.t.hints.cReg.getD 0, 4, 4⟩] (w.t.texSrcs a form)
  let ia := w64 (x.n 0)
  let sa := w64 (x.n 0 / 2 ^ 64)
  let (s, iv) ← readDescriptor s w ia 32
  let (s, sv) ← readDescriptor s w sa 16
  let p : ImageDesc := BitVec.ofNat 256 iv
  let sm : SamplerDesc := BitVec.ofNat 128 sv
  if imReserved p then failAt .reservedField ia.toNat else .ok ()
  if smReserved sm then failAt .reservedField sa.toNat else .ok ()
  checkImage p ia false
  let c := x.ws 1
  let u := nth c 0 0
  let v := nth c 1 0
  let rho2 : Option Nat := match w.t.quadLane with
    | none => some 0
    | some _ => if form = .implicit then some (rhoSquared p u v w.t.near) else none
  let lam := lambda form p sm rho2 (nth c 3 0) (Config.choice s.moves)
  let layer := texLayer p (nth c 2 0)
  let ts := sampleTexels p sm (fixed149 u) (fixed149 v) lam
  let n := texelBytes (imFormat p)
  let ps ← ts.mapM fun t => match t.2.1 with
    | none => .ok none
    | some ij => do
      let at_ := texelAddr p t.1 layer ij.1 ij.2
      let l ← s.checkGlobal w at_ n 1 { read := true } false
      .ok (some (at_, l.locs))
  let reads := ps.filterMap id
  w.watchAll (reads.map fun y => (y.1.toNat, n)) true false
  -- where each of the sample's texels stands among those that memory holds
  let places := (upFrom 0 ps.length).map fun i => (nth ps i none).map fun _ => ((ps.take i).filterMap id).length
  s.issueLoad w x.t { locs := reads.flatMap (·.2) }
    { type := 0, dst := d.toNat, count := 4
      image := some { fmt := imFormat p, size := n, terms := some (places.zip (ts.map (·.2.2))), border := smBorder sm, key := s.freshKey 192 } } .dv

/-- A thread's u and v, read at their ports. -/
def Thread.texUV (t : Thread) : List Word :=
  let c := t.hints.cReg.getD 0
  [(t.port1 c [.f32]).val, (t.port1 (c + 1) [.f32]).val]

/-- The implicit form in a pixel quad is a rendezvous, whose arrival takes every operand cause (R137), but for an arrival that retries alone.
(DEDUCED: log entry 52.) -/
def execTex (d a : RegField) (g : PredField) (m : BitVec 2) (s : State) : Outcome :=
  let form := LodForm.ofCode m
  match s.whoOf s.cur with
  | none => .fault .unlinkedState
  | some w =>
    if w.t.split then .next (fragOne (fun _ => texOne form d a) 0 w.k s)
    else if !w.t.guard g then .next ((if form = .implicit then s.passBy w else s).retire w.k w.t)
    else
      match w.t.quadLane, form with
      | some q, .implicit =>
        match (do
          let _ ← w.t.fetch [wr4 d, ⟨w.t.hints.cReg.getD 0, 4, 4⟩] (w.t.texSrcs a form)
          let _ ← w.t.raiseFlags [w.t.fa]
          .ok ()) with
        | .error e => .next (s.stopped w e)
        | .ok _ =>
          .next (s.meet w (.tex d a g m) (w64 (15 * 2 ^ q)) fun here s =>
            let uv (lane : Nat) : List Word := match here.find? fun x => x.1 == lane with
              | some x => (s.thread x.2).texUV
              | none => []
            let s1 := here.foldl (fun (s' : State) x => s'.updThread x.2 fun t =>
              { t with near := uv (neighbourLane x.1 0).1 ++ uv (neighbourLane x.1 1).1 }) s
            here.foldl (fun s x => fragOne (fun _ => texOne form d a) 0 x.2 s) s1)
      | _, _ =>
        match texOne form d a w s with
        | .ok s' => .next (s'.retire w.k w.t)
        | .error e => .next (s.stopped w e)

end Sys2Proof.Machine
end

