-- ==== Sys2Proof/Machine/Power.lean ====
section
/-! DEFINITION. The Gaffer: registers, power states, firmware, power sharing, timing errors, regulator phases and heat (17_platform.md R370 to
R379). -/

namespace Sys2Proof.Machine

def State.updGaffer (s : State) (f : Gaffer → Gaffer) : State := { s with gaffer := f s.gaffer }

/-! ### Registers (R370, R371) -/

/-- STATE's code. -/
def PowerState.code : PowerState → Nat
  | .off => 0 | .verify => 1 | .bringup => 2 | .on => 3 | .draining => 4

/-- The word that a read finds at a byte offset of the register block; res0 bits and CMD, which is write-only, read zero (R9). -/
def Gaffer.read (g : Gaffer) (off : Nat) : Word :=
  match off / 4 with
  | 0 => w32 g.ready.toNat
  | 1 => w32 g.grp.toNat
  | 3 => w32 (g.state.code + g.derated.toNat * 8 + g.fwFail.toNat * 16)
  | 4 => w32 g.sustain.toNat
  | 5 => w32 g.replay.toNat
  | 6 => w32 g.ilim.toNat
  | 7 => w32 g.phases.toNat
  | 8 => w32 g.fwAddr.toNat
  | 9 => w32 (g.fwAddr.toNat / 2 ^ 32)
  | 10 => g.fwSize
  | 11 => g.floor
  | 12 => w32 g.mbox.toNat
  | 13 => w32 g.mboxEn.toNat
  | 14 => w32 g.temp.toNat
  | 15 => w32 g.dlHead.toNat
  | _ => 0

/-- The word at a byte offset of the Dailies ring: a record stands where DLHEAD was when it was written (R379); no reset contents are given.
(DESIGN CHOICE: log entry 18.) -/
def Gaffer.readDailies (g : Gaffer) (off : Nat) : Word :=
  let back := (g.dlHead.toNat / 32 + 2047 - off / 32 % 2048) % 2048      -- records written since
  if back < g.dailies.length then w32 ((nth g.dailies (g.dailies.length - 1 - back) 0).toNat / 2 ^ (32 * (off / 4 % 8)))
  else Config.freeWord 0 (off / 4 % 16384)

/-- Has the compute domain no power? -/
def State.domainOff (s : State) : Bool := s.gaffer.state == .off || s.gaffer.state == .verify

/-- The word that a read finds at a byte offset of the management aperture: the Gaffer block, the Dailies, and in the window of each core the
mapper's counters, all zero while the domain is off; every other offset reads zero (R370). -/
def State.readAperture (s : State) (off : Nat) : Word :=
  if off < 0x40 then s.gaffer.read off
  else if 0x10000 ≤ off && off < 0x20000 then s.gaffer.readDailies (off - 0x10000)
  else if 0x100000 ≤ off && off < 0x160000 then
    let place := off % 0x1000
    if 0x100 ≤ place && place < 0x140 && !s.domainOff then (s.core (off / 0x1000 - 0x100)).counters.read (place - 0x100) else 0
  else 0

def execMboxClear (ones : BitVec 5) (s : State) : Outcome := .next (s.updGaffer fun g => { g with mbox := g.mbox &&& ~~~ones })

/-- CMD 0 and 3, and a CMD that names no transition, do nothing. -/
def execCmdNoAction (_cmd : BitVec 2) (s : State) : Outcome := .next s

/-- A value held within a field's range. -/
def clampNat (v lo hi : Nat) : Nat := max lo (min v hi)

/-- A write sets the RW field at an offset, clamped to its range; FWADDR keeps its multiple of 4 KiB, and a grant above a new SUSTAIN falls to it (R372). No
rule gives the access width of these registers: a write at a field's own offset gives it the bits of its width, FWADDR all 64, and a write at any other
offset, the upper half of FWADDR among them, sets nothing; a FWADDR that is no multiple of 4 KiB is rounded down.
(DESIGN CHOICE: log entry 109.) -/
def execGafferRegisterWrite (offset : Nat) (value : DWord) (s : State) : Outcome :=
  let v := value.toNat
  .next (s.updGaffer fun g =>
    match offset with
    | 0x010 => { g with sustain := BitVec.ofNat 8 (clampNat (v % 256) 60 220), grant := min g.grant (clampNat (v % 256) 60 220) }
    | 0x014 => { g with replay := BitVec.ofNat 4 (clampNat (v % 16) 3 7) }
    | 0x020 => { g with fwAddr := w64 (v / 4096 * 4096) }
    | 0x028 => { g with fwSize := w32 (clampNat (v % 2 ^ 32) 4096 (2 ^ 24)) }
    | 0x034 => { g with mboxEn := BitVec.ofNat 5 v }
    | _ => g)

/-! ### Power states (R377, R378) -/

/-- CMD 1 in ON: every context on every core is pre-empted, and Rigger commands finish. -/
def execPowerOff (s : State) : Outcome :=
  .next (if s.gaffer.state = .on then (s.preempt (upFrom 0 96)).updGaffer fun g => { g with state := .draining } else s)

/-- The phases that are healthy. -/
def Gaffer.healthy (g : Gaffer) : Nat := popCount g.phases.toNat 12

/-- CMD 2 in OFF: the boot ROM reads the image. Which phases pass their check at this power-on is the hardware's; only where all do is DERATED
cleared, and with fewer than 8 healthy the domain stays off (R375).
(DEDUCED: log entry 66.) -/
def execPowerOn (s : State) : Outcome :=
  .next (if s.gaffer.state = .off then s.updGaffer fun g =>
      if g.phases = 0xFFF || Config.choice s.moves % 2 = 1 then { g with state := .verify, derated := false, phases := 0xFFF, ilim := 0x0FA0 }
      else if 8 ≤ g.healthy then { g with state := .verify } else g
    else s)

/-- Writing 1 to CLEAR of a core's counter block zeroes every counter and LASTREF; 0, and any write while the domain is off, does nothing
(R173, R370). -/
def execMctrClear (core : Nat) (bit : Bool) (s : State) : Outcome :=
  .next (if bit && !s.domainOff then s.updCore core fun c => { c with counters := {} } else s)

/-- The compute domain without power: cores, TLBs and the L2 are empty, its dirty units having been written back; nobody waits on a request any more, and the
answer to a translation request sent before does nothing (R377). -/
def State.unpowered (s : State) : State :=
  let s1 := s.link.lines.foldl (fun (s : State) l => s.evictUnit l.unit) s
  { s1 with
    xlreqs := s1.xlreqs.map fun (r : XlReq) => { r with dead := true }
    xlwaits := []
    pgreqs := s1.pgreqs.map fun (p : PgReq × List Waiter) => (p.1, [])
    cores := List.replicate 96 {}
    cads := List.replicate 24 1
    ptrs := List.replicate 4 0
    tlb := []
    link := { s1.link with lines := [] }
    queues := s1.queues.map (fun (q : UQueue) => { q with slot := none, deficit := 0, wait := 0 })
    gaffer := { s1.gaffer with state := .off, ready := 0, grp := 0, bands := List.replicate 24 0, grant := 0, clock := 0, voltage := 0 } }

/-- Every image is written, no Rigger command is left, and the device's transactions are complete: queues are unmapped, their pending packets going to
their images, and the domain loses power.
(DEDUCED: log entry 66.) -/
def execDrainDone (s : State) : Outcome :=
  .next (if s.gaffer.state = .draining && !(s.ensembles.any (·.occupies)) && !(s.rigger.any (·.live)) && s.link.reqs.isEmpty then
    match (upFrom 0 s.queues.length).foldlM State.unmapQueue s with
    | .ok s' => s'.unpowered.daily 2 0
    | .error s' => s'
  else s)

/-- Both signatures verify and the version reaches FLOOR, or the image fails.
(DEDUCED: log entry 89.) -/
def execFirmwareVerify (ed25519 mlDsa : Bool) (version floor : Word) (s : State) : Outcome :=
  .next (if s.gaffer.state != .verify then s
    else if ed25519 && mlDsa && decide (s.gaffer.floor ≤ version) then
      s.updGaffer fun g => { g with state := .bringup, fwFail := false, newFloor := floor, version := version }
    else ((s.updGaffer fun g => { g with state := .off, fwFail := true }).setMbox 2).daily 3 version.toNat 32)

/-- A function sets its readiness bit: bits 0 to 6 of READY, then those of GRP. When all are set the state becomes ON, and FLOOR rises to the
image's floor value. Nothing is ready while the link is down, and a bit that its loss has cleared in ON is set again when it is back (R360). MBOX[3] is set
at the step to ON.
(DEDUCED: log entry 104.) -/
def execFunctionReady (which : Nat) (s : State) : Outcome :=
  if (s.gaffer.state != .bringup && s.gaffer.state != .on) || !s.linkUp || decide (31 ≤ which) then .next s
  else
    let s1 := s.updGaffer fun g =>
      if which < 7 then { g with ready := g.ready ||| BitVec.ofNat 7 (2 ^ which) } else { g with grp := g.grp ||| BitVec.ofNat 24 (2 ^ (which - 7)) }
    if s.gaffer.state = .bringup && s1.gaffer.ready = 0x7F && s1.gaffer.grp = 0xFFFFFF then
      let s2 := ((s1.updGaffer fun g => { g with state := .on }).setMbox 3).daily 1 s.gaffer.version.toNat 32
      .next (if s2.gaffer.floor < s2.gaffer.newFloor then (s2.updGaffer fun g => { g with floor := g.newFloor }).daily 4 s.gaffer.version.toNat 32 else s2)
    else .next s1

/-- The memory island gains power: everything the device held is lost but the fused FLOOR; what memory holds is as it stands.
(DEDUCED: log entry 67.) -/
def execMemoryIslandPowerUp (s : State) : Outcome :=
  .next { State.reset with mem := s.mem, moves := s.moves, schedule := s.schedule, badSectors := s.badSectors, gaffer := { floor := s.gaffer.floor } }

/-! ### Power sharing and replay (R372 to R374) -/

/-- The most that a grant may be. -/
def Gaffer.ceiling (g : Gaffer) : Nat := if g.derated then g.sustain.toNat * g.healthy / 12 else g.sustain.toNat

/-- The arithmetic clock's highest frequency in kHz (R21). -/
def maxClock : Nat := 2900000

/-- Is a core group clock-gated: does it hold no ensemble (R373)? Which bands of its grid have power is in `Gaffer.bands`. -/
def State.clockGated (s : State) (group : Nat) : Bool := (s.onGroup group).isEmpty

/-- The Gaffer holds the device within a grant by the clock, the CADs and the gating of unused bands (`State.powerBands`); none of them changes a result. -/
def execPowerArbitration (grant clock : Nat) (cads : List Nat) (s : State) : Outcome :=
  if decide (s.gaffer.ceiling < grant) || decide (maxClock < clock) || cads.length != 24 || cads.any (fun c => c == 0 || decide (16 < c)) then .next s
  else
    .next ({ s with cads := cads.map (BitVec.ofNat 5) }.updGaffer fun g => { g with grant := grant, clock := clock })

/-- Each interval the counts start anew, and voltage and frequency are moved. -/
def execReplayRateAdjust (voltage clock : Nat) (s : State) : Outcome :=
  .next (if maxClock < clock then s
    else s.updGaffer fun g => { g with voltage := voltage, clock := clock, replays := List.replicate 24 0 })

/-- A stage is replayed; an error that the replay does not clear halts the core's contexts.
(DEDUCED: log entry 89.) -/
def execTimingError (core : Nat) (cleared storage : Bool) (s : State) : Outcome :=
  let s1 := s.updGaffer fun g => { g with replays := updateAt g.replays (core / 4) (· + 1) }
  .next (if cleared then s1 else (s1.haltCore core (if storage then .sramUncorrectable else .machineCheckOther)).daily 9 0)

/-! ### Phases and heat (R375, R376) -/

/-- THERMAL_EMERGENCY in every resident context. -/
def State.emergency (s : State) : State := s.haltAll ringmaster .thermalEmergency

/-- A phase fails. With fewer than 8 left the compute domain is powered off: it drains as its contexts' halt images are written, or, with no work on it yet,
loses power at once. The record's DATA hold the phase's number.
(DEDUCED: log entries 66, 89; DESIGN CHOICE: log entry 18.) -/
def execPhaseLoss (phase : Nat) (s : State) : Outcome :=
  if decide (12 ≤ phase) || !s.gaffer.phases.getLsbD phase then .next s
  else
    let s1 := ((s.updGaffer fun g => { g with
      phases := g.phases &&& ~~~(BitVec.ofNat 12 (2 ^ phase)), ilim := g.ilim - 0x014D, derated := true }).setMbox 0).daily 5 phase 4
    .next (if 8 ≤ s1.gaffer.healthy then s1
      else match s.gaffer.state with
      | .off => s1
      | .verify => s1.unpowered.daily 2 0
      | .bringup | .on | .draining => s1.emergency.updGaffer fun g => { g with state := .draining })

/-- The lowest clock, whose frequency the reference does not give, and the greatest CAD; MBOX[1] and the record of a hot sensor, with its number and its
temperature.
(DESIGN CHOICE: log entries 18, 90.) -/
def State.throttle (s : State) (sensor : Nat) (temp : BitVec 16) : State :=
  (({ s with cads := List.replicate 24 16 }.updGaffer fun g => { g with clock := Config.choice s.moves % (maxClock + 1) }).setMbox 1).daily 6
    (sensor % 2 ^ 16 + temp.toNat * 2 ^ 16) 32

/-- The hottest of what the sensors read (R371). -/
def hottest : List (Nat × BitVec 16) → BitVec 16
  | [] => 0
  | x :: l => l.foldl (fun m y => if m.slt y.2 then y.2 else m) x.2

/-- A sensor's reading: TEMP is the hottest sensor's. Above 105 °C the device is throttled, and above 110 °C every resident context halts besides (R371,
R376).
(DEDUCED: log entry 89.) -/
def State.sensed (s : State) (sensor : Nat) (temp : BitVec 16) : State :=
  let ts := (s.gaffer.temps.filter (·.1 != sensor)) ++ [(sensor, temp)]
  let s1 := s.updGaffer fun g => { g with temps := ts, temp := hottest ts }
  if temp.toInt ≤ 105 * 16 then s1
  else (if temp.toInt ≤ 110 * 16 then s1 else s1.emergency).throttle sensor temp

/-- A reading above 105 °C. -/
def execThermalThrottle (sensor : Nat) (temp : BitVec 16) (s : State) : Outcome :=
  .next (if temp.toInt ≤ 105 * 16 then s else s.sensed sensor temp)

/-- A reading above 110 °C, which is above 105 °C too. -/
def execThermalEmergency (sensor : Nat) (temp : BitVec 16) (s : State) : Outcome :=
  .next (if temp.toInt ≤ 110 * 16 then s else s.sensed sensor temp)

end Sys2Proof.Machine
end

