-- ==== Sys2Proof/Machine/Ray.lean ====
section
/-! DEFINITION. RBOX, RTRI, RNODE, RPIN, RUNPIN, RGEN, BLD, BLDQ and BLDW (14_rays.md R320 to R336). -/

namespace Sys2Proof.Machine

/-! ### Tests (R321 to R325) -/

/-- Does an item lie wholly inside the build pool of the handle in a slot (R319)? -/
def State.inPool (s : State) (w : Who) (handle : Word) (a n : Nat) : Bool :=
  match w.c.handleIndex handle with
  | some i => match s.structOf w.cI i with
    | some x => decide (x.pool ≤ a) && decide (a + n ≤ x.pool + x.size)
    | none => false
  | none => false

/-- The bytes of an item at an address, the thread's pin on the slot checked after the address causes, and whether they are unpredictable (R314). What an
item holds decides STRUCTURE_MALFORMED, so that the thread's next issue waits for it (R38); a value that is unpredictable does not trap (R3).
(DEDUCED: log entry 9; DESIGN CHOICE: log entry 101.) -/
def rayItem (s : State) (w : Who) (slot : Nat) (a : DWord) (len align : Nat) : Except Stop (State × Word × Nat × Bool) := do
  let p ← s.checkGlobal w a len align { read := true }
  match s.pinHeld w slot with
  | none => fail .structureUnpinned
  | some h => do
    let bs ← s.readNow w p.locs
    let spoilt := ((w.c.handleIndex h.1).map fun i => s.isSpoilt w.cI i h.2).getD false
    .ok (bs.1, h.1, ofBytes bs.2, spoilt)

/-- A node, which must not be malformed. -/
def rayNode (s : State) (w : Who) (slot : Nat) (a : DWord) : Except Stop (State × Node) := do
  let x ← rayItem s w slot a 128 128
  let n : Node := BitVec.ofNat 1024 x.2.2.1
  let sound := !n.malformed && (upFrom 0 8).all fun i =>
    refKind (n.child i) == 0 || s.inPool w x.2.1 (canonicalOf (refAddr (n.child i))).toNat (refBytes (n.child i))
  if !s.inPool w x.2.1 a.toNat 128 || !(sound || x.2.2.2) then failAt .structureMalformed a.toNat else .ok (x.1, n)

/-- The pair of HINT.C. -/
def Thread.cPair (t : Thread) : Src := .regs (t.hints.cReg.getD 0) 2 2 [.b32]

def execRbox (d a : RegField) (g : PredField) (sl : BitVec 1) (s : State) : Outcome :=
  runWord s g fun w => do
    let x ← w.t.fetchQuiet [wr2 d] [.regs a.toNat 8 8 [.f32, .acc], w.t.cPair]
    let (s, n) ← rayNode s w sl.toNat (w64 (x.n 1))
    let r := n.test (x.ws 0)
    let t ← x.t.owe { flag := w.t.fa, writes := [(d.toNat, r.1, .b32), (d.toNat + 1, r.2, .f32)] }
    .ok (s.setThread w.k t)

def execRtri (d a : RegField) (g : PredField) (sl : BitVec 1) (s : State) : Outcome :=
  runWord s g fun w => do
    let x ← w.t.fetchQuiet [wr4 d] [.regs a.toNat 8 8 [.f32, .acc], w.t.cPair]
    let at_ := w64 (x.n 1)
    let (s, i) ← rayItem s w sl.toNat at_ 48 16
    let rec_ : TriRec := BitVec.ofNat 384 i.2.1
    if (rec_.malformed && !i.2.2) || !s.inPool w i.1 at_.toNat 48 then failAt .structureMalformed at_.toNat else .ok ()
    let r := (rec_.hit (x.ws 0)).getD (w32 (fF32.infBits false), 0, 0)
    let t ← x.t.owe { flag := w.t.fa, writes := [(d.toNat, r.1, .f32), (d.toNat + 1, r.2.1, .f32), (d.toNat + 2, r.2.2, .f32),
                                                 (d.toNat + 3, rec_.prim, .b32)] }
    .ok (s.setThread w.k t)

def execRnode (d a : RegField) (g : PredField) (sl : BitVec 1) (s : State) : Outcome :=
  runWord s g fun w => do
    -- a names a quad, of which x[a + 3] is ignored
    let x ← w.t.fetch [wr2 d, wr4 a] [rd2 a [.b32], .regs (a.toNat + 2) 1 1 [.b32]]
    let (s, n) ← rayNode s w sl.toNat (w64 (x.n 0))
    let t ← x.t.oweRegs d.toNat (toWords (canonicalOf (n.child (x.n 1 % 8))).toNat 2) .b32
    .ok (s.setThread w.k t)

/-! ### Pins (R328) -/

/-- (DEDUCED: log entry 81.) -/
def execRpin (d a : RegField) (g : PredField) (h sl : BitVec 1) (s : State) : Outcome :=
  runWord s g fun w => do
    let x ← w.t.fetch [wr1 d] (if h = 1#1 then [rd1 a [.b32]] else [])
    let slot := sl.toNat
    let old := w.t.pin slot
    let handle := if h = 1#1 then x.v 0 else old.handle
    let found ← match w.c.handleIndex handle with
      | none => .ok none
      | some i => do
        let e ← s.threadEntry w i false
        if e.2.valid handle && e.2.cur != 0 then do
          let e' ← s.threadEntry w i true
          .ok (some (i, e'.1, e.2.cur))
        else .ok none
    let _ ← s.releaseOwn w slot
    -- the rise and the fall take effect together
    let s1 := match found with
      | some f => s.pinUp w.cI f.1 f.2.1 f.2.2
      | none => s
    let s2 ← s1.releaseOwn w slot
    let claim : PinState := match found with
      | some f => .own f.2.2
      | none => .none
    let gen : Word := match found with
      | some f => f.2.2
      | none => 0
    let t := (x.t.setPin slot { handle := handle, claim := claim }).setReg d.toNat gen .b32
    .ok (s2.setThread w.k (if gen = 0 then t else t.acquired .dv s.stamp))

def execRunpin (g : PredField) (l sl : BitVec 1) (s : State) : Outcome :=
  runWord s g fun w => do
    let slot := sl.toNat
    let la := s.launch w.e.launch
    let held := if slot = 0 then la.pin0 else la.pin1
    let lower : Option (Word × Nat) := match (if l = 1#1 then held else none), w.c.handleIndex (w32 (fieldOf la.packet (80 + 4 * slot) 0 32)) with
      | some gen, some i => some (gen, i)
      | _, _ => none
    -- both entries are at hand before either pin falls, so that a stall leaves no state changed (R340)
    match lower with
    | some x => (s.threadEntry w x.2 true).map fun _ => ()
    | none => .ok ()
    let s1 ← s.releaseOwn w slot
    let s2 ← match lower with
      | some (gen, i) => do
        let e ← s1.threadEntry w i true
        .ok ((s1.pinDown w.cI i e.1 gen).updLaunch w.e.launch fun q => if slot = 0 then { q with pin0 := none } else { q with pin1 := none })
      | none => .ok s1
    .ok (s2.updThread w.k fun t => t.setPin slot { t.pin slot with claim := .none })

def execRgen (d : RegField) (g : PredField) (sl : BitVec 1) (s : State) : Outcome :=
  runWord s g fun w => do
    let x ← w.t.fetch [wr4 d] []
    match s.pinHeld w sl.toNat with
    | none => fail .structureUnpinned
    | some (h, gen) =>
      let root ← match w.c.handleIndex h with
        | some i => do
          let e ← s.threadEntry w i false
          .ok (match e.2.record gen with
            | some r => e.2.root r
            | none => 0)
        | none => .ok 0
      let t ← x.t.oweRegs d.toNat (toWords root 2 ++ [gen, h]) .b32
      .ok (s.setThread w.k t)

/-! ### Build commands (R331, R336) -/

abbrev BuildBlock := BitVec 512

def bbOp (b : BuildBlock) : Nat := fieldOf b 4 0 4
def bbStatus (b : BuildBlock) : DWord := w64 (fieldOf b 32 0 64)

/-- The offset of the lowest failing field of a command block; a stride that is no multiple of 4, or below 12, counts as one (log entry 23).
(DEDUCED: log entry 23.) -/
def buildFailure (b : BuildBlock) : Option Nat :=
  let inputs := decide (bbOp b < 2)
  let bad : List (Nat × Bool) :=
    [ (4, fieldOf b 4 4 28 != 0 || decide (3 < bbOp b)), (8, inputs && fieldOf b 8 0 64 % 4 != 0), (16, inputs && fieldOf b 16 0 64 % 4 != 0),
      (32, fieldOf b 32 0 64 % 32 != 0),
      (40, fieldOf b 40 16 16 != 0 || (inputs && (fieldOf b 40 0 16 % 4 != 0 || decide (fieldOf b 40 0 16 < 12)))),
      (44, fieldOf b 44 0 160 != 0) ]
  (bad.find? (·.2)).map (·.1)

/-- A running command still holds its entry of the 256 of the Rigger queue: R331 does not say when it leaves it.
(DEDUCED: log entry 23; DESIGN CHOICE: log entry 108.) -/
def execBld (a : RegField) (g : PredField) (s : State) : Outcome :=
  runWord s g fun w => do
    let x ← w.t.fetch [] [rd2 a [.b32]]
    let p ← s.checkGlobal w (w64 (x.n 0)) 64 64 { read := true }
    let (s, bs) ← s.readNow w p.locs
    let b : BuildBlock := BitVec.ofNat 512 (ofBytes bs)
    match buildFailure b with
    | some off => .error (.trap .structureMalformed 0 (w64 off) 0)
    | none => .ok ()
    let st ← s.checkGlobal w (bbStatus b) 32 32 { write := true }
    if 256 ≤ (s.rigger.filter (·.live)).length then .error (.park .rigger) else .ok ()
    let t ← x.t.owe { flag := w.t.fb }
    -- words 1 to 7 hold unpredictable values from now on (R335)
    let t' := t.pushStore { seq := 0, bytes := storeOf st.locs (toBytes (ofWords (0 :: (upFrom 1 7).map (Config.freeWord s.moves))) 32)
                            born := s.moves }
    let cmd : RigCmd := { ctx := w.cI, thread := w.k, seq := t'.seq, block := b, status := (bbStatus b).toNat }
    .ok { s.setThread w.k t' with rigger := s.rigger ++ [cmd] }

/-- A status record, read as a thread's load of 32 bytes. -/
def readStatus (s : State) (w : Who) (a : DWord) : Except Stop (State × List Word) := do
  let p ← s.checkGlobal w a 32 32 { read := true }
  let bs ← s.readNow w p.locs
  .ok (bs.1, toWords (ofBytes bs.2) 8)

/-- Build strict: the thread's mode bit, or GSTRICT of the packet that shapes its ensemble or of its launch's (R270, R334). -/
def State.buildStrict (s : State) (w : Who) : Bool :=
  bitAt w.t.fmode.toNat 2 || pkBuildStrict w.e.packet || pkBuildStrict (s.launch w.e.launch).packet

/-- A strict thread that finds DONE with a count that is not zero traps. -/
def State.checkGeometry (s : State) (w : Who) (ws : List Word) : Except Stop Unit :=
  let zero := nth ws 2 0
  let excl := nth ws 3 0
  if s.buildStrict w && (nth ws 0 0).toNat % 4 = 2 && (zero != 0 || excl != 0) then .error (.trap .geometryDegenerate 0 (pairOf zero excl) 0)
  else .ok ()

def execBldq (d a : RegField) (g : PredField) (s : State) : Outcome :=
  runWord s g fun w => do
    let x ← w.t.fetch [⟨d.toNat, 8, 8⟩] [rd2 a [.b32]]
    let (s, ws) ← readStatus s w (w64 (x.n 0))
    s.checkGeometry w ws
    let t ← (x.t.acquired .dv s.stamp).oweRegs d.toNat ws .b32
    .ok (s.setThread w.k t)

def execBldw (a : RegField) (g : PredField) (s : State) : Outcome :=
  runWord s g fun w => do
    let x ← w.t.fetch [] [rd2 a [.b32]]
    let (s, ws) ← readStatus s w (w64 (x.n 0))
    if (nth ws 0 0).toNat % 4 < 2 then .error (.park .status) else .ok ()
    s.checkGeometry w ws
    .ok (s.setThread w.k (x.t.acquired .dv s.stamp))

end Sys2Proof.Machine
end

