-- ==== Sys2Proof/Machine/System.lean ====
section
/-! DEFINITION. BKPT, TRAP, ERET, HALT, special registers, system calls and the device heap (15_system.md R344, R351 to R357). -/

namespace Sys2Proof.Machine

/-! ### BKPT, TRAP, ERET and HALT (R344) -/

def execBkpt (k : BitVec 7) (g : PredField) (s : State) : Outcome :=
  runWord s g fun _ => .error (.trap .breakpoint 0 (w64 (k.toNat + 128)) 0)

def execTrap (k : BitVec 7) (g : PredField) (s : State) : Outcome :=
  runWord s g fun _ => .error (.trap .trapInstruction 0 (w64 k.toNat) 0)

/-- ERET arms the step of the next instruction itself, and a step armed for its thread invalidates the configurations of R170. -/
def execEret (g : PredField) (s : State) : Outcome :=
  match s.whoOf s.cur with
  | none => .fault .unlinkedState
  | some w =>
    if w.t.guard g then
      if !w.t.inHandler then .next (s.stopped w (.trap .privilege 0 0 0))
      else match checkTarget w.t.hpc with
        | .error e => .next (s.stopped w e)
        | .ok _ =>
          let s1 := if bitAt w.t.hcause.toNat 7 then s.dropOn w.cI w.tr.core else s
          .next (s1.setThread w.k { w.t.returnFromHandler with
            gapUntil := if w.t.hints.gap = 0 then none else some (s.clock + w64 w.t.hints.gap) })
    else .next (s.retire w.k w.t)

def execHalt (g : PredField) (s : State) : Outcome :=
  runWord s g fun w => .ok (s.raiseHalt w.cI
    { index := w.partIndex, cause := .haltRequest, pc := w.t.pc, info := 0x1000, thread := some w.k })

/-! ### Special registers (R52, R351, R352) -/

/-- Is a special register 64 bits wide? -/
def srWide (n : Nat) : Bool := [8, 14, 15, 18, 19, 20].contains n

/-- The value of a special register for the executing thread. -/
def State.srRead (s : State) (w : Who) (n : Nat) : Nat :=
  match n with
  | 0 => w.t.tid
  | 1 => w.t.crew
  | 2 => w.tr.k
  | 3 => w.e.index % 2 ^ 32
  | 4 => (w.e.troupes.length - 1) * 2 ^ 16 + w.e.index / 2 ^ 32 % 2 ^ 16
  | 5 => (s.launch w.e.launch).number.toNat
  | 6 => w.tr.core
  | 7 => w.t.part
  | 8 => s.clock.toNat
  | 9 => w.t.fmode.toNat
  | 10 => w.t.fflags.toNat
  | 11 => w.e.grid.gang.toNat
  | 12 => w.e.grid.gshape.toNat
  | 13 => (nth s.cads w.group 1).toNat
  | 14 => w.t.rsp.toNat
  | 15 => w.t.rsl.toNat
  | 16 => w.c.mapctl.toNat
  | 17 => w.t.hcause.toNat
  | 18 => w.t.hpc.toNat
  | 19 => w.t.haddr.toNat
  | 20 => w.t.hinfo.toNat
  | _ => w.t.carry.toNat

def execRdsr (d n : RegField) (g : PredField) (s : State) : Outcome :=
  runWord s g fun w => do
    let r := n.toNat
    let _ ← w.t.fetch [if srWide r then wr2 d else wr1 d] []
    require (decide (r < 22)) .specialRegister
    .ok (s.updThread w.k (·.setWide d.toNat (if srWide r then 2 else 1) (s.srRead w r) .b32))

/-- The effect of WRSR: RO fields keep their value, a set res0 bit or a rejected value traps. -/
def State.srWrite (s : State) (w : Who) (n v : Nat) : Except Stop State :=
  let bad : Except Stop State := fail .specialRegister
  let ok (c : Bool) (f : Thread → Thread) : Except Stop State := if c then .ok (s.updThread w.k f) else bad
  match n with
  | 9 => (ok (slice v 13 19 == 0 && slice v 3 5 == 0) fun t => { t with fmode := w32 v }).map (·.dropOn w.cI w.tr.core)
  | 10 => ok (slice v 5 27 == 0) fun t => { t with fflags := w32 v }
  | 12 => if decide (1 ≤ v) && decide (v ≤ 4) then .ok (s.updEns w.eI fun e => { e with grid := { e.grid with gshape := w32 v } }) else bad
  | 14 => ok (v % 8 == 0) fun t => { t with rsp := w64 v, stackTop := w64 v }
  | 15 => ok (v % 8 == 0) fun t => { t with rsl := w64 v }
  | 16 =>
    if slice v 12 20 == 0 && slice v 6 2 == 0 && slice v 3 1 == 0 && slice v 4 2 != 3 then
      .ok ((if bitAt v 0 then (s.dropAll w.cI).chill w.cI fun _ => true else s.dropAll w.cI).updCtx w.cI fun c => { c with mapctl := w32 (putSlice v 2 1 (slice c.mapctl.toNat 2 1)) })
    else bad
  | 17 => ok (w.t.inHandler && slice v 9 23 == 0 && slice v 6 1 == 0) fun t => { t with hcause := w32 (slice v 7 2 * 128 + t.hcause.toNat % 64) }
  | 18 => ok w.t.inHandler fun t => { t with hpc := w64 v }
  | 19 => ok w.t.inHandler fun t => { t with haddr := w64 v }
  | 20 => ok w.t.inHandler fun t => { t with hinfo := w64 v }
  | 21 => ok (slice v 2 30 == 0) fun t => { t with carry := w32 v }
  | _ => bad

def execWrsr (n a : RegField) (g : PredField) (s : State) : Outcome :=
  runWord s g fun w => do
    let r := n.toNat
    let x ← w.t.fetch [] [if srWide r then rd2 a [] else rd1 a []]
    s.srWrite w r (x.n 0)

/-! ### System calls (R353 to R356) -/

/-- The address of a system-call slot. -/
def Ctx.slotAddr (c : Ctx) (slot : Nat) : DWord := w64 (c.field 48 0 64 + 64 * slot)

/-- A trap SYSCALL_SLOT with its reason (R354). -/
def slotFault {α : Type} (reason : Nat) : Except Stop α := .error (.trap .syscallSlot 0 (w64 reason) 0)

/-- The slot a thread claims: which of the free ones is the device's choice; none where all are in use.
(DEDUCED: log entry 83.) -/
def Ctx.freeSlot (c : Ctx) (choice : Nat) : Option Nat :=
  let n := c.field 44 0 32
  if decide (choice < n) && !c.callSlots.contains choice then some choice
  else (upFrom 0 (c.callSlots.length + 1)).find? fun i => decide (i < n) && !c.callSlots.contains i

/-- A slot's bytes, checked as a thread's access; the cause's address is the slot (R354). -/
def State.slotPlaces (s : State) (w : Who) (slot : Nat) (u : Use) : Except Stop Placed :=
  s.checkGlobal w (w.c.slotAddr slot) 64 1 u false

/-- WAIT: parks until STATUS is DONE or ABANDONED, an acquire at .SY; then the result, and STATUS becomes IDLE.
(DEDUCED: log entry 83.) -/
def State.callWait (s : State) (w : Who) (c : Call) (d : RegField) : Except Stop State := do
  let p ← s.slotPlaces w c.slot { read := true, write := true }
  let (s, b) ← { s with viaL1 := false }.readNow w p.locs
  let status := ofBytes ((b.drop 56).take 4)
  if 5 ≤ status || ofBytes (b.take 8) != c.id.toNat then slotFault 4 else .ok ()
  if status = 3 || status = 4 then .ok () else .error (.park .syscall)
  let result := ofBytes ((b.drop 48).take 8)
  .ok (s.updThread w.k fun t =>
    let t1 := t.setRegs d.toNat [w32 result, w32 (result / 2 ^ 32), w32 status, 0] .b32
    let idle : PendingStore := { seq := 0, bytes := storeOf ((p.locs.drop 56).take 4) (toBytes 0 4), scope := .sy, born := s.moves }
    { (t1.pushStore idle).acquired .sy s.stamp with call := none })

/-- SYSCALL: x[a + 1] is not read. The slot's six relaxed stores of call ID and arguments, then one release store at .SY of RESULT, STATUS and NUM. The word executes
again while it waits: .N until that store is sent, .B at WAIT.
(DEDUCED: log entry 83.) -/
def syscallBody (d : Option RegField) (a : RegField) (s : State) (w : Who) : Except Stop State := do
  let x ← w.t.fetch (⟨a.toNat, 12, 4⟩ :: match d with
    | some d => [wr4 d]
    | none => []) [.regs a.toNat 1 1 [], .regs (a.toNat + 2) 10 1 []]
  match w.t.call, d with
  | some c, some d => if c.waiting then s.callWait w c d else slotFault 2
  | some c, none =>
    if c.waiting then
      if w.t.stores.any (fun p => p.order == .rel && p.scope == .sy && p.bytes.length == 16) then .error (.park .syscall)
      else .ok (s.updThread w.k fun t => { t with call := some { c with waiting := false } })
    else slotFault 2
  | none, _ =>
    match (match w.t.callSlot with
      | some n => some n
      | none => w.c.freeSlot (Config.choice s.moves)) with
    | none => slotFault 1
    | some slot =>
      let p ← s.slotPlaces w slot { write := true }
      let id := w.c.nextCall
      let arg (i : Nat) : List Byte := if i = 0 then toBytes id.toNat 8 else toBytes (ofWords (((x.ws 1).drop (2 * i - 2)).take 2)) 8
      let st (i : Nat) : PendingStore := { seq := 0, bytes := storeOf ((p.locs.drop (8 * i)).take 8) (arg i), scope := .sy, born := s.moves }
      let last : PendingStore :=
        { seq := 0, bytes := storeOf (p.locs.drop 48) (toBytes 0 8 ++ toBytes 1 4 ++ toBytes (x.n 0) 4)
          order := .rel, scope := .sy, born := s.moves }
      let s1 := s.updThread w.k fun t =>
        { ((upFrom 0 6).foldl (fun t i => t.pushStore (st i)) t).pushStore last with
          callSlot := some slot, call := some { slot := slot, id := id, waiting := true } }
      let s2 := s1.updCtx w.cI fun c => { c with
        nextCall := c.nextCall + 1
        callSlots := if c.callSlots.contains slot then c.callSlots else c.callSlots ++ [slot] }
      .error (.hold s2 (.parked .syscall s.clock))

/-- A trapped wait: the call stays outstanding. -/
def State.callTrapped (s : State) (w : Who) (e : Stop) : State :=
  match e with
  | .trap _ _ _ _ => (s.updThread w.k fun t => { t with call := t.call.map fun c => { c with waiting := false } }).stopped w e
  | _ => s.stopped w e

/-- A word that may wait for a call. -/
def runCall (s : State) (g : PredField) (body : Who → Except Stop State) : Outcome :=
  match s.whoOf s.cur with
  | none => .fault .unlinkedState
  | some w =>
    if w.t.guard g then
      match body w with
      | .ok s' => .next (s'.retire w.k w.t)
      | .error e => .next (s.callTrapped w e)
    else .next (s.retire w.k w.t)

def execSyscallB (d a : RegField) (g : PredField) (s : State) : Outcome := runCall s g (syscallBody (some d) a s)
def execSyscallN (a : RegField) (g : PredField) (s : State) : Outcome := runCall s g (syscallBody none a s)

def execSyswait (d : RegField) (g : PredField) (s : State) : Outcome :=
  runCall s g fun w => do
    let _ ← w.t.fetch [wr4 d] []
    match w.t.call with
    | none => slotFault 3
    | some c => s.callWait w c d

/-- The service's store of RESULT and STATUS becomes visible; a thread at WAIT is retried (R355, R356).
(DEDUCED: log entry 84.) -/
def execSyscallDone (thread : Nat) (result : DWord) (status : Word) (s : State) : Outcome :=
  match s.whoOf thread with
  | none => .next s
  | some w =>
    match w.t.call with
    | none => .next s
    | some c =>
      match s.engineTranslate w.c.asid w.tr.core (va57 (w.c.slotAddr c.slot) + 48) 12 {} with
      | .ok pas => .next (s.hostStore pas (toBytes result.toNat 8 ++ toBytes status.toNat 4))
      | .error _ => .next s

/-! ### The device heap (R357) -/

/-- A heap access of len bytes at an address: a permission failure is HEAP_CORRUPT there; a miss stalls.
(DESIGN CHOICE: log entry 30.) -/
def State.heapAccess (s : State) (w : Who) (a : Nat) : Except Stop Unit :=
  match s.checkGlobal w (w64 a) 16 16 { read := true, write := true } false with
  | .ok _ => .ok ()
  | .error (.trap _ _ _ _) => failAt .heapCorrupt a
  | .error e => .error e

/-- May a block of n bytes stand at an address of the context's heap?
(DESIGN CHOICE: log entry 16.) -/
def Ctx.blockFits (c : Ctx) (a n : Nat) : Bool :=
  let lo := c.field 56 0 64
  let hi := lo + c.field 64 0 64
  a % 16 == 0 && decide (0 < a) && decide (lo ≤ a) && decide (a + alignUp n 16 ≤ hi)
    && (c.heapHurt || c.heap.all fun b => decide (a + alignUp n 16 ≤ b.base) || decide (b.base + alignUp b.size 16 ≤ a))

/-- The 16-byte place of the heap that a number names.
(DESIGN CHOICE: log entry 16.) -/
def Ctx.heapPlace (c : Ctx) (n : Nat) : Nat := alignUp (c.field 56 0 64) 16 + 16 * (n % (c.field 64 0 64 / 16))

/-- ALLOC and FREE read the heap's metadata; where it may be damaged, whether they find that, and at which place of the heap, is the device's.
(DESIGN CHOICE: log entry 30.) -/
def State.readMetadata (s : State) (w : Who) : Except Stop Unit :=
  let n := Config.choice (s.freshKey 200)
  if w.c.heapHurt && n % 2 = 1 then failAt .heapCorrupt (w.c.heapPlace (n / 2)) else .ok ()

/-- ALLOC: where the block lies, and whether the heap can supply one, is the device's (log entry 16); the address it writes is 0 or that of a
block that R357 allows.
(DESIGN CHOICE: log entries 16, 30.) -/
def execAlloc (d a : RegField) (g : PredField) (s : State) : Outcome :=
  runWord s g fun w => do
    let x ← w.t.fetch [wr2 d] [rd1 a [.b32]]
    let n := (x.v 0).toNat
    let at_ := w.c.heapPlace (Config.choice s.moves)
    if n = 0 then .ok () else s.readMetadata w
    if n = 0 || !w.c.blockFits at_ n then .ok (s.setThread w.k (x.t.setWide d.toNat 2 0 .b32))
    else
      s.heapAccess w at_
      let t := (x.t.setWide d.toNat 2 at_ .b32).acquired .dv s.stamp
      .ok ((s.setThread w.k t).updCtx w.cI fun c => { c with heap := c.heap ++ [{ base := at_, size := n }] })

/-- FREE: a release at .DV; of 0 it does nothing.
(DESIGN CHOICE: log entries 16, 30.) -/
def execFree (a : RegField) (g : PredField) (s : State) : Outcome :=
  runWord s g fun w => do
    let x ← w.t.fetch [] [rd2 a [.b32]]
    let at_ := x.n 0
    if at_ = 0 then .ok (s.setThread w.k x.t)
    else if !(w.c.heap.any fun b => b.base == at_) then failAt .heapCorrupt at_
    else
      s.readMetadata w
      s.heapAccess w at_
      if s.released w.t .dv then
        .ok ((s.setThread w.k x.t).updCtx w.cI fun c => { c with heap := c.heap.filter fun b => b.base != at_ })
      else .error (.park .drain)

end Sys2Proof.Machine
end

