-- ==== Sys2Proof/Machine/Words.lean ====
section
/-! DEFINITION. Clause headers, hint words, and the unassigned words (02_encoding.md R32, R34 to R47). -/

namespace Sys2Proof.Machine

/-- A header waits at its place until the flags it selects are clear; then it sets the clause position (R36, R41). It counts as an instruction
for the arms of ERET (R346; log entry 15), and no transient window moves (R145).
(DEDUCED: log entry 15.) -/
def execClause (wait : BitVec 12) (a b l : BitVec 4) (_y : BitVec 1) (s : State) : Outcome :=
  match s.whoOf s.cur with
  | none => .fault .unlinkedState
  | some w =>
    if w.t.busyMask &&& wait.toNat != 0 then .next (s.stopped w (.park .flags))
    else
      let s1 := (s.enterConfig w).updThread w.k fun t => { t with
        clause   := { header := t.pc, len := l.toNat + 1, pos := 0, fa := a, fb := b }
        pc       := nextPc t.pc
        status   := .ready
        gapUntil := none
        resumed  := false
        armStep  := false
        armSkip  := false }
      .next (if w.t.armStep then s1.takeTrap w.k .singleStep (nextPc w.t.pc) 0 0 else s1)

/-- A hint word fills its place in the hint latch and changes nothing else (R42, R43).
(DEDUCED: log entry 15.) -/
def runHint (s : State) (f : HintLatch → HintLatch) : Outcome :=
  match s.whoOf s.cur with
  | none => .fault .unlinkedState
  | some w => .next (s.setThread w.k { w.t.advance with hints := f w.t.hints, status := .ready, resumed := false })

def execHintImm (p : BitVec 24) (s : State) : Outcome := runHint s fun h => { h with imm := some p }
/-- The payload with its five reserved bits (R45). -/
def execHintMod (p : BitVec 19) (s : State) : Outcome := runHint s fun h => { h with mod := some (BitVec.ofNat 24 (p.toNat * 32)) }
/-- Register, nc and ac in bits 23 to 15 (R46). -/
def execHintC (c : BitVec 7) (n a : BitVec 1) (s : State) : Outcome :=
  runHint s fun h => { h with c := some (BitVec.ofNat 24 (c.toNat * 2 ^ 17 + n.toNat * 2 ^ 16 + a.toNat * 2 ^ 15)) }
/-- ha, hb, hc, tr, gap and dfr in bits 23 to 15 (R47). -/
def execHintSched (x y z t : BitVec 1) (g : BitVec 4) (f : BitVec 1) (s : State) : Outcome :=
  runHint s fun h => { h with sched := some (BitVec.ofNat 24 (x.toNat * 2 ^ 23 + y.toNat * 2 ^ 22 + z.toNat * 2 ^ 21 + t.toNat * 2 ^ 20
    + g.toNat * 2 ^ 16 + f.toNat * 2 ^ 15)) }

/-- The latch with what a hint word gives in its place, by kind and payload (R42). -/
def HintLatch.give (h : HintLatch) (kind : Nat) (p : BitVec 24) : HintLatch :=
  match kind with
  | 0 => { h with imm := some p }
  | 1 => { h with mod := some p }
  | 2 => { h with c := some p }
  | _ => { h with sched := some p }

/-- A cause that fetch or decode finds in the unit that starts at the thread's PC, reported at the word that carries it: `run` are the kinds and
payloads of the hint words before that word, and `hint` says that it is one itself. The thread stands at that word when the handler is entered; at the
modified instruction the latch holds what its run gives, so that an ERET to it restores that, and at a hint word it is empty (R33, R42, R43).
(DEDUCED: log entry 15.) -/
def State.decodeTrap (s : State) (w : Who) (c : Cause) (at_ : DWord) (addr : DWord := 0) (run : List (Nat × BitVec 24) := []) (hint : Bool := false) :
    State :=
  let n := (at_ - w.t.pc).toNat / 4
  let inBody := decide (w.t.clause.pos + n < w.t.clause.len)
  (s.updThread w.k fun t => { t with
    pc := at_
    clause := if inBody then { t.clause with pos := t.clause.pos + n } else t.clause
    hints := if hint || !inBody then {} else run.foldl (fun h x => h.give x.1 x.2) t.hints }).takeTrap w.k c at_ addr 0

/-- A word with an unassigned operation traps at its place (R32). -/
def execIllegalOpcode (s : State) : Outcome :=
  match s.whoOf s.cur with
  | none => .fault .unlinkedState
  | some w => .next (s.takeTrap w.k .illegalOpcode w.t.pc 0 0)

end Sys2Proof.Machine
end

