-- ==== Sys2Proof/Machine/Dispatch.lean ====
section
/-! DEFINITION. The meaning of every row of the opcode table: one arm, one call. -/

namespace Sys2Proof.Machine

def exec (i : Instr) (s : State) : Host.Outcome State Fault Refusal :=
  match i with
  | .clause w a b l y => Sys2Proof.Machine.execClause w a b l y s
  | .hintImm p => Sys2Proof.Machine.execHintImm p s
  | .hintMod p => Sys2Proof.Machine.execHintMod p s
  | .hintC c n a => Sys2Proof.Machine.execHintC c n a s
  | .hintSched x y z t g f => Sys2Proof.Machine.execHintSched x y z t g f s
  | .bra g o => Sys2Proof.Machine.execBra g o s
  | .call g o => Sys2Proof.Machine.execCall g o s
  | .nop g => Sys2Proof.Machine.execNop g s
  | .brx d a g => Sys2Proof.Machine.execBrx d a g s
  | .callx d a g => Sys2Proof.Machine.execCallx d a g s
  | .ret g => Sys2Proof.Machine.execRet g s
  | .split d a g => Sys2Proof.Machine.execSplit d a g s
  | .join a g => Sys2Proof.Machine.execJoin a g s
  | .exit g => Sys2Proof.Machine.execExit g s
  | .exitS k g => Sys2Proof.Machine.execExitS k g s
  | .yield g => Sys2Proof.Machine.execYield g s
  | .sleep a g => Sys2Proof.Machine.execSleep a g s
  | .bkpt k g => Sys2Proof.Machine.execBkpt k g s
  | .trap k g => Sys2Proof.Machine.execTrap k g s
  | .eret g => Sys2Proof.Machine.execEret g s
  | .halt g => Sys2Proof.Machine.execHalt g s
  | .elect k a g => Sys2Proof.Machine.execElect k a g s
  | .movi d imm g => Sys2Proof.Machine.execMovi d imm g s
  | .iadd d a b g => Sys2Proof.Machine.execIadd d a b g s
  | .isub d a b g => Sys2Proof.Machine.execIsub d a b g s
  | .imul d a b g => Sys2Proof.Machine.execImul d a b g s
  | .imulh d a b g => Sys2Proof.Machine.execImulh d a b g s
  | .imad d a b g => Sys2Proof.Machine.execImad d a b g s
  | .imadw d a b g => Sys2Proof.Machine.execImadw d a b g s
  | .iadc d a b g => Sys2Proof.Machine.execIadc d a b g s
  | .lea d a b g => Sys2Proof.Machine.execLea d a b g s
  | .imin d a b g => Sys2Proof.Machine.execImin d a b g s
  | .iminN d a b g => Sys2Proof.Machine.execIminN d a b g s
  | .imax d a b g => Sys2Proof.Machine.execImax d a b g s
  | .imaxN d a b g => Sys2Proof.Machine.execImaxN d a b g s
  | .and d a b g => Sys2Proof.Machine.execAnd d a b g s
  | .or d a b g => Sys2Proof.Machine.execOr d a b g s
  | .xor d a b g => Sys2Proof.Machine.execXor d a b g s
  | .andn d a b g => Sys2Proof.Machine.execAndn d a b g s
  | .shl d a b g => Sys2Proof.Machine.execShl d a b g s
  | .shr d a b g => Sys2Proof.Machine.execShr d a b g s
  | .sar d a b g => Sys2Proof.Machine.execSar d a b g s
  | .rot d a b g => Sys2Proof.Machine.execRot d a b g s
  | .bfx d a b g => Sys2Proof.Machine.execBfx d a b g s
  | .bfxS d a b g => Sys2Proof.Machine.execBfxS d a b g s
  | .bfi d a b g => Sys2Proof.Machine.execBfi d a b g s
  | .sel d a b g => Sys2Proof.Machine.execSel d a b g s
  | .icmp k c a b g => Sys2Proof.Machine.execIcmp k c a b g s
  | .icmpN k c a b g => Sys2Proof.Machine.execIcmpN k c a b g s
  | .icmpAnd k c a b g => Sys2Proof.Machine.execIcmpAnd k c a b g s
  | .icmpOr k c a b g => Sys2Proof.Machine.execIcmpOr k c a b g s
  | .mov d a g => Sys2Proof.Machine.execMov d a g s
  | .iabs d a g => Sys2Proof.Machine.execIabs d a g s
  | .ineg d a g => Sys2Proof.Machine.execIneg d a g s
  | .not d a g => Sys2Proof.Machine.execNot d a g s
  | .popc d a g => Sys2Proof.Machine.execPopc d a g s
  | .clz d a g => Sys2Proof.Machine.execClz d a g s
  | .brev d a g => Sys2Proof.Machine.execBrev d a g s
  | .idot4 d a b g => Sys2Proof.Machine.execIdot4 d a b g s
  | .idot4N d a b g => Sys2Proof.Machine.execIdot4N d a b g s
  | .idot2 d a b g => Sys2Proof.Machine.execIdot2 d a b g s
  | .idot4Sn d a b g => Sys2Proof.Machine.execIdot4Sn d a b g s
  | .pset k t imm j g => Sys2Proof.Machine.execPset k t imm j g s
  | .ptox d g => Sys2Proof.Machine.execPtox d g s
  | .xtop a g => Sys2Proof.Machine.execXtop a g s
  | .iaddi d a imm g => Sys2Proof.Machine.execIaddi d a imm g s
  | .shiftiShl d a n g => Sys2Proof.Machine.execShiftiShl d a n g s
  | .shiftiShr d a n g => Sys2Proof.Machine.execShiftiShr d a n g s
  | .shiftiSar d a n g => Sys2Proof.Machine.execShiftiSar d a n g s
  | .shiftiRot d a n g => Sys2Proof.Machine.execShiftiRot d a n g s
  | .andi d a imm g => Sys2Proof.Machine.execAndi d a imm g s
  | .ori d a imm g => Sys2Proof.Machine.execOri d a imm g s
  | .fadd d a b g => Sys2Proof.Machine.execFadd d a b g s
  | .fsub d a b g => Sys2Proof.Machine.execFsub d a b g s
  | .fmul d a b g => Sys2Proof.Machine.execFmul d a b g s
  | .ffma d a b g => Sys2Proof.Machine.execFfma d a b g s
  | .fmin d a b g => Sys2Proof.Machine.execFmin d a b g s
  | .fmax d a b g => Sys2Proof.Machine.execFmax d a b g s
  | .fscl d a b g => Sys2Proof.Machine.execFscl d a b g s
  | .fdot2 d a b g => Sys2Proof.Machine.execFdot2 d a b g s
  | .fcmp k c a b g => Sys2Proof.Machine.execFcmp k c a b g s
  | .fcmpAnd k c a b g => Sys2Proof.Machine.execFcmpAnd k c a b g s
  | .fcmpOr k c a b g => Sys2Proof.Machine.execFcmpOr k c a b g s
  | .fcls k a b g => Sys2Proof.Machine.execFcls k a b g s
  | .frnd d a g => Sys2Proof.Machine.execFrnd d a g s
  | .ffrc d a g => Sys2Proof.Machine.execFfrc d a g s
  | .frcp d a g => Sys2Proof.Machine.execFrcp d a g s
  | .frsq d a g => Sys2Proof.Machine.execFrsq d a g s
  | .fsqrt d a g => Sys2Proof.Machine.execFsqrt d a g s
  | .fex2 d a g => Sys2Proof.Machine.execFex2 d a g s
  | .flg2 d a g => Sys2Proof.Machine.execFlg2 d a g s
  | .fsin d a g => Sys2Proof.Machine.execFsin d a g s
  | .fcos d a g => Sys2Proof.Machine.execFcos d a g s
  | .hadd2 d a b g => Sys2Proof.Machine.execHadd2 d a b g s
  | .hmul2 d a b g => Sys2Proof.Machine.execHmul2 d a b g s
  | .hfma2 d a b g => Sys2Proof.Machine.execHfma2 d a b g s
  | .hsub2 d a b g => Sys2Proof.Machine.execHsub2 d a b g s
  | .hmin2 d a b g => Sys2Proof.Machine.execHmin2 d a b g s
  | .hmax2 d a b g => Sys2Proof.Machine.execHmax2 d a b g s
  | .hcmp2 k c a b g => Sys2Proof.Machine.execHcmp2 k c a b g s
  | .cvt d a t r g => Sys2Proof.Machine.execCvt d a t r g s
  | .cvtHi d a t r g => Sys2Proof.Machine.execCvtHi d a t r g s
  | .cvtN d a t r g => Sys2Proof.Machine.execCvtN d a t r g s
  | .pack16 d a b g => Sys2Proof.Machine.execPack16 d a b g s
  | .pack8 d a b g => Sys2Proof.Machine.execPack8 d a b g s
  | .unpk16 d a g => Sys2Proof.Machine.execUnpk16 d a g s
  | .unpk8 d a g => Sys2Proof.Machine.execUnpk8 d a g s
  | .tag d a t g => Sys2Proof.Machine.execTag d a t g s
  | .tagq d a g => Sys2Proof.Machine.execTagq d a g s
  | .spcH d a g => Sys2Proof.Machine.execSpcH d a g s
  | .spcB d a g => Sys2Proof.Machine.execSpcB d a g s
  | .spx d a b g => Sys2Proof.Machine.execSpx d a b g s
  | .shflPick d a b g => Sys2Proof.Machine.execShflPick d a b g s
  | .shflRotl d a b g => Sys2Proof.Machine.execShflRotl d a b g s
  | .shflRotr d a b g => Sys2Proof.Machine.execShflRotr d a b g s
  | .shflSwap d a b g => Sys2Proof.Machine.execShflSwap d a b g s
  | .voteAll k j b g => Sys2Proof.Machine.execVoteAll k j b g s
  | .voteAny k j b g => Sys2Proof.Machine.execVoteAny k j b g s
  | .voteBallot d j b g => Sys2Proof.Machine.execVoteBallot d j b g s
  | .voteMatch d a b g => Sys2Proof.Machine.execVoteMatch d a b g s
  | .reduxAdd d a b g => Sys2Proof.Machine.execReduxAdd d a b g s
  | .reduxMin d a b g => Sys2Proof.Machine.execReduxMin d a b g s
  | .reduxMax d a b g => Sys2Proof.Machine.execReduxMax d a b g s
  | .reduxOr d a b g => Sys2Proof.Machine.execReduxOr d a b g s
  | .ld v0 v1 v2 v3 v4 => Sys2Proof.Machine.execLd v0 v1 v2 v3 v4 s
  | .ldw v0 v1 v2 v3 v4 => Sys2Proof.Machine.execLdw v0 v1 v2 v3 v4 s
  | .ldq v0 v1 v2 v3 v4 => Sys2Proof.Machine.execLdq v0 v1 v2 v3 v4 s
  | .st v0 v1 v2 v3 v4 => Sys2Proof.Machine.execSt v0 v1 v2 v3 v4 s
  | .stw v0 v1 v2 v3 v4 => Sys2Proof.Machine.execStw v0 v1 v2 v3 v4 s
  | .stq v0 v1 v2 v3 v4 => Sys2Proof.Machine.execStq v0 v1 v2 v3 v4 s
  | .lds v0 v1 v2 v3 v4 => Sys2Proof.Machine.execLds v0 v1 v2 v3 v4 s
  | .sts v0 v1 v2 v3 v4 => Sys2Proof.Machine.execSts v0 v1 v2 v3 v4 s
  | .ldsq v0 v1 v2 v3 v4 => Sys2Proof.Machine.execLdsq v0 v1 v2 v3 v4 s
  | .stsq v0 v1 v2 v3 v4 => Sys2Proof.Machine.execStsq v0 v1 v2 v3 v4 s
  | .ldfeK v0 v1 v2 v3 => Sys2Proof.Machine.execLdfeK v0 v1 v2 v3 s
  | .ldfeC v0 v1 v2 v3 => Sys2Proof.Machine.execLdfeC v0 v1 v2 v3 s
  | .stfe v0 v1 v2 v3 => Sys2Proof.Machine.execStfe v0 v1 v2 v3 s
  | .ldmx v0 v1 v2 v3 v4 => Sys2Proof.Machine.execLdmx v0 v1 v2 v3 v4 s
  | .stmx v0 v1 v2 v3 v4 => Sys2Proof.Machine.execStmx v0 v1 v2 v3 v4 s
  | .pref a g m => Sys2Proof.Machine.execPref a g m s
  | .cctlInv g => Sys2Proof.Machine.execCctlInv g s
  | .cctlCln a g => Sys2Proof.Machine.execCctlCln a g s
  | .cctlFlush a g => Sys2Proof.Machine.execCctlFlush a g s
  | .cctlRange d a g m => Sys2Proof.Machine.execCctlRange d a g m s
  | .ldc v0 v1 v2 v3 v4 => Sys2Proof.Machine.execLdc v0 v1 v2 v3 v4 s
  | .atomAdd v0 v1 v2 v3 => Sys2Proof.Machine.execAtomAdd v0 v1 v2 v3 s
  | .atomMin v0 v1 v2 v3 => Sys2Proof.Machine.execAtomMin v0 v1 v2 v3 s
  | .atomMax v0 v1 v2 v3 => Sys2Proof.Machine.execAtomMax v0 v1 v2 v3 s
  | .atomMinN v0 v1 v2 v3 => Sys2Proof.Machine.execAtomMinN v0 v1 v2 v3 s
  | .atomMaxN v0 v1 v2 v3 => Sys2Proof.Machine.execAtomMaxN v0 v1 v2 v3 s
  | .atomAnd v0 v1 v2 v3 => Sys2Proof.Machine.execAtomAnd v0 v1 v2 v3 s
  | .atomOr v0 v1 v2 v3 => Sys2Proof.Machine.execAtomOr v0 v1 v2 v3 s
  | .atomXor v0 v1 v2 v3 => Sys2Proof.Machine.execAtomXor v0 v1 v2 v3 s
  | .atomExch v0 v1 v2 v3 => Sys2Proof.Machine.execAtomExch v0 v1 v2 v3 s
  | .atomInc v0 v1 v2 v3 => Sys2Proof.Machine.execAtomInc v0 v1 v2 v3 s
  | .atomDec v0 v1 v2 v3 => Sys2Proof.Machine.execAtomDec v0 v1 v2 v3 s
  | .atomFadd v0 v1 v2 v3 => Sys2Proof.Machine.execAtomFadd v0 v1 v2 v3 s
  | .atomHadd2 v0 v1 v2 v3 => Sys2Proof.Machine.execAtomHadd2 v0 v1 v2 v3 s
  | .redAdd v0 v1 v2 v3 => Sys2Proof.Machine.execRedAdd v0 v1 v2 v3 s
  | .redMin v0 v1 v2 v3 => Sys2Proof.Machine.execRedMin v0 v1 v2 v3 s
  | .redMax v0 v1 v2 v3 => Sys2Proof.Machine.execRedMax v0 v1 v2 v3 s
  | .redMinN v0 v1 v2 v3 => Sys2Proof.Machine.execRedMinN v0 v1 v2 v3 s
  | .redMaxN v0 v1 v2 v3 => Sys2Proof.Machine.execRedMaxN v0 v1 v2 v3 s
  | .redAnd v0 v1 v2 v3 => Sys2Proof.Machine.execRedAnd v0 v1 v2 v3 s
  | .redOr v0 v1 v2 v3 => Sys2Proof.Machine.execRedOr v0 v1 v2 v3 s
  | .redXor v0 v1 v2 v3 => Sys2Proof.Machine.execRedXor v0 v1 v2 v3 s
  | .redExch v0 v1 v2 v3 => Sys2Proof.Machine.execRedExch v0 v1 v2 v3 s
  | .redInc v0 v1 v2 v3 => Sys2Proof.Machine.execRedInc v0 v1 v2 v3 s
  | .redDec v0 v1 v2 v3 => Sys2Proof.Machine.execRedDec v0 v1 v2 v3 s
  | .redFadd v0 v1 v2 v3 => Sys2Proof.Machine.execRedFadd v0 v1 v2 v3 s
  | .redHadd2 v0 v1 v2 v3 => Sys2Proof.Machine.execRedHadd2 v0 v1 v2 v3 s
  | .atomc v0 v1 v2 v3 => Sys2Proof.Machine.execAtomc v0 v1 v2 v3 s
  | .atomc64 v0 v1 v2 v3 => Sys2Proof.Machine.execAtomc64 v0 v1 v2 v3 s
  | .atomq v0 v1 v2 v3 => Sys2Proof.Machine.execAtomq v0 v1 v2 v3 s
  | .fence r p g => Sys2Proof.Machine.execFence r p g s
  | .cpyLd v0 v1 v2 v3 v4 => Sys2Proof.Machine.execCpyLd v0 v1 v2 v3 v4 s
  | .cpySt v0 v1 v2 v3 v4 => Sys2Proof.Machine.execCpySt v0 v1 v2 v3 v4 s
  | .cpygG v0 v1 v2 v3 v4 => Sys2Proof.Machine.execCpygG v0 v1 v2 v3 v4 s
  | .cpygS v0 v1 v2 v3 v4 => Sys2Proof.Machine.execCpygS v0 v1 v2 v3 v4 s
  | .cwait a c g => Sys2Proof.Machine.execCwait a c g s
  | .ctest v0 v1 v2 v3 v4 => Sys2Proof.Machine.execCtest v0 v1 v2 v3 v4 s
  | .cpyCb v0 v1 v2 v3 v4 => Sys2Proof.Machine.execCpyCb v0 v1 v2 v3 v4 s
  | .cpyc c g => Sys2Proof.Machine.execCpyc c g s
  | .cbinit a c g v => Sys2Proof.Machine.execCbinit a c g v s
  | .cbacq d c g v => Sys2Proof.Machine.execCbacq d c g v s
  | .cbcmt a c g v => Sys2Proof.Machine.execCbcmt a c g v s
  | .cbwait d c g v => Sys2Proof.Machine.execCbwait d c g v s
  | .cbrel a c g v => Sys2Proof.Machine.execCbrel a c g v s
  | .bar g => Sys2Proof.Machine.execBar g s
  | .ebar g => Sys2Proof.Machine.execEbar g s
  | .arrive d g => Sys2Proof.Machine.execArrive d g s
  | .await a g => Sys2Proof.Machine.execAwait a g s
  | .qpush a q g => Sys2Proof.Machine.execQpush a q g s
  | .qpop d q g => Sys2Proof.Machine.execQpop d q g s
  | .qpeek d q g => Sys2Proof.Machine.execQpeek d q g s
  | .qcfg a q g => Sys2Proof.Machine.execQcfg a q g s
  | .mma d a b g => Sys2Proof.Machine.execMma d a b g s
  | .mmas d a b g => Sys2Proof.Machine.execMmas d a b g s
  | .tld d a b g => Sys2Proof.Machine.execTld d a b g s
  | .tst d a b g => Sys2Proof.Machine.execTst d a b g s
  | .gridOn g => Sys2Proof.Machine.execGridOn g s
  | .gridOff g => Sys2Proof.Machine.execGridOff g s
  | .gang a g => Sys2Proof.Machine.execGang a g s
  | .opfence g => Sys2Proof.Machine.execOpfence g s
  | .gmma d a g => Sys2Proof.Machine.execGmma d a g s
  | .gmmat d a g => Sys2Proof.Machine.execGmmat d a g s
  | .gtld d a g => Sys2Proof.Machine.execGtld d a g s
  | .gtst d a g => Sys2Proof.Machine.execGtst d a g s
  | .gwait a g => Sys2Proof.Machine.execGwait a g s
  | .rboxG d a g => Sys2Proof.Machine.execRboxG d a g s
  | .tpay d a g => Sys2Proof.Machine.execTpay d a g s
  | .tdisp a g => Sys2Proof.Machine.execTdisp a g s
  | .mvtx d a g => Sys2Proof.Machine.execMvtx d a g s
  | .mprim d a g => Sys2Proof.Machine.execMprim d a g s
  | .mcnt a g => Sys2Proof.Machine.execMcnt a g s
  | .visrd d g m => Sys2Proof.Machine.execVisrd d g m s
  | .attr d a g => Sys2Proof.Machine.execAttr d a g s
  | .deriv d a g m => Sys2Proof.Machine.execDeriv d a g m s
  | .imld d a g => Sys2Proof.Machine.execImld d a g s
  | .imst d a g => Sys2Proof.Machine.execImst d a g s
  | .tex d a g m => Sys2Proof.Machine.execTex d a g m s
  | .tldi d a g => Sys2Proof.Machine.execTldi d a g s
  | .rbox v0 v1 v2 v3 => Sys2Proof.Machine.execRbox v0 v1 v2 v3 s
  | .rtri v0 v1 v2 v3 => Sys2Proof.Machine.execRtri v0 v1 v2 v3 s
  | .rnode v0 v1 v2 v3 => Sys2Proof.Machine.execRnode v0 v1 v2 v3 s
  | .rpin v0 v1 v2 v3 v4 => Sys2Proof.Machine.execRpin v0 v1 v2 v3 v4 s
  | .runpin v0 v1 v2 => Sys2Proof.Machine.execRunpin v0 v1 v2 s
  | .rgen v0 v1 v2 => Sys2Proof.Machine.execRgen v0 v1 v2 s
  | .bld a g => Sys2Proof.Machine.execBld a g s
  | .bldq d a g => Sys2Proof.Machine.execBldq d a g s
  | .bldw a g => Sys2Proof.Machine.execBldw a g s
  | .syscallB d a g => Sys2Proof.Machine.execSyscallB d a g s
  | .syscallN a g => Sys2Proof.Machine.execSyscallN a g s
  | .syswait d g => Sys2Proof.Machine.execSyswait d g s
  | .alloc d a g => Sys2Proof.Machine.execAlloc d a g s
  | .free a g => Sys2Proof.Machine.execFree a g s
  | .rdsr d n g => Sys2Proof.Machine.execRdsr d n g s
  | .wrsr n a g => Sys2Proof.Machine.execWrsr n a g s
  | .launch d a g => Sys2Proof.Machine.execLaunch d a g s
  | .lwait a g => Sys2Proof.Machine.execLwait a g s
  | .mapHint a g => Sys2Proof.Machine.execMapHint a g s
  | .mapOff a g => Sys2Proof.Machine.execMapOff a g s
  | .submission page whole sameFc pkt => Sys2Proof.Machine.execSubmission page whole sameFc pkt s
  | .queueMap queue slot => Sys2Proof.Machine.execQueueMap queue slot s
  | .queueUnmap queue => Sys2Proof.Machine.execQueueUnmap queue s
  | .placementOpportunity cores => Sys2Proof.Machine.execPlacementOpportunity cores s
  | .dependenceWrite addr value => Sys2Proof.Machine.execDependenceWrite addr value s
  | .registerClear troupe => Sys2Proof.Machine.execRegisterClear troupe s
  | .launchCompletion launch => Sys2Proof.Machine.execLaunchCompletion launch s
  | .preemptionRequest ctx cores => Sys2Proof.Machine.execPreemptionRequest ctx cores s
  | .preemptStarvation queue cores => Sys2Proof.Machine.execPreemptStarvation queue cores s
  | .victimSave ens => Sys2Proof.Machine.execVictimSave ens s
  | .preemptTimeout ctx => Sys2Proof.Machine.execPreemptTimeout ctx s
  | .trapEntry thread => Sys2Proof.Machine.execTrapEntry thread s
  | .haltLine ctx => Sys2Proof.Machine.execHaltLine ctx s
  | .haltRequest ctx => Sys2Proof.Machine.execHaltRequest ctx s
  | .debugHalt ctx => Sys2Proof.Machine.execDebugHalt ctx s
  | .contextCreation asid desc => Sys2Proof.Machine.execContextCreation asid desc s
  | .descriptorUpdate ctx desc => Sys2Proof.Machine.execDescriptorUpdate ctx desc s
  | .syscallDone thread result status => Sys2Proof.Machine.execSyscallDone thread result status s
  | .lwaitCounter thread value => Sys2Proof.Machine.execLwaitCounter thread value s
  | .feWaitExpired thread => Sys2Proof.Machine.execFeWaitExpired thread s
  | .translationLinkTimeout tag => Sys2Proof.Machine.execTranslationLinkTimeout tag s
  | .acknowledgementTimeout tag => Sys2Proof.Machine.execAcknowledgementTimeout tag s
  | .watchdog launch => Sys2Proof.Machine.execWatchdog launch s
  | .sleepExpiry thread => Sys2Proof.Machine.execSleepExpiry thread s
  | .issueGapExpiry thread => Sys2Proof.Machine.execIssueGapExpiry thread s
  | .regroupHoldExpiry thread => Sys2Proof.Machine.execRegroupHoldExpiry thread s
  | .heatEntryClear core head => Sys2Proof.Machine.execHeatEntryClear core head s
  | .refusalExpiry core head => Sys2Proof.Machine.execRefusalExpiry core head s
  | .mapperAnalysis core ctx head place => Sys2Proof.Machine.execMapperAnalysis core ctx head place s
  | .copyGranuleWrite copy granule => Sys2Proof.Machine.execCopyGranuleWrite copy granule s
  | .gridStep ens => Sys2Proof.Machine.execGridStep ens s
  | .gridMove ens => Sys2Proof.Machine.execGridMove ens s
  | .gridDrain ens => Sys2Proof.Machine.execGridDrain ens s
  | .riggerCommand cmd tree root memOk stats => Sys2Proof.Machine.execRiggerCommand cmd tree root memOk stats s
  | .reclamation ctx entry record => Sys2Proof.Machine.execReclamation ctx entry record s
  | .binRecord pass record => Sys2Proof.Machine.execBinRecord pass record s
  | .shadeThreadFormation pass tile order sizes => Sys2Proof.Machine.execShadeThreadFormation pass tile order sizes s
  | .flit crcOk recovered slots => Sys2Proof.Machine.execFlit crcOk recovered slots s
  | .linkTraining working => Sys2Proof.Machine.execLinkTraining working s
  | .retrainTimeout => Sys2Proof.Machine.execRetrainTimeout s
  | .rds agent tag unit => Sys2Proof.Machine.execRds agent tag unit s
  | .rdx agent tag unit => Sys2Proof.Machine.execRdx agent tag unit s
  | .upg agent tag unit => Sys2Proof.Machine.execUpg agent tag unit s
  | .wbm agent tag unit granules data => Sys2Proof.Machine.execWbm agent tag unit granules data s
  | .rdu agent tag unit => Sys2Proof.Machine.execRdu agent tag unit s
  | .wru agent tag unit enables data => Sys2Proof.Machine.execWru agent tag unit enables data s
  | .wrc agent tag unit enables data => Sys2Proof.Machine.execWrc agent tag unit enables data s
  | .atoms agent tag addr op compare new => Sys2Proof.Machine.execAtoms agent tag addr op compare new s
  | .memoryData unit => Sys2Proof.Machine.execMemoryData unit s
  | .snpinv unit tag => Sys2Proof.Machine.execSnpinv unit tag s
  | .snpfwds unit tag requester => Sys2Proof.Machine.execSnpfwds unit tag requester s
  | .snpfwdx unit tag requester => Sys2Proof.Machine.execSnpfwdx unit tag requester s
  | .cmp tag => Sys2Proof.Machine.execCmp tag s
  | .rspi agent unit wbp => Sys2Proof.Machine.execRspi agent unit wbp s
  | .rsps agent unit => Sys2Proof.Machine.execRsps agent unit s
  | .rspfwd agent unit kept => Sys2Proof.Machine.execRspfwd agent unit kept s
  | .gntack agent unit => Sys2Proof.Machine.execGntack agent unit s
  | .dats tag data => Sys2Proof.Machine.execDats tag data s
  | .date tag data => Sys2Proof.Machine.execDate tag data s
  | .datm tag data => Sys2Proof.Machine.execDatm tag data s
  | .datu tag data => Sys2Proof.Machine.execDatu tag data s
  | .xlrsp tag present frame size perms policy tracked => Sys2Proof.Machine.execXlrsp tag present frame size perms policy tracked s
  | .pgrsp tag halt => Sys2Proof.Machine.execPgrsp tag halt s
  | .xlinv tag asid base size => Sys2Proof.Machine.execXlinv tag asid base size s
  | .xlinvcmp tag => Sys2Proof.Machine.execXlinvcmp tag s
  | .presentcmp tag => Sys2Proof.Machine.execPresentcmp tag s
  | .powerOff => Sys2Proof.Machine.execPowerOff s
  | .powerOn => Sys2Proof.Machine.execPowerOn s
  | .cmdNoAction cmd => Sys2Proof.Machine.execCmdNoAction cmd s
  | .drainDone => Sys2Proof.Machine.execDrainDone s
  | .firmwareVerify ed25519 mlDsa version floor => Sys2Proof.Machine.execFirmwareVerify ed25519 mlDsa version floor s
  | .functionReady which => Sys2Proof.Machine.execFunctionReady which s
  | .mboxClear ones => Sys2Proof.Machine.execMboxClear ones s
  | .mctrClear core bit => Sys2Proof.Machine.execMctrClear core bit s
  | .gafferRegisterWrite offset value => Sys2Proof.Machine.execGafferRegisterWrite offset value s
  | .powerArbitration grant clock cads => Sys2Proof.Machine.execPowerArbitration grant clock cads s
  | .replayRateAdjust voltage clock => Sys2Proof.Machine.execReplayRateAdjust voltage clock s
  | .timingError core cleared storage => Sys2Proof.Machine.execTimingError core cleared storage s
  | .phaseLoss phase => Sys2Proof.Machine.execPhaseLoss phase s
  | .thermalThrottle sensor temp => Sys2Proof.Machine.execThermalThrottle sensor temp s
  | .thermalEmergency sensor temp => Sys2Proof.Machine.execThermalEmergency sensor temp s
  | .sramUncorrectable core => Sys2Proof.Machine.execSramUncorrectable core s
  | .illegalOpcode => Sys2Proof.Machine.execIllegalOpcode s
  | .obligationMet thread index fromL1 => Sys2Proof.Machine.execObligationMet thread index fromL1 s
  | .visibilityPoint thread index => Sys2Proof.Machine.execVisibilityPoint thread index s
  | .queueCreation ctx page ring base => Sys2Proof.Machine.execQueueCreation ctx page ring base s
  | .queueDisable queue => Sys2Proof.Machine.execQueueDisable queue s
  | .contextDestruction ctx => Sys2Proof.Machine.execContextDestruction ctx s
  | .memoryIslandPowerUp => Sys2Proof.Machine.execMemoryIslandPowerUp s
  | .present ctx surface plane => Sys2Proof.Machine.execPresent ctx surface plane s

end Sys2Proof.Machine
end

