-- ==== Sys2Proof/Machine/Issue.lean ====
section
/-! DEFINITION. Issuing a thread: the opcode map as the decoder reads a word (R48), the hints that each instruction accepts, the decode causes of a
hint run with its instruction (R33, R40, R42), breakpoints, readiness, and fragments of gang compatibility mode (02_encoding.md, R91, R112, R128
to R134, R151, R152, R182, R210, R288, R345, R358). The meaning of a decoded word comes in as a parameter. -/

namespace Sys2Proof.Machine

/-! ### The opcode map (R48) -/

/-- The three issue slots of a partition (R14, R48). -/
inductive Slot where
  | c | m | v
  deriving DecidableEq, Repr

/-- The major opcode, the sub-operation of form X and the minor code of form A of a word (R27). -/
def majorOf (n : Nat) : Nat := n / 2 ^ 26
def subOf (n : Nat) : Nat := slice n 5 7
def minorOf (n : Nat) : Nat := n % 4

/-- Is the word a hint; is it a clause header? -/
def isHint (n : Nat) : Bool := majorOf n == 1
def isHeader (n : Nat) : Bool := majorOf n == 0

/-- The slot of a word that is no hint. -/
def slotOf (n : Nat) : Slot :=
  let j := majorOf n
  if j = 0x17 then .m
  else if j = 0x3A then .v
  else if decide (j < 5) || j == 0x38 || j == 0x39 || decide (0x3E ≤ j) then .c
  else if j < 0x21 then .v
  else .m

/-- The instructions marked "a". -/
def marksA (n : Nat) : Bool :=
  let j := majorOf n
  [0x17, 0x21, 0x22, 0x23, 0x27, 0x29, 0x2B, 0x2D, 0x30, 0x31, 0x33, 0x34].contains j
  || (j == 0x36 && subOf n % 8 == 5)
  || (j == 0x3A && minorOf n != 3)
  || (j == 0x3B && subOf n == 9)
  || (j == 0x3C && [5, 6, 7, 8, 10, 11].contains (subOf n))
  || (j == 0x3D && [0, 1, 2, 5, 7].contains (subOf n))

/-- The instructions marked "b". -/
def marksB (n : Nat) : Bool :=
  let j := majorOf n
  [0x24, 0x25, 0x26, 0x28, 0x2A, 0x2C, 0x2E, 0x2F, 0x31, 0x32, 0x33, 0x34].contains j
  || (j == 0x36 && [0, 1, 2, 3, 6].contains (subOf n % 8))
  || (j == 0x3A && minorOf n != 2)
  || (j == 0x3C && [0, 2, 3, 9].contains (subOf n))
  || (j == 0x3D && subOf n == 6)

/-- R40 item 2: the instructions that must be the last word of their clause. -/
def endsClause (n : Nat) : Bool :=
  majorOf n == 2 || majorOf n == 3 || (majorOf n == 4 && [1, 2, 3, 6, 7, 12, 13].contains (subOf n))

/-- The control transfers after which a fragment can split (R152). -/
def isTransfer (n : Nat) : Bool := majorOf n == 2 || majorOf n == 3 || (majorOf n == 4 && [1, 2, 3, 6, 7].contains (subOf n))

/-! ### The hints each instruction accepts -/

/-- Whether an instruction names an operand c. -/
inductive COperand where
  | no | optional | required
  deriving DecidableEq, Repr

/-- What an instruction accepts: the bits of a HINT.MOD payload that may be set, HINT.IMM, HINT.C with or without nc and ac, and tr. -/
structure Accepts where
  mod : Nat := 0
  imm : Bool := false
  c   : COperand := .no
  nc  : Bool := false
  tr  : Bool := false
  deriving DecidableEq, Repr

/-- Fields of a HINT.MOD payload (R45). -/
def modNa : Nat := 2 ^ 23
def modAa : Nat := 2 ^ 22
def modNb : Nat := 2 ^ 21
def modAb : Nat := 2 ^ 20
def modNg : Nat := 2 ^ 19
def modSat : Nat := 2 ^ 18
def modSx : Nat := 2 ^ 17
def modRel : Nat := 2 ^ 16
def modAcq : Nat := 2 ^ 15
def modScp : Nat := 7 * 2 ^ 12
def modShf : Nat := 15 * 2 ^ 8
def modRnd : Nat := 7 * 2 ^ 5
def modOnA : Nat := modNa + modAa
def modOnAB : Nat := modNa + modAa + modNb + modAb

/-- The row of R91, R112, R134, R141, R156, R172, R182, R210, R214, R222, R236, R246, R249, R252, R280, R283, R288, R320, R344, R351, R355, R357
or of 03_formats.md that gives a word's hints. -/
def acceptsOf (n : Nat) : Accepts :=
  let m := minorOf n
  let u := subOf n
  match majorOf n with
  | 0x04 => { tr := u == 4 }
  | 0x05 | 0x12 | 0x13 => { imm := true, tr := true }
  | 0x06 => { mod := modOnAB + modSx + (if m = 3 then 0 else modSat), imm := true, tr := true }
  | 0x07 =>
    { mod := if m = 3 then modNb + modAb + modSx + modShf else modOnAB + modSx + (if m = 1 then 0 else modSat), imm := true, tr := true }
  | 0x08 => { mod := modOnAB, imm := true, tr := true }
  | 0x09 | 0x0A => { imm := true, tr := true }
  | 0x0B => { imm := true, c := if m = 3 then .optional else .no, tr := true }
  | 0x0C => { mod := modOnAB, imm := true }
  | 0x0D => { mod := if u = 1 || u = 2 then modSat else 0, tr := true }
  | 0x0E => { mod := modSat, imm := true, tr := true }
  | 0x0F => { tr := u == 1 }
  | 0x10 => { mod := modOnA + modSat + modSx, imm := true, tr := true }
  | 0x11 => { tr := true }
  | 0x14 => { mod := modOnAB + modSat + modRnd, imm := true, c := if m = 3 then .optional else .no, nc := m == 3, tr := true }
  | 0x15 =>
    { mod := match m with
        | 2 => modOnA + modSat + modRnd
        | 3 => modOnAB + modSat + modRnd
        | _ => modOnAB
      imm := true, c := if m = 3 then .optional else .no, nc := m == 3, tr := true }
  | 0x16 => { mod := if m = 3 then modOnA else modOnAB, imm := true }
  | 0x17 => { mod := modOnA + (if u = 0 then modRnd else 0) }
  | 0x18 => { mod := modOnAB + modSat + modRnd, imm := true, c := if m = 2 then .optional else .no, nc := m == 2, tr := true }
  | 0x19 => { mod := modOnAB, imm := true, tr := m != 2 }
  | 0x1A => { mod := modOnA + modSat, c := .optional, tr := true }
  | 0x1B => { mod := if m < 2 then 0 else modSx, imm := decide (m < 2), tr := true }
  | 0x1C | 0x1E => { tr := true }
  | 0x1D => { imm := m == 2, tr := true }
  | 0x1F => { tr := decide (2 ≤ m) }
  | 0x20 => { mod := if m = 0 then modSat + modSx else 0, tr := true }
  | 0x21 | 0x22 | 0x23 | 0x27 | 0x29 => { mod := modAcq + modScp, imm := true }
  | 0x2D => { mod := modAcq + modScp, imm := true, c := .required }
  | 0x24 | 0x25 | 0x26 | 0x28 | 0x2A | 0x32 => { mod := modRel + modScp, imm := true }
  | 0x2E => { mod := modRel + modScp, imm := true, c := .required }
  | 0x2B | 0x2C | 0x30 => { imm := true }
  | 0x31 => { mod := modAcq + modRel + modScp, imm := true, c := .optional }
  | 0x33 => { mod := modAcq + modRel + modScp, imm := true }
  | 0x34 => { mod := modAcq + modRel + modScp, imm := true, c := .required }
  | 0x37 => { tr := u % 8 == 1 || u % 8 == 3 }
  | 0x38 => { tr := u == 2 }
  | 0x39 => { tr := u % 8 == 1 || u % 8 == 2 }
  | 0x3A => { mod := if m < 2 then modNa + modNb + modAa + modSx + modSat else 0, c := .optional }
  | 0x3C => { c := if u = 8 || u = 9 || u = 10 || u = 11 then .required else .no }
  | 0x3D => { c := if u = 0 || u = 1 then .required else .no }
  | 0x3E => { tr := (u == 0 && m == 0) || u == 1 || u == 2 || u == 4 || u == 6 }
  | _ => {}

/-- A hint word: its address, kind and payload (R27). -/
structure HintWord where
  at_     : DWord
  kind    : Nat
  payload : Nat
  deriving DecidableEq, Repr

def hintOf (x : DWord × Nat) : HintWord := { at_ := x.1, kind := slice x.2 24 2, payload := slice x.2 0 24 }

/-- The hints that the latch holds already; what is wrong with one of them shows at the word that follows.
(DEDUCED: log entry 38.) -/
def HintLatch.held (h : HintLatch) (pc : DWord) : List HintWord :=
  [(0, h.imm), (1, h.mod), (2, h.c), (3, h.sched)].filterMap fun x => x.2.map fun p => { at_ := pc, kind := x.1, payload := p.toNat }

/-- Is an instruction eligible for a kind of hint (R42, R44 to R47)? -/
def eligible (n kind : Nat) : Bool :=
  !isHeader n && match kind with
    | 0 => (acceptsOf n).imm
    | 2 => (acceptsOf n).c != .no
    | _ => true

/-- Has a hint's payload a bit set that the instruction does not accept (R32, R44 to R47)? -/
def HintWord.refusedBy (h : HintWord) (n : Nat) : Bool :=
  let x := acceptsOf n
  match h.kind with
  | 0 => majorOf n == 5 && slice h.payload 16 8 != 0
  | 1 => h.payload &&& (2 ^ 24 - 1 - (x.mod ||| modNg)) != 0
  | 2 => !x.nc && slice h.payload 15 2 != 0
  | _ => !x.tr && bitAt h.payload 20

/-- The error that decoding one word finds. -/
def wordError (n : Nat) : Option DecodeError :=
  match decodeWord n with
  | .ok _ => none
  | .error e => some e

/-- The first decode cause of a unit in the order of R33, with the word that carries it: `words` are the unit's words from the thread's PC, the
latch holds what the run has given before, and `left` words remain in the clause; with none left the words are not of a clause, and a run does not
reach its end. Where two words carry one cause, the first is reported.
(DEDUCED: log entries 36, 38.) -/
def unitCause (latch : HintLatch) (pc : DWord) (fa fb : BitVec 4) (left : Nat) (words : List (DWord × Nat)) : Option (Cause × DWord) :=
  let hints := latch.held pc ++ (words.filter fun x => isHint x.2).map hintOf
  let last := words.find? fun x => !isHint x.2
  let illegal := words.filter fun x => wordError x.2 == some .illegalOpcode
  let reservedHint := hints.filter fun h => (words.any fun x => x.1 == h.at_ && isHint x.2 && wordError x.2 == some .reservedField)
    || match last with
      | some x => eligible x.2 h.kind && h.refusedBy x.2
      | none => false
  let given (k : Nat) : Bool := hints.any fun h => h.kind == k
  let reservedInstr : Bool := match last with
    | some x => wordError x.2 == some DecodeError.reservedField
        || ([0x10, 0x12, 0x13].contains (majorOf x.2) && bitAt x.2 11 && given 0)
        || ((acceptsOf x.2).c == COperand.required && !given 2)
    | none => false
  let orphans : List HintWord := match last with
    | none => if left = 0 then (upFrom 0 hints.length).filterMap fun i => hints[i]?.bind fun h =>
          if (hints.take i).any fun y => y.kind == h.kind then some h else none
        else hints
    | some x => (upFrom 0 hints.length).filterMap fun i => hints[i]?.bind fun h =>
        if !eligible x.2 h.kind || ((hints.take i).any fun y => y.kind == h.kind) then some h else none
  match illegal, reservedHint, last, orphans with
  | x :: _, _, _, _ => some (.illegalOpcode, x.1)
  | [], h :: _, _, _ => some (.reservedField, h.at_)
  | [], [], none, h :: _ => some (.hintOrphan, h.at_)
  | [], [], none, [] => none
  | [], [], some x, os =>
    if reservedInstr then some (.reservedField, x.1)
    else match os with
      | h :: _ => some (.hintOrphan, h.at_)
      | [] =>
        if isHeader x.2 || (endsClause x.2 && words.length != left) || (marksA x.2 && fa == 15) || (marksB x.2 && fb == 15) then
          some (.clauseMalformed, x.1)
        else none

/-- The first decode cause where a header must stand (R40 item 3): a word that is none, or starts a unit that is none, reports the causes of its unit
that come before CLAUSE_MALFORMED in the order of R33, else CLAUSE_MALFORMED.
(DEDUCED: log entry 37.) -/
def headerCause (pc : DWord) (words : List (DWord × Nat)) : Option (Cause × DWord) :=
  match unitCause {} pc 0 0 0 words with
  | some (.clauseMalformed, _) | none => if words.head?.any fun x => isHeader x.2 then none else some (.clauseMalformed, pc)
  | some c => some c

/-! ### Fetching (R26, R191) -/

/-- Why a fetch has no word: the page, or a unit that has been asked for. -/
inductive FetchEnd where
  | page (at_ : DWord) (p : PageStop)
  | wait (s : State)

/-- A core's fetched code with what the coherent view holds in some granules; the oldest make room, within what the core's L1 may hold.
(DEDUCED: log entry 39.) -/
def State.fillCode (s : State) (core : Nat) (pas : List Nat) : State :=
  let gs := (pas.map (· / 16)).dedup
  { s.updCore core (fun c => { c with
      code := keepLast c.l1Room ((c.code.filter fun l => !gs.contains l.granule) ++ s.linesOf gs (s.stamp + 1)) }) with
    stamp := s.stamp + 1 }

/-- The word at an address, through an execute translation of its page: what the core has fetched of it since the thread's last acquire, where the
turn says so, else what the coherent view holds (R191). After the last canonical address R26 and R126 do not say what is fetched: the model translates
the low 57 bits of the PC.
(DEDUCED: log entry 39; DESIGN CHOICE: log entry 94.) -/
def State.fetchWord (s : State) (w : Who) (a : DWord) : Except FetchEnd (State × Nat) :=
  match s.pageCheck w.c.asid w.tr.core (va57 a) { exec := true } with
  | .error p => .error (.page a p)
  | .ok e =>
    let pas := upFrom (e.phys (va57 a)) 4
    let code := (s.core w.tr.core).code
    if e.policy != .wb then
      match s.gather w.k { w.t with stores := [] } w.t.seq (e.places (va57 a) 4 (va57 a)) w.t.got false with
      | (s', some bs) => .ok (s', ofBytes bs)
      | (s', none) => .error (.wait s')
    else if s.viaL1 && linesHold code w.t.acqStamp pas then .ok (s, ofBytes (pas.map (lineByte code w.t.acqStamp)))
    else if s.allReadable pas then .ok (s.fillCode w.tr.core pas, s.readNat pas)
    else .error (.wait (s.acquireAll pas false w.behalf))

/-- The words of the unit that starts at an address: hints to the first other word, at most so many.
(DEDUCED: log entry 39.) -/
def State.fetchUnit (s : State) (w : Who) : Nat → DWord → Except FetchEnd (State × List (DWord × Nat))
  | 0, _ => .ok (s, [])
  | left + 1, a => do
    let (s1, n) ← s.fetchWord w a
    if isHint n then
      let (s2, r) ← s1.fetchUnit w left (a + 4)
      return (s2, (a, n) :: r)
    else return (s1, [(a, n)])

/-- How many words the thread's clause has left; at its end the next word must be a header (R41). -/
def ClausePos.left (p : ClausePos) : Nat := p.len - p.pos

/-- The unit at the thread's PC. Where a header must stand at most five words tell what is wrong with a unit: four kinds of hint and one word more. -/
def State.unitAt (s : State) (w : Who) : Except FetchEnd (State × List (DWord × Nat)) :=
  s.fetchUnit w (if w.t.clause.left = 0 then 5 else w.t.clause.left) w.t.pc

/-- A fetch that fails: PERMISSION_EXECUTE at the address that could not be fetched, or a stall (R26); or it waits for a unit.
(DEDUCED: log entry 39.) -/
def State.fetchStop (s : State) (w : Who) (e : FetchEnd) : State :=
  match e with
  | .page a (.deny _) =>
    let run := (upFrom 0 ((a - w.t.pc).toNat / 4)).filterMap fun i =>
      ((s.fetchWord w (w.t.pc + w64 (4 * i))).toOption.map fun x => (slice x.2 24 2, BitVec.ofNat 24 x.2))
    s.decodeTrap w .permissionExecute a a run
  | .page a p => s.stopped w (s.pageStop w (va57 a) { exec := true } p)
  | .wait s' => s'

/-- The lowest enabled breakpoint at an address (R345); none while skip is armed (R346).
(DEDUCED: log entry 40.) -/
def Who.breakpoint (w : Who) (a : DWord) : Option Nat :=
  if w.t.armSkip then none
  else (upFrom 0 4).find? fun i => bitAt (w.c.field (96 + 8 * i) 0 64) 0 && w.c.field (96 + 8 * i) 2 62 == a.toNat / 4

/-! ### Issuing one thread -/

/-- Does a thread wait at an instruction that it executes?
(DEDUCED: log entry 42.) -/
def Thread.waitsAt (t : Thread) : Bool :=
  match t.status with
  | .parked .slotV _ => false
  | .parked _ _ | .arrived _ _ | .latched _ _ | .barred _ => true
  | _ => false

/-- After a thread's turn: the instruction that it waits at, when it reached its regroup point, the partition's last bundle, and the configuration it
may leave.
(DEDUCED: log entries 42, 43, 45.) -/
def State.afterIssue (s : State) (w : Who) (i : Option Instr) : State :=
  let s1 := s.updThread w.k fun t =>
    let t1 := match i with
      | some i => if t.waitsAt then { t with issued := some i } else t
      | none => t
    { t1 with regroup := match t1.regroup with
        | some (pc, set, none) => some (pc, set, if t1.pc = pc then some s.clock else none)
        | r => r }
  let s2 := s1.configTurn w
  s2.updCore w.tr.core fun c => { c with
    lastPc := (w.t.part, w.t.pc, w.k) :: c.lastPc.filter fun x => !(x.1 == w.t.part && (s.ens (s.thread x.2.2).ens).ctx == w.cI) }

/-- An instruction executes for a thread. -/
def State.runInstr (run : Instr → State → Outcome) (s : State) (w : Who) (i : Instr) : Outcome :=
  match run i { s with cur := w.k } with
  | .next s' => .next (s'.afterIssue w (some i))
  | o => o

/-- The unit at the thread's PC, as fetched, is checked and its first word executes: breakpoint, decode causes, the slot-V park of R253. A hint word at
the PC of an ERET discards the latch that the ERET restored (R42).
(DEDUCED: log entries 38, 40, 41.) -/
def State.runUnit (run : Instr → State → Outcome) (s : State) (w : Who) (words : List (DWord × Nat)) : Outcome :=
  let left := w.t.clause.left
  let pc := w.t.pc
  let n := (words.head?.map (·.2)).getD 0
  let hit (x : DWord × Nat) : Bool := !isHint x.2 && !isHeader x.2 && (w.breakpoint x.1).isSome
  let cause := if left = 0 then headerCause pc words else unitCause w.t.hints pc w.t.clause.fa w.t.clause.fb left words
  let later := match cause with
    | some c => c.2 != pc && words.any fun x => x.1 == c.2 && hit x
    | none => false
  let trap (c : Cause) (a : DWord) : Outcome :=
    let before := words.filter fun x => decide (x.1.toNat < a.toNat)
    .next ((s.decodeTrap w c a 0 (before.map fun x => (slice x.2 24 2, BitVec.ofNat 24 x.2)) (words.any fun x => x.1 == a && isHint x.2)).afterIssue w none)
  if hit (pc, n) then .next ((s.takeTrap w.k .breakpoint pc 0 (w64 ((w.breakpoint pc).getD 0))).afterIssue w none)
  else match cause, decodeWord n with
    | some (.illegalOpcode, a), .error _ => if a = pc then s.runInstr run w .illegalOpcode else trap .illegalOpcode a
    | some c, .error _ => trap c.1 c.2
    | none, .error .illegalOpcode => s.runInstr run w .illegalOpcode
    | none, .error .reservedField => trap .reservedField pc
    | some c, .ok i => if later then s.runInstr run w i else trap c.1 c.2
    | none, .ok i =>
      if w.e.grid.on && words.any (fun x => !isHint x.2 && slotOf x.2 == .v) then .next (s.stopped w (.park .slotV))
      else s.runInstr run w i

/-- The word at the thread's PC: its unit is fetched, then checked, and the word executes. -/
def State.issueWord (run : Instr → State → Outcome) (s : State) (w : Who) : Outcome :=
  match s.unitAt w with
  | .error e => .next ((s.fetchStop w e).afterIssue w none)
  | .ok (s1, words) =>
    let fresh (t : Thread) : Thread :=
      { t with got := [], hints := if t.resumed && words.head?.any (fun x => isHint x.2) then {} else t.hints }
    (s1.updThread w.k fresh).runUnit run { w with t := fresh w.t } words

/-- May the thread issue: resident, not held, and with nothing that it waits for on another's account (R128, R132, R148, R167, R275, R347)? A handler
entry takes its ac, in which a halt may still undo it.
(DEDUCED: log entry 41.) -/
def State.mayIssue (s : State) (w : Who) : Bool :=
  w.e.phase == .resident && w.tr.cleared && s.ctxRuns w.cI && w.t.gapUntil.isNone && (!w.t.leaving || w.t.quiet)
  && !(w.t.entry.any fun e => e.at_ == s.clock)
  && match w.t.status with
    | .ready => true
    | .parked .queue _ => false
    | .parked .slotV _ => !w.e.grid.on
    | .parked _ _ | .latched _ _ => true
    | .stalled _ _ => !s.waits (.thread w.k)
    | _ => false

/-- One thread's turn: it executes again the instruction that it waits at, which a slot-V instruction does not while the grid is on (R253), or issues
its next word, behind the threads `ahead` of its bundle. It has left a regroup point where it stands.
(DEDUCED: log entries 10, 42.) -/
def State.issueOne (run : Instr → State → Outcome) (s : State) (w : Who) (ahead : List Nat := []) : Outcome :=
  let s1 := s.updThread w.k fun t => { t with
    leaving := false
    ahead := if t.status = .ready then ahead else t.ahead
    regroup := match t.regroup with
      | some (pc, _, _) => if t.pc = pc then none else t.regroup
      | none => none }
  match w.t.waitsAt, w.t.issued with
  | true, some i =>
    if w.e.grid.on && ((encode i).map slotOf) == some .v then .next (s1.stopped w (.park .slotV)) else s1.runInstr run w i
  | _, _ => s1.issueWord run w

/-- Every thread of a list issues, in its order, behind those of `ahead`. -/
def State.issueAll (run : Instr → State → Outcome) (s : State) (ks : List Nat) (ahead : List Nat := []) : Outcome :=
  match ks with
  | [] => .next s
  | k :: r =>
    match s.whoOf k with
    | none => s.issueAll run r ahead
    | some w =>
      match s.issueOne run w ahead with
      | .next s' => s'.issueAll run r (ahead ++ [k])
      | o => o

/-! ### Slots and bundles (R15, R129 to R132) -/

/-- The word that a thread executes next: the one it waits at, or the last of the unit at its PC, in whose slot the unit's hints issue too (R43). -/
def State.nextWord (s : State) (w : Who) : Option Nat :=
  match w.t.waitsAt, w.t.issued with
  | true, some i => encode i
  | _, _ => ((s.unitAt w).toOption.bind fun x => x.2.getLast?).map (·.2)

/-- The slot that the thread's next issue takes. -/
def State.issueSlot (s : State) (w : Who) : Slot :=
  match s.nextWord w with
  | some n => slotOf n
  | none => .c

/-- The place of a slot in the order in which the picker fills them (R129). -/
def Slot.order : Slot → Nat
  | .c => 0 | .m => 1 | .v => 2

/-- Has the partition yet to fill the slot in this ac: neither it nor a later one holds a bundle (R15, R129)?
(DEDUCED: log entry 10.) -/
def State.slotFree (s : State) (w : Who) (σ : Slot) : Bool :=
  (s.core w.tr.core).slots.all fun x => !(x.1 == w.t.part && x.2.2 == s.clock && decide (σ.order ≤ x.2.1))

/-- The slot holds a bundle in this ac; what stood there in earlier ones is past. -/
def State.takeSlot (s : State) (w : Who) (σ : Slot) : State :=
  s.updCore w.tr.core fun c => { c with slots := c.slots.filter (fun x => x.2.2 == s.clock) ++ [(w.t.part, σ.order, s.clock)] }

/-- After a BRX or CALLX that began in s0 each thread that it has moved records the threads of its bundle (R132); one whose guard was false records
nothing. -/
def State.recordBundle (s s0 : State) (word : Nat) (ks0 : List Nat) : State :=
  let ks := ks0.filter fun k =>
    let t := s.thread k
    let t0 := s0.thread k
    t.status == .ready && t.inHandler == t0.inHandler && (t.regroup != t0.regroup || t.pc != nextPc t0.pc)
  if majorOf word == 4 && (subOf word == 1 || subOf word == 2) then
    ks.foldl (fun s k => s.updThread k fun t => { t with regroup := t.regroup.map fun r => (r.1, ks, r.2.2) }) s
  else s

/-- May these threads be one bundle: of one context and partition, ready, at one PC, at most 16, and of no launch in gang compatibility mode (R15, R128,
R131, R151)? -/
def State.mayBundle (s : State) (w : Who) (ks : List Nat) : Bool :=
  decide (ks.length ≤ 16) && ks.all fun k => match s.whoOf k with
    | some v => s.mayIssue v && !s.regroupHolds k v.t && v.t.status == .ready && v.cI == w.cI && v.tr.core == w.tr.core && v.t.part == w.t.part
        && v.t.pc == w.t.pc && !pkCompat v.e.packet
    | none => false

/-! ### Gang compatibility mode (R151, R152, R358) -/

/-- The non-exited threads of a gang at one PC, with their lanes; those that have arrived at a rendezvous, a latch or a barrier have issued there.
(DEDUCED: log entry 44.) -/
def State.fragment (s : State) (w : Who) : List (Nat × Nat) :=
  (s.crewOf w.tr w.t.crew).filter fun x =>
    let t := s.thread x.2
    t.pc == w.t.pc && match t.status with
      | .exited | .arrived _ _ | .latched _ _ | .barred _ => false
      | _ => true

/-- Is a thread's next word, where it is a header, past the flag wait of R36? -/
def State.flagsClear (s : State) (w : Who) : Bool :=
  match ((s.unitAt w).toOption.bind fun x => x.2.head?).map fun x => decodeWord x.2 with
  | some (.ok (.clause wait _ _ _ _)) => w.t.busyMask &&& wait.toNat == 0
  | _ => true

/-- A split fragment's threads, to each of which its COMPAT_FRAGMENT is due: fragment mask and the gang's other threads (R152).
(DEDUCED: log entry 44.) -/
def State.splitFragment (s : State) (w : Who) (moved : List (Nat × Nat)) : State :=
  let crew := s.crewOf w.tr w.t.crew
  let live := s.liveMask crew
  let pcs := (moved.map fun x => (s.thread x.2).pc).dedup
  if pcs.length < 2 || !bitAt (w.c.field 76 0 32) 0 || w.c.handler = 0 then s
  else moved.foldl (fun s' x =>
    let m := maskOf ((moved.filter fun y => (s.thread y.2).pc == (s.thread x.2).pc).map (·.1))
    s'.updThread x.2 fun t => { t with compatPend := some (w32 m, w32 (live - (live &&& m))) }) s

/-- The threads of a fragment take its COMPAT_FRAGMENT together; a thread in a configuration leaves it (R167, R173).
(DEDUCED: log entry 44.) -/
def State.takeFragment (s : State) (w : Who) (members : List (Nat × Nat)) (pend : Word × Word) : State :=
  let info := w64 (pend.1.toNat % 65536 + pend.2.toNat % 65536 * 2 ^ 16 + w.t.crew * 2 ^ 32)
  members.foldl (fun s' x =>
    let s1 := (s'.updThread x.2 fun t => { t with compatPend := none }).takeTrap x.2 .compatFragment w.t.pc 0 info
    match s.whoOf x.2 with
    | some v => s1.configTurn v
    | none => s1) s

/-- A fragment issues its word for all its threads, in ascending lane; after a transfer it may split. -/
def State.runFragment (run : Instr → State → Outcome) (s : State) (w : Who) (members : List (Nat × Nat)) : Outcome :=
  let word := (s.nextWord w).getD 0
  match (s.takeSlot w (s.issueSlot w)).issueAll run (members.map (·.2)) with
  | .next s' =>
    let moved := members.filter fun x =>
      (s'.thread x.2).status == .ready && (s'.thread x.2).inHandler == (s.thread x.2).inHandler
    let s1 := s'.recordBundle s word (moved.map (·.2))
    .next (if isTransfer word && w.t.clause.left != 0 then s1.splitFragment w moved else s1)
  | o => o

/-- Does a thread wait still, after it has executed its instruction again: the state it leaves then? -/
def State.stillWaits (run : Instr → State → Outcome) (s : State) (k : Nat) : Option State :=
  match s.issueAll run [k] with
  | .next s' => if (s'.thread k).waitsAt then some s' else none
  | _ => none

/-- The turn of a fragment: its pending trap, or one word for all its threads where all of them are ready. A member that waits at the instruction is
ready once it would not wait again; until then it alone tries, and no other member issues.
(DEDUCED: log entries 10, 44.) -/
def State.issueFragment (run : Instr → State → Outcome) (s : State) (w : Who) : Outcome :=
  let members := s.fragment w
  let ready := members.all fun x => match s.whoOf x.2 with
    | some v => s.mayIssue v && (v.t.waitsAt || s.flagsClear v)
    | none => false
  match w.t.compatPend with
  | some pend =>
    let mine := members.filter fun x => (s.thread x.2).compatPend == some pend
    .next (if mine.all fun x => (s.thread x.2).quiet && (s.thread x.2).status == .ready then s.takeFragment w mine pend else s)
  | none =>
    if !ready || (members.any fun x => (s.thread x.2).compatPend.isSome) || !s.slotFree w (s.issueSlot w) then .next s
    else match ((members.filter fun x => (s.thread x.2).waitsAt).filterMap fun x => s.stillWaits run x.2).head? with
      | some s' => .next s'
      | none => s.runFragment run w members

/-- A turn of the picker: thread k issues, where it may and its slot is free. A thread at its regroup point that is found there now begins its hold (R132).
(DEDUCED: log entry 10.) -/
def State.issue (run : Instr → State → Outcome) (s : State) (k : Nat) : Outcome :=
  match s.whoOf k with
  | none => .next s
  | some w =>
    if !s.mayIssue w then .next s
    else if s.regroupHolds k w.t then
      .next (s.updThread k fun t => { t with regroup := t.regroup.map fun r => (r.1, r.2.1, some (r.2.2.getD s.clock)) })
    else if pkCompat w.e.packet then s.issueFragment run w
    else if !s.slotFree w (s.issueSlot w) then .next s
    else (s.takeSlot w (s.issueSlot w)).issueOne run w

/-- Threads by ascending sr.tid, and of those with the same by their place (R131, R284). -/
def State.byTid (s : State) (ks : List Nat) : List Nat :=
  let before (a b : Nat) : Bool := decide ((s.thread a).tid < (s.thread b).tid) || ((s.thread a).tid == (s.thread b).tid && decide (a < b))
  ks.dedup.foldl (fun l k => putBefore (before k) k l) []

/-- A turn of the picker: several threads of a PC group issue their next word as one bundle, in ascending sr.tid. -/
def State.issueBundle (run : Instr → State → Outcome) (s : State) (ks0 : List Nat) : Outcome :=
  let ks := s.byTid ks0
  match ks.head?.bind s.whoOf with
  | none => .next s
  | some w =>
    if !s.mayBundle w ks || !s.slotFree w (s.issueSlot w) then .next s
    else
      let word := (s.nextWord w).getD 0
      match (s.takeSlot w (s.issueSlot w)).issueAll run ks with
      | .next s' => .next (s'.recordBundle s word ks)
      | o => o

/-! ### A turn of the device -/

/-- An access that has stood for longer than the device's patience and that its turn would move on: a pending load binds, or a store or atomic reaches its
visibility point (R208). Every write does so within a finite time, since nothing else moves while one is overdue.
(DESIGN CHOICE: log entry 105.) -/
def State.overdue (s : State) : Option Act :=
  (upFrom 0 s.threads.length).findSome? fun k =>
    let t := s.thread k
    let old (born : Nat) : Bool := decide (Config.patience + born < s.moves)
    match (upFrom 0 t.loads.length).find? fun i => (t.loads[i]?).any fun l => old l.born && s.bindLoad k t l false != s with
    | some i => some (.bindNow k i)
    | none => ((upFrom 0 t.stores.length).find? fun i => (t.stores[i]?).any fun p => old p.born && s.showStore k t p != s).map fun i =>
        .showNow k i

/-- What moves next, and the state without it in the schedule (log entry 2): an overdue access first.
(DESIGN CHOICE: log entries 2, 105.) -/
def State.nextTurn (s : State) : Turn × State :=
  match s.overdue, s.schedule with
  | some a, _ => ({ act := a }, s)
  | none, t :: r => (t, { s with schedule := r })
  | none, [] => (Config.turn s.moves, s)

/-- The data of a store on its way fail their check where it is performed (R194). -/
def State.storeCheck (s : State) (thread index : Nat) : State :=
  match (s.thread thread).stores[index]? with
  | some p => s.dataCheck thread p.locs
  | none => s

/-- A clear engine's write check fails: the context halts, and no thread of the troupe has issued (R150). -/
def State.clearFault (s : State) (troupe part : Nat) : State :=
  match s.troupes[troupe]? with
  | none => s
  | some tr =>
    if tr.cleared || decide (4 ≤ part) || (s.ens tr.ens).phase != .resident then s
    else s.raiseHalt (s.ctxOfTroupe troupe) { index := 4 * tr.core + part, cause := .clearEngineFault }

/-- What moves in a turn. A word of the opcode table is never an event, and ILLEGAL_OPCODE comes of a fetched word only.
(DESIGN CHOICE: log entry 2.) -/
def State.perform (run : Instr → State → Outcome) (s : State) : Act → Outcome
  | .issue k => s.issue run k
  | .bundle ks => s.issueBundle run ks
  | .event i => if isEvent i && i != .illegalOpcode then run i s else .next s
  | .allocate unit => .next (s.allocateUnit unit)
  | .evict unit => .next (if s.asked unit [0, 1, 2, 3] then s else s.evictUnit unit)
  | .dropL1 core granule => .next (s.updCore core fun c => c.forget [granule * 16])
  | .dataCheck sector bad => .next { s with badSectors := if bad then insertUp sector s.badSectors else s.badSectors.filter (· != sector) }
  | .storeCheck thread index => .next (s.storeCheck thread index)
  | .readSource thread index word => .next (s.readSource thread index word)
  | .clearFault troupe part => .next (s.clearFault troupe part)
  | .readOwed thread index word => .next (match ((s.thread thread).owed[index]?).bind (·.late) with
    | some (.product key) => s.readProduct thread key word
    | some (.vert ..) | some (.prim ..) => s.readMesh thread index word
    | _ => s)
  | .land thread index mask => .next (s.landSome thread index mask)
  | .bindNow thread index => .next (match (s.thread thread).loads[index]? with
    | some l => s.bindLoad thread (s.thread thread) l false
    | none => s)
  | .showNow thread index => .next (match (s.thread thread).stores[index]? with
    | some p => s.showStore thread (s.thread thread) p
    | none => s)
  | .sample thread index mask => .next (s.readTexels thread index mask)
  | .copyCheck copy granule => .next (s.copyStoreBad copy granule)
  | .gridCheck ens => .next (s.gridStoreBad ens)
  | .scramble ctx entry addr n => .next (s.scramble ctx entry addr n)
  | .sense sensor temp => .next (s.sensed sensor temp)
  | .transmit i => .next (s.transmit i)
  | .credit cls n => .next (s.credit cls n)

/-- The time of a turn passes: ac, fc and Gaffer time, and what they complete at the relay queues (R8, R159, R379).
(DESIGN CHOICE: log entry 3.) -/
def State.passTime (s : State) (t : Turn) : State :=
  { s.passQueues t.dt with clock := s.clock + w64 t.dt, fclock := s.fclock + w64 t.df, gaffer := { s.gaffer with time := s.gaffer.time + w64 t.us }, moves := s.moves + 1, viaL1 := t.l1 }

/-- One turn: time passes, then a thread or a bundle issues, an event comes, or a cache acts.
(DESIGN CHOICE: log entries 2, 3.) -/
def State.takeTurn (run : Instr → State → Outcome) (s : State) : Outcome :=
  let x := s.nextTurn
  (x.2.passTime x.1).perform run x.1.act

/-! ### A word put where the next turn fetches (log entry 13) -/

/-- The first of some words, each under guard p7, that accepts all that a hint gives: IADD, LEA, FFMA, ATOM, MOVI, NOP.
(DESIGN CHOICE: log entry 13.) -/
def hintedWord (n : Nat) : Nat :=
  let h := hintOf (0, n)
  (([0x1800001C, 0x1C00001F, 0x5000001F, 0xC4000007, 0x14000007, 0x1000001C].find? fun m => eligible m h.kind && !h.refusedBy m)).getD 0x1000001C

/-- A packet of one thread with 128 registers.
(DESIGN CHOICE: log entry 13.) -/
def onePacket : Packet :=
  BitVec.ofNat 1024 0x10080000000010001000100000001000100010000000000000000000000000000000000000000000000000000000000000000

/-- The thread that meets the word.
(DESIGN CHOICE: log entry 13.) -/
def placedThread (s : State) (n : Nat) : Thread :=
  { ens := s.ensembles.length
    troupe := s.troupes.length
    regs := List.replicate 128 {}
    pc := if isHeader n then 0 else 4
    clause := if isHeader n then {} else { header := 0, len := if isHint n then 2 else 1, pos := 0, fa := 0, fb := 1 }
    hints := if (acceptsOf n).c = .required && !isHeader n && !isHint n then { c := some 0 } else {} }

/-- A context with one resident thread, and the word in a page that the thread's core may execute.
(DESIGN CHOICE: log entry 13.) -/
def State.placeWord (s : State) (n : Nat) : State :=
  let at_ := if isHeader n then 0 else 4
  let bytes := toBytes n 4 ++ (if isHint n then toBytes (hintedWord n) 4 else [])
  let page : TlbEntry :=
    { asid := 0, first := some 0, group := 0, base := 0, size := 4096, frame := 0, read := true, write := false, exec := true, policy := .wb, tracked := false }
  let tr : Troupe := { ens := s.ensembles.length, threads := [s.threads.length], cleared := true, latches := [none] }
  let e : Ensemble :=
    { ctx := s.contexts.length, launch := s.launches.length, packet := onePacket, phase := .resident, cores := [0], troupes := [s.troupes.length] }
  let l : Launch := { ctx := s.contexts.length, queue := s.queues.length, packet := onePacket, placed := 1, started := true, live := 1 }
  let s1 : State := { s with
    contexts  := s.contexts ++ [({} : Ctx)]
    queues    := s.queues ++ [({ ctx := s.contexts.length } : UQueue)]
    launches  := s.launches ++ [l]
    ensembles := s.ensembles ++ [e]
    troupes   := s.troupes ++ [tr]
    threads   := s.threads ++ [placedThread s n]
    tlb       := page :: s.tlb
    schedule  := [{ act := .issue s.threads.length }] }
  s1.writePhys (upFrom at_ bytes.length) bytes

end Sys2Proof.Machine
end

