-- ==== Sys2Proof/Machine/Step.lean ====
section
/-! DEFINITION. One step of the device: a turn (R8, R129 to R133), in which a thread issues one word or one event comes. -/

namespace Sys2Proof.Machine

/-- One step. -/
def step (s : State) : Host.Outcome State Fault Refusal := s.takeTurn exec

/-- s with a word where the next step fetches and runs it: the bits above nbits are 0.
(DESIGN CHOICE: log entry 13.) -/
def State.withFetchWord (s : State) (nbits w : Nat) : State := s.placeWord (w % 2 ^ (min nbits 32))

end Sys2Proof.Machine
end

