-- ==== Sys2Proof/Safety.lean ====
section
/-! DEFINITION. What claims about runs are stated in: a thread that executes a word, the state in which it has completed it, a step that is taken,
an invariant that every step keeps, and the invariant of the device's memory. -/

namespace Sys2Proof.Machine

/-- The thread of w is the one whose word executes, and its guard is true (R29). -/
def Executes (s : State) (w : Who) (g : PredField) : Prop := s.whoOf s.cur = some w ∧ w.t.guard g = true

/-- The answer of a word that has made s1 of its state: its thread goes on to the next word. -/
def State.wordDone (s1 : State) (w : Who) : Outcome := .next (s1.retire w.k w.t)

/-- The answer of a word that has made t of its thread and changed nothing else. -/
def State.threadDone (s : State) (w : Who) (t : Thread) : Outcome := (s.setThread w.k t).wordDone w

/-- The answer of a transfer that has made s1 of its state, the PC of its thread among it. -/
def State.jumpDone (s1 : State) (w : Who) : Outcome := .next (s1.finish w.k w.t)

/-- The answer of a word that traps with a cause, an address and a value, having done nothing (R54). -/
def State.trapped (s : State) (w : Who) (c : Cause) (addr info : DWord) : Outcome := .next (s.stopped w (.trap c addr info 0))

/-- The word that a sum of R91 leaves: the exact unsigned and signed results under .SAT, or the result modulo 2^32. -/
def clamped (h : HintLatch) (us ss : Int) : Word :=
  BitVec.ofInt 32 (if h.sat && h.sx then max (-2 ^ 31) (min ss (2 ^ 31 - 1)) else if h.sat then max 0 (min us (2 ^ 32 - 1)) else us)

/-- sr.carry after a sum (R92): V over C. -/
def carryOf (c : Bool) (ss : Int) : Word := (if ss < -2 ^ 31 ∨ 2 ^ 31 ≤ ss then 2 else 0) ||| (if c then 1 else 0)

/-- A thread with a 64-bit value in the pair from d, both registers tagged B32 (R6, R95). -/
def Thread.pairSet (t : Thread) (d : RegField) (v : DWord) : Thread :=
  (t.setReg d.toNat (v.truncate 32) .b32).setReg (d.toNat + 1) ((v >>> 32).truncate 32) .b32

/-- A thread with 1 added to each flag named (R37). -/
def Thread.raised (t : Thread) (fs : List Nat) : Thread :=
  fs.foldl (fun (t : Thread) f => { t with flags := updateAt t.flags f (· + 1) }) t

/-- The flags named can each take one more obligation: no count passes 63 (R37). -/
def Thread.Room (t : Thread) (fs : List Nat) : Prop := ∀ c ∈ (t.raised fs).flags, c ≤ 63

/-- A thread with an obligation added to those it owes (R37). -/
def Thread.owing (t : Thread) (o : Obligation) : Thread := { t.raised [o.flag] with owed := t.owed ++ [o] }

/-- The obligation that writes words from x[d] when the flag of "a" completes (R37). -/
def Thread.oweA (t : Thread) (d : Nat) (vs : List Word) (tag : Tag) : Obligation :=
  { flag := t.fa, writes := (upFrom d vs.length).zip (vs.map (fun v => (v, tag))) }

/-- The answer of a word that raised the flags fl, per element in `elems`: FP_EXCEPTION where sr.fmode enables one of them, and else its flags
are merged and it completes with what `done` makes of its thread (R109). -/
def State.arithDone (s : State) (w : Who) (x : Fetched) (fl : Nat) (elems : List Nat) (done : Thread → Thread) : Outcome :=
  if x.t.enabled fl = 0 then s.threadDone w (done (x.t.merge fl))
  else .next (s.stopped w (.trap .fpException 0 (x.t.fpInfo (x.fl ||| fl) elems) (x.fl ||| fl)))

/-- A rendezvous that completes when thread w arrives at it with mask m (R137, R138): `here` are the arrivals at its PC, w among them; w is in
its own mask; every lane named exists and, but for SPLIT, has not exited; all arrivals name the same mask; nobody arrived elsewhere names w or is
named; and every lane named has arrived or exited. -/
def Gathered (s : State) (w : Who) (i : Instr) (m : DWord) (here : List (Nat × Nat)) : Prop :=
  let crew := s.crewOf w.tr w.t.crew
  let mask := m.toNat % 65536
  let s1 := s.updThread w.k fun t => { t with status := .arrived i m }
  here = s1.arrivals crew w.t.pc w.t.lane ∧ bitAt mask w.t.lane = true ∧ (∀ l < 16, bitAt mask l = true → ∃ x ∈ crew, x.1 = l) ∧
    (isSplitWord i = false → ∀ x ∈ crew, bitAt mask x.1 = true → (s.thread x.2).status ≠ .exited) ∧
    (∀ x ∈ here, (s1.thread x.2).arrivalKey = some m) ∧
    (∀ x ∈ crew, (s.thread x.2).pc ≠ w.t.pc → ∀ n, (s.thread x.2).arrivalMask = some n → bitAt mask x.1 = false ∧ bitAt n w.t.lane = false) ∧
    (∀ x ∈ crew, bitAt mask x.1 = true → x ∈ here ∨ (s.thread x.2).status = .exited)

/-- The answer of a rendezvous that completed: s2 is s with the arrivals' registers written, and each arrival goes on to the next word. -/
def State.leaveAll (s : State) (w : Who) (i : Instr) (m : DWord) (here : List (Nat × Nat)) (done : State → State) : Outcome :=
  let s1 := s.updThread w.k fun t => { t with status := .arrived i m }
  .next (here.foldl (fun s2 x => s2.retire x.2 (s1.thread x.2)) (done s1))

/-- The step from a state is taken: neither a fault nor a refusal. -/
def Steps (s : State) : Prop := ∃ t, step s = .next t

/-- Every step from a state with the property ends in one with it. -/
def Kept (inv : State → Prop) : Prop := ∀ s t, inv s → step s = .next t → inv t

/-- The memory of the device is in its canonical form. -/
def MemoryCanonical (s : State) : Prop := Memory.wf s.mem = true

end Sys2Proof.Machine
end

