-- ==== Sys2Proof/Certificates/Slice0/Obligations.lean ====
section
/-! DEFINITION. The statements for the provers. -/

open Sys2Proof Sys2Proof.Machine

/-! ### Integers (R91 to R105) -/

/-- R92, R94: IADD, ISUB and IADC write the sum or difference, clamped under .SAT, and both bits of sr.carry; IADDI is IADD with its
immediate (R93). -/
def Obligations.IntegerSums : Prop :=
  ∀ (s : State) (w : Who) (g : PredField) (d a : RegField), Executes s w g →
    let h := w.t.hints
    (∀ (b : RegField) (x : Fetched), w.t.fetch [wr1 d] [rd1 a [.b32], w.t.bOperand b [.b32]] = .ok x →
      let ua := modInt h.na h.aa (x.v 0)
      let ub := modInt h.nb h.ab (x.v 1)
      let cin := w.t.carry.toNat % 2
      exec (.iadd d a b g) s = s.threadDone w { x.t.setReg d.toNat (clamped h (ua.toNat + ub.toNat) (ua.toInt + ub.toInt)) .b32 with
        carry := carryOf (decide (2 ^ 32 ≤ ua.toNat + ub.toNat)) (ua.toInt + ub.toInt) } ∧
      exec (.isub d a b g) s = s.threadDone w { x.t.setReg d.toNat (clamped h (ua.toNat - ub.toNat) (ua.toInt - ub.toInt)) .b32 with
        carry := carryOf (decide (ub.toNat ≤ ua.toNat)) (ua.toInt - ub.toInt) } ∧
      exec (.iadc d a b g) s = s.threadDone w { x.t.setReg d.toNat (clamped h (ua.toNat + ub.toNat + cin) (ua.toInt + ub.toInt + cin)) .b32 with
        carry := carryOf (decide (2 ^ 32 ≤ ua.toNat + ub.toNat + cin)) (ua.toInt + ub.toInt + cin) }) ∧
    (∀ (i : BitVec 9) (x : Fetched), w.t.fetch [wr1 d] [rd1 a [.b32], .imm (w.t.imm9 i true) .b32] = .ok x →
      let ua := modInt h.na h.aa (x.v 0)
      let ub := modInt h.nb h.ab (x.v 1)
      exec (.iaddi d a i g) s = s.threadDone w { x.t.setReg d.toNat (clamped h (ua.toNat + ub.toNat) (ua.toInt + ub.toInt)) .b32 with
        carry := carryOf (decide (2 ^ 32 ≤ ua.toNat + ub.toNat)) (ua.toInt + ub.toInt) })

/-- R94, R95: IMUL, IMULH, IMAD, IMADW and LEA; the old destination is read before anything is written, and none writes sr.carry. -/
def Obligations.IntegerProducts : Prop :=
  ∀ (s : State) (w : Who) (g : PredField) (d a b : RegField), Executes s w g →
    let h := w.t.hints
    (∀ x : Fetched, w.t.fetch [wr1 d] [rd1 a [.b32], w.t.bOperand b [.b32]] = .ok x →
      let ua := modInt h.na h.aa (x.v 0)
      let ub := modInt h.nb h.ab (x.v 1)
      exec (.imul d a b g) s = s.threadDone w (x.t.setReg d.toNat (clamped h (ua.toNat * ub.toNat) (ua.toInt * ub.toInt)) .b32) ∧
      exec (.imulh d a b g) s = s.threadDone w (x.t.setReg d.toNat
        (((if h.sx then ua.signExtend 64 * ub.signExtend 64 else ua.zeroExtend 64 * ub.zeroExtend 64) >>> 32).truncate 32) .b32)) ∧
    (∀ x : Fetched, w.t.fetch [wr1 d] [rd1 a [.b32], w.t.bOperand b [.b32], rd1 d [.b32]] = .ok x →
      let ua := modInt h.na h.aa (x.v 0)
      let ub := modInt h.nb h.ab (x.v 1)
      exec (.imad d a b g) s = s.threadDone w (x.t.setReg d.toNat
        (clamped h (ua.toNat * ub.toNat + (x.v 2).toNat) (ua.toInt * ub.toInt + (x.v 2).toInt)) .b32)) ∧
    (∀ x : Fetched, w.t.fetch [wr2 d] [rd1 a [.b32], w.t.bOperand b [.b32], rd2 d [.b32]] = .ok x →
      let ua := modInt h.na h.aa (x.v 0)
      let ub := modInt h.nb h.ab (x.v 1)
      exec (.imadw d a b g) s = s.threadDone w (x.t.pairSet d
        ((if h.sx then ua.signExtend 64 * ub.signExtend 64 else ua.zeroExtend 64 * ub.zeroExtend 64) + BitVec.ofNat 64 (x.n 2)))) ∧
    (∀ x : Fetched, w.t.fetch [wr2 d] [rd2 a [.b32], w.t.bOperand b [.b32]] = .ok x →
      let ub := modInt h.nb h.ab (x.v 1)
      exec (.lea d a b g) s = s.threadDone w (x.t.pairSet d
        (BitVec.ofNat 64 (x.n 0) + ((if h.sx then ub.signExtend 64 else ub.zeroExtend 64) <<< h.shf))))

/-- R96: the smaller or larger operand's pattern, signed or unsigned. -/
def Obligations.IntegerMinMax : Prop :=
  ∀ (s : State) (w : Who) (g : PredField) (d a b : RegField) (x : Fetched), Executes s w g →
    w.t.fetch [wr1 d] [rd1 a [.b32], w.t.bOperand b [.b32]] = .ok x →
    let u := modInt w.t.hints.na w.t.hints.aa (x.v 0)
    let v := modInt w.t.hints.nb w.t.hints.ab (x.v 1)
    exec (.imin d a b g) s = s.threadDone w (x.t.setReg d.toNat (BitVec.ofInt 32 (min u.toInt v.toInt)) .b32) ∧
    exec (.imax d a b g) s = s.threadDone w (x.t.setReg d.toNat (BitVec.ofInt 32 (max u.toInt v.toInt)) .b32) ∧
    exec (.iminN d a b g) s = s.threadDone w (x.t.setReg d.toNat (BitVec.ofNat 32 (min u.toNat v.toNat)) .b32) ∧
    exec (.imaxN d a b g) s = s.threadDone w (x.t.setReg d.toNat (BitVec.ofNat 32 (max u.toNat v.toNat)) .b32)

/-- R97: the logic instructions, each bit of the result; the raw operands' tags are not checked, and AND, OR, XOR, ANDN and NOT keep the tag
of operand a (R90). -/
def Obligations.Logic : Prop :=
  ∀ (s : State) (w : Who) (g : PredField) (d a : RegField), Executes s w g →
    (∀ (b : RegField) (x : Fetched), w.t.fetch [wr1 d] [rd1 a [], w.t.bOperand b []] = .ok x →
      exec (.and d a b g) s = s.threadDone w (x.t.setReg d.toNat (x.v 0 &&& x.v 1) (x.r 0).tag) ∧
      exec (.or d a b g) s = s.threadDone w (x.t.setReg d.toNat (x.v 0 ||| x.v 1) (x.r 0).tag) ∧
      exec (.xor d a b g) s = s.threadDone w (x.t.setReg d.toNat (x.v 0 ^^^ x.v 1) (x.r 0).tag) ∧
      exec (.andn d a b g) s = s.threadDone w (x.t.setReg d.toNat (x.v 0 &&& ~~~(x.v 1)) (x.r 0).tag)) ∧
    (∀ x : Fetched, w.t.fetch [wr1 d] [rd1 a []] = .ok x →
      exec (.not d a g) s = s.threadDone w (x.t.setReg d.toNat (~~~(x.v 0)) (x.r 0).tag) ∧
      exec (.popc d a g) s =
        s.threadDone w (x.t.setReg d.toNat (BitVec.ofNat 32 ((List.range 32).countP (fun i => (x.v 0).getLsbD i))) .b32) ∧
      exec (.clz d a g) s = s.threadDone w (x.t.setReg d.toNat (x.v 0).clz .b32) ∧
      exec (.brev d a g) s = s.threadDone w (x.t.setReg d.toNat (x.v 0).reverse .b32))

/-- R99: the shifts, whose count is the whole of operand b, and the shifts by an immediate. -/
def Obligations.Shifts : Prop :=
  ∀ (s : State) (w : Who) (g : PredField) (d a : RegField), Executes s w g →
    (∀ (b : RegField) (x : Fetched), w.t.fetch [wr1 d] [rd1 a [], w.t.bOperand b []] = .ok x →
      exec (.shl d a b g) s = s.threadDone w (x.t.setReg d.toNat (x.v 0 <<< (x.v 1).toNat) .b32) ∧
      exec (.shr d a b g) s = s.threadDone w (x.t.setReg d.toNat (x.v 0 >>> (x.v 1).toNat) .b32) ∧
      exec (.sar d a b g) s = s.threadDone w (x.t.setReg d.toNat ((x.v 0).sshiftRight (x.v 1).toNat) .b32) ∧
      exec (.rot d a b g) s = s.threadDone w (x.t.setReg d.toNat ((x.v 0).rotateLeft (x.v 1).toNat) .b32)) ∧
    (∀ (n : BitVec 5) (x : Fetched), w.t.fetch [wr1 d] [rd1 a []] = .ok x →
      exec (.shiftiShl d a n g) s = s.threadDone w (x.t.setReg d.toNat (x.v 0 <<< n.toNat) .b32) ∧
      exec (.shiftiShr d a n g) s = s.threadDone w (x.t.setReg d.toNat (x.v 0 >>> n.toNat) .b32) ∧
      exec (.shiftiSar d a n g) s = s.threadDone w (x.t.setReg d.toNat ((x.v 0).sshiftRight n.toNat) .b32) ∧
      exec (.shiftiRot d a n g) s = s.threadDone w (x.t.setReg d.toNat ((x.v 0).rotateLeft n.toNat) .b32))

/-- R100, R101: BFX, BFX.S and BFI bit by bit, of the field that operand b gives, clipped at bit 31; and SEL, whose mask is x[c] under HINT.C
and the old x[d] otherwise. -/
def Obligations.BitFields : Prop :=
  ∀ (s : State) (w : Who) (g : PredField) (d a b : RegField), Executes s w g →
    (∀ x : Fetched, w.t.fetch [wr1 d] [rd1 a [], w.t.bOperand b []] = .ok x →
      let pos := (x.v 1).toNat % 256
      let wid := min ((x.v 1).toNat / 256 % 256) (32 - pos)
      ∃ u v : Word, exec (.bfx d a b g) s = s.threadDone w (x.t.setReg d.toNat u .b32) ∧
        exec (.bfxS d a b g) s = s.threadDone w (x.t.setReg d.toNat v .b32) ∧
        ∀ i < 32, u.getLsbD i = (decide (i < wid) && (x.v 0).getLsbD (pos + i)) ∧
          v.getLsbD i = (decide (0 < wid) && (x.v 0).getLsbD (pos + min i (wid - 1)))) ∧
    (∀ x : Fetched, w.t.fetch [wr1 d] [rd1 a [], w.t.bOperand b [], rd1 d []] = .ok x →
      let pos := (x.v 1).toNat % 256
      let wid := min ((x.v 1).toNat / 256 % 256) (32 - pos)
      ∃ u : Word, exec (.bfi d a b g) s = s.threadDone w (x.t.setReg d.toNat u .b32) ∧
        ∀ i < 32, u.getLsbD i = if pos ≤ i ∧ i < pos + wid then (x.v 0).getLsbD (i - pos) else (x.v 2).getLsbD i) ∧
    (∀ x : Fetched, w.t.fetch [wr1 d] [rd1 a [], w.t.bOperand b [], .regs (w.t.hints.cReg.getD d.toNat) 1 1 []] = .ok x →
      exec (.sel d a b g) s = s.threadDone w (x.t.setReg d.toNat ((x.v 0 &&& x.v 2) ||| (x.v 1 &&& ~~~(x.v 2)))
        (if (x.r 0).tag = (x.r 1).tag then (x.r 0).tag else .b32)))

/-- R102, R103, R104: the compares write their predicate and nothing else, and PSET, PTOX and XTOP move predicates. The condition is given
for every assigned code. -/
def Obligations.Compares : Prop :=
  ∀ (s : State) (w : Who) (g k : PredField), Executes s w g →
    (∀ (c : BitVec 4) (a b : RegField) (x : Fetched), c.toNat < 12 →
      w.t.fetch [] [rd1 a [.b32], w.t.bOperand b [.b32]] = .ok x →
      let u := modInt w.t.hints.na w.t.hints.aa (x.v 0)
      let v := modInt w.t.hints.nb w.t.hints.ab (x.v 1)
      let holds (uns : Bool) : Prop :=
        (c = 0 → u = v) ∧ (c = 1 → u ≠ v) ∧
        (c = 2 → if uns then u.toNat < v.toNat else u.toInt < v.toInt) ∧ (c = 3 → if uns then u.toNat ≤ v.toNat else u.toInt ≤ v.toInt) ∧
        (c = 4 → if uns then v.toNat < u.toNat else v.toInt < u.toInt) ∧ (c = 5 → if uns then v.toNat ≤ u.toNat else v.toInt ≤ u.toInt) ∧
        (c = 6 → u.toNat < v.toNat) ∧ (c = 7 → u.toNat ≤ v.toNat) ∧ (c = 8 → v.toNat < u.toNat) ∧ (c = 9 → v.toNat ≤ u.toNat) ∧
        (c = 10 → u &&& v ≠ 0) ∧ (c = 11 → u &&& v = 0)
      ∃ r rn : Bool, (r = true ↔ holds false) ∧ (rn = true ↔ holds true) ∧
        exec (.icmp k c a b g) s = s.threadDone w (x.t.setPred k.toNat r) ∧
        exec (.icmpN k c a b g) s = s.threadDone w (x.t.setPred k.toNat rn) ∧
        exec (.icmpAnd k c a b g) s = s.threadDone w (x.t.setPred k.toNat (w.t.pred k.toNat && r)) ∧
        exec (.icmpOr k c a b g) s = s.threadDone w (x.t.setPred k.toNat (w.t.pred k.toNat || r))) ∧
    (∀ (tt : BitVec 4) (i j : PredField),
      exec (.pset k tt i j g) s = s.threadDone w (w.t.setPred k.toNat
        (tt.getLsbD (2 * (w.t.pred i.toNat).toNat + (w.t.pred j.toNat).toNat)))) ∧
    (∀ (d : RegField) (x : Fetched), w.t.fetch [wr1 d] [] = .ok x →
      exec (.ptox d g) s = s.threadDone w (x.t.setReg d.toNat ((1#1 ++ w.t.preds).zeroExtend 32) .b32)) ∧
    (∀ (a : RegField) (x : Fetched), w.t.fetch [] [rd1 a []] = .ok x →
      exec (.xtop a g) s = s.threadDone w { x.t with preds := (x.v 0).truncate 7 })

/-- R93, R97, R98: the moves, ANDI, ORI, IABS and INEG. -/
def Obligations.MovesAndImmediates : Prop :=
  ∀ (s : State) (w : Who) (g : PredField) (d a : RegField), Executes s w g →
    (∀ (i : BitVec 16) (x : Fetched), w.t.fetch [wr1 d] [] = .ok x →
      exec (.movi d i g) s = s.threadDone w (x.t.setReg d.toNat
        (match w.t.hints.imm with | some p => p.truncate 16 ++ i | none => i.signExtend 32) .b32)) ∧
    (∀ (i : BitVec 9) (x : Fetched), w.t.fetch [wr1 d] [rd1 a []] = .ok x →
      let imm : Word := match w.t.hints.imm with | some p => p ++ i.truncate 8 | none => i.zeroExtend 32
      exec (.mov d a g) s = s.threadDone w (x.t.setReg d.toNat (x.v 0) (x.r 0).tag) ∧
      exec (.andi d a i g) s = s.threadDone w (x.t.setReg d.toNat (x.v 0 &&& imm) (x.r 0).tag) ∧
      exec (.ori d a i g) s = s.threadDone w (x.t.setReg d.toNat (x.v 0 ||| imm) (x.r 0).tag)) ∧
    (∀ x : Fetched, w.t.fetch [wr1 d] [rd1 a [.b32]] = .ok x →
      let most : Int → Word := fun e => BitVec.ofInt 32 (if w.t.hints.sat then min e (2 ^ 31 - 1) else e)
      exec (.iabs d a g) s = s.threadDone w (x.t.setReg d.toNat (most |(x.v 0).toInt|) .b32) ∧
      exec (.ineg d a g) s = s.threadDone w (x.t.setReg d.toNat (most (-(x.v 0).toInt)) .b32))

/-- R105: the dot products, exact and reduced once, clamped under .SAT. -/
def Obligations.DotProducts : Prop :=
  ∀ (s : State) (w : Who) (g : PredField) (d a b : RegField), Executes s w g →
    let sx8 (v : Word) (i : Nat) : Int := ((v >>> (8 * i)).truncate 8 : BitVec 8).toInt
    let zx8 (v : Word) (i : Nat) : Int := ((v >>> (8 * i)).truncate 8 : BitVec 8).toNat
    let sx16 (v : Word) (i : Nat) : Int := ((v >>> (16 * i)).truncate 16 : BitVec 16).toInt
    let held (uns : Bool) (e : Int) : Word :=
      BitVec.ofInt 32 (if !w.t.hints.sat then e else if uns then max 0 (min e (2 ^ 32 - 1)) else max (-2 ^ 31) (min e (2 ^ 31 - 1)))
    (∀ x : Fetched, w.t.fetch [wr1 d] [rd1 a [.i8x4, .b32, .n8x4], w.t.bOperand b [.i8x4, .b32, .n8x4], rd1 d [.b32]] = .ok x →
      exec (.idot4 d a b g) s = s.threadDone w (x.t.setReg d.toNat (held false ((x.v 2).toInt + sx8 (x.v 0) 0 * sx8 (x.v 1) 0
        + sx8 (x.v 0) 1 * sx8 (x.v 1) 1 + sx8 (x.v 0) 2 * sx8 (x.v 1) 2 + sx8 (x.v 0) 3 * sx8 (x.v 1) 3)) .b32)) ∧
    (∀ x : Fetched, w.t.fetch [wr1 d] [rd1 a [.n8x4, .b32, .i8x4], w.t.bOperand b [.n8x4, .b32, .i8x4], rd1 d [.b32]] = .ok x →
      exec (.idot4N d a b g) s = s.threadDone w (x.t.setReg d.toNat (held true ((x.v 2).toNat + zx8 (x.v 0) 0 * zx8 (x.v 1) 0
        + zx8 (x.v 0) 1 * zx8 (x.v 1) 1 + zx8 (x.v 0) 2 * zx8 (x.v 1) 2 + zx8 (x.v 0) 3 * zx8 (x.v 1) 3)) .b32)) ∧
    (∀ x : Fetched, w.t.fetch [wr1 d] [rd1 a [.i8x4, .b32, .n8x4], w.t.bOperand b [.n8x4, .b32, .i8x4], rd1 d [.b32]] = .ok x →
      exec (.idot4Sn d a b g) s = s.threadDone w (x.t.setReg d.toNat (held false ((x.v 2).toInt + sx8 (x.v 0) 0 * zx8 (x.v 1) 0
        + sx8 (x.v 0) 1 * zx8 (x.v 1) 1 + sx8 (x.v 0) 2 * zx8 (x.v 1) 2 + sx8 (x.v 0) 3 * zx8 (x.v 1) 3)) .b32)) ∧
    (∀ x : Fetched, w.t.fetch [wr1 d] [rd1 a [.i16x2, .b32], w.t.bOperand b [.i16x2, .b32], rd1 d [.b32]] = .ok x →
      exec (.idot2 d a b g) s = s.threadDone w (x.t.setReg d.toNat (held false ((x.v 2).toInt + sx16 (x.v 0) 0 * sx16 (x.v 1) 0
        + sx16 (x.v 0) 1 * sx16 (x.v 1) 1)) .b32))

/-! ### Floating point and formats (R62 to R88, R107 to R124) -/

/-- R113 to R116: the F32 arithmetic. Each result is the exact result rounded once in the mode of HINT.MOD rnd, with the flags of that rounding and of its
operands; a signalling NaN raises NV. -/
def Obligations.FloatArithmetic : Prop :=
  ∀ (s : State) (w : Who) (g : PredField) (d a b : RegField), Executes s w g →
    let h := w.t.hints
    (∀ x : Fetched, w.t.fetch [wr1 d] [rd1 a wantF32, w.t.bOperand b wantF32] = .ok x →
      let u := f32Val h.na h.aa (x.v 0)
      let v := f32Val h.nb h.ab (x.v 1)
      let sum := fResult fF32 h [u, v] (u.add h.rmode v)
      let dif := fResult fF32 h [u, v] (u.add h.rmode (v.modify true false))
      let prd := fResult fF32 h [u, v] (u.mul v)
      let ub := fF32.modBits h.na h.aa (x.v 0).toNat
      let vb := fF32.modBits h.nb h.ab (x.v 1).toNat
      exec (.fadd d a b g) s = s.arithDone w x sum.2 [] (fun t => t.setReg d.toNat (w32 sum.1) .f32) ∧
      exec (.fsub d a b g) s = s.arithDone w x dif.2 [] (fun t => t.setReg d.toNat (w32 dif.1) .f32) ∧
      exec (.fmul d a b g) s = s.arithDone w x prd.2 [] (fun t => t.setReg d.toNat (w32 prd.1) .f32) ∧
      exec (.fmin d a b g) s = s.arithDone w x (minMax fF32 false ub vb).2 [] (fun t => t.setReg d.toNat (w32 (minMax fF32 false ub vb).1) .f32) ∧
      exec (.fmax d a b g) s = s.arithDone w x (minMax fF32 true ub vb).2 [] (fun t => t.setReg d.toNat (w32 (minMax fF32 true ub vb).1) .f32)) ∧
    (∀ x : Fetched, w.t.fetch [wr1 d] [rd1 a wantF32, w.t.bOperand b wantF32, w.t.addend d wantF32] = .ok x →
      let r := FOp.fma.apply fF32 h (f32Val h.na h.aa (x.v 0)) (f32Val h.nb h.ab (x.v 1)) (f32Val h.nc h.ac (x.v 2))
      exec (.ffma d a b g) s = s.arithDone w x r.2 [] (fun t => t.setReg d.toNat (w32 r.1) .f32)) ∧
    (∀ x : Fetched, w.t.fetch [wr1 d] [rd1 a wantF32, w.t.bOperand b [.b32]] = .ok x →
      let u := f32Val h.na h.aa (x.v 0)
      let r := fResult fF32 h [u] (u.scale (x.v 1).toInt, 0)
      exec (.fscl d a b g) s = s.arithDone w x r.2 [] (fun t => t.setReg d.toNat (w32 r.1) .f32)) ∧
    (∀ x : Fetched, w.t.fetch [wr1 d] [rd1 a [.f16x2, .bf16x2], w.t.bOperand b [w.t.packedTag a], w.t.addend d wantF32] = .ok x →
      let el := fun (neg abs : Bool) (v : Word) (i : Nat) => packedVal (w.t.packedTag a) neg abs v i
      let u0 := el h.na h.aa (x.v 0) 0
      let u1 := el h.na h.aa (x.v 0) 1
      let v0 := el h.nb h.ab (x.v 1) 0
      let v1 := el h.nb h.ab (x.v 1) 1
      let c := f32Val h.nc h.ac (x.v 2)
      let p := (u0.mul v0).1.add h.rmode (u1.mul v1).1
      let e := p.1.add h.rmode c
      let r := fResult fF32 h [u0, u1, v0, v1, c] (e.1, (u0.mul v0).2 ||| (u1.mul v1).2 ||| (p.2 ||| e.2))
      exec (.fdot2 d a b g) s = s.arithDone w x r.2 [] (fun t => t.setReg d.toNat (w32 r.1) .f32))

/-- R117 to R119: the F32 compares and FCLS, whose predicate is the condition's truth and whose only flag is NV for a signalling NaN (none for
FCLS). -/
def Obligations.FloatCompares : Prop :=
  ∀ (s : State) (w : Who) (g k : PredField) (c : BitVec 4) (a b : RegField), Executes s w g →
    let h := w.t.hints
    (∀ x : Fetched, w.t.fetch [] [rd1 a wantF32, w.t.bOperand b wantF32] = .ok x →
      let u := f32Val h.na h.aa (x.v 0)
      let v := f32Val h.nb h.ab (x.v 1)
      let fl := if u.isSNaN || v.isSNaN then flagNV else 0
      let r := floatCond c.toNat u v
      exec (.fcmp k c a b g) s = s.arithDone w x fl [] (fun t => t.setPred k.toNat r) ∧
      exec (.fcmpAnd k c a b g) s = s.arithDone w x fl [] (fun t => t.setPred k.toNat (w.t.pred k.toNat && r)) ∧
      exec (.fcmpOr k c a b g) s = s.arithDone w x fl [] (fun t => t.setPred k.toNat (w.t.pred k.toNat || r))) ∧
    (∀ x : Fetched, w.t.fetch [] [rd1 a wantF32, w.t.bOperand b []] = .ok x →
      exec (.fcls k a b g) s = s.threadDone w
        (x.t.setPred k.toNat ((x.v 1).toNat &&& floatClass (f32Val h.na h.aa (x.v 0)) != 0)))

/-- R120, R121: the packed instructions act on each half as the F32 ones do, in the format of operand a's tag; HCMP2 writes p[k] from the
low half and p[k + 1] from the high half. -/
def Obligations.PackedFloat : Prop :=
  ∀ (s : State) (w : Who) (g : PredField) (d a b : RegField), Executes s w g →
    let h := w.t.hints
    let tag := w.t.packedTag a
    let f := packedFmt tag
    let both (x : Fetched) (r : Nat → Nat × Nat) : Outcome :=
      s.arithDone w x ((r 0).2 ||| (r 1).2) [(r 0).2, (r 1).2] (fun t => t.setReg d.toNat (tag.pack [(r 0).1, (r 1).1]) tag)
    (∀ x : Fetched, w.t.fetch [wr1 d] [rd1 a [.f16x2, .bf16x2], w.t.bOperand b [tag]] = .ok x →
      let u := packedVal tag h.na h.aa (x.v 0)
      let v := packedVal tag h.nb h.ab (x.v 1)
      exec (.hadd2 d a b g) s = both x (fun i => fResult f h [u i, v i] ((u i).add h.rmode (v i))) ∧
      exec (.hsub2 d a b g) s = both x (fun i => fResult f h [u i, v i] ((u i).add h.rmode ((v i).modify true false))) ∧
      exec (.hmul2 d a b g) s = both x (fun i => fResult f h [u i, v i] ((u i).mul (v i))) ∧
      exec (.hmin2 d a b g) s = both x (fun i => minMax f false (f.modBits h.na h.aa (tag.elem (x.v 0) i)) (f.modBits h.nb h.ab (tag.elem (x.v 1) i))) ∧
      exec (.hmax2 d a b g) s = both x (fun i => minMax f true (f.modBits h.na h.aa (tag.elem (x.v 0) i)) (f.modBits h.nb h.ab (tag.elem (x.v 1) i)))) ∧
    (∀ x : Fetched, w.t.fetch [wr1 d] [rd1 a [.f16x2, .bf16x2], w.t.bOperand b [tag], w.t.addend d [tag]] = .ok x →
      exec (.hfma2 d a b g) s = both x (fun i => FOp.fma.apply f h (packedVal tag h.na h.aa (x.v 0) i) (packedVal tag h.nb h.ab (x.v 1) i)
        (packedVal tag h.nc h.ac (x.v 2) i))) ∧
    (∀ (k : PredField) (c : BitVec 4) (x : Fetched), w.t.fetch [] [rd1 a [.f16x2, .bf16x2], w.t.bOperand b [tag]] = .ok x →
      let u := packedVal tag h.na h.aa (x.v 0)
      let v := packedVal tag h.nb h.ab (x.v 1)
      let fl := fun i => (u i).nv ||| (v i).nv
      exec (.hcmp2 k c a b g) s = s.arithDone w x (fl 0 ||| fl 1) [fl 0, fl 1]
        (fun t => (t.setPred k.toNat (floatCond c.toNat (u 0) (v 0))).setPred (k.toNat + 1) (floatCond c.toNat (u 1) (v 1))))

/-- R122 to R124: the functions of one operand owe their result to the clause's "a" flag. NaNs, infinities and zeros give the table's results,
and every other operand the rounded or bounded result; where the bound leaves several results open the device's own is taken
(Config.funaryResult, log entry 7). -/
def Obligations.Functions : Prop :=
  ∀ (s : State) (w : Who) (g : PredField) (d a : RegField) (x : Fetched), Executes s w g → w.t.fetch [wr1 d] [rd1 a wantF32] = .ok x →
    w.t.Room [w.t.fa] →
    let bits := fF32.modBits w.t.hints.na w.t.hints.aa (x.v 0).toNat
    let out (i : Instr) (r : Nat × Nat) : Prop :=
      exec i s = s.arithDone w x r.2 [] (fun t => t.owing (t.oweA d.toNat [w32 r.1] .f32))
    (∀ sg, fF32.decode bits = .nan sg → ∀ i ∈ [Instr.frnd d a g, .ffrc d a g, .frcp d a g, .frsq d a g, .fsqrt d a g, .fex2 d a g, .flg2 d a g,
      .fsin d a g, .fcos d a g], out i (0x7FC00000, if sg then flagNV else 0)) ∧
    (∀ n : Bool, fF32.decode bits = .inf n →
      let inf := if n then 0xFF800000 else 0x7F800000
      let ifPos (v : Nat) := if n then (0x7FC00000, flagNV) else (v, 0)
      out (.frnd d a g) (inf, 0) ∧ out (.ffrc d a g) (0x7FC00000, flagNV) ∧ out (.frcp d a g) (if n then 0x80000000 else 0, 0) ∧
      out (.frsq d a g) (ifPos 0) ∧ out (.fsqrt d a g) (ifPos 0x7F800000) ∧ out (.fex2 d a g) (if n then 0 else 0x7F800000, 0) ∧
      out (.flg2 d a g) (ifPos 0x7F800000) ∧ out (.fsin d a g) (0x7FC00000, flagNV) ∧ out (.fcos d a g) (0x7FC00000, flagNV)) ∧
    (∀ (n : Bool) (e : Int), fF32.decode bits = .num n 0 e →
      let nought := if n then 0x80000000 else 0
      let inf := if n then 0xFF800000 else 0x7F800000
      out (.frnd d a g) (nought, 0) ∧ out (.ffrc d a g) (0, 0) ∧ out (.frcp d a g) (inf, flagDZ) ∧ out (.frsq d a g) (inf, flagDZ) ∧
      out (.fsqrt d a g) (nought, 0) ∧ out (.fex2 d a g) (0x3F800000, 0) ∧ out (.flg2 d a g) (0xFF800000, flagDZ) ∧ out (.fsin d a g) (nought, 0) ∧
      out (.fcos d a g) (0x3F800000, 0)) ∧
    (∀ (n : Bool) (m : Nat) (e : Int), fF32.decode bits = .num n m e →
      out (.frnd d a g) (rndFinite w.t.hints.rmode n m e) ∧ out (.ffrc d a g) (frcFinite n m e) ∧ out (.frcp d a g) (rcpFinite (w32 bits) n m e) ∧
      out (.frsq d a g) (rsqFinite (w32 bits) n m e) ∧ out (.fsqrt d a g) (sqrtFinite n m e) ∧ out (.fex2 d a g) (ex2Finite (w32 bits) n m e) ∧
      out (.flg2 d a g) (lg2Finite (w32 bits) n m e) ∧ out (.fsin d a g) (trigFinite false (w32 bits) n m e) ∧
      out (.fcos d a g) (trigFinite true (w32 bits) n m e))

/-- R80 to R86: CVT, CVT.HI and CVT.N trap FORMAT_UNSUPPORTED on a pair of formats that they do not support; else, where no flag that they raise is
enabled, they leave every converted element in its place with the destination's tag and merge the flags, and where one is, they trap
FP_EXCEPTION. PACK16, PACK8, UNPK16, UNPK8, TAG and TAGQ leave their result and its tag; TAG with the code of ACC traps.
Where it goes beyond the rules' words it states the model's reading: log entries 73, 74. -/
def Obligations.FormatInstructions : Prop :=
  ∀ (s : State) (w : Who) (g : PredField) (d a b : RegField), Executes s w g →
    (∀ (form : CvtForm) (c : BitVec 4) (rnd : BitVec 3) (x : Fetched), let h := cvtShape form w.t a c
      w.t.fetch [⟨d.toNat, h.gd, h.gd⟩] (cvtSrcs form h w.t d a) = .ok x →
      let rs := cvtResults form h w.t x rnd
      let fl := orAll (rs.map (·.2))
      let i : Instr := match form with | .plain => .cvt d a c rnd g | .hi => .cvtHi d a c rnd g | .uns => .cvtN d a c rnd g
      (cvtUnsupported h.src h.dst form w.t.hints.cReg.isSome = true → exec i s = s.trapped w .formatUnsupported 0 0) ∧
      (cvtUnsupported h.src h.dst form w.t.hints.cReg.isSome = false → x.t.enabled fl = 0 →
        exec i s = s.threadDone w (cvtWritten form h (x.t.merge fl) d (rs.map (·.1)))) ∧
      (cvtUnsupported h.src h.dst form w.t.hints.cReg.isSome = false → x.t.enabled fl ≠ 0 → exec i s =
        .next (s.stopped w (.trap .fpException 0 (x.t.fpInfo (x.fl ||| fl) (rs.map (·.2))) (x.fl ||| fl))))) ∧
    (∀ x : Fetched, w.t.fetch [wr1 d] [rd1 a [], w.t.bOperand b []] = .ok x →
      exec (.pack16 d a b g) s = s.threadDone w (x.t.setReg d.toNat ((x.v 1).truncate 16 ++ (x.v 0).truncate 16)
        (if (x.r 0).tag.elemBits = 16 then (x.r 0).tag else .b32))) ∧
    (∀ x : Fetched, w.t.fetch [wr1 d] [rd1 a [], w.t.bOperand b [], rd1 d []] = .ok x →
      exec (.pack8 d a b g) s = s.threadDone w (x.t.setReg d.toNat
        (((x.v 1).truncate 8 : BitVec 8) ++ ((x.v 0).truncate 8 : BitVec 8) ++ ((x.v 2 >>> 16).truncate 16 : BitVec 16))
        (if (x.r 0).tag.elemBits = 8 then (x.r 0).tag else .b32))) ∧
    (∀ x : Fetched, w.t.fetch [wr2 d] [rd1 a []] = .ok x →
      let el (i : Nat) : BitVec 16 := (x.v 0 >>> (16 * i)).truncate 16
      let tag := if w.t.hints.sx then .b32 else if (x.r 0).tag.elemBits = 16 then (x.r 0).tag else .b32
      exec (.unpk16 d a g) s = s.threadDone w (x.t.setRegs d.toNat
        ([0, 1].map fun i => if w.t.hints.sx then (el i).signExtend 32 else (el i).zeroExtend 32) tag)) ∧
    (∀ x : Fetched, w.t.fetch [wr4 d] [rd1 a []] = .ok x →
      let el (i : Nat) : BitVec 8 := (x.v 0 >>> (8 * i)).truncate 8
      let tag := if w.t.hints.sx then .b32 else if (x.r 0).tag.elemBits = 8 then (x.r 0).tag else .b32
      exec (.unpk8 d a g) s = s.threadDone w (x.t.setRegs d.toNat
        ([0, 1, 2, 3].map fun i => if w.t.hints.sx then (el i).signExtend 32 else (el i).zeroExtend 32) tag)) ∧
    (∀ (c : BitVec 4) (x : Fetched), w.t.fetch [wr1 d] [rd1 a []] = .ok x →
      (c ≠ 15 → exec (.tag d a c g) s = s.threadDone w (x.t.setReg d.toNat (x.v 0) (Tag.ofCode c.toNat))) ∧
      (c = 15 → exec (.tag d a c g) s = s.trapped w .formatUnsupported 0 0) ∧
      exec (.tagq d a g) s = s.threadDone w (x.t.setReg d.toNat (w32 (x.r 0).tag.code) .b32))

/-- R87, R88: SPC keeps the two elements of four that outrank the others, in their order, with their indices; SPX puts them back at their
indices among zeros. -/
def Obligations.Sparse : Prop :=
  ∀ (s : State) (w : Who) (g : PredField) (d a b : RegField), Executes s w g →
    (∀ (tag : Tag) (x : Fetched), tag = (if (w.t.reg a.toNat).tag ∈ [Tag.bf16x2, .i16x2] then (w.t.reg a.toNat).tag else .f16x2) →
      w.t.fetch [wr2 d] [rd2 a [tag]] = .ok x →
      let e (i : Nat) := if i < 2 then tag.elem (nth (x.ws 0) 0 0) i else tag.elem (nth (x.ws 0) 1 0) (i - 2)
      ∃ i j, i < j ∧ j < 4 ∧ (∀ k < 4, k ∉ [i, j] → ∀ l ∈ [i, j], outranks tag.kind [e 0, e 1, e 2, e 3] l k = true) ∧
        exec (.spcH d a g) s = s.threadDone w ((x.t.setReg d.toNat (tag.pack [e i, e j]) tag).setReg (d.toNat + 1) (w32 (i + 4 * j)) .b32)) ∧
    (∀ x : Fetched, w.t.fetch [wr1 d] [rd1 a [.e4m3x4, .e5m2x4, .i8x4, .n8x4]] = .ok x →
      let tag := (x.r 0).tag
      let e (i : Nat) := tag.elem (x.v 0) i
      ∃ i j, i < j ∧ j < 4 ∧ (∀ k < 4, k ∉ [i, j] → ∀ l ∈ [i, j], outranks tag.kind [e 0, e 1, e 2, e 3] l k = true) ∧
        exec (.spcB d a g) s = s.threadDone w (x.t.setReg d.toNat (w32 (e i + 256 * e j + 65536 * (i + 4 * j))) tag)) ∧
    (∀ x : Fetched, let tag := (w.t.reg a.toNat).tag
      w.t.fetch [if tag.elemBits = 16 then wr2 d else wr1 d] [rd1 a [], w.t.bOperand b []] = .ok x →
      (tag.elemBits = 0 → exec (.spx d a b g) s = s.trapped w .formatUnsupported 0 0) ∧
      (tag.elemBits = 16 →
        let i := (x.v 1).toNat % 4
        let j := (x.v 1).toNat / 4 % 4
        let e (k : Nat) : BitVec 16 := if k = j then (x.v 0 >>> 16).truncate 16 else if k = i then (x.v 0).truncate 16 else 0
        exec (.spx d a b g) s = s.threadDone w ((x.t.setReg d.toNat (e 1 ++ e 0) tag).setReg (d.toNat + 1) (e 3 ++ e 2) tag)) ∧
      (tag.elemBits = 8 →
        let i := (x.v 1).toNat / 65536 % 4
        let j := (x.v 1).toNat / 262144 % 4
        let e (k : Nat) : BitVec 8 := if k = j then (x.v 0 >>> 8).truncate 8 else if k = i then (x.v 0).truncate 8 else 0
        exec (.spx d a b g) s = s.threadDone w (x.t.setReg d.toNat (e 3 ++ e 2 ++ e 1 ++ e 0) tag)))

/-! ### Control (R34 to R47, R126 to R144, R344) -/

/-- R135: BRA and CALL go to PC + 4 × the signed offset; a taken BRA with a negative offset counts for the loop mapper (R164). CALL
stores the return address 8 bytes below sr.rsp, which it moves (R127). A target that is not canonical, and then one that is not a multiple of 4,
traps with the target in sr.haddr (R26).
Where it goes beyond the rules' words it states the model's reading: log entry 33. -/
def Obligations.Transfers : Prop :=
  ∀ (s : State) (w : Who) (g : PredField) (o : BitVec 23), Executes s w g →
    let tgt := w.t.pc + (o.signExtend 64 <<< 2)
    (canonical tgt = true → tgt.toNat % 4 = 0 →
      exec (.bra g o) s = ((if o.toInt < 0 then s.heatUp w tgt w.t.pc else s).updThread w.k (·.jump tgt)).jumpDone w ∧
      (w.t.rsp.toNat < w.t.rsl.toNat + 8 → exec (.call g o) s = s.trapped w .callStackOverflow 0 0) ∧
      (∀ p, w.t.rsl.toNat + 8 ≤ w.t.rsp.toNat → s.checkGlobal w (w.t.rsp - 8) 8 8 { write := true } = .ok p →
        exec (.call g o) s = ((s.addStore w { w.t with rsp := w.t.rsp - 8 }
          { seq := 0, bytes := storeOf p.locs (toBytes (w.t.pc + 4).toNat 8), scope := .th }).updThread w.k (·.jump tgt)).jumpDone w)) ∧
    (canonical tgt = false → exec (.bra g o) s = s.trapped w .addressNoncanonical tgt 0 ∧ exec (.call g o) s = s.trapped w .addressNoncanonical tgt 0) ∧
    (canonical tgt = true → tgt.toNat % 4 ≠ 0 → exec (.bra g o) s = s.trapped w .misaligned tgt 0 ∧ exec (.call g o) s = s.trapped w .misaligned tgt 0)

/-- R127, R135: RET takes the 8 bytes at sr.rsp as its target and moves sr.rsp up by 8; at the top of the stack it traps. A target that is not canonical
traps ADDRESS_NONCANONICAL whether or not it is a multiple of 4, and then one that is no multiple of 4 traps MISALIGNED; the load of the target binds as
the instruction executes.
Where it goes beyond the rules' words it states the model's reading: log entries 9, 33. -/
def Obligations.Returns : Prop :=
  ∀ (s : State) (w : Who) (g : PredField), Executes s w g →
    (w.t.stackTop.toNat ≤ w.t.rsp.toNat → exec (.ret g) s = s.trapped w .callStackUnderflow 0 0) ∧
    (∀ p s1 b, w.t.rsp.toNat < w.t.stackTop.toNat → s.checkGlobal w w.t.rsp 8 8 { read := true } = .ok p → s.readNow w p.locs = .ok (s1, b) →
      let v := w64 (ofBytes b)
      (canonical v = true → v.toNat % 4 = 0 →
        exec (.ret g) s = (s1.updThread w.k fun t => { t.jump v with rsp := t.rsp + 8 }).jumpDone w) ∧
      (canonical v = false → exec (.ret g) s = s.trapped w .addressNoncanonical v 0) ∧
      (canonical v = true → v.toNat % 4 ≠ 0 → exec (.ret g) s = s.trapped w .misaligned v 0))

/-- R60, R136: a target that a permitted-target table admits is canonical, a multiple of 4, and one of the table's N entries, where the
table's reserved bits are 0 and N is not; BRX goes there and CALLX pushes the return address first, and both leave the regroup at the table's
reconvergence PC. The reads of the table leave r.s; s1 is the state in which the entry that holds the target was read.
Where it goes beyond the rules' words it states the model's reading: log entries 33, 69. -/
def Obligations.PermittedTargets : Prop :=
  (∀ (s : State) (w : Who) (d a : RegField) (r : TableHit), s.tableTarget w d a = .ok r →
    ∃ (x : Fetched) (hdr : State × Nat) (i : Nat) (s1 s2 : State), w.t.fetch [] [rd2 a [.b32], rd2 d [.b32]] = .ok x ∧ r.t = x.t ∧ r.tgt = w64 (x.n 0) ∧ canonical r.tgt = true ∧
      r.tgt.toNat % 4 = 0 ∧ x.n 1 % 16 = 0 ∧ s.readTable w (w64 (x.n 1)) 16 = .ok hdr ∧ r.reconv = w64 hdr.2 ∧ slice hdr.2 80 48 = 0 ∧
      i < slice hdr.2 64 16 ∧ s1.readTable w (w64 (x.n 1) + 16 + w64 (8 * i)) 8 = .ok (s2, r.tgt.toNat)) ∧
  (∀ (s : State) (w : Who) (g : PredField) (d a : RegField) (r : TableHit), Executes s w g → s.tableTarget w d a = .ok r →
    exec (.brx d a g) s = (r.s.setThread w.k { r.t.jump r.tgt with regroup := some (r.reconv, [w.k], none) }).jumpDone w ∧
    (∀ s', (r.s.setThread w.k r.t).push { w with t := r.t } (w.t.pc + 4) = .ok s' →
      exec (.callx d a g) s = (s'.updThread w.k fun u => { u.jump r.tgt with regroup := some (r.reconv, [w.k], none) }).jumpDone w))

/-- R36, R41 to R47: a clause header waits for the flags it selects, then sets the clause position; each hint word fills its own place in
the hint latch and leaves the others. R144: NOP only goes on. YIELD and SLEEP of 0 keep the thread out of the next ac; SLEEP of n, outside single step, lets it wake n ac later.
Where it goes beyond the rules' words it states the model's reading: log entries 10, 15, 94. -/
def Obligations.ClausesHintsPauses : Prop :=
  (∀ (s : State) (w : Who), s.whoOf s.cur = some w →
     (∀ (wait : BitVec 12) (a b l : BitVec 4) (y : BitVec 1),
       (w.t.busyMask &&& wait.toNat ≠ 0 → exec (.clause wait a b l y) s = .next (s.stopped w (.park .flags))) ∧
       (w.t.busyMask &&& wait.toNat = 0 → w.t.armStep = false →
         exec (.clause wait a b l y) s = .next ((s.enterConfig w).updThread w.k fun t => { t with
           clause := { header := t.pc, len := l.toNat + 1, pos := 0, fa := a, fb := b }
           pc := nextPc t.pc, status := .ready, gapUntil := none, resumed := false, armStep := false, armSkip := false }))) ∧
     (∀ p, exec (.hintImm p) s = .next (s.setThread w.k { w.t.advance with hints := { w.t.hints with imm := some p }, status := .ready, resumed := false })) ∧
     (∀ p : BitVec 19, exec (.hintMod p) s =
       .next (s.setThread w.k { w.t.advance with hints := { w.t.hints with mod := some (p ++ 0#5) }, status := .ready, resumed := false })) ∧
     (∀ (c : BitVec 7) (n a : BitVec 1), exec (.hintC c n a) s =
       .next (s.setThread w.k { w.t.advance with hints := { w.t.hints with c := some (c ++ n ++ a ++ 0#15) }, status := .ready, resumed := false })) ∧
     (∀ (x y z t : BitVec 1) (gap : BitVec 4) (f : BitVec 1), exec (.hintSched x y z t gap f) s =
       .next (s.setThread w.k { w.t.advance with
         hints := { w.t.hints with sched := some (x ++ y ++ z ++ t ++ gap ++ f ++ 0#15) }, status := .ready, resumed := false }))) ∧
  (∀ (s : State) (w : Who) (g : PredField), Executes s w g →
     exec (.nop g) s = s.threadDone w w.t ∧
     exec (.yield g) s = .next (s.yieldNext w) ∧
     (∀ (a : RegField) (x : Fetched), w.t.fetch [] [rd1 a [.b32]] = .ok x →
       (x.v 0 = 0 → exec (.sleep a g) s = .next ((s.setThread w.k x.t).yieldNext w)) ∧
       (x.v 0 ≠ 0 → w.t.armStep = false → w.t.status ≠ .exited →
         exec (.sleep a g) s = .next (((s.setThread w.k x.t).retire w.k w.t).updThread w.k fun t =>
           { t with status := .sleeping (s.clock + (x.v 0).zeroExtend 64) }))))

/-- R344: BKPT and TRAP trap with their number in sr.hinfo, BKPT's with bit 7 set; HALT raises its context's halt line and goes on; ERET outside a
handler traps PRIVILEGE, and in one it returns to sr.hpc where that is a legal target. A word with no assigned operation traps ILLEGAL_OPCODE (R32). R344, R345: what ERET restores: the PC; outside the handler again; the clause position where sr.hpc lies in the saved clause's body, and the
hint latch at the instruction the trap interrupted; and the arms of sr.hcause. Every other field of the thread is as it was. An sr.hpc that is not
canonical traps ADDRESS_NONCANONICAL, whatever its two low bits, and then one that is no multiple of 4 traps MISALIGNED.
Where it goes beyond the rules' words it states the model's reading: log entries 15, 33. -/
def Obligations.TrapWordsAndReturn : Prop :=
  (∀ (s : State) (w : Who) (g : PredField), Executes s w g →
     (∀ k : BitVec 7, exec (.bkpt k g) s = s.trapped w .breakpoint 0 ((1#1 ++ k).zeroExtend 64) ∧
       exec (.trap k g) s = s.trapped w .trapInstruction 0 (k.zeroExtend 64)) ∧
     exec (.halt g) s = (s.raiseHalt w.cI
       { index := w.partIndex, cause := .haltRequest, pc := w.t.pc, info := 0x1000, thread := some w.k }).wordDone w ∧
     (w.t.inHandler = false → exec (.eret g) s = s.trapped w .privilege 0 0) ∧
     (w.t.inHandler = true → canonical w.t.hpc = false → exec (.eret g) s = s.trapped w .addressNoncanonical w.t.hpc 0) ∧
     (w.t.inHandler = true → canonical w.t.hpc = true → w.t.hpc.toNat % 4 ≠ 0 → exec (.eret g) s = s.trapped w .misaligned w.t.hpc 0) ∧
     (w.t.inHandler = true → canonical w.t.hpc = true → w.t.hpc.toNat % 4 = 0 →
       exec (.eret g) s = .next ((if w.t.hcause.getLsbD 7 then s.dropOn w.cI w.tr.core else s).setThread w.k { w.t.returnFromHandler with
         gapUntil := if w.t.hints.gap = 0 then none else some (s.clock + w64 w.t.hints.gap) })) ∧
     exec .illegalOpcode s = .next (s.takeTrap w.k .illegalOpcode w.t.pc 0 0)) ∧
  (∀ t : Thread,
     let r := t.returnFromHandler
     let body := t.saveClause.header.toNat + 4
     let inside := body ≤ t.hpc.toNat ∧ t.hpc.toNat < body + 4 * t.saveClause.len
     r.pc = t.hpc ∧ r.inHandler = false ∧ r.status = .ready ∧
     (inside → r.clause = { t.saveClause with pos := (t.hpc.toNat - body) / 4 }) ∧ (¬inside → r.clause.pos = r.clause.len) ∧
     (inside → t.hpc.toNat = body + 4 * t.saveClause.pos → r.hints = t.saveHints) ∧
     (¬(inside ∧ t.hpc.toNat = body + 4 * t.saveClause.pos) → r.hints = {}) ∧
     r.armStep = t.hcause.getLsbD 7 ∧ r.armSkip = t.hcause.getLsbD 8 ∧
     r = { t with pc := r.pc, inHandler := r.inHandler, status := r.status, clause := r.clause, hints := r.hints, armStep := r.armStep,
                  armSkip := r.armSkip, resumed := true })

/-- R137 to R141: a rendezvous that its last thread completes writes every arrival from values that all of them brought, and each goes on. SPLIT gives
each the named lanes that have not exited in the low half of its mask register, whose high half stays (R140).
Where it goes beyond the rules' words it states the model's reading: log entry 87. -/
def Obligations.Collectives : Prop :=
  ∀ (s : State) (w : Who) (g : PredField) (d a b : RegField) (k j : PredField) (here : List (Nat × Nat)), Executes s w g →
    let mask (m : RegField) : DWord := ((w.t.reg m.toNat).val.truncate 16 : BitVec 16).zeroExtend 64
    let done (i : Instr) (m : RegField) (f : State → Nat × Nat → Thread → Thread) : Prop :=
      Gathered s w i (mask m) here → exec i s = s.leaveAll w i (mask m) here fun s1 => writeEach here (f s1) s1
    let shuffle (mode : Nat) : State → Nat × Nat → Thread → Thread := fun s1 x t =>
      let src := match here.find? (fun y => y.1 == shuffleLane mode x.1 (t.reg b.toNat).val) with
        | some y => (s1.thread y.2).reg a.toNat
        | none => t.reg a.toNat
      t.setReg d.toNat src.val src.tag
    let lanes (p : Nat × Nat → Bool) : Word := w32 (maskOf ((here.filter p).map (·.1)))
    ((∃ x, w.t.fetchQuiet [wr1 d] [rd1 a [], rd1 b []] = .ok x) →
      done (.shflPick d a b g) b (shuffle 0) ∧ done (.shflRotl d a b g) b (shuffle 1) ∧ done (.shflRotr d a b g) b (shuffle 2) ∧
      done (.shflSwap d a b g) b (shuffle 3) ∧
      done (.voteMatch d a b g) b (fun s1 _ t => t.setReg d.toNat
        (lanes fun y => ((s1.thread y.2).reg a.toNat).val == (t.reg a.toNat).val) .b32) ∧
      done (.reduxOr d a b g) b (fun s1 _ t => t.setReg d.toNat
        ((here.map fun x => ((s1.thread x.2).reg a.toNat).val).foldl (· ||| ·) 0) .b32)) ∧
    ((∃ x, w.t.fetchQuiet [] [rd1 b []] = .ok x) →
      done (.voteAll k j b g) b (fun s1 _ t => t.setPred k.toNat (here.all fun x => (s1.thread x.2).pred j.toNat)) ∧
      done (.voteAny k j b g) b (fun s1 _ t => t.setPred k.toNat (here.any fun x => (s1.thread x.2).pred j.toNat))) ∧
    ((∃ x, w.t.fetchQuiet [wr1 d] [rd1 b []] = .ok x) →
      done (.voteBallot d j b g) b (fun s1 _ t => t.setReg d.toNat (lanes fun x => (s1.thread x.2).pred j.toNat) .b32)) ∧
    ((∃ x, w.t.fetchQuiet [wr1 d] [rd1 a [.b32], rd1 b []] = .ok x) →
      let one (s1 : State) (x : Nat × Nat) : Word := ((s1.thread x.2).port1 a.toNat [.b32]).val
      done (.reduxAdd d a b g) b (fun s1 _ t => t.setReg d.toNat
        (clamped t.hints ((here.map fun x => ((one s1 x).toNat : Int)).sum) ((here.map fun x => (one s1 x).toInt).sum)) .b32) ∧
      done (.reduxMin d a b g) b (fun s1 _ t => t.setReg d.toNat
        (BitVec.ofInt 32 ((here.map fun x => (one s1 x).toInt).foldl min (2 ^ 31 - 1))) .b32) ∧
      done (.reduxMax d a b g) b (fun s1 _ t => t.setReg d.toNat
        (BitVec.ofInt 32 ((here.map fun x => (one s1 x).toInt).foldl max (-2 ^ 31))) .b32)) ∧
    ((∃ x, w.t.fetchQuiet [] [rd1 a []] = .ok x) →
      done (.elect k a g) a (fun _ x t => t.setPred k.toNat (here.all fun y => decide (x.1 ≤ y.1)))) ∧
    ((∃ x, w.t.fetchQuiet [] [rd1 a []] = .ok x) → Gathered s w (.join a g) (mask a) here →
      exec (.join a g) s = s.leaveAll w (.join a g) (mask a) here id) ∧
    ((∃ x, w.t.fetchQuiet [wr1 d] [rd1 a []] = .ok x) → Gathered s w (.split d a g) (mask a) here →
      (∀ x ∈ here, (s.thread x.2).troupe = w.trI ∧ (s.thread x.2).crew = w.t.crew) →
      exec (.split d a g) s = s.leaveAll w (.split d a g) (mask a) here fun s1 =>
        let alive := maskOf (((s1.crewOf w.tr w.t.crew).filter fun x => (s1.thread x.2).status != .exited).map (·.1))
        writeEach here (fun _ t => t.setReg d.toNat
          (w32 ((t.reg a.toNat).val.toNat / 65536 * 65536 + ((mask a).toNat &&& alive))) .b32) s1)

/-- R142, R143: EXIT and EXIT.S of a thread with nothing pending, no pin of its own and no system call, that is not its troupe's last and that no
rendezvous or barrier waits for: it is exited, with its pins' claims gone, and the ensemble's selected successor stands. EXIT.S does so where the
successor that it selects is selected already. An exit with something pending traps. Otherwise its pins are released (a mesh troupe's last exit emits
first), and then the thread leaves its rendezvous, barriers, troupe and ensemble as exitDone says, EXIT.S with the successor that it selected.
Where it goes beyond the rules' words it states the model's reading: log entries 56, 57. -/
def Obligations.Exits : Prop :=
  ∀ (s : State) (w : Who) (g : PredField) (k : BitVec 3), Executes s w g →
    let plain := (w.t.quiet = true ∧ w.t.call = none ∧ w.t.callSlot = none ∧ (∀ n, w.t.pin0.claim ≠ .own n) ∧ (∀ n, w.t.pin1.claim ≠ .own n)) ∧
      s.lastOf w w.tr.threads = false ∧ s.lastOf w (s.threadsOf w.e) = false ∧
      (∀ x ∈ s.crewOf w.tr w.t.crew, (s.thread x.2).arrivalMask = none) ∧
      w.tr.barrier.arrived = [] ∧ w.e.ebar.arrived = [] ∧ w.e.sbar.arrived = []
    let left (next : Option (Nat × Packet)) : Outcome := ((s.updThread w.k fun t => { t with
      status := .exited, pin0 := { t.pin0 with claim := .none }, pin1 := { t.pin1 with claim := .none } }).updEns w.eI
        fun e => { e with successor := next }).wordDone w
    (plain → exec (.exit g) s = left w.e.successor) ∧
    (∀ p, plain → w.e.successor = some (k.toNat, p) → exec (.exitS k g) s = left w.e.successor) ∧
    (∀ sel next s0, (sel = none ∨ sel = some k.toNat) → s.nextOf w sel = .ok (s0, next) →
      let i : Instr := match sel with
        | none => .exit g
        | some _ => .exitS k g
      (s0.exitPending w = true → exec i s = s.trapped w .exitWithPending 0 0) ∧
      (∀ s1 s2 s3, s0.exitPending w = false → (∃ x y, s0.releaseOwn w 0 = .ok x ∧ s0.releaseOwn w 1 = .ok y) →
        (if s0.lastOf w w.tr.threads && w.e.isMesh then s0.emit w else .ok s0) = .ok s1 → s1.releaseOwn w 0 = .ok s2 → s2.releaseOwn w 1 = .ok s3 →
        exec i s = (s0.exitDone w next s3).wordDone w))

/-! ### Memory (R73, R174 to R193, R197 to R214) -/

/-- R73, R183, R184: LD, LDW and LDQ of every admitted type from pair(b) + offset × size, and LDS and LDSQ from x[b] + offset × size in a scratch
slice: the load is outstanding and its "a" flag counts it. A type that the major does not admit traps.
Where it goes beyond the rules' words it states the model's reading: log entry 25. -/
def Obligations.Loads : Prop :=
  ∀ (s : State) (w : Who) (g : PredField) (d b : RegField) (ty : BitVec 4) (o : BitVec 5), Executes s w g →
    let z (n : Nat) := typeBytes ty.toNat n
    let issued (n : Nat) (x : Fetched) (locs : List Loc) (sc : Scope) : State :=
      s.setThread w.k ((x.t.raised [x.t.fa]).pushLoad
        { seq := 0, locs := locs, order := x.t.hints.order, scope := sc,
          form := { type := ty.toNat, dst := d.toNat, count := n }, flag := x.t.fa, born := s.moves })
    (∀ n i, (n, i) ∈ [(1, Instr.ld d b ty o g), (2, .ldw d b ty o g), (4, .ldq d b ty o g)] →
      (typeAdmitted ty.toNat n (n == 1) = false → exec i s = s.trapped w .formatUnsupported 0 0) ∧
      (typeAdmitted ty.toNat n (n == 1) = true → ∀ x p, w.t.fetch [⟨d.toNat, n, n⟩] [rd2 b [.b32]] = .ok x →
        s.checkGlobal w (globalAddr (x.n 0) (w.t.memOffset o) (z n)) (z n) (typeAlign ty.toNat n) { read := true } = .ok p →
        x.t.Room [x.t.fa] → exec i s = (issued n x p.locs w.t.hints.scope).wordDone w)) ∧
    (∀ n i, (n, i) ∈ [(1, Instr.lds d b ty o g), (4, .ldsq d b ty o g)] →
      (typeAdmitted ty.toNat n (n == 1) = false → exec i s = s.trapped w .formatUnsupported 0 0) ∧
      (typeAdmitted ty.toNat n (n == 1) = true → ∀ x tr off, w.t.fetch [⟨d.toNat, n, n⟩] [rd1 b [.b32]] = .ok x →
        s.checkScratch w (scratchAddr (x.n 0) (w.t.memOffset o) (z n)) (z n) (typeAlign ty.toNat n) = .ok (tr, off) →
        x.t.Room [x.t.fa] → exec i s = (issued n x (scratchLocs tr off (z n)) (scratchScope w.t.hints.scope)).wordDone w))

/-- R39, R73, R183, R201: the stores read their data registers, which expect the type's tag, and leave a pending store of those bytes at those
places with a "b" obligation; until that is met the store may read the registers again. Memory itself changes at the store's visibility point.
Where it goes beyond the rules' words it states the model's reading: log entries 8, 25. -/
def Obligations.Stores : Prop :=
  ∀ (s : State) (w : Who) (g : PredField) (d b : RegField) (ty : BitVec 4) (o : BitVec 5), Executes s w g →
    let z (n : Nat) := typeBytes ty.toNat n
    let issued (x : Fetched) (p : PendingStore) : State := s.addStore w (x.t.owing { flag := x.t.fb, stores := [x.t.seq] }) p
    -- the registers that the store may read again, with the tags that they are read under
    let again (n : Nat) (x : Fetched) : Option DataSource :=
      some { type := ty.toNat, regs := (upFrom d.toNat n).map fun r => (r, storeTags ty.toNat), words := x.ws 1 }
    (∀ n i, (n, i) ∈ [(1, Instr.st d b ty o g), (2, .stw d b ty o g), (4, .stq d b ty o g)] →
      (typeAdmitted ty.toNat n false = false → exec i s = s.trapped w .formatUnsupported 0 0) ∧
      (typeAdmitted ty.toNat n false = true → ∀ x p, w.t.fetch [] [rd2 b [.b32], .regs d.toNat n n (storeTags ty.toNat)] = .ok x →
        s.checkGlobal w (globalAddr (x.n 0) (w.t.memOffset o) (z n)) (z n) (typeAlign ty.toNat n) { write := true } = .ok p →
        x.t.Room [x.t.fb] → exec i s = (issued x
          { seq := 0, bytes := storeOf p.locs (storeBytes ty.toNat (x.ws 1)), order := w.t.hints.order,
            scope := w.t.hints.scope, src := again n x }).wordDone w)) ∧
    (∀ n i, (n, i) ∈ [(1, Instr.sts d b ty o g), (4, .stsq d b ty o g)] →
      (typeAdmitted ty.toNat n false = false → exec i s = s.trapped w .formatUnsupported 0 0) ∧
      (typeAdmitted ty.toNat n false = true → ∀ x tr off, w.t.fetch [] [rd1 b [.b32], .regs d.toNat n n (storeTags ty.toNat)] = .ok x →
        s.checkScratch w (scratchAddr (x.n 0) (w.t.memOffset o) (z n)) (z n) (typeAlign ty.toNat n) = .ok (tr, off) →
        x.t.Room [x.t.fb] → exec i s = (issued x
          { seq := 0, bytes := storeOf (scratchLocs tr off (z n)) (storeBytes ty.toNat (x.ws 1)),
            order := w.t.hints.order, scope := scratchScope w.t.hints.scope, src := again n x }).wordDone w))

/-- R39, R76, R177, R180, R185, R186: constant loads, full/empty accesses and MX blocks. LDFE takes the granule when it is full and its turn has come,
and otherwise parks; LDFE.C empties it in the same step. STFE and STMX may read their data registers again until their "b" is met.
Where it goes beyond the rules' words it states the model's reading: log entries 8, 9, 32, 71, 98. -/
def Obligations.SpecialAccesses : Prop :=
  ∀ (s : State) (w : Who) (g : PredField) (d b : RegField) (ty : BitVec 4) (o : BitVec 5), Executes s w g →
    let ea (x : Fetched) := scratchAddr (x.n 0) (w.t.memOffset o) 16
    (∀ x p, typeAdmitted ty.toNat 1 true = true → w.t.fetch [wr1 d] [if b = 127 then .imm 0 .b32 else rd1 b [.b32]] = .ok x →
      let z := typeBytes ty.toNat 1
      let c := scratchAddr (x.n 0) (w.t.memOffset o) z
      let r := constRegion w.e.packet c
      (c % typeAlign ty.toNat 1 ≠ 0 → exec (.ldc d b ty o g) s = s.trapped w .misaligned (w64 c) 0) ∧
      (c % typeAlign ty.toNat 1 = 0 → r.2 < c % 2 ^ 28 + z → exec (.ldc d b ty o g) s = s.trapped w .permissionRead (w64 c) 0) ∧
      (c % typeAlign ty.toNat 1 = 0 → c % 2 ^ 28 + z ≤ r.2 →
        s.checkGlobal w (w64 r.1 + w64 (c % 2 ^ 28)) z (typeAlign ty.toNat 1) { read := true } = .ok p →
        x.t.Room [x.t.fa] → exec (.ldc d b ty o g) s = (s.setThread w.k ((x.t.raised [x.t.fa]).pushLoad
          { seq := 0, locs := p.locs.map fun l => { l with policy := .wb }, order := .rlx, scope := .th, const := true,
            form := { type := ty.toNat, dst := d.toNat, count := 1 }, flag := x.t.fa, born := s.moves })).wordDone w)) ∧
    (∀ x tr off, w.t.fetch [wr4 d] [rd1 b [.b32]] = .ok x → s.checkScratch w (ea x) 16 16 = .ok (tr, off) →
      let park := Host.Outcome.next (s.stopped w (.park (.fullEmpty (tr * 2 ^ 26 + off / 16))))
      let ready := (s.troupe tr).isFull off = true ∧ s.feFirst w (tr * 2 ^ 26 + off / 16) = true
      (¬ready → exec (.ldfeK d b o g) s = park ∧ exec (.ldfeC d b o g) s = park) ∧
      (∀ s1 bytes, ready → (∀ p ∈ w.t.stores, (p.setFull && p.touches (scratchLocs tr off 16)) = false) →
        s.readNow w (scratchLocs tr off 16) = .ok (s1, bytes) → x.t.Room [x.t.fa] →
        let t' := { x.t.owing (x.t.oweA d.toNat (toWords (ofBytes bytes) 4) .b32) with acqStamp := s1.stamp + 1 }
        exec (.ldfeK d b o g) s = (s1.setThread w.k t').wordDone w ∧
        exec (.ldfeC d b o g) s = ((s1.setThread w.k t').updTroupe tr fun r => r.setFullBit off false).wordDone w)) ∧
    (∀ x tr off, w.t.fetch [] [rd1 b [.b32], rd4 d []] = .ok x → s.checkScratch w (ea x) 16 16 = .ok (tr, off) → x.t.Room [x.t.fb] →
      exec (.stfe d b o g) s = (s.addStore w (x.t.owing { flag := x.t.fb, stores := [x.t.seq] })
        { seq := 0, bytes := storeOf (scratchLocs tr off 16) (toBytes (x.n 1) 16), order := .rel, scope := .en, setFull := true,
          src := some { regs := (upFrom d.toNat 4).map fun r => (r, storeTags 0), words := x.ws 1 } }).wordDone w) ∧
    (mxShape ty.toNat = none → exec (.ldmx d b ty o g) s = s.trapped w .formatUnsupported 0 0 ∧
      exec (.stmx d b ty o g) s = s.trapped w .formatUnsupported 0 0) ∧
    (∀ grp z, mxShape ty.toNat = some (grp, z) → let c := w.t.hints.cReg.getD 0
      (∀ x p, w.t.fetch [⟨d.toNat, grp, grp⟩, ⟨d.toNat + grp, 1, 1⟩] [rd2 b [.b32], .regs c 2 2 [.b32]] = .ok x →
        mxPlaces s w (globalAddr (x.n 0) (w.t.memOffset o) z) (w64 (x.n 1)) z { read := true } = .ok p → x.t.Room [x.t.fa] →
        exec (.ldmx d b ty o g) s = (s.setThread w.k ((x.t.raised [x.t.fa]).pushLoad
          { seq := 0, locs := p.locs, order := x.t.hints.order, scope := w.t.hints.scope,
            form := { type := ty.toNat, dst := d.toNat, count := grp, scale := true }, flag := x.t.fa, born := s.moves })).wordDone w) ∧
      (∀ x p, w.t.fetch [] [rd2 b [.b32], .regs c 2 2 [.b32], .regs d.toNat grp grp [Tag.ofCode ty.toNat], .regs (d.toNat + grp) 1 1 [.e8m0x4]]
          = .ok x →
        mxPlaces s w (globalAddr (x.n 0) (w.t.memOffset o) z) (w64 (x.n 1)) z { write := true } = .ok p → x.t.Room [x.t.fb] →
        exec (.stmx d b ty o g) s = (s.addStore w (x.t.owing { flag := x.t.fb, stores := [x.t.seq] })
          { seq := 0, bytes := storeOf p.locs (toBytes (x.n 2) z ++ toBytes (x.n 3) 1), order := w.t.hints.order,
            scope := w.t.hints.scope, mx := true,
            src := some { regs := (upFrom d.toNat grp).map (fun r => (r, [Tag.ofCode ty.toNat])) ++ [(d.toNat + grp, [Tag.e8m0x4])],
                          words := x.ws 2 ++ x.ws 3 } }).wordDone w))

/-- R179, R188: the checks of a global access of len bytes at a. The first byte that is not canonical, and then alignment, trap with that address;
an access that passes has each of its bytes at the physical address and under the cache policy that its own page's translation gives, in a page that
permits the use.
Where it goes beyond the rules' words it states the model's reading: log entries 33, 71. -/
def Obligations.AccessChecks : Prop :=
  ∀ (s : State) (w : Who) (a : DWord) (len align : Nat) (u : Use) (watched : Bool) (mis : Cause), 0 < len →
    (∀ i < len, canonical (a + w64 i) = false → (∀ j < i, canonical (a + w64 j) = true) →
      s.checkGlobal w a len align u watched mis = .error (.trap .addressNoncanonical (a + w64 i) 0 0)) ∧
    ((∀ i < len, canonical (a + w64 i) = true) → a.toNat % align ≠ 0 → s.checkGlobal w a len align u watched mis = .error (.trap mis a 0 0)) ∧
    (∀ p, s.checkGlobal w a len align u watched mis = .ok p → (∀ i < len, canonical (a + w64 i) = true) ∧ a.toNat % align = 0 ∧
      p.locs.length = len ∧ ∀ i < len, ∃ e, s.tlbFind w.c.asid w.tr.core (max (va57 a) ((va57 a + i) / 4096 * 4096)) = some e ∧
        p.locs[i]? = some { scratch := none, addr := e.frame + (va57 a + i - e.base), policy := e.policy, va := va57 a + i } ∧ (u.read = true → e.read = true) ∧
        (u.write = true → e.write = true ∧ e.tracked = false) ∧ (u.exec = true → e.exec = true))

/-- R209 to R213: every ATOM and RED checks its place, and leaves the pending atomic that its visibility point performs; ATOM owes its old value to
"a" as well as "b". ATOMC, ATOMC.64 and ATOMQ compare first. Until its "b" is met an atomic may read its operands again (R39). FADD and HADD2 raise
no flag at their ports either, and the others raise a port conversion's flags and take FP_EXCEPTION as R72 says. R211, R212: the value that each atomic
leaves, from the old value and the operand, as unsigned numbers below 2^32; none where a compare fails.
Where it goes beyond the rules' words it states the model's reading: log entries 8, 75. -/
def Obligations.Atomics : Prop :=
  (∀ (s : State) (w : Who) (g : PredField) (d b : RegField) (o : BitVec 5), Executes s w g →
     let vr := w.t.hints.cReg.getD d.toNat
     let both (x : Fetched) : Thread := { x.t.raised [w.t.fa, w.t.fb] with owed := x.t.owed ++ [{ flag := w.t.fb, stores := [x.t.seq] }] }
     -- FADD and HADD2 raise no flag, at their ports either
     let read (op : Nat) : List Grp → List Src → Except Stop Fetched := if op = 11 ∨ op = 12 then w.t.fetchQuiet else w.t.fetch
     (∀ op i, (op, i) ∈ [(0, Instr.atomAdd d b o g), (1, .atomMin d b o g), (2, .atomMax d b o g), (3, .atomMinN d b o g), (4, .atomMaxN d b o g),
         (5, .atomAnd d b o g), (6, .atomOr d b o g), (7, .atomXor d b o g), (8, .atomExch d b o g), (9, .atomInc d b o g), (10, .atomDec d b o g),
         (11, .atomFadd d b o g), (12, .atomHadd2 d b o g)] →
       let vt := (w.t.reg vr).tag
       ∀ x p, read op [wr1 d] [rd2 b [.b32], .regs vr 1 1 (atomicWant op vt)] = .ok x → s.checkAtomic w (x.n 0) o 4 true = .ok p →
         x.t.Room [w.t.fa, w.t.fb] →
         exec i s = (s.addStore w (both x) (w.atomicStore p (toBytes (x.v 1).toNat 4)
           { op := op, tag := atomicTag op vt, value := (x.v 1).toNat, dst := some d.toNat, flag := w.t.fa }
           [(vr, atomicWant op vt)] [x.v 1])).wordDone w) ∧
     (∀ op i, (op, i) ∈ [(0, Instr.redAdd d b o g), (1, .redMin d b o g), (2, .redMax d b o g), (3, .redMinN d b o g), (4, .redMaxN d b o g),
         (5, .redAnd d b o g), (6, .redOr d b o g), (7, .redXor d b o g), (8, .redExch d b o g), (9, .redInc d b o g), (10, .redDec d b o g),
         (11, .redFadd d b o g), (12, .redHadd2 d b o g)] →
       let vt := (w.t.reg d.toNat).tag
       ∀ x p, read op [] [rd2 b [.b32], rd1 d (atomicWant op vt)] = .ok x → s.checkAtomic w (x.n 0) o 4 false = .ok p → x.t.Room [x.t.fb] →
         exec i s = (s.addStore w (x.t.owing { flag := x.t.fb, stores := [x.t.seq] }) (w.atomicStore p (toBytes (x.v 1).toNat 4)
           { op := op, tag := atomicTag op vt, value := (x.v 1).toNat, dst := none } [(d.toNat, atomicWant op vt)] [x.v 1])).wordDone w) ∧
     (∀ n cmp new i src r, (n, cmp, new, i, src, r) ∈ [(1, (fun x : Fetched => x.n 1 % 2 ^ 32), (fun x : Fetched => x.n 1 / 2 ^ 32),
           Instr.atomc d b o g, [rd2 d []], d.toNat + 1), (2, (fun x => x.n 1 % 2 ^ 64), (fun x => x.n 1 / 2 ^ 64), .atomc64 d b o g, [rd4 d []], d.toNat + 2),
           (4, (fun x => x.n 1), (fun x => x.n 2), .atomq d b o g, [rd4 d [], .regs (w.t.hints.cReg.getD 0) 4 4 []], w.t.hints.cReg.getD 0)] →
       ∀ x p, w.t.fetch [] (rd2 b [.b32] :: src) = .ok x → s.checkAtomic w (x.n 0) o (4 * n) true = .ok p → x.t.Room [w.t.fa, w.t.fb] →
         exec i s = (s.addStore w (both x) (w.atomicStore p (toBytes (new x) (4 * n))
           { op := 13, tag := .b32, value := new x, compare := cmp x, dst := some d.toNat, flag := w.t.fa }
           ((upFrom d.toNat n ++ upFrom r n).map fun k => (k, [])) (toWords (cmp x) n ++ toWords (new x) n))).wordDone w)) ∧
  (∀ (tag : Tag) (old v : Word),
     let new (op : Nat) : Nat := atomicValue op tag old.toNat v.toNat
     new 0 = (old + v).toNat ∧ new 1 = (BitVec.ofInt 32 (min old.toInt v.toInt)).toNat ∧ new 2 = (BitVec.ofInt 32 (max old.toInt v.toInt)).toNat ∧
     new 3 = min old.toNat v.toNat ∧ new 4 = max old.toNat v.toNat ∧ new 5 = (old &&& v).toNat ∧ new 6 = (old ||| v).toNat ∧
     new 7 = (old ^^^ v).toNat ∧ new 8 = v.toNat ∧ new 9 = (if v.toNat ≤ old.toNat then 0 else old.toNat + 1) ∧
     new 10 = (if old.toNat = 0 ∨ v.toNat < old.toNat then v.toNat else old.toNat - 1) ∧
     ∀ (o : AtomicOp) (cur : Nat), (o.op ≠ 13 → o.newValue cur = some (atomicValue o.op o.tag cur o.value)) ∧
       (o.op = 13 → cur = o.compare → o.newValue cur = some o.value) ∧ (o.op = 13 → cur ≠ o.compare → o.newValue cur = none))

/-- R193: PREF owes its "b", where it has a translation of a page of policy WB by an access that fetches the block into the level named and writes no
register, and where it has none does nothing more; INV empties the core's L1; CLN and FLUSH act on the unit of the address, and RANGE on the units of its
bytes, each with its read permission checked, and their "b" waits for the write-backs. R214: the fences. The acquire forms wait until every earlier load and atomic is bound, the release forms until R203's conditions hold at the
scope, and the acquire-release form for both, at any scope until its own earlier stores are visible; then the acquire forms leave no older L1 line to be
read (R202), and the release forms pass on to the troupe what the thread has acquired (R200, R207). A fence without an order only goes on. Every fence
waits for the thread's write-combining stores (R205).
Where it goes beyond the rules' words it states the model's reading: log entries 12, 71, 86, 106. -/
def Obligations.CacheAndFences : Prop :=
  (∀ (s : State) (w : Who) (g : PredField) (a : RegField) (m : BitVec 2), Executes s w g →
     (∀ x, w.t.fetch [] [rd2 a [.b32]] = .ok x → x.t.Room [x.t.fb] →
       let s1 := s.setThread w.k (x.t.owing { flag := x.t.fb })
       let page := s.pageCheck w.c.asid w.tr.core (va57 (w64 (x.n 0))) { read := true }
       (canonical (w64 (x.n 0)) = false ∨ (∃ e, page = .error e) → exec (.pref a g m) s = s1.wordDone w) ∧
       (∀ e, canonical (w64 (x.n 0)) = true → page = .ok e →
         let pa := e.phys (va57 (w64 (x.n 0)))
         exec (.pref a g m) s = (if e.policy ≠ .wb then s1 else s.setThread w.k ((x.t.raised [x.t.fb]).pushLoad
           { seq := 0, locs := [{ addr := pa, va := va57 (w64 (x.n 0)) }], flag := x.t.fb, const := true, born := s.moves,
             form := { type := 0, dst := 0, count := 0, level := some m.toNat } })).wordDone w)) ∧
     (w.t.Room [w.t.fb] → exec (.cctlInv g) s =
       ((s.setThread w.k (w.t.owing { flag := w.t.fb })).updCore w.tr.core fun c => { c with l1 := [] }).wordDone w) ∧
     (∀ x p, w.t.fetch [] [rd2 a [.b32]] = .ok x → s.checkGlobal w (w64 (x.n 0)) 1 1 { read := true } false = .ok p → w.t.stores = [] →
       let unit := (p.locs.headD {}).addr / 64
       s.asked unit [0, 1, 2] = false → (hostHomed (unit * 64) = true ∨ s.homeOpen unit = false) → x.t.Room [x.t.fb] →
       let s1 := s.setThread w.k (x.t.owing { flag := x.t.fb, units := [unit] })
       exec (.cctlCln a g) s = (s1.cleanUnit unit (some w.cI)).wordDone w ∧
       exec (.cctlFlush a g) s = (s1.flushUnit w.tr.core unit (some w.cI)).wordDone w) ∧
     (∀ (d : RegField) x pas, w.t.fetch [] [rd2 a [.b32], rd1 d [.b32]] = .ok x →
       (unitRanges (w64 (x.n 0)) (x.n 1 / 64 + 2) (x.n 1)).mapM (fun r => s.checkGlobal w r.1 r.2 1 { read := true } false) = .ok pas →
       let units := pas.map fun p => (p.locs.headD {}).addr / 64
       w.t.stores = [] → (∀ u ∈ units, s.asked u [0, 1, 2] = false ∧ (hostHomed (u * 64) = true ∨ s.homeOpen u = false)) → x.t.Room [x.t.fb] →
       exec (.cctlRange d a g m) s = (units.foldl (fun s1 u => s1.unitOp m.toNat w.tr.core u (some w.cI))
         (s.setThread w.k (x.t.owing { flag := x.t.fb, units := if m = 0 then [] else units }))).wordDone w)) ∧
  (∀ (s : State) (w : Who) (g : PredField) (p : BitVec 3), Executes s w g →
     let park := Host.Outcome.next (s.stopped w (.park .fence))
     let acquired (s1 : State) : Outcome := (s1.updThread w.k fun t => t.acquired (fenceScope p) s.stamp w.tr.relStamp).wordDone w
     let passed := if fenceScope p = .th then s else if fenceScope p = .sy then (s.passOn w.k).noteRelease w.cI else s.passOn w.k
     (w.t.combining = true → ∀ r, exec (.fence r p g) s = park) ∧
     (w.t.combining = false →
       exec (.fence 0 p g) s = s.wordDone w ∧
       exec (.fence 1 p g) s = (if w.t.allBound then acquired s else park) ∧
       exec (.fence 2 p g) s = (if s.released w.t (fenceScope p) then passed.wordDone w else park) ∧
       exec (.fence 3 p g) s = (if s.released w.t (fenceScope p) && w.t.ordered.isEmpty && w.t.stores.isEmpty then acquired passed else park)))

/-! ### System, heap, barriers and relay queues (R154 to R161, R281, R351 to R357) -/

/-- R351, R352: RDSR of each special register, a pair for the 64-bit ones; the numbers from 22 trap. R52, R108, R126, R171, R254, R351, R352: WRSR of each writable register; a read-only register, a set reserved bit, a value that the register's rule rejects, and
a handler register outside the handler trap and change nothing. Writes of sr.fmode and sr.mapctl invalidate the loop mapper's configurations (R170), and one
that sets OFF leaves every head of the context cold (R166, R171). -/
def Obligations.SpecialRegisters : Prop :=
  (∀ (s : State) (w : Who) (g : PredField) (d n : RegField) (x : Fetched), Executes s w g →
     w.t.fetch [if n.toNat ∈ [8, 14, 15, 18, 19, 20] then wr2 d else wr1 d] [] = .ok x →
     (22 ≤ n.toNat → exec (.rdsr d n g) s = s.trapped w .specialRegister 0 0) ∧
     (∀ v, (n.toNat, v) ∈ [(0, w.t.tid), (1, w.t.tid / 16), (2, w.tr.k), (3, w.e.index % 2 ^ 32),
         (4, (w.e.troupes.length - 1) * 2 ^ 16 + w.e.index / 2 ^ 32 % 2 ^ 16), (5, (s.launch w.e.launch).number.toNat), (6, w.tr.core),
         (7, w.t.tid / 16 % 4), (9, w.t.fmode.toNat), (10, w.t.fflags.toNat), (11, w.e.grid.gang.toNat), (12, w.e.grid.gshape.toNat),
         (13, (nth s.cads (w.tr.core / 4) 1).toNat), (16, w.c.mapctl.toNat), (17, w.t.hcause.toNat), (21, w.t.carry.toNat)] →
       exec (.rdsr d n g) s = (s.updThread w.k fun t => t.setReg d.toNat (w32 v) .b32).wordDone w) ∧
     (∀ v, (n.toNat, v) ∈ [(8, s.clock), (14, w.t.rsp), (15, w.t.rsl), (18, w.t.hpc), (19, w.t.haddr), (20, w.t.hinfo)] →
       exec (.rdsr d n g) s = (s.updThread w.k fun t => t.pairSet d v).wordDone w)) ∧
  (∀ (s : State) (w : Who) (g : PredField) (n a : RegField) (x : Fetched), Executes s w g →
     w.t.fetch [] [if n.toNat ∈ [8, 14, 15, 18, 19, 20] then rd2 a [] else rd1 a []] = .ok x →
     let v := x.n 0
     let bad := exec (.wrsr n a g) s = s.trapped w .specialRegister 0 0
     let puts (f : Thread → Thread) := exec (.wrsr n a g) s = (s.updThread w.k f).wordDone w
     (n.toNat < 9 ∨ n = 11 ∨ n = 13 ∨ 22 ≤ n.toNat → bad) ∧
     (n = 9 → if slice v 13 19 = 0 ∧ slice v 3 5 = 0
       then exec (.wrsr n a g) s = ((s.updThread w.k fun t => { t with fmode := w32 v }).dropOn w.cI w.tr.core).wordDone w else bad) ∧
     (n = 10 → if slice v 5 27 = 0 then puts fun t => { t with fflags := w32 v } else bad) ∧
     (n = 12 → if 1 ≤ v ∧ v ≤ 4
       then exec (.wrsr n a g) s = (s.updEns w.eI fun e => { e with grid := { e.grid with gshape := w32 v } }).wordDone w else bad) ∧
     (n = 14 → if v % 8 = 0 then puts fun t => { t with rsp := w64 v, stackTop := w64 v } else bad) ∧
     (n = 15 → if v % 8 = 0 then puts fun t => { t with rsl := w64 v } else bad) ∧
     (n = 16 → if slice v 12 20 = 0 ∧ slice v 6 2 = 0 ∧ slice v 3 1 = 0 ∧ slice v 4 2 ≠ 3
       then exec (.wrsr n a g) s = ((if v % 2 = 1 then (s.dropAll w.cI).chill w.cI fun _ => true else s.dropAll w.cI).updCtx w.cI fun c => { c with
         mapctl := w32 (putSlice v 2 1 (slice c.mapctl.toNat 2 1)) }).wordDone w else bad) ∧
     (n = 17 → if w.t.inHandler = true ∧ slice v 9 23 = 0 ∧ slice v 6 1 = 0
       then puts fun t => { t with hcause := w32 (slice v 7 2 * 128 + t.hcause.toNat % 64) } else bad) ∧
     (n = 18 → if w.t.inHandler then puts fun t => { t with hpc := w64 v } else bad) ∧
     (n = 19 → if w.t.inHandler then puts fun t => { t with haddr := w64 v } else bad) ∧
     (n = 20 → if w.t.inHandler then puts fun t => { t with hinfo := w64 v } else bad) ∧
     (n = 21 → if slice v 2 30 = 0 then puts fun t => { t with carry := w32 v } else bad))

/-- R354 to R356: SYSCALL claims a slot and stores its call; a second call, or a wait with none outstanding, traps. A waiting SYSCALL.B and SYSWAIT
complete when STATUS of their own call is DONE or ABANDONED, with the result and that status in the quad, and SYSCALL.N once its last store is
sent; the first issue posts the call in its slot and waits. A slot that holds another call or no status traps, and one whose call is not answered has
the thread wait. x[a + 1] is not read. The slot claimed among the free ones is the device's choice (Config.choice).
Where it goes beyond the rules' words it states the model's reading: log entry 83. -/
def Obligations.SystemCalls : Prop :=
  ∀ (s : State) (w : Who) (g : PredField) (d a : RegField), Executes s w g →
    let both : Use := { read := true, write := true }
    let slot (c : Call) (p : Placed) (s1 : State) (b : List Byte) : Prop := s.checkGlobal w (w.c.slotAddr c.slot) 64 1 both false = .ok p ∧
      ({ s with viaL1 := false } : State).readNow w p.locs = .ok (s1, b)
    let status (b : List Byte) := ofBytes ((b.drop 56).take 4)
    let own (c : Call) (b : List Byte) : Prop := ofBytes (b.take 8) = c.id.toNat
    let answered (p : Placed) (s1 : State) (b : List Byte) : State :=
      let result := ofBytes ((b.drop 48).take 8)
      let idle : PendingStore := { seq := 0, bytes := storeOf ((p.locs.drop 56).take 4) (toBytes 0 4), scope := .sy, born := s1.moves }
      s1.updThread w.k fun t => { ((t.setRegs d.toNat [w32 result, w32 (result / 2 ^ 32), w32 (status b), 0] .b32).pushStore
        idle).acquired .sy s1.stamp with call := none }
    let waits (i : Instr) (c : Call) : Prop := ∀ p s1 b, slot c p s1 b →
      (own c b → status b ∈ [3, 4] → exec i s = (answered p s1 b).wordDone w) ∧
      (own c b → status b ∈ [0, 1, 2] → exec i s = .next (s.stopped w (.park .syscall))) ∧
      (¬own c b ∨ 5 ≤ status b → exec i s = .next (s.callTrapped w (.trap .syscallSlot 0 4 0)))
    let args : List Src := [.regs a.toNat 1 1 [], .regs (a.toNat + 2) 10 1 []]
    let quads : List Grp := [⟨a.toNat, 12, 4⟩]
    (∀ x, w.t.fetch (quads ++ [wr4 d]) args = .ok x →
      (∀ c, w.t.call = some c → c.waiting = true → waits (.syscallB d a g) c) ∧
      (∀ c, w.t.call = some c → c.waiting = false →
        exec (.syscallB d a g) s = .next (s.callTrapped w (.trap .syscallSlot 0 2 0))) ∧
      (w.t.call = none → w.t.callSlot = none → w.c.freeSlot (Config.choice s.moves) = none →
        exec (.syscallB d a g) s = .next (s.callTrapped w (.trap .syscallSlot 0 1 0)))) ∧
    (∀ x c, w.t.fetch quads args = .ok x → w.t.call = some c → c.waiting = true →
      (∀ p ∈ w.t.stores, ¬(p.order = .rel ∧ p.scope = .sy ∧ p.bytes.length = 16)) →
      exec (.syscallN a g) s = (s.updThread w.k fun t => { t with call := some { c with waiting := false } }).wordDone w) ∧
    (∀ x, w.t.fetch [wr4 d] [] = .ok x →
      (∀ c, w.t.call = some c → waits (.syswait d g) c) ∧
      (w.t.call = none → exec (.syswait d g) s = .next (s.callTrapped w (.trap .syscallSlot 0 3 0)))) ∧
    (∀ i x slot p, (i, w.t.fetch (if i = .syscallN a g then quads else quads ++ [wr4 d]) args) ∈
        [(Instr.syscallB d a g, Except.ok x), (.syscallN a g, .ok x)] → w.t.call = none →
      (w.t.callSlot = some slot ∨ (w.t.callSlot = none ∧ w.c.freeSlot (Config.choice s.moves) = some slot)) →
      s.checkGlobal w (w.c.slotAddr slot) 64 1 { write := true } false = .ok p →
      let id := w.c.nextCall
      let part (i n : Nat) (bs : List Byte) (ord : Order) : PendingStore :=
        { seq := 0, bytes := storeOf ((p.locs.drop (8 * i)).take n) bs, order := ord, scope := .sy, born := s.moves }
      let arg (i : Nat) : PendingStore := part i 8 (toBytes (ofWords (((x.ws 1).drop (2 * i - 2)).take 2)) 8) .rlx
      let last : PendingStore := part 6 16 (toBytes 0 8 ++ toBytes 1 4 ++ toBytes (x.n 0) 4) .rel
      let posted (t : Thread) : Thread :=
        ((((((t.pushStore (part 0 8 (toBytes id.toNat 8) .rlx)).pushStore (arg 1)).pushStore (arg 2)).pushStore (arg 3)).pushStore
          (arg 4)).pushStore (arg 5)).pushStore last
      p.locs.length = 64 →
      exec i s = .next (((s.updThread w.k fun t => { posted t with
          callSlot := some slot, call := some { slot := slot, id := id, waiting := true } }).updCtx w.cI fun c => { c with
          nextCall := c.nextCall + 1, callSlots := if c.callSlots.contains slot then c.callSlots else c.callSlots ++ [slot] }).updThread w.k
        fun t => { t with status := .parked .syscall s.clock }))

/-- R357: ALLOC of 0 bytes, or where the heap cannot supply a block, writes 0; a block it supplies lies in the context's heap, 16-byte aligned,
apart from every live block. FREE of 0 only goes on, of a live block's address ends that block once its release is performed, and of any other
address traps HEAP_CORRUPT. Where a program's stores may have damaged the heap's metadata, both may trap HEAP_CORRUPT instead, at a place in the heap.
Where a block lies, whether one is supplied, and what a damaged heap does is the device's choice (log entries 16, 30). -/
def Obligations.DeviceHeap : Prop :=
  ∀ (s : State) (w : Who) (g : PredField) (d a : RegField), Executes s w g →
    let found := Config.choice (s.freshKey 200)
    let damaged := s.trapped w .heapCorrupt (w64 (w.c.heapPlace (found / 2))) 0
    let checked (o : Outcome) : Outcome := if w.c.heapHurt = true ∧ found % 2 = 1 then damaged else o
    (∀ x, w.t.fetch [wr2 d] [rd1 a [.b32]] = .ok x →
      let at_ := w.c.heapPlace (Config.choice s.moves)
      (x.v 0 = 0 → exec (.alloc d a g) s = s.threadDone w (x.t.pairSet d 0)) ∧
      (x.v 0 ≠ 0 → w.c.blockFits at_ (x.v 0).toNat = false → exec (.alloc d a g) s = checked (s.threadDone w (x.t.pairSet d 0))) ∧
      (x.v 0 ≠ 0 → w.c.blockFits at_ (x.v 0).toNat = true → s.heapAccess w at_ = .ok () →
        exec (.alloc d a g) s = checked (((s.setThread w.k ((x.t.pairSet d (w64 at_)).acquired .dv s.stamp)).updCtx w.cI fun c =>
          { c with heap := c.heap ++ [{ base := at_, size := (x.v 0).toNat }] }).wordDone w))) ∧
    (∀ x, w.t.fetch [] [rd2 a [.b32]] = .ok x →
      (x.n 0 = 0 → exec (.free a g) s = s.threadDone w x.t) ∧
      (x.n 0 ≠ 0 → (∀ b ∈ w.c.heap, b.base ≠ x.n 0) → exec (.free a g) s = s.trapped w .heapCorrupt (w64 (x.n 0)) 0) ∧
      (x.n 0 ≠ 0 → (∃ b ∈ w.c.heap, b.base = x.n 0) → s.heapAccess w (x.n 0) = .ok () → s.released w.t .dv = true →
        exec (.free a g) s = checked (((s.setThread w.k x.t).updCtx w.cI fun c =>
          { c with heap := c.heap.filter fun b => b.base != x.n 0 }).wordDone w))) ∧
    (∀ (c : Ctx) (at_ n : Nat), c.blockFits at_ n = true → at_ % 16 = 0 ∧ 0 < at_ ∧ c.field 56 0 64 ≤ at_ ∧
      at_ + n ≤ c.field 56 0 64 + c.field 64 0 64 ∧ (c.heapHurt = false → ∀ b ∈ c.heap, at_ + n ≤ b.base ∨ b.base + b.size ≤ at_))

/-- R281: BAR and EBAR release first. The last thread to arrive opens the next phase and every thread that was waiting goes on, after an acquire at .TR
for BAR, which takes over what the arrivals have acquired, and at .EN for EBAR; before that the thread waits. ARRIVE gives the phase, and AWAIT goes on
once that phase has ended.
Where it goes beyond the rules' words it states the model's reading: log entry 106. -/
def Obligations.Barriers : Prop :=
  ∀ (s : State) (w : Who) (g : PredField), Executes s w g →
    (let arr := w.tr.barrier.arrived ++ [w.k]
     let s1 := (s.passOn w.k).updThread w.k fun t => { t with status := .barred w.tr.barrier.phase }
     let s2 := s1.updTroupe w.trI fun t => { t with barrier := { t.barrier with arrived := t.barrier.arrived ++ [w.k] } }
     (s.released w.t .tr = false → exec (.bar g) s = .next (s.stopped w (.park .drain))) ∧
     (s.released w.t .tr = true → exec (.bar g) s = .next (if s2.completes w.tr.threads arr
       then (s2.updTroupe w.trI fun t => { t with barrier := { arrived := [], phase := t.barrier.phase + 1 } }).leaveBarrier arr .tr
         (s2.troupe w.trI).relStamp else s2))) ∧
    (let arr := w.e.ebar.arrived ++ [w.k]
     let s1 := s.updThread w.k fun t => { t with status := .barred w.e.ebar.phase }
     let s2 := s1.updEns w.eI fun e => { e with ebar := { e.ebar with arrived := e.ebar.arrived ++ [w.k] } }
     (s.released w.t .en = false → exec (.ebar g) s = .next (s.stopped w (.park .drain))) ∧
     (s.released w.t .en = true → exec (.ebar g) s = .next (if s2.completes (s2.threadsOf (s2.ens w.eI)) arr
       then (s2.updEns w.eI fun e => { e with ebar := { arrived := [], phase := e.ebar.phase + 1 } }).leaveBarrier arr .en 0 else s2))) ∧
    (∀ (d : RegField) (x : Fetched), w.t.fetch [wr1 d] [] = .ok x → w.k ∉ w.e.sbar.arrived → s.released w.t .en = true →
      exec (.arrive d g) s = (((s.setThread w.k (x.t.setReg d.toNat w.e.sbar.phase .b32)).updEns w.eI fun e =>
        { e with sbar := { e.sbar with arrived := e.sbar.arrived ++ [w.k] } }).serveSplit w.eI).wordDone w) ∧
    (∀ (a : RegField) (x : Fetched), w.t.fetch [] [rd1 a [.b32]] = .ok x →
      let ahead := w.e.sbar.phase - x.v 0
      exec (.await a g) s = if ahead ≠ 0 ∧ ahead.msb = false then (s.setThread w.k (x.t.acquired .en s.stamp)).wordDone w
        else .next (s.stopped w (.park .split)))

/-- R154 to R161: relay queues. An unbound queue traps. An operation whose place in its ac comes before one that has been applied there is not issued
in it (R159). The pushes parked before a new one complete first; a push with room and nobody before it appends its word, a release at .TR that waits for
the thread's earlier accesses, and a pop with nobody before it takes the oldest, an acquire at .TR that no earlier acquire may follow (R160, R202);
otherwise the thread waits in its place. QPEEK gives the count, and QCFG evicts who waits, unbinds, and binds the region given.
Where it goes beyond the rules' words it states the model's reading: log entries 32, 106. -/
def Obligations.RelayQueues : Prop :=
  ∀ (s : State) (w : Who) (g : PredField) (a d : RegField) (q : BitVec 3), Executes s w g →
    let Q := w.tr.queue q.toNat
    -- its place in its ac, and where an operation behind that place has been applied in this ac
    let place (group : Nat) := group * 4096 + w.t.part * 1024 + w.t.tid
    let early (group : Nat) : Prop := ∃ r, Q.last = some (s.clock, r) ∧ place group < r
    let placed (group : Nat) : State := s.updRelay w.trI q.toNat fun c => { c with last := some (s.clock, place group) }
    let notYet := Host.Outcome.next (s.updThread w.k fun t => { t with status := w.t.status })
    (∀ x, w.t.fetch [] [rd1 a []] = .ok x →
      let y : QueueWait := { thread := w.k, since := s.clock, tid := w.t.tid, word := (x.r 0).val, tag := (x.r 0).tag }
      (Q.base = none → exec (.qpush a q g) s = s.trapped w .queueNotBound 0 0) ∧
      (Q.base ≠ none → early 2 → exec (.qpush a q g) s = notYet) ∧
      (Q.base ≠ none → ¬early 2 → s.released w.t .tr = false → exec (.qpush a q g) s = .next (s.stopped w (.park .drain))) ∧
      (Q.base ≠ none → ¬early 2 → s.released w.t .tr = true →
        let s1 := (placed 2).servePushes w.trI q.toNat Q.pushWait.length
        let Q1 := (s1.troupe w.trI).queue q.toNat
        (Q1.words.length < 64 → Q1.pushWait = [] → exec (.qpush a q g) s =
          ((s1.pushWord w.trI q.toNat ((x.r 0).val, (x.r 0).tag)).passOn w.k).wordDone w) ∧
        (¬(Q1.words.length < 64 ∧ Q1.pushWait = []) → exec (.qpush a q g) s = .next (s.stopped w (.hold
          (s1.updRelay w.trI q.toNat fun c => { c with pushWait := insertWait { y with since := s1.clock } c.pushWait }) (.parked .queue s1.clock)))))) ∧
    (∀ x, w.t.fetch [wr1 d] [] = .ok x →
      (Q.base = none → exec (.qpop d q g) s = s.trapped w .queueNotBound 0 0 ∧ exec (.qpeek d q g) s = s.trapped w .queueNotBound 0 0) ∧
      (Q.base ≠ none → w.t.acquirePending w.t.seq = true → exec (.qpop d q g) s = .next (s.stopped w (.park .drain))) ∧
      (Q.base ≠ none → early 1 → (w.t.acquirePending w.t.seq = false → exec (.qpop d q g) s = notYet) ∧ exec (.qpeek d q g) s = notYet) ∧
      (Q.base ≠ none → ¬early 1 → let s1 := placed 1
        exec (.qpeek d q g) s = (s1.updThread w.k (·.setReg d.toNat (w32 Q.words.length) .b32)).wordDone w ∧
        (∀ v vs, w.t.acquirePending w.t.seq = false → Q.words = v :: vs → Q.popWait = [] →
          exec (.qpop d q g) s = ((s1.updRelay w.trI q.toNat fun c => { c with words := vs }).updThread
            w.k fun t => (t.setReg d.toNat v.1 v.2).acquired .tr s.stamp w.tr.relStamp).wordDone w) ∧
        (w.t.acquirePending w.t.seq = false → Q.words = [] ∨ Q.popWait ≠ [] →
          exec (.qpop d q g) s = .next (s.stopped w (.hold (s1.updRelay w.trI q.toNat fun c =>
            { c with popWait := insertWait { thread := w.k, since := s.clock, tid := w.t.tid, dst := d.toNat } c.popWait })
            (.parked .queue s.clock)))))) ∧
    (∀ x, w.t.fetch [] [rd1 a []] = .ok x → slice (x.v 0).toNat 1 8 = 0 → ¬early 0 →
      let base := (x.v 0).toNat / 512 * 512
      let s1 := ((placed 0).evictWaiters w.trI q.toNat).unbind w.trI q.toNat
      ((x.v 0).getLsbD 0 = false → exec (.qcfg a q g) s = s1.wordDone w) ∧
      ((x.v 0).getLsbD 0 = true → base + 512 ≤ w.tr.slice → (∀ i < 8, i ≠ q.toNat → ∀ b, (w.tr.queue i).base = some b → b + 512 ≤ base ∨ base + 512 ≤ b) →
        s.meetsCarousel w.e w.trI base 512 = false →
        exec (.qcfg a q g) s = (s1.updRelay w.trI q.toNat fun c => { c with base := some base }).wordDone w))

/-! ### Copies, completion maps, Carousels and the loop mapper (R162 to R173, R217 to R241) -/

/-- R218 to R228, R240: a copy issues once its registers are read, its descriptor is readable and valid, its thread's troupe is the producer, its dense
range (and a CPYG.S source) lies where it may, and there is room: it owes its "b", a copy of nothing is done at once, and any other is in flight with
every granule still to move, its chunks pending and their bits clear, or its Carousel stage filling. R226, R230 to R232: CWAIT goes on when its chunks are all written, traps with a copy's latched fault where they are not, and parks where nothing is
latched; CTEST owes 32 bits or the status; CPYC waits for what has left for a home, then ends the map's copies, with the bits of what was pending clear and the
latch empty. All three are
the producer's.
Where it goes beyond the rules' words it states the model's reading: log entries 8, 27, 71. -/
def Obligations.Copies : Prop :=
  (∀ (s : State) (w : Who) (g : PredField) (d a : RegField) (c : BitVec 4) (c3 : BitVec 3) (ds : BitVec 1) (kind : CopyKind) (i : Instr) (map : Nat),
     Executes s w g →
     (kind, i, map) ∈ [(.ld, .cpyLd d a c g ds, c.toNat), (.st, .cpySt d a c g ds, c.toNat), (.gG, .cpygG d a c g ds, c.toNat),
       (.gS, .cpygS d a c g ds, c.toNat), (.cb, .cpyCb d a c3 g ds, c3.toNat)] →
     ∀ x s0 desc, w.t.fetch [] [rd4 d [.b32], if ds = 1#1 then rd1 a [.b32] else rd2 a [.b32]] = .ok x →
       s.readDescriptor w (ds == 1#1) (x.n 1) = .ok (s0, desc) →
       (w.tr.k ≠ pkProducer w.e.packet → exec i s = s.trapped w .copyRights 0 0) ∧
       (∀ off, w.tr.k = pkProducer w.e.packet → tnFailure kind desc = some off → exec i s = s.trapped w .copyDescriptor 0 (w64 off)) ∧
       (let xd := ((x.ws 0).map (·.toNat)).getD 0 0
        let n := tnBytes desc
        let origin := (upFrom 0 9).map fun j => if j < 3 then (nth (x.ws 0) (j + 1) 0).toInt else 0
        let tile := kind = .gG ∨ kind = .gS
        let car := nth w.tr.carousels map {}
        ∀ place stage, w.tr.k = pkProducer w.e.packet → tnFailure kind desc = none → (kind ≠ .cb → xd % 16 = 0) →
         (tile → tileBytes w.e.packet ≠ 0 ∧ (n = 0 ∨ xd + n ≤ tileBytes w.e.packet) ∧ place = (w.trI, xd)) →
         (¬tile → s0.rangePlace w xd n = .ok place) →
         (∀ r, kind = .gS → tnExtent desc origin = some r → ∃ u v, s0.rangePlace w r.1 (tnElem desc) = .ok u ∧
           s0.rangePlace w r.2 (tnElem desc) = .ok v) →
         (kind = .cb → s0.stageAt car w.tr.k xd = some stage ∧ car.stage stage = .acq ∧ n ≤ car.size) → (kind ≠ .cb → stage = 0) →
         s0.engineLoad w.group < 64 → (kind ≠ .cb → (nth w.tr.maps map {}).inflight < 16) → x.t.Room [w.t.fb] →
         let s1 := s0.setThread w.k (x.t.owing { flag := w.t.fb })
         let gs := upFrom 0 ((n + 15) / 16)
         let copy : Copy :=
           { troupe := w.trI, kind := kind, map := map, stage := stage, desc := desc, origin := origin, denseTr := place.1, dense := place.2,
             todo := gs, after := [(w.k, w.t.seq)] }
         let s2 := { s1 with copies := s1.copies ++ [copy] }
         (n = 0 → exec i s = (if kind = .cb then s1.updCarousel w.trI map (·.setStage stage .full) else s1).wordDone w) ∧
         (n ≠ 0 → exec i s = (if kind = .cb then s2.updCarousel w.trI map (·.setStage stage .filling)
           else s2.updMap w.trI map fun m => { (copy.chunks gs).foldl CompletionMap.begin m with inflight := m.inflight + 1 }).wordDone w))) ∧
  (∀ (s : State) (w : Who) (g : PredField) (d a : RegField) (c : BitVec 4) (st : BitVec 1), Executes s w g →
     let m := nth w.tr.maps c.toNat {}
     (∀ x, w.t.fetch [] [rd1 a []] = .ok x →
       let v := (x.v 0).toNat
       let n := slice v 8 9
       let written := ∀ i < n, bitAt m.bits.toNat ((v + i) % 256) = true
       (256 < n ∨ slice v 17 15 ≠ 0 → exec (.cwait a c g) s = s.trapped w .reservedField 0 0) ∧
       (n ≤ 256 → slice v 17 15 = 0 →
         (w.tr.k ≠ pkProducer w.e.packet → exec (.cwait a c g) s = s.trapped w .copyRights 0 0) ∧
         (w.tr.k = pkProducer w.e.packet →
           (written → exec (.cwait a c g) s = s.wordDone w) ∧
           (∀ f, ¬written → m.latch = some f → exec (.cwait a c g) s = s.trapped w f.1 f.2 (w64 (c.toNat + 32))) ∧
           (¬written → m.latch = none → exec (.cwait a c g) s = .next (s.stopped w (.park .completionMap)))))) ∧
     (∀ x, w.t.fetch [wr1 d] [rd1 a []] = .ok x → w.tr.k = pkProducer w.e.packet → x.t.Room [x.t.fa] →
       let bits := ofBits ((upFrom 0 32).map fun i => bitAt m.bits.toNat (((x.v 0).toNat % 256 + i) % 256))
       let status := (match m.latch with
         | some f => f.1.code
         | none => 0) + m.inflight * 256
       exec (.ctest d a c g st) s = s.threadDone w (x.t.owing (x.t.oweA d.toNat [w32 (if st = 1#1 then status else bits)] .b32))) ∧
     (w.tr.k ≠ pkProducer w.e.packet → exec (.cpyc c g) s = s.trapped w .copyRights 0 0) ∧
     (w.tr.k = pkProducer w.e.packet →
       let mine (x : Copy) : Prop := x.live = true ∧ x.troupe = w.trI ∧ x.kind ≠ .cb ∧ x.map = c.toNat
       let sent := ∃ x ∈ s.copies, mine x ∧ ∃ y ∈ x.sent, s.passing y.2 = true
       let cancel (x : Copy) : Copy := if x.live ∧ x.troupe = w.trI ∧ x.kind ≠ .cb ∧ x.map = c.toNat then { x with live := false, todo := [], waiting := false } else x
       (sent → exec (.cpyc c g) s = .next (s.stopped w (.park .copyCancel))) ∧
       (¬sent → exec (.cpyc c g) s = (({ s with copies := s.copies.map cancel }).updMap w.trI c.toNat fun m =>
         { (m.pending.foldl (fun (m : CompletionMap) (x : Nat × Nat) => m.setBit x.1 false) m) with pending := [], inflight := 0, latch := none }).wordDone w)))

/-- R235 to R239: CBINIT lays a Carousel out or takes it away; CBACQ takes the next free stage and CBWAIT the next full one, in ring order and
first come first, or waits; CBCMT fills an acquired stage and CBREL frees a held one, each a release at .EN. A full stage that a fault took its
place traps at CBWAIT and stays.
Where it goes beyond the rules' words it states the model's reading: log entry 85. -/
def Obligations.Carousels : Prop :=
  ∀ (s : State) (w : Who) (g : PredField) (d a : RegField) (c : BitVec 3) (v : BitVec 2) (tr : Nat), Executes s w g →
    w.e.troupes[w.tr.k ^^^ v.toNat]? = some tr →
    let o := nth (s.troupe tr).carousels c.toNat {}
    let upd (s : State) (f : Carousel → Carousel) : State := s.updCarousel tr c.toNat f
    (∀ x, w.t.fetch [] [rd2 a []] = .ok x → slice (nth (x.ws 0) 1 0).toNat 20 12 = 0 →
      let base := (nth (x.ws 0) 0 0).toNat
      let size := 512 * slice (nth (x.ws 0) 1 0).toNat 0 16
      let count := slice (nth (x.ws 0) 1 0).toNat 16 4 + 1
      (∀ st ∈ o.stages, st ≠ .acq ∧ st ≠ .filling ∧ st ≠ .held) →
      (size = 0 → exec (.cbinit a c g v) s =
        (upd s fun o => { o with slice := 0, base := 0, size := 0, head := 0, tail := 0, stages := [] }).wordDone w) ∧
      (∀ place, size ≠ 0 → base % 512 = 0 → s.checkScratch w base (size * count) 1 = .ok place →
        (∀ t ∈ w.e.troupes, ∀ j < 8, (t, j) ≠ (tr, c.toNat) → let p := nth (s.troupe t).carousels j {}
          p.stages = [] ∨ p.slice ≠ place.1 ∨ place.2 + size * count ≤ p.base ∨ p.base + p.size * p.stages.length ≤ place.2) →
        exec (.cbinit a c g v) s = (upd s fun o => { o with
          slice := place.1, base := place.2, size := size, head := 0, tail := 0, stages := List.replicate count .free }).wordDone w)) ∧
    (∀ x, w.t.fetch [wr1 d] [] = .ok x →
      (o.stages = [] → let trap := Host.Outcome.next ((s.leaveCarousel tr c.toNat w.k).takeTrap w.k .carouselProtocol w.t.pc 0 0)
        exec (.cbacq d c g v) s = trap ∧ exec (.cbwait d c g v) s = trap) ∧
      (o.stages ≠ [] → o.stage o.head = .free → (∀ k ∈ o.acqWait.head?, k = w.k) → exec (.cbacq d c g v) s =
        (upd (s.setThread w.k ((x.t.setReg d.toNat (w32 (s.stageAddr o w.tr.k o.head)) .b32).acquired .en s.stamp)) fun o =>
          { o.setStage o.head .acq with head := (o.head + 1) % o.stages.length, acqWait := o.acqWait.filter (· != w.k) }).wordDone w) ∧
      (o.stages ≠ [] → (∀ k ∈ o.popWait.head?, k = w.k) →
        (o.stage o.tail = .full → exec (.cbwait d c g v) s =
          (upd ((s.setThread w.k ((x.t.setReg d.toNat (w32 (s.stageAddr o w.tr.k o.tail)) .b32).acquired .en s.stamp)).leaveCarousel tr c.toNat w.k)
            fun o => { o.setStage o.tail .held with tail := (o.tail + 1) % o.stages.length }).wordDone w) ∧
        (∀ cause addr, o.stage o.tail = .fault cause addr →
          exec (.cbwait d c g v) s = .next ((s.leaveCarousel tr c.toNat w.k).takeTrap w.k cause w.t.pc addr (w64 (c.toNat + 48)))))) ∧
    (∀ x i, w.t.fetch [] [rd1 a [.b32]] = .ok x → s.stageAt o w.tr.k (x.v 0).toNat = some i →
      (o.stage i = .acq → s.released w.t .en = true →
        exec (.cbcmt a c g v) s = (upd (s.setThread w.k x.t) (·.setStage i .full)).wordDone w) ∧
      (o.stage i = .held → s.released w.t .en = true →
        exec (.cbrel a c g v) s = (upd (s.setThread w.k x.t) (·.setStage i .free)).wordDone w) ∧
      (o.stage i ≠ .acq → exec (.cbcmt a c g v) s = s.trapped w .carouselProtocol 0 0) ∧
      (o.stage i ≠ .held → exec (.cbrel a c g v) s = s.trapped w .carouselProtocol 0 0))

/-- R162 to R173: MAP.HINT takes a head out of the refusal table and, where it may be mapped and is not installed, marks it hinted, unless mapping or
hints are off, when it only goes on; MAP.OFF empties the list for 0, does nothing for an address that heads no loop, forbids a head, or sets FULL where
the list is full, and drops the configurations and cools the heads concerned. The heat entry's clear and the refusal's expiry act on what has lasted its time, CLEAR zeroes the counters, and the
analysis of a candidate refuses it, installs it, drops it where it may not be mapped, or waits for its body's words.
Where it goes beyond the rules' words it states the model's reading: log entries 14, 93. -/
def Obligations.LoopMapper : Prop :=
  (∀ (s : State) (w : Who) (g : PredField) (a : RegField) (x : Fetched), Executes s w g → w.t.fetch [] [rd2 a [.b32]] = .ok x →
    let head := w64 (x.n 0)
    canonical head = true → head.toNat % 4 = 0 →
    let s1 := s.setThread w.k x.t
    (w.c.mapctl.getLsbD 0 = true ∨ w.c.mapctl.getLsbD 1 = true → exec (.mapHint a g) s = s1.wordDone w) ∧
    (w.c.mapctl.getLsbD 0 = false → w.c.mapctl.getLsbD 1 = false → exec (.mapHint a g) s = (s1.updCore w.tr.core fun c =>
      let c0 : Core := { c with refused := c.refused.filter fun x => !(x.ctx == w.cI && x.head == head) }
      if head ∈ w.c.forbid ∨ w.c.mapctl.getLsbD 2 = true ∨ (∃ m ∈ c.configs, m.ctx = w.cI ∧ m.head = head) ∨ (w.cI, head) ∈ c.hinted then c0
      else { c0 with hinted := c.hinted ++ [(w.cI, head)] }).wordDone w) ∧
    (head = 0 → exec (.mapOff a g) s = ((s1.dropConfigs fun _ m => m.ctx == w.cI && w.c.forbid.contains m.head).updCtx w.cI fun c =>
      { c with forbid := [], mapctl := c.mapctl &&& ~~~(4#32) }).wordDone w) ∧
    (head ≠ 0 → s.headsLoop w.cI head = false → exec (.mapOff a g) s = s1.wordDone w) ∧
    (head ≠ 0 → s.headsLoop w.cI head = true → head ∈ w.c.forbid ∨ w.c.forbid.length < 16 →
      exec (.mapOff a g) s = (((s1.dropConfigs fun _ m => m.ctx == w.cI && m.head == head).chill w.cI fun h => h == head).updCtx w.cI fun c =>
        if head ∈ c.forbid then c else { c with forbid := c.forbid ++ [head] }).wordDone w) ∧
    (head ≠ 0 → s.headsLoop w.cI head = true → head ∉ w.c.forbid → 16 ≤ w.c.forbid.length →
      exec (.mapOff a g) s = (((s1.dropAll w.cI).chill w.cI fun _ => true).updCtx w.cI fun c => { c with mapctl := c.mapctl ||| 4#32 }).wordDone w)) ∧
  (∀ (s : State) (core : Nat) (head : DWord),
    exec (.heatEntryClear core head) s = .next (s.updCore core fun c => { c with heat := c.heat.map fun h =>
      let n := (s.clock - h.since).toNat / 65536
      if h.head = head ∧ 1 ≤ n then { h with count := 0, since := h.since + w64 (65536 * n) } else h }) ∧
    exec (.refusalExpiry core head) s = .next (s.updCore core fun c => { c with
      refused := c.refused.filter fun r => !(r.head == head && decide (2 ^ 20 ≤ (s.clock - r.since).toNat)) }) ∧
    (s.domainOff = false → exec (.mctrClear core true) s = .next (s.updCore core fun c => { c with counters := {} })) ∧
    exec (.mctrClear core false) s = .next s ∧
    ∀ ctx place, let found := (s.core core).heat.find? (fun h => h.ctx == ctx && h.head == head && h.candidate)
      let c := s.ctx ctx
      (found = none → exec (.mapperAnalysis core ctx head place) s = .next s) ∧
      ∀ h, found = some h →
        (c.mapsHead head = false → exec (.mapperAnalysis core ctx head place) s =
          .next (s.updCore core fun co => { co with heat := co.heat.filter fun x => !(x.ctx == ctx && x.head == head) })) ∧
        (c.mapsHead head = true →
          (s.bodyOf c.asid core head h.back = none → exec (.mapperAnalysis core ctx head place) s = .next s) ∧
          ∀ b, s.bodyOf c.asid core head h.back = some b → let code := refusalCode (slice c.mapctl.toNat 4 2) head.toNat h.tags b.1
            (s.allReadable b.2 = false → exec (.mapperAnalysis core ctx head place) s = .next (s.acquireAll b.2 false { ctx := ctx })) ∧
            (∀ n, s.allReadable b.2 = true → code = some n → exec (.mapperAnalysis core ctx head place) s =
              .next (s.updCore core (·.refuse ctx head n s.clock))) ∧
            let m : MapConfig := { ctx := ctx, head := head, back := h.back, span := spanOf (b.1.filter fun x => !isHeaderOrHint x.2).length,
                                   part := h.part, live := maskOf (liveRegs h.tags b.1), pages := (b.2.map (· / 4096)).dedup,
                                   vpages := (b.1.map (·.1 % 2 ^ 57 / 4096)).dedup }
            (s.allReadable b.2 = true → code = none →
              ((s.core core).configs.length < 4 → exec (.mapperAnalysis core ctx head place) s = .next (s.updCore core (·.install place m))) ∧
              ∀ old rest, (s.core core).configs = old :: rest → rest.length = 3 →
                exec (.mapperAnalysis core ctx head place) s = .next ((s.leave (old.inside.map (·.1))).updCore core (·.install place m)))))

/-! ### Matrices and the grid (R242 to R267) -/

/-- R147, R242 to R248: MMA and MMAS, when the whole crew has arrived with the same hints, use, load or release the A latch, and every arrival owes a
"b" at once and an "a" that writes the products of its row with the columns that take part, F32 or B32 by the class; a row is the latch's where it is
used, and else the registers from a; an integer element is the old one, or 0 under .AA, plus the exact sum over the depths that take part, modulo
2^32. Until its "b" is met an arrival's sources may be read again (R39). An arrival whose mask names another set of lanes than its crew's traps with all
that came.
Where it goes beyond the rules' words it states the model's reading: log entries 8, 34, 35, 75. -/
def Obligations.MatrixProducts : Prop :=
  (∀ (s : State) (w : Who) (g : PredField) (d a b : RegField) (sparse : Bool) (i : Instr) (here : List (Nat × Nat)) (c : MatClass), Executes s w g →
    (sparse, i) ∈ [(false, Instr.mma d a b g), (true, .mmas d a b g)] → mmaCheck sparse d a b w = .ok () → Gathered s w i w.maskPair here →
    (w.t.lane, w.k) ∈ here →
    let m := w.maskPair
    let h := w.t.hints
    let s1 := s.updThread w.k fun t => { t with status := .arrived i m }
    let lanes := here.map (matLane sparse a b s1)
    let held := latchUsed (nth (s1.troupe w.trI).latches w.t.crew none) (s1.thread ((here.head?.map (·.2)).getD 0)) sparse a
    let fresh : ALatch := { field := a, cls := c, sparse := sparse, mx := h.sx, rows := lanes.map fun l => (l.lane, l.a) }
    let key := s1.freshKey w.t.crew
    -- what the product may read again while a "b" of it stands (R39)
    let work : MatWork :=
      { key := key, cls := c, sparse := sparse, mx := h.sx, agree := true, latched := h.ha, mask := m, d := d, a := a, b := b,
        lanes := lanes.map fun l => { lane := l.lane, thread := l.k, hints := l.t.hints, regs := l.t.regs, row := l.a } }
    (∀ x ∈ here, (s1.thread x.2).hints = h ∧ (s1.thread x.2).troupe = w.trI ∧ (s1.thread x.2).crew = w.t.crew) → (∀ l ∈ lanes, l.cls = some c) →
    (m.toNat % 65536 ≠ w.tr.crewMask w.t.crew → exec i s = .next (s1.failAtPc (s1.crewOf w.tr w.t.crew) w.t.pc w.t.lane)) ∧
    (m.toNat % 65536 = w.tr.crewMask w.t.crew → exec i s = .next (lanes.foldl (fun s l =>
      let writes := (lanes.filter fun o => maskRow m l.lane && maskCol m o.lane).map fun o =>
        (d.toNat + o.lane, mmaElem c h.sx m (fragShape c sparse h.sx).k l.t (nth (l.t.portWords d.toNat 16 (accTags (c == .int && !h.sx))) o.lane (0, .b32)).1
            (rowVals c sparse h.sx l.t.hints.na l.a) o.b,
          if c == .int && !h.sx then Tag.b32 else .f32)
      (s.updThread l.k (·.oweMatrix key writes)).retire l.k l.t)
      (s1.updTroupe w.trI fun tr => { tr with
        latches := updateAt tr.latches w.t.crew fun _ => if h.ha then some (held.getD fresh) else none
        works := (tr.works.filter fun x => s1.productOpen tr x.key) ++ [work] })))) ∧
  (∀ (sparse : Bool) (a b : RegField) (s : State) (x : Nat × Nat), let t := s.thread x.2
    let l := matLane sparse a b s x
    l.lane = x.1 ∧ l.k = x.2 ∧ l.t = t ∧
    (∀ u, latchUsed (nth (s.troupe t.troupe).latches t.crew none) t sparse a = some u → l.a = u.row x.1) ∧
    ∀ c, latchUsed (nth (s.troupe t.troupe).latches t.crew none) t sparse a = none → (t.reg a.toNat).tag.matClass = some c →
      let z := fragShape c sparse t.hints.sx
      l.cls = some c ∧ l.a = t.portWords a.toNat z.a [(t.reg a.toNat).tag] ++ t.portWords (a.toNat + z.a) z.aExt []) ∧
  ∀ (m : DWord) (k : Nat) (t : Thread) (old : Word) (a b : List FVal), t.hints.sat = false →
    mmaElem .int false m k t old a b = BitVec.ofInt 32 ((if t.hints.aa then 0 else old.toInt) +
      ((termsOf a b (maskDepth m k) 0 k).map fun x => (x.1.toInt .rne).1 * (x.2.toInt .rne).1).sum)

/-- R249, R250: TLD and TST meet as a crew and then each arrival moves its own elements: TLD owes at "a" one relaxed load of the places of its elements,
which its group receives; TST owes its "b" and puts one relaxed store for each element, or for each byte of nibbles, behind those before, each of which may
read the register of its elements again while the "b" stands (R39); KIND 3 of TLD takes the accumulator words of the tile at once.
Where it goes beyond the rules' words it states the model's reading: log entries 8, 9, 76, 90. -/
def Obligations.MatrixFragments : Prop :=
  ∀ (s : State) (w : Who) (g : PredField) (d a b : RegField), Executes s w g →
    let c := fragCtl (w.t.reg b.toNat).val
    let m := w.maskPair
    (∀ store i one here, (store, i, one) ∈ [(false, Instr.tld d a b g, tldOne d a b), (true, .tst d a b g, tstOne d a b)] → w.t.split = false →
      fragCheck store d a b w = .ok () → Gathered s w i m here → m.toNat % 65536 = w.tr.crewMask w.t.crew →
      exec i s = .next (here.foldl (fun s x => fragOne one m x.2 s) (s.updThread w.k fun t => { t with status := .arrived i m }))) ∧
    (∀ ps, w.t.split = true → c.kind ≠ 3 → fragPlaces s w c a false m = .ok ps → w.t.Room [w.t.fa] →
      exec (.tld d a b g) s = s.threadDone w ((w.t.raised [w.t.fa]).pushLoad
        { seq := 0, locs := ps.flatMap (·.2), scope := if c.scratch then .en else .dv, flag := w.t.fa,
          form := { type := c.type, dst := d.toNat, count := c.regs, frag := some (c, ps.map (·.1)) }, born := s.moves })) ∧
    (w.t.split = true → c.kind = 3 → w.t.Room [w.t.fa] →
      let live (n : Nat) : Bool := maskRow m w.t.lane && maskCol m n && bitAt (w.tr.crewMask w.t.crew) n
      let word (n : Nat) : Nat :=
        (w.e.tileWord (blockWord (slice c.str 0 4) (16 * slice c.str 8 2 + w.t.lane) (16 * slice c.str 10 2 + n))).1.toNat
      let vals := ((upFrom 0 16).filter live).map fun n => (n, word n)
      let ws := (upFrom 0 16).map fun n => (w32 (((vals.find? fun x => x.1 == n).map (·.2)).getD 0), Tag.acc)
      exec (.tld d a b g) s = s.threadDone w (w.t.owing { flag := w.t.fa, writes := (upFrom d.toNat ws.length).zip ws, simt := true })) ∧
    (∀ ps, w.t.split = true → c.width ≠ 4 → fragPlaces s w c a true m = .ok ps → w.t.Room [w.t.fb] →
      exec (.tst d a b g) s = (ps.foldl (fun (s : State) (x : (Nat × Bool) × List Loc) =>
        let bs := storeOf x.2 (toBytes (c.stored w.t d x.1.1) c.bytes)
        s.addStore w (s.thread w.k) { seq := 0, bytes := bs, scope := if c.scratch then .en else .dv, src := tstOne.source d w c ps bs })
          (s.setThread w.k (w.t.owing { flag := w.t.fb, simt := true, stores := upFrom w.t.seq ps.length }))).wordDone w) ∧
    (∀ ps r, w.t.split = true → c.width = 4 → fragPlaces s w c a true m = .ok ps → w.t.Room [w.t.fb] →
      nibbleStores s w (mergeNibbles (ps.flatMap fun x => x.2.map fun l =>
        { loc := l, val := BitVec.ofNat 8 (if x.1.2 then c.stored w.t d x.1.1 * 16 else c.stored w.t d x.1.1), mask := if x.1.2 then 0xF0 else 0x0F })) = .ok r →
      exec (.tst d a b g) s = (r.2.foldl (fun (s : State) bs =>
        s.addStore w (s.thread w.k) { seq := 0, bytes := bs, scope := if c.scratch then .en else .dv, src := tstOne.source d w c ps bs })
          (r.1.setThread w.k (w.t.owing { flag := w.t.fb, simt := true, stores := upFrom w.t.seq r.2.length }))).wordDone w)

/-- R253 to R257, R262: GRID.ON arranges the grid where the launch owns it and its share is large enough, waiting while a matrix instruction of the
ensemble is outstanding, and traps otherwise; GRID.OFF releases it once its queue is empty and waits until then; GANG with a legal word sets the gang
while nobody stands at the latch; OPFENCE clears the dirty ranges once the thread's scratch stores are performed; GWAIT goes on when its sequence
number is done and no fault stands at or below it, traps with such a fault, and traps on a number beyond those issued.
Where it goes beyond the rules' words it states the model's reading: log entry 79. -/
def Obligations.GridControl : Prop :=
  ∀ (s : State) (w : Who) (g : PredField) (a : RegField), Executes s w g →
    let upd (s : State) (f : Grid → Grid) : State := s.updEns w.eI fun e => { e with grid := f e.grid }
    let q := w.e.grid
    (let owner := fieldOf w.e.packet 48 8 1 = 1
     let share := fieldOf w.e.packet 56 0 16
     let busy := ∃ k ∈ s.threadsOf w.e, (∃ o ∈ (s.thread k).owed, o.simt = true) ∨ ∃ l ∈ (s.thread k).loads, l.form.frag.isSome = true
     (¬owner → exec (.gridOn g) s = s.trapped w .gridNotOwned 0 0) ∧ (owner → share < 1536 → exec (.gridOn g) s = s.trapped w .gridShape 0 0) ∧
     (owner → 1536 ≤ share → q.on = true → exec (.gridOn g) s = s.wordDone w) ∧
     (owner → 1536 ≤ share → q.on = false → busy → exec (.gridOn g) s = .next (s.stopped w (.park .gridSwitch))) ∧
     (owner → 1536 ≤ share → q.on = false → ¬busy → exec (.gridOn g) s = (upd s fun q => { q with on := true }).wordDone w)) ∧
    ((q.on = false → exec (.gridOff g) s = s.wordDone w) ∧
     (q.on = true → q.queue ≠ [] → s.latched w.e = [] → exec (.gridOff g) s = .next (s.stopped w (.hold s (.parked .gridEmpty s.clock)))) ∧
     (q.on = true → q.queue = [] → s.latched w.e = [] → exec (.gridOff g) s = (upd s fun q => { q with on := false, fault := none }).wordDone w)) ∧
    (∀ x, w.t.fetch [] [rd1 a [.b32]] = .ok x → let v := (x.v 0).toNat
      let first := slice v 0 8
      let memb := slice v 8 6
      let shape := ¬(memb = 0 ∧ first ≠ 0) ∧ popCount memb 6 ≠ 1 ∧ ∀ i < 6, bitAt memb i = true → s.crewExists w.e (first + i) = true
      (2 ^ 14 ≤ v → exec (.gang a g) s = s.trapped w .reservedField 0 0) ∧
      (v < 2 ^ 14 → ¬shape → exec (.gang a g) s = s.trapped w .gridShape 0 0) ∧
      (v < 2 ^ 14 → shape → s.latched w.e = [] → (s.setThread w.k x.t).latched w.e = [] →
        exec (.gang a g) s = (upd (s.setThread w.k x.t) fun q => { q with gang := x.v 0 }).wordDone w)) ∧
    (let out := ∃ p ∈ w.t.stores, ∃ b ∈ p.bytes, b.loc.scratch.isSome = true
     (out → exec (.opfence g) s = .next (s.stopped w (.park .drain))) ∧
     (¬out → exec (.opfence g) s = (upd s fun q => { q with dirtyScratch := [], dirtyTile := [] }).wordDone w)) ∧
    (∀ x, w.t.fetch [] [rd1 a [.b32]] = .ok x → let v := x.v 0
      let ahead := (v - q.issued).toNat
      (v = 0 → exec (.gwait a g) s = s.threadDone w x.t) ∧
      (v ≠ 0 → 1 ≤ ahead → ahead < 2 ^ 31 → exec (.gwait a g) s = s.trapped w .matrixParam 0 0) ∧
      (v ≠ 0 → ahead = 0 ∨ 2 ^ 31 ≤ ahead →
        (2 ^ 31 ≤ (q.done - v).toNat → exec (.gwait a g) s = .next (s.stopped w (.park .gridSequence))) ∧
        ((q.done - v).toNat < 2 ^ 31 →
          (∀ f, q.fault = some f → (v - f.2.2).toNat < 2 ^ 31 →
            exec (.gwait a g) s = .next (s.stopped w (.trap f.1 f.2.1 (w64 f.2.2.toNat) x.fl))) ∧
          ((∀ f, q.fault = some f → 2 ^ 31 ≤ (v - f.2.2).toNat) → exec (.gwait a g) s =
            (upd (s.setThread w.k x.t) fun q =>
              { q with unwaited := q.unwaited.filter fun op => !decide ((v - op.seq).toNat < 2 ^ 31) }).wordDone w))))

/-- R256 to R267: GMMA, GMMAT, GTLD and GTST whose block passes every check are accepted with the next sequence number, which their destination
receives, and enter the queue; a GMMA or GMMAT of a gang waits at the latch until every member has arrived. RBOX.G owes the count of hits and enters
the queue. A grid step of the operation at the head adds one K-slice to every element of its region that is not above the diagonal and touches no
other word of the tile; it has no columns of B to read where M is 0; a move fills the words of a GTLD's region; an operation that is not ready, and one of the other kind, is left alone; a drain
notes a grid that may not run.
Where it goes beyond the rules' words it states the model's reading: log entries 21, 22, 27, 71, 77, 78, 79, 100, 107. -/
def Obligations.GridOperations : Prop :=
  (∀ (s : State) (w : Who) (g : PredField) (d a : RegField) (kind : GridKind) (i : Instr) (x : Fetched) (op : GridOp), Executes s w g →
    (kind, i) ∈ [(GridKind.gmma, Instr.gmma d a g), (.gmmat, .gmmat d a g), (.gtld, .gtld d a g), (.gtst, .gtst d a g)] →
    (∀ j b, w.t.status ≠ .latched j b) → w.t.fetch [wr1 d] [rd1 a [.b32]] = .ok x →
    let s1 := s.setThread w.k x.t
    s1.checkOp kind (x.v 0).toNat [w.k] { w with t := x.t } = .ok op →
    w.e.grid.on = true ∧ w.e.grid.queue.length < 8 ∧ op.kind = kind ∧ op.seq = w.e.grid.issued + 1 ∧
    (slice w.e.grid.gang.toNat 8 6 = 0 ∨ kind = .gtld ∨ kind = .gtst → exec i s =
      .next (((s1.updEns w.eI fun e => { e with grid := e.grid.enter op }).updThread w.k (·.setReg d.toNat op.seq .b32)).retire w.k x.t)) ∧
    (w.e.grid.enter op).issued = op.seq ∧ (w.e.grid.enter op).queue.length = w.e.grid.queue.length + 1) ∧
  (∀ (s : State) (w : Who) (g : PredField) (d a : RegField) (i : Instr) (x : Fetched), Executes s w g → i ∈ [Instr.gmma d a g, .gmmat d a g] →
    (∀ j b, w.t.status ≠ .latched j b) → w.t.fetch [wr1 d] [rd1 a [.b32]] = .ok x →
    let crews := gangCrews w.e.grid.gang.toNat
    crews ≠ [] → (64 * w.tr.k + w.t.crew) ∈ crews → s.latched w.e = [] → (∃ c ∈ crews, c ≠ 64 * w.tr.k + w.t.crew) →
      exec i s = .next ((s.setThread w.k x.t).updThread w.k fun t => { t with status := .latched i (x.v 0) })) ∧
  (∀ (s : State) (w : Who) (g : PredField) (d a : RegField) (x : Fetched), Executes s w g → w.t.fetch [wr1 d] [rd4 a []] = .ok x →
    let v (i : Nat) : Nat := (nth (x.ws 0) i 0).toNat
    let lacks (addr n : Nat) : Prop := n ≠ 0 ∧ ∀ p, s.checkScratch w addr n 1 ≠ .ok p
    (w.e.grid.on = false → exec (.rboxG d a g) s = s.trapped w .gridNotOwned 0 0) ∧
    (w.e.grid.on = true → v 0 % 32 = 0 → v 1 % 128 = 0 → v 2 % 8 = 0 → v 3 ≤ 64 → w.e.grid.queue.length < 8 →
      ¬lacks (v 0) (32 * v 3) → ¬lacks (v 1) 128 → ¬lacks (v 2) (8 * v 3) → x.t.Room [w.t.fa] →
      exec (.rboxG d a g) s = ((s.setThread w.k (x.t.owing { flag := w.t.fa, hold := some s.moves })).updEns w.eI fun e =>
        { e with grid := { e.grid with queue := e.grid.queue ++
          [{ kind := .rbox, key := s.moves, thread := w.k, dst := d.toNat, raddrs := x.ws 0, after := [(w.k, w.t.seq)] }] } }).wordDone w)) ∧
  ∀ (s : State) (n : Nat) (e : Ensemble), s.ensembles[n]? = some e →
    (s.gridRuns n e = true → exec (.gridDrain n) s = .next s) ∧
    (s.gridRuns n e = false → exec (.gridDrain n) s = .next (s.updEns n fun e => { e with grid := { e.grid with drained := true } })) ∧
    (e.grid.queue = [] → exec (.gridStep n) s = .next s ∧ exec (.gridMove n) s = .next s) ∧
    ∀ op rest, e.grid.queue = op :: rest →
      (s.gridRuns n e = true → s.opReady op = true → let k := (s.troupe (s.thread op.thread).troupe).k
        (op.isMatrix = true → op.steps ≤ op.next → op.begun = true → op.smeared = false → op.wrote = [] → op.reuse = true →
          exec (.gridStep n) s = .next ((s.updEns n fun e =>
            { e with grid := { e.grid with queue := e.grid.queue.drop 1, done := op.seq, unwaited := e.grid.unwaited ++ [{ op with begun := true }] } }).powerBands e)) ∧
        (∀ pas, op.isMatrix = true → op.next + 1 < op.steps → op.begun = true → op.reuse = false → op.n ≤ 64 →
          let at_ (isA : Bool) := op.operandPlaces e k isA op.next
          let cols := if op.m = 0 then [] else (upFrom 0 op.n).map (at_ false)
          s.gridPhys n e (((upFrom 0 op.m).map (at_ true) ++ cols).flatMap fun p => p.1 ++ p.2) { read := true } = .ok pas →
          let vals (fmt : Nat) (p : List (Space × Nat) × List (Space × Nat)) : List FVal :=
            gridVals fmt op.scl (min op.depth (op.k - op.next * op.depth)) (p.1.map (s.gridByte e pas.1)) (p.2.map (s.gridByte e pas.1))
          ∃ t, exec (.gridStep n) s = .next t ∧ t.mem = s.mem ∧ t.troupes = s.troupes ∧ t.threads = s.threads ∧
            (∀ m c, m < op.m → c < op.n → op.above m c = false → (t.ens n).tileWord (blockWord op.blk m c) =
              (let old := (e.tileWord (blockWord op.blk m c)).1.toNat
               let terms := termsOf (vals op.fa (at_ true m)) (vals op.fb (at_ false c)) (fun _ => true) 0 (min op.depth (op.k - op.next * op.depth))
               (w32 (if op.intForm then dotInt old (min op.depth (op.k - op.next * op.depth)) (vals op.fa (at_ true m)) (vals op.fb (at_ false c))
                  (fun _ => true) false else addSlice old terms), Tag.acc))) ∧
            (∀ i, (∀ m c, m < op.m → c < op.n → op.above m c = false → i ≠ blockWord op.blk m c) → (t.ens n).tileWord i = e.tileWord i)) ∧
        (∀ pas, op.kind = .gtld → op.n ≤ 64 → op.smeared = false → op.wrote = [] → op.sent = [] →
          s.gridPhys n e ((op.moveCells e k).flatMap (·.2)) { read := true } = .ok pas →
          ∃ t, exec (.gridMove n) s = .next t ∧ t.mem = s.mem ∧ t.troupes = s.troupes ∧ (t.ens n).grid.done = op.seq ∧ (t.ens n).grid.queue = rest ∧
            ∀ c ∈ op.moveCells e k, (t.ens n).tileWord c.1 =
              (let v := ofBytes (c.2.map (s.gridByte e pas.1))
               (w32 (if op.f 4 0 4 < 2 then v
                 else (convertElem (Tag.ofCode (op.f 4 0 4)).kind (.flt fF32) .unscaled .unscaled .rne false false false v).1), Tag.acc)))) ∧
      (op.isMatrix = false ∨ s.gridRuns n e = false ∨ s.opReady op = false → exec (.gridStep n) s = .next s) ∧
      (op.isMatrix = true ∨ s.gridRuns n e = false ∨ s.opReady op = false → exec (.gridMove n) s = .next s)

/-! ### Rays, pins and builds (R313 to R336) -/

/-- R319 to R328: RBOX and RTRI read a node or a record of a structure that their thread has pinned, trap where it has pinned none and on a malformed
item, and else owe the box mask with the least entry, or the hit with its primitive, and no floating-point flag; RNODE owes the child reference of a
node; a ray that is void hits nothing. RPIN takes the current generation of a handle in place of what its slot held, and 0 where the handle is not
valid or has none; RUNPIN gives up the thread's pin and under .L the launch's; RGEN owes what a slot holds and traps on an empty one. The items are of
a generation that nobody has spoilt.
Where it goes beyond the rules' words it states the model's reading: log entries 9, 17, 75, 80, 81, 101. -/
def Obligations.Rays : Prop :=
  (∀ (s s1 : State) (w : Who) (g : PredField) (d a : RegField) (sl : BitVec 1) (x : Fetched) (p : Placed) (bs : List Byte), Executes s w g →
    let clean (h gen : Word) : Prop := ∀ i, w.c.handleIndex h = some i → s.isSpoilt w.cI i gen = false
    (w.t.fetchQuiet [wr2 d] [.regs a.toNat 8 8 [.f32, .acc], w.t.cPair] = .ok x → s.checkGlobal w (w64 (x.n 1)) 128 128 { read := true } = .ok p →
      s.readNow w p.locs = .ok (s1, bs) → x.t.Room [w.t.fa] → let n : Node := BitVec.ofNat 1024 (ofBytes bs)
      (s.pinHeld w sl.toNat = none → exec (.rbox d a g sl) s = s.trapped w .structureUnpinned 0 0) ∧
      ∀ h gen, s.pinHeld w sl.toNat = some (h, gen) → clean h gen →
        let inside := s.inPool w h (w64 (x.n 1)).toNat 128 = true ∧
          ∀ i < 8, refKind (n.child i) ≠ 0 → s.inPool w h (canonicalOf (refAddr (n.child i))).toNat (refBytes (n.child i)) = true
        (n.malformed = true ∨ ¬inside → exec (.rbox d a g sl) s = s.trapped w .structureMalformed (w64 (x.n 1)) 0) ∧
        (n.malformed = false → inside → exec (.rbox d a g sl) s = s1.threadDone w (x.t.owing
          { flag := w.t.fa, writes := [(d.toNat, (n.test (x.ws 0)).1, .b32), (d.toNat + 1, (n.test (x.ws 0)).2, .f32)] }))) ∧
    (w.t.fetchQuiet [wr4 d] [.regs a.toNat 8 8 [.f32, .acc], w.t.cPair] = .ok x → s.checkGlobal w (w64 (x.n 1)) 48 16 { read := true } = .ok p →
      s.readNow w p.locs = .ok (s1, bs) → x.t.Room [w.t.fa] → let r : TriRec := BitVec.ofNat 384 (ofBytes bs)
      (s.pinHeld w sl.toNat = none → exec (.rtri d a g sl) s = s.trapped w .structureUnpinned 0 0) ∧
      ∀ h gen, s.pinHeld w sl.toNat = some (h, gen) → clean h gen → let inside := s1.inPool w h (w64 (x.n 1)).toNat 48 = true
        (r.malformed = true ∨ ¬inside → exec (.rtri d a g sl) s = s.trapped w .structureMalformed (w64 (x.n 1)) 0) ∧
        (r.malformed = false → inside → let hit := (r.hit (x.ws 0)).getD (0x7F800000, 0, 0)
          exec (.rtri d a g sl) s = s1.threadDone w (x.t.owing
            { flag := w.t.fa, writes := [(d.toNat, hit.1, .f32), (d.toNat + 1, hit.2.1, .f32), (d.toNat + 2, hit.2.2, .f32), (d.toNat + 3, r.prim, .b32)] }))) ∧
    (w.t.fetch [wr2 d, wr4 a] [rd2 a [.b32], .regs (a.toNat + 2) 1 1 [.b32]] = .ok x →
      s.checkGlobal w (w64 (x.n 0)) 128 128 { read := true } = .ok p → s.readNow w p.locs = .ok (s1, bs) → x.t.Room [x.t.fa] →
      let n : Node := BitVec.ofNat 1024 (ofBytes bs)
      ∀ h gen, s.pinHeld w sl.toNat = some (h, gen) → clean h gen →
        let inside := s.inPool w h (w64 (x.n 0)).toNat 128 = true ∧
          ∀ i < 8, refKind (n.child i) ≠ 0 → s.inPool w h (canonicalOf (refAddr (n.child i))).toNat (refBytes (n.child i)) = true
        n.malformed = false → inside → let c := canonicalOf (n.child (x.n 1 % 8))
          exec (.rnode d a g sl) s = s1.threadDone w (x.t.owing (x.t.oweA d.toNat (toWords c.toNat 2) .b32)))) ∧
  (∀ (n : Node) (t : TriRec) (r : Ray), Ray.void r = true → n.test r = missRecord ∧ t.hit r = none) ∧
  ∀ (s s2 : State) (w : Who) (g : PredField) (d a : RegField) (h l sl : BitVec 1) (x : Fetched), Executes s w g →
    let slot := sl.toNat
    (w.t.fetch [wr1 d] (if h = 1#1 then [rd1 a [.b32]] else []) = .ok x →
      let handle := if h = 1#1 then x.v 0 else (w.t.pin slot).handle
      (∀ i e e2, w.c.handleIndex handle = some i → s.threadEntry w i false = .ok e → s.threadEntry w i true = .ok e2 →
        e.2.valid handle = true → e.2.cur ≠ 0 → (∃ s0, s.releaseOwn w slot = .ok s0) →
        (s.pinUp w.cI i e2.1 e.2.cur).releaseOwn w slot = .ok s2 → exec (.rpin d a g h sl) s = (s2.setThread w.k
          (((x.t.setPin slot { handle := handle, claim := .own e.2.cur }).setReg d.toNat e.2.cur .b32).acquired .dv s.stamp)).wordDone w) ∧
      (s.releaseOwn w slot = .ok s2 → w.c.handleIndex handle = none ∨
        (∃ i e, w.c.handleIndex handle = some i ∧ s.threadEntry w i false = .ok e ∧ (e.2.valid handle = false ∨ e.2.cur = 0)) →
        exec (.rpin d a g h sl) s =
          (s2.setThread w.k ((x.t.setPin slot { handle := handle, claim := .none }).setReg d.toNat 0 .b32)).wordDone w)) ∧
    (s.releaseOwn w slot = .ok s2 →
      let drop (s : State) : State := s.updThread w.k fun t => t.setPin slot { t.pin slot with claim := .none }
      let la := s.launch w.e.launch
      let held := if slot = 0 then la.pin0 else la.pin1
      (l = 0#1 ∨ held = none → exec (.runpin g l sl) s = (drop s2).wordDone w) ∧
      ∀ gen i e, l = 1#1 → held = some gen → w.c.handleIndex (w32 (fieldOf la.packet (80 + 4 * slot) 0 32)) = some i →
        (∃ e0, s.threadEntry w i true = .ok e0) → s2.threadEntry w i true = .ok e →
        exec (.runpin g l sl) s = (drop ((s2.pinDown w.cI i e.1 gen).updLaunch w.e.launch fun q =>
          if slot = 0 then { q with pin0 := none } else { q with pin1 := none })).wordDone w) ∧
    (w.t.fetch [wr4 d] [] = .ok x →
      (s.pinHeld w slot = none → exec (.rgen d g sl) s = s.trapped w .structureUnpinned 0 0) ∧
      ∀ hd gen i e r, s.pinHeld w slot = some (hd, gen) → w.c.handleIndex hd = some i → s.threadEntry w i false = .ok e →
        e.2.record gen = some r → x.t.Room [x.t.fa] →
        exec (.rgen d g sl) s = s.threadDone w (x.t.owing (x.t.oweA d.toNat (toWords (e.2.root r) 2 ++ [gen, hd]) .b32)))

/-- R331 to R336: BLD reads a command block, traps on the lowest field that breaks a rule, waits while 256 commands are held, and else queues the command
with a store of QUEUED, words 1 to 7 open, to its status record; BLDQ owes a status record and BLDW waits for its end, both acquiring, and a strict
thread traps on degenerate geometry. The lowest free engine marks a ready command RUNNING and, where its handle names no entry, ends it with that
error; a command that may not run, also for its context or the Rigger, is left alone. A record that is to be reclaimed is cleared when its entry is at hand.
Where it goes beyond the rules' words it states the model's reading: log entries 9, 23, 24, 28, 107, 108. -/
def Obligations.Builds : Prop :=
  (∀ (s : State) (w : Who) (g : PredField) (d a : RegField) (x : Fetched), Executes s w g →
    (w.t.fetch [] [rd2 a [.b32]] = .ok x → ∀ p s1 bs, s.checkGlobal w (w64 (x.n 0)) 64 64 { read := true } = .ok p → s.readNow w p.locs = .ok (s1, bs) →
      let b : BuildBlock := BitVec.ofNat 512 (ofBytes bs)
      (∀ off, buildFailure b = some off → exec (.bld a g) s = s.trapped w .structureMalformed 0 (w64 off)) ∧
      ∀ st, buildFailure b = none → s1.checkGlobal w (bbStatus b) 32 32 { write := true } = .ok st →
        (256 ≤ (s1.rigger.filter (·.live)).length → exec (.bld a g) s = .next (s.stopped w (.park .rigger))) ∧
        ((s1.rigger.filter (·.live)).length < 256 → x.t.Room [w.t.fb] →
          let t := (x.t.owing { flag := w.t.fb }).pushStore
            { seq := 0, bytes := storeOf st.locs (toBytes (ofWords (0 :: (upFrom 1 7).map (Config.freeWord s1.moves))) 32), born := s1.moves }
          let s2 := s1.setThread w.k t
          exec (.bld a g) s =
            ({ s2 with rigger := s1.rigger ++ [{ ctx := w.cI, thread := w.k, seq := t.seq, block := b, status := (bbStatus b).toNat }] } : State).wordDone w)) ∧
    (∀ s1 ws, readStatus s w (w64 (x.n 0)) = .ok (s1, ws) →
      let strict := s1.buildStrict w = true ∧ (nth ws 0 0).toNat % 4 = 2 ∧ ¬(nth ws 2 0 = 0 ∧ nth ws 3 0 = 0)
      let t := x.t.acquired .dv s.stamp
      (w.t.fetch [⟨d.toNat, 8, 8⟩] [rd2 a [.b32]] = .ok x →
        (strict → exec (.bldq d a g) s = s.trapped w .geometryDegenerate 0 (pairOf (nth ws 2 0) (nth ws 3 0))) ∧
        (¬strict → t.Room [t.fa] → exec (.bldq d a g) s = s1.threadDone w (t.owing (t.oweA d.toNat ws .b32)))) ∧
      (w.t.fetch [] [rd2 a [.b32]] = .ok x →
        ((nth ws 0 0).toNat % 4 < 2 → exec (.bldw a g) s = .next (s.stopped w (.park .status))) ∧
        (2 ≤ (nth ws 0 0).toNat % 4 → strict → exec (.bldw a g) s = s.trapped w .geometryDegenerate 0 (pairOf (nth ws 2 0) (nth ws 3 0))) ∧
        (2 ≤ (nth ws 0 0).toNat % 4 → ¬strict → exec (.bldw a g) s = s1.threadDone w t)))) ∧
  (∀ (s : State) (cmd : Nat) (c : RigCmd) (tree : List (Nat × BitVec 8)) (root : BitVec 64) (memOk : Bool) (stats : List (BitVec 32)),
    s.rigger[cmd]? = some c →
    let mayRun := c.live = true ∧ (∀ x ∈ s.rigger.take cmd, x.live = true → x.ctx = c.ctx → fieldOf x.block 0 0 16 ≠ fieldOf c.block 0 0 16) ∧
      (∀ p ∈ (s.thread c.thread).stores, c.seq ≤ p.seq) ∧ s.engineRuns c.ctx 4 = true ∧ s.waits (.rigger cmd) = false
    let run := exec (.riggerCommand cmd tree root memOk stats) s
    (¬mayRun → run = .next s) ∧
    (∀ n pas, mayRun → c.engine = none → n < 4 → (∀ x ∈ s.rigger, x.live = true → x.engine ≠ some n) →
      (∀ m < n, ∃ x ∈ s.rigger, x.live = true ∧ x.engine = some m) → s.rigStatus cmd c = .ok pas →
      run = .next ((s.engineWrite c.ctx pas (toBytes (ofWords (1 :: (upFrom 1 7).map (Config.freeWord s.moves))) 32)).updRig cmd
        fun x => { x with engine := some n })) ∧
    (∀ n st, mayRun → c.engine = some n → s.rigStatus cmd c = .ok st → (s.ctx c.ctx).handleIndex (w32 (fieldOf c.block 0 0 32)) = none →
      run = .next (s.rigEnd cmd st [0x403, 0, 0, 0, 0, 0, 0, 0])) ∧
    (∀ n s', mayRun → c.engine = some n → s.rigRun cmd c tree root memOk stats = .ok s' → run = .next s')) ∧
  ∀ (s : State) (ctx entry record : Nat),
    (s.structOf ctx entry = none → exec (.reclamation ctx entry record) s = .next s) ∧
    ∀ x, s.structOf ctx entry = some x → let mayRun := record ∈ x.reclaim ∧ s.engineRuns ctx 4 = true ∧ s.waits .engine = false
      (¬mayRun → exec (.reclamation ctx entry record) s = .next s) ∧
      ∀ pas, mayRun → s.engineAccess ctx 432 0 .engine ((s.ctx ctx).entryAddr entry) 256 { read := true, write := true } = .ok pas →
        exec (.reclamation ctx entry record) s =
          .next (((s.putEntry ctx pas (64 + 16 * record) 16 0).putPrivate ctx pas).updStruct ctx entry fun y => { y with
            reclaim := y.reclaim.filter (· != record), spoilt := y.spoilt.filter (· != (s.entryAt pas).gen record)
            spans := y.spans.filter fun z => z.1 != (s.entryAt pas).gen record })

/-! ### Graphics and images (R287 to R311) -/

/-- R287 to R303, R342: TPAY stores a quad in the task's payload staging; TDISP, of the pass that its launch has named before or of the one that it is the
first to name and reads, takes the next free ring slot with the payload and queues its mesh ensembles, waiting in its place at the ring for a slot and
for the thread's stores; MCNT fixes the troupe's counts, MESH_BOUNDS coming before PAYLOAD_PROTOCOL by their codes (R342); MVTX and MPRIM keep a vertex
slot or a primitive, or count it as dropped or culled beyond the counts, and trap there where the troupe is strict; each traps outside its role. A binned record goes to
its tiles once; a final tile forms its shade threads once, and no tile forms them before it is final; neither happens
while the binning unit is not ready or the context has stopped (R347, R378).
Where it goes beyond the rules' words it states the model's reading: log entries 8, 9, 28, 46, 47, 48, 49, 55. -/
def Obligations.Geometry : Prop :=
  (∀ (s : State) (w : Who) (g : PredField) (d a : RegField) (x : Fetched), Executes s w g →
    (w.t.fetch [] [rd1 a [.b32], rd4 d []] = .ok x → let o := x.n 0
      let at_ := w.tr.slice - 16384 + o
      (o % 16 ≠ 0 → exec (.tpay d a g) s = s.trapped w .misaligned (w64 at_) 0) ∧
      (o % 16 = 0 → w.e.isTask = false ∨ 16384 ≤ o ∨ w.tr.slice < 16384 → exec (.tpay d a g) s = s.trapped w .payloadProtocol 0 0) ∧
      ∀ l, o % 16 = 0 → w.e.isTask = true → o < 16384 → 16384 ≤ w.tr.slice → s.checkScratch w at_ 16 16 = .ok l → x.t.Room [x.t.fb] →
        exec (.tpay d a g) s = (s.addStore w (x.t.owing { flag := x.t.fb, stores := [x.t.seq] })
          { seq := 0, bytes := storeOf (scratchLocs l.1 l.2 16) (toBytes (x.n 1) 16), scope := .en,
            src := some { regs := (upFrom d.toNat 4).map fun r => (r, storeTags 0), words := x.ws 1 } }).wordDone w) ∧
    (w.t.fetch [] [rd4 a [.b32]] = .ok x → let v := x.n 0
      let n := slice v 0 16
      let bytes := slice v 32 15
      let at_ := w64 (slice v 64 64)
      -- s1 has read the entry, and s2 the pass where it is new; s3 knows the pass, as number i
      ∀ s1 s2 s3 mesh i slot, slice v 19 13 = 0 → slice v 47 17 = 0 → s.successorEntry w (slice v 16 3) = .ok (s1, some mesh) →
        bytes % 16 = 0 → bytes ≤ 16384 → packetFailure mesh = none → bytes ≤ pkSlice mesh →
        ((∃ p, (s1.launch w.e.launch).pass = some i ∧ s1.passes[i]? = some p ∧ p.addr = at_ ∧ s2 = s1 ∧ s3 = s1) ∨
          (∃ desc shade chunks, (s1.launch w.e.launch).pass = none ∧ s1.readPass w at_ = .ok (s2, desc, shade, chunks) ∧ passFailure desc shade = none ∧
            (∀ c ∈ chunks, chunkBad c = false) ∧ i = s2.passes.length ∧
            s3 = { (s2.updLaunch w.e.launch fun l => { l with pass := some i }) with passes := s2.passes ++
              [{ ctx := w.cI, launch := w.e.launch, addr := at_, desc := desc, shade := shade.getD 0, chunks := chunks }] })) →
        (w.e.isTask = false → exec (.tdisp a g) s = s.trapped w .payloadProtocol 0 0xFF) ∧
        (w.e.isTask = true → let free := (s2.core w.tr.core).freeSlot
          (n = 0 → exec (.tdisp a g) s = s3.threadDone w x.t) ∧
          (n ≠ 0 → s2.ringFirst w = false ∨ free = none →
            exec (.tdisp a g) s = .next (s.stopped w (.hold (s2.ringPark w) (.parked .ringSlot s2.clock)))) ∧
          (n ≠ 0 → s2.ringFirst w = true → free = some slot → s2.released w.t .dv = false →
            exec (.tdisp a g) s = .next (s.stopped w (.hold (s2.ringPark w) (.parked .drain s2.clock)))) ∧
          (n ≠ 0 → s2.ringFirst w = true → free = some slot → s2.released w.t .dv = true → let data := s2.stagedBytes w bytes
            exec (.tdisp a g) s = ((upFrom 0 n).foldl (fun (s' : State) i' => s'.queueEnsemble
              { ctx := w.cI, launch := w.e.launch, index := i', packet := mesh, role := .mesh i w.tr.core slot, group := w.group, payload := data })
              ((s3.setThread w.k x.t).updCore w.tr.core fun c => { c with
                ring := updateAt c.ring slot fun _ => { left := n, data := data }, ringLast := slot
                ringWait := c.ringWait.filter (· != w.k) })).wordDone w))) ∧
    (w.t.fetch [] [rd1 a [.b32]] = .ok x → let c := x.n 0
      let n := (slice c 0 9, slice c 9 10, slice c 19 3)
      let fits := n.1 ≤ 256 ∧ n.2.1 ≤ 512 ∧ (w.tr.mesh.counts = none ∨ w.tr.mesh.counts = some n)
      (slice c 22 10 ≠ 0 → exec (.mcnt a g) s = s.trapped w .reservedField 0 0) ∧
      (slice c 22 10 = 0 → ¬fits → exec (.mcnt a g) s = s.trapped w .meshBounds 0 0) ∧
      (slice c 22 10 = 0 → fits → w.e.isMesh = false → exec (.mcnt a g) s = s.trapped w .payloadProtocol 0 0) ∧
      (slice c 22 10 = 0 → fits → w.e.isMesh = true → exec (.mcnt a g) s =
        ((s.setThread w.k x.t).updTroupe w.trI fun tr => { tr with mesh := { tr.mesh with counts := some n } }).wordDone w)) ∧
    (w.t.fetch [] [rd1 a [.b32], rd4 d []] = .ok x → slice (x.n 0) 11 21 = 0 → w.e.isMesh = false →
      exec (.mvtx d a g) s = s.trapped w .payloadProtocol 0 0) ∧
    (w.t.fetch [] [rd1 a [.b32], rd4 d []] = .ok x → slice (x.n 0) 11 21 = 0 → w.e.isMesh = true → let v := slice (x.n 0) 0 8
      let i := slice (x.n 0) 8 3
      let out := w.tr.mesh.v ≤ v ∨ w.tr.mesh.a < i
      let owed (l : Option LateRead) : State := s.setThread w.k (x.t.owing { flag := w.t.fb, late := l })
      (out → s.meshStrict w = true → exec (.mvtx d a g) s = s.trapped w .meshBounds 0 (w64 v)) ∧
      (out → s.meshStrict w = false → x.t.Room [w.t.fb] →
        exec (.mvtx d a g) s = ((owed none).updLaunch w.e.launch fun l => { l with dropped := min (l.dropped + 1) (2 ^ 32 - 1) }).wordDone w) ∧
      (¬out → x.t.Room [w.t.fb] → exec (.mvtx d a g) s =
        ((owed (some (.vert v i d.toNat (x.ws 1)))).updTroupe w.trI fun tr => { tr with mesh := tr.mesh.setVert v i (BitVec.ofNat 128 (x.n 1)) }).wordDone w)) ∧
    (w.t.fetch [] [rd1 a [.b32], rd2 d []] = .ok x → slice (x.n 0) 9 23 = 0 → slice (x.n 1) 25 7 = 0 → w.e.isMesh = false →
      exec (.mprim d a g) s = s.trapped w .payloadProtocol 0 0) ∧
    (w.t.fetch [] [rd1 a [.b32], rd2 d []] = .ok x → slice (x.n 0) 9 23 = 0 → slice (x.n 1) 25 7 = 0 → w.e.isMesh = true → let p := slice (x.n 0) 0 9
      let out := w.tr.mesh.p ≤ p
      let bad := (∃ i < 3, w.tr.mesh.v ≤ slice (x.n 1) (8 * i) 8) ∨ slice (x.n 1) 32 32 = 2 ^ 32 - 1
      let again : Option LateRead := if out ∨ s.meshStrict w = true then none else some (.prim p d.toNat (x.ws 1))
      let s1 := s.setThread w.k (x.t.owing { flag := w.t.fb, late := again })
      let keep (cull : Bool) : State := s1.updTroupe w.trI fun tr => { tr with mesh := tr.mesh.setPrim p (w64 (x.n 1), cull) }
      (out ∨ bad → s.meshStrict w = true → exec (.mprim d a g) s = s.trapped w .meshBounds 0 (w64 p)) ∧
      (out → s.meshStrict w = false → x.t.Room [w.t.fb] →
        exec (.mprim d a g) s = (s1.updLaunch w.e.launch fun l => { l with dropped := min (l.dropped + 1) (2 ^ 32 - 1) }).wordDone w) ∧
      (¬out → bad → s.meshStrict w = false → x.t.Room [w.t.fb] →
        exec (.mprim d a g) s = ((keep true).updLaunch w.e.launch fun l => { l with culled := min (l.culled + 1) (2 ^ 32 - 1) }).wordDone w) ∧
      (¬out → ¬bad → x.t.Room [w.t.fb] → exec (.mprim d a g) s = (keep (bitAt (x.n 1) 24)).wordDone w))) ∧
  ∀ (s : State) (i : Nat) (p : Pass), s.passes[i]? = some p →
    (∀ n r, p.recs[n]? = some r →
      (p.live = false ∨ r.tiles = [] ∨ s.engineRuns p.ctx 5 = false → exec (.binRecord i n) s = .next s) ∧
      (p.live = true → r.tiles ≠ [] → s.engineRuns p.ctx 5 = true → ∃ t, exec (.binRecord i n) s = .next t ∧ t.threads = s.threads ∧ t.mem = s.mem ∧
        t.passes[i]? = some (let q := p.applyRecord r (Config.choice s.moves)
          { q with recs := updateAt q.recs n fun x => { x with tiles := [] } }))) ∧
    ∀ tile order sizes,
      (tile ∈ p.formed ∨ tileCount p.desc ≤ tile ∨ p.live = false ∨ (∃ r ∈ p.recs, tile ∈ r.tiles) ∨ s.geometryDone p.launch = false ∨
          s.engineRuns p.ctx 5 = false → exec (.shadeThreadFormation i tile order sizes) s = .next s) ∧
      (tile ∉ p.formed → tile < tileCount p.desc → p.live = true → (∀ r ∈ p.recs, tile ∉ r.tiles) → s.geometryDone p.launch = true →
        (s.ctx p.ctx).halt = none → s.engineRuns p.ctx 5 = true → let formed := s.updPass i fun p => { p with formed := p.formed ++ [tile] }
        ((∀ f, shadeUnits p tile f = []) → exec (.shadeThreadFormation i tile [] []) s = .next formed) ∧
        ∀ r, (∀ f, shadeUnits p tile f = [[r]]) → pdDerivs p.desc = false → 1 ≤ fieldOf p.shade 40 0 16 →
          exec (.shadeThreadFormation i tile [0] [1]) s = .next (formed.queueEnsemble
            { ctx := p.ctx, launch := p.launch, index := Config.shadeIndex s.ensembles.length % 2 ^ 48, packet := p.shade, role := .shade i,
              shades := [r] }))

/-- R304 to R311: VISRD owes what the thread's pixel captured, ATTR a component's raw or interpolated values, DERIV the difference of two lanes of the pixel
quad at its meeting and 0 outside one; IMLD and TLDI owe a relaxed load of the texel that their coordinates name, and zeros beyond its image; IMST
stores one, whose quad it may read again (R39), or nothing for a helper and beyond its image; TEX outside a quad's meeting owes one load of the texels that it samples. Such a load leaves
the texel's bytes, the texel decoded, or the weighted sum of the texels and border places.
Where it goes beyond the rules' words it states the model's reading: log entries 8, 9, 51, 52, 53, 54, 109. -/
def Obligations.Images : Prop :=
  ∀ (s : State) (w : Who) (g : PredField) (d a : RegField), Executes s w g →
    (∀ m x, w.t.fetch [if m = 0#1 then wr4 d else wr2 d] [] = .ok x →
      (w.t.shade = none → exec (.visrd d g m) s = s.trapped w .payloadProtocol 0 0) ∧
      ∀ r, w.t.shade = some r → x.t.Room [x.t.fa] →
        let flags := r.coverage.toNat + (if r.helper then 256 else 0) + (if r.front then 512 else 0) + r.samp * 1024
        (m = 0#1 → exec (.visrd d g m) s =
          s.threadDone w (x.t.owing (x.t.oweA d.toNat [r.prim, w32 (r.px + r.py * 65536), w32 flags, w32 r.depth.toNat] .b32))) ∧
        (m ≠ 0#1 → exec (.visrd d g m) s = s.threadDone w (x.t.owing (x.t.oweA d.toNat [r.bary1, r.bary2] .f32)))) ∧
    (∀ x, w.t.fetch [wr4 d] [rd1 a [.b32]] = .ok x → let aw := x.n 0
      (slice aw 4 28 ≠ 0 → exec (.attr d a g) s = s.trapped w .reservedField 0 0) ∧
      ∀ r, slice aw 4 28 = 0 → w.t.shade = some r → let i := slice aw 0 3
        let comp (v c : Nat) : Word := w32 (slice (nth (nth r.attrs v []) i 0).toNat (32 * c) 32)
        ((nth r.attrs 0 []).length ≤ i → exec (.attr d a g) s = s.trapped w .meshBounds 0 0) ∧
        (i < (nth r.attrs 0 []).length → x.t.Room [x.t.fa] →
          (bitAt aw 3 = true → exec (.attr d a g) s = s.threadDone w (x.t.owing (x.t.oweA d.toNat ((upFrom 0 4).map (comp 0)) .b32))) ∧
          (bitAt aw 3 = false → exec (.attr d a g) s = s.threadDone w (x.t.owing (x.t.oweA d.toNat
            ((upFrom 0 4).map fun c => interpolate (comp 0 c) (comp 1 c) (comp 2 c) r.bary1 r.bary2) .f32))))) ∧
    (∀ m x, w.t.fetchQuiet [wr1 d] [rd1 a [.f32, .acc]] = .ok x → w.t.Room [w.t.fa] →
      (w.t.quadLane = none → exec (.deriv d a g m) s = s.threadDone w (w.t.owing (w.t.oweA d.toNat [0] .f32))) ∧
      ∀ q here, w.t.quadLane = some q → Gathered s w (.deriv d a g m) (w64 ((w32 (15 * 2 ^ q)).toNat % 65536)) here →
        exec (.deriv d a g m) s = s.leaveAll w (.deriv d a g m) (w64 ((w32 (15 * 2 ^ q)).toNat % 65536)) here fun s1 =>
          let val (lane : Nat) : Word := ((here.find? fun x => x.1 == lane).map fun x => (s1.thread x.2).floatAt a.toNat).getD 0
          here.foldl (fun s2 x =>
            let n := neighbourLane x.1 m.toNat
            let r := if n.2 then differenceF32 (val n.1) (val x.1) else differenceF32 (val x.1) (val n.1)
            s2.updThread x.2 fun t => (t.oweRegs d.toNat [r] .f32).toOption.getD t) s1) ∧
    (∀ x p, w.t.fetch [wr4 d] [rd2 a [.b32], w.t.texelCoords] = .ok x → x.t.Room [x.t.fa] →
      ∀ raw i s1, (raw, i) ∈ [(true, Instr.imld d a g), (false, .tldi d a g)] → imageAt s w (w64 (x.n 0)) raw = .ok (s1, p) →
        (coordAddr p (x.ws 1) = none →
          exec i s = s1.threadDone w (x.t.owing (x.t.oweA d.toNat [0, 0, 0, 0] (if raw then Tag.b32 else .f32)))) ∧
        ∀ at_ l, coordAddr p (x.ws 1) = some at_ → s1.checkGlobal w at_ (texelBytes (imFormat p)) 1 { read := true } = .ok l →
          exec i s = s1.threadDone w ((x.t.raised [x.t.fa]).pushLoad
            { seq := 0, locs := l.locs, order := x.t.hints.order, scope := .dv, flag := x.t.fa, born := s1.moves,
              form := { type := 0, dst := d.toNat, count := 4, image := some { fmt := imFormat p, size := texelBytes (imFormat p), raw := raw } } })) ∧
    (∀ (l : LoadForm) (f : ImageForm) (bs : List Byte), l.frag = none → l.image = some f →
      (f.terms = none → f.raw = true → l.expand bs = (upFrom l.dst 4).zip ((toWords (ofBytes bs) 4).map fun v => (v, Tag.b32))) ∧
      (f.terms = none → f.raw = false → f.fmt ≤ 7 →
        l.expand bs = (upFrom l.dst 4).zip ((decodeTexel f.fmt (ofBytes bs)).map fun v => (v, Tag.f32))) ∧
      (∀ ts, f.terms = some ts → l.expand bs = (upFrom l.dst 4).zip ((upFrom 0 4).map fun c =>
        (weighted (ts.map fun t => (nth (match t.1 with
          | some i => decodeTexel f.fmt (ofBytes ((bs.drop (i * f.size)).take f.size))
          | none => f.border) c 0, t.2)) (Config.freeWord f.key c), Tag.f32)))) ∧
    (∀ x, w.t.fetch [] [rd2 a [.b32], rd4 d [], w.t.texelCoords] = .ok x → x.t.Room [w.t.fb] →
      let helper := ∃ r, w.t.shade = some r ∧ r.helper = true
      (helper → exec (.imst d a g) s = s.threadDone w (x.t.owing { flag := w.t.fb })) ∧
      ∀ p s1, ¬helper → imageAt s w (w64 (x.n 0)) true = .ok (s1, p) →
        (coordAddr p (x.ws 2) = none → exec (.imst d a g) s = s1.threadDone w (x.t.owing { flag := w.t.fb })) ∧
        ∀ at_ l, coordAddr p (x.ws 2) = some at_ → s1.checkGlobal w at_ (texelBytes (imFormat p)) 1 { write := true } = .ok l → x.t.fb = w.t.fb →
          exec (.imst d a g) s = (s1.addStore w (x.t.owing { flag := x.t.fb, stores := [x.t.seq] })
            { seq := 0, bytes := storeOf l.locs (toBytes (x.n 1) (texelBytes (imFormat p))),
              src := some { regs := (upFrom d.toNat 4).map fun r => (r, storeTags 0), words := x.ws 1 } }).wordDone w) ∧
    ∀ m s1, w.t.split = false → w.t.quadLane = none ∨ LodForm.ofCode m ≠ .implicit → texOne (LodForm.ofCode m) d a w s = .ok s1 →
      exec (.tex d a g m) s = s1.wordDone w ∧ ∃ l f ts, (s1.thread w.k).loads = w.t.loads ++ [l] ∧ l.scope = .dv ∧ l.flag = w.t.fa ∧
        l.form.dst = d.toNat ∧ l.form.frag = none ∧ l.form.image = some f ∧ f.terms = some ts

/-! ### Launches, queues and pre-emption (R269 to R286) -/

/-- R269 to R286: LAUNCH, once its thread's accesses are performed and no LAUNCH before it in its bundle waits, answers with its queue's judgement, and an accepted packet takes a ring entry, in memory where the queue is unmapped; LWAIT goes on,
acquiring at .SY, once its counter has reached the value, and else waits. A submission store that comes while the link is up is judged and answered, ERR
keeping the reason of the latest rejection; a map reads and an unmap writes the pending packets of the ring; a creation adds a queue, and a disabling disables one. A placement
serves the queue that the arbitration chooses; a dependence write stores the counter and judges the launches that wait; a completion ends a quiet
launch, and one that has run for longer than WDOG halts its context; requests and starvation pre-empt, a drained victim is saved, and a pre-emption with
a victim not saved 2^20 fc after its request halts the context. A troupe's registers are clear once the engines have cleared them, unless its context halts.
Where it goes beyond the rules' words it states the model's reading: log entries 27, 31, 58, 59, 60, 61, 62, 68, 84, 102, 108. -/
def Obligations.Launches : Prop :=
  (∀ (s s1 : State) (w : Who) (g : PredField) (d a : RegField) (x : Fetched) (v : Nat), Executes s w g →
    (w.t.fetch [wr1 d] [rd2 a [.b32]] = .ok x → s.loadRecord w (w64 (x.n 0)) 128 128 = .ok (s1, v) → let p : Packet := BitVec.ofNat 1024 v
      let qI := (s1.launch w.e.launch).queue
      let ans := s1.judgePacket qI p
      let t := x.t.setReg d.toNat (w32 (ans.1 + ans.2.1 * 256 + ans.2.2 * 65536)) .b32
      let mayGo := s1.released w.t .dv = true ∧ s1.launchHeld w = false
      (¬mayGo → exec (.launch d a g) s = .next (s.stopped w (.park .launchStatus))) ∧
      (mayGo → ans.1 = 3 → exec (.launch d a g) s = s1.threadDone w t) ∧
      (mayGo → ans.1 = 0 → exec (.launch d a g) s = (s1.acceptPacket qI p).threadDone w t) ∧
      (∀ s2, mayGo → s1.enqueue qI p 1 = .ok s2 → ans.1 = 1 → exec (.launch d a g) s = s2.threadDone w t)) ∧
    (w.t.fetch [] [rd4 a [.b32]] = .ok x → { s with viaL1 := false }.loadRecord w (w64 (x.n 0)) 8 8 = .ok (s1, v) →
      (x.n 0 / 2 ^ 64 ≤ v → exec (.lwait a g) s = s1.threadDone w (x.t.acquired .sy s1.stamp)) ∧
      (v < x.n 0 / 2 ^ 64 → exec (.lwait a g) s = .next (s.stopped w (.park (.counter (w64 (x.n 0)))))))) ∧
  (∀ (s : State) (qI : Nat) (q : UQueue) (p : Packet), nth s.queues qI {} = q →
    (q.disabled = true → s.judgePacket qI p = (3, 6, 0)) ∧
    (∀ r off, q.disabled = false → packetFailure p = some (r, off) → s.judgePacket qI p = (3, r, off)) ∧
    (∀ off, q.disabled = false → packetFailure p = none → packetExceeds p = some off → s.judgePacket qI p = (3, 1, off)) ∧
    (q.disabled = false → packetFailure p = none → packetExceeds p = none → s.judgePacket qI p =
      if q.ring ≤ q.pending.length then (3, 5, 0) else if q.slot = none then (1, 0, 0) else (0, 0, 0)) ∧
    s.enqueue qI p 0 = .ok (s.acceptPacket qI p) ∧ s.enqueue qI p 3 = .ok s ∧
    (∀ pas, s.gaffer.works 2 = true → s.engineReady q.ctx 436 (upFrom (q.base + 128 * q.tail) 128) { write := true } = .ok pas →
      s.enqueue qI p 1 = .ok ((s.acceptPacket qI p).engineWrite q.ctx pas (toBytes p.toNat 128))) ∧
    (s.gaffer.works 2 = false →
      s.enqueue qI p 1 = .ok ((s.acceptPacket qI p).islandStore (upFrom (q.base + 128 * q.tail) 128) (toBytes p.toNat 128)))) ∧
  (∀ (s : State) (page queue slot ctx ring base : Nat) (pkt : Packet),
    ((∀ q ∈ s.queues, q.page ≠ page) → ∀ whole same, exec (.submission page whole same pkt) s = .next s) ∧
    (∀ qI q, s.queues[qI]? = some q → q.page = page → (∀ j < qI, ∀ r, s.queues[j]? = some r → r.page ≠ page) →
      (s.linkUp = false → ∀ whole same, exec (.submission page whole same pkt) s = .next s) ∧
      (s.linkUp = true → q.slot = none → s.gaffer.works 2 = true →
        ∀ whole, exec (.submission page whole true pkt) s = .next (s.say (.status page 2))) ∧
      (∀ whole s1, s.linkUp = true → let ans := if whole then s.judgePacket qI pkt else (3, 7, 0)
        s.enqueue qI pkt ans.1 = .ok s1 → exec (.submission page whole false pkt) s = .next ((s1.updQueue qI fun q =>
          { q with err := if ans.1 = 3 then w32 (3 + ans.2.1 * 256 + ans.2.2 * 65536) else w32 (putSlice q.err.toNat 0 2 ans.1) }).say
            (.status page (BitVec.ofNat 2 ans.1))))) ∧
    (∀ q, s.queues[queue]? = some q → let entry (s : State) (l : Nat) : List Nat := upFrom (q.base + 128 * (s.launch l).entry) 128
      let free := slot < 64 ∧ (∀ q ∈ s.queues, q.slot ≠ some slot) ∧ q.slot = none ∧ s.gaffer.works 2 = true ∧ s.gaffer.state ≠ .draining
      (∀ pas, free → s.engineReady q.ctx 436 (q.pending.flatMap (entry s)) { read := true } = .ok pas → exec (.queueMap queue slot) s =
        .next ((q.pending.foldl (fun (s : State) l => s.updLaunch l fun x => { x with packet := BitVec.ofNat 1024 (s.readNat (upFrom (q.base + 128 * x.entry) 128)) }) s).updQueue
          queue fun q => { q with slot := some slot })) ∧
      (¬free → exec (.queueMap queue slot) s = .next s) ∧
      (q.slot = none → exec (.queueUnmap queue) s = .next s) ∧
      (∀ pas, q.slot ≠ none → s.engineReady q.ctx 436 (q.pending.flatMap (entry s)) { write := true } = .ok pas → exec (.queueUnmap queue) s =
        .next ((q.pending.foldl (fun (s : State) l =>
          s.engineWrite q.ctx (entry s l) (toBytes (s.launch l).packet.toNat 128)) s).updQueue queue fun q => { q with slot := none }))) ∧
    exec (.queueDisable queue) s = .next (s.updQueue queue fun q => { q with disabled := true }) ∧
    (let allowed := page < 16384 ∧ (∀ q ∈ s.queues, q.page ≠ page) ∧ (∃ c, s.contexts[ctx]? = some c ∧ c.live = true) ∧ base + 128 * ring ≤ 2 ^ 52
     (allowed → exec (.queueCreation ctx page ring base) s =
       .next { s with queues := s.queues ++ [{ ctx := ctx, page := page, ring := ring, base := base }] }) ∧
     (¬allowed → exec (.queueCreation ctx page ring base) s = .next s)) ∧
    (let halt := (s.ctx (s.ctxOfTroupe queue)).halt
     (halt = none → exec (.registerClear queue) s = .next (s.updTroupe queue fun t => { t with cleared := true })) ∧
     (halt ≠ none → exec (.registerClear queue) s = .next s))) ∧
  (∀ (s s1 : State) (cores : List Nat), s1 = s.checkDeps.tidyQueues →
    (s.gaffer.ready.getLsbD 2 = false ∨ s.gaffer.state = .draining → exec (.placementOpportunity cores) s = .next s) ∧
    (s.gaffer.ready.getLsbD 2 = true → s.gaffer.state ≠ .draining →
      ((∀ q ∈ s1.queues, s1.placeable q = false) → exec (.placementOpportunity cores) s = .next s1) ∧
      ∀ s2 qI h, s1.chooseQueue = (s2, some qI) → (nth s2.queues qI {}).head = some h → s2.headCores h cores = some cores →
        exec (.placementOpportunity cores) s = .next (s2.placeHead qI h cores)) ∧
    ∀ qs : UQueue, qs.head = match qs.vacated, qs.extra, qs.pending with
      | e :: _, _, _ => some (.saved e)
      | [], e :: _, _ => some (.extra e)
      | [], [], l :: _ => some (.fresh l)
      | [], [], [] => none) ∧
  (∀ (s : State) (n addr : Nat) (v : DWord),
    ((∀ l ∈ s.launches, l.depMet = true ∨ l.done = true ∨ fieldOf l.packet 88 0 64 ≠ addr) → exec (.dependenceWrite addr v) s = .next s) ∧
    (∀ l pas, s.launches[0]? = some l → l.depMet = false → l.done = false → fieldOf l.packet 88 0 64 = addr → addr ≠ 0 →
      s.engineTranslate (s.ctx l.ctx).asid 0 (addr % 2 ^ 57) 8 {} = .ok pas →
      exec (.dependenceWrite addr v) s = .next (s.hostStore pas (toBytes v.toNat 8)).checkDeps) ∧
    ∀ l, s.launches[n]? = some l →
      (s.gaffer.works 2 = false ∨ s.launchEnded n = false ∨ s.launchQuiet n = false ∨ (s.ctx l.ctx).halt ≠ none ∨ s.waits .engine = true →
        exec (.launchCompletion n) s = .next s) ∧
      (s.gaffer.works 2 = true → s.launchEnded n = true → s.launchQuiet n = true → (s.ctx l.ctx).halt = none → s.waits .engine = false →
        s.engineOwes l.ctx = false → fieldOf l.packet 104 0 64 = 0 → fieldOf l.packet 112 16 1 = 0 → l.pin0 = none → l.pin1 = none → l.recorded = 0 →
        ∃ t, exec (.launchCompletion n) s = .next t ∧ (t.launch n).done = true ∧ t.mem = s.mem) ∧
      (let late := l.started = true ∧ l.done = false ∧ (s.ctx l.ctx).field 72 0 32 ≠ 0 ∧
         (s.ctx l.ctx).field 72 0 32 * 2 ^ 20 < (s.fclock - l.start).toNat
       (late → exec (.watchdog n) s = .next (s.raiseHalt l.ctx { index := 436, cause := .watchdog })) ∧
       (¬late → exec (.watchdog n) s = .next s))) ∧
  (∀ (s : State) (n : Nat) (cores : List Nat),
    ((∀ c ∈ s.coresOf n, c ∈ cores) → cores ≠ [] → exec (.preemptionRequest n cores) s = .next (s.preempt cores)) ∧
    (cores = [] ∨ (∃ c ∈ s.coresOf n, c ∉ cores) → exec (.preemptionRequest n cores) s = .next s) ∧
    (∀ q, s.queues[n]? = some q → q.head = none ∨ q.wait = 0 ∨ s.headReady q = false ∨ s.placeable q = true →
      exec (.preemptStarvation n cores) s = .next s) ∧
    (∃ t, exec (.preemptStarvation n cores) s = .next t ∧ (t = s ∨ t = s.preempt cores)) ∧
    (∀ q h e c rest, s.queues[n]? = some q → q.head = some h → q.wait ≠ 0 → 8192 ≤ (s.fclock - q.wait).toNat → s.headReady q = true →
      s.placeable q = false → cores = c :: rest → s.ensembles = [e] → e.occupies = true → e.group = c / 4 →
      pkPrio (s.launch e.launch).packet < s.level q → c / 4 ∈ s.headGroups h → let gone := s.updEns 0 fun e => { e with phase := .saved }
      (gone.findCores (s.headShape h).1 (s.headShape h).2 (s.headGroups h)).isSome = true → gone.fitsCores (s.headShape h).1 (s.headShape h).2 cores = true →
      exec (.preemptStarvation n cores) s = .next (s.preempt cores)) ∧
    (∀ e, s.ensembles[n]? = some e →
      (e.phase ≠ .draining ∨ s.drainedEns n = false ∨ (s.ctx e.ctx).halt ≠ none → exec (.victimSave n) s = .next s) ∧
      (e.phase = .draining → s.drainedEns n = true → (s.ctx e.ctx).halt = none →
        (s.imageSlot n = none → exec (.victimSave n) s =
          .next ((s.raiseHalt e.ctx { index := 436, cause := .machineCheckOther }).updCtx e.ctx fun c => { c with imageLost := true })) ∧
        ∀ slot header pas, s.imageSlot n = some slot → s.ringAccess e.ctx (w64 ((s.ctx e.ctx).field 8 0 64)) 4096 { write := true } = .ok header →
          s.ringAccess e.ctx (s.imageAddr e.ctx slot) (s.imageBytes n) { write := true } = .ok pas →
          let s0 := ((s.dropConfigs fun i _ => e.cores.contains i).charge n).writeImage n slot header pas
          let s1 := s0.updQueue (s.launch e.launch).queue fun q => { q with vacated := n :: q.vacated }
          exec (.victimSave n) s = .next (s1.updCtx e.ctx fun c => { c with preempt := c.preempt.filter fun p => s1.requestOpen e.ctx p.1 }))) ∧
    (∀ c, s.contexts[n]? = some c →
      ((∀ p ∈ c.preempt, (s.fclock - p.2).toNat < 2 ^ 20 ∨ (∀ e ∈ s.ensembles, e.ctx = n → e.phase ≠ .draining)) →
        exec (.preemptTimeout n) s = .next s) ∧
      (∀ p ∈ c.preempt, 2 ^ 20 ≤ (s.fclock - p.2).toNat → (∃ e ∈ s.ensembles, e.ctx = n ∧ e.phase = .draining ∧ e.victimOf p.1 = true) →
        exec (.preemptTimeout n) s = .next (s.raiseHalt n { index := 436, cause := .preemptTimeout }))))

/-! ### Traps, halts, contexts and what expires (R186, R189, R339 to R350, R356) -/

/-- R132, R144, R186, R339 to R350: a trapping thread that owes nothing enters its handler where its context has one and does not halt; a full/empty wait, a
sleep, an issue gap and a regroup hold end when they have lasted their time; the driver's and a debug agent's request and an uncorrectable error raise
the halt line with their cause; when the engines have stopped and records and images are written, the context's queues, commands and passes end. A
context is created from a descriptor in order, updated from it, and destroyed with nothing resident; the answers to a system call and a counter are
stores of the host, and one to a page request takes the request away or halts its address space.
Where it goes beyond the rules' words it states the model's reading: log entries 28, 31, 43, 45, 59, 63, 65, 70, 84, 103. -/
def Obligations.TrapsAndHalts : Prop :=
  (∀ (s : State) (w : Who) (k : Nat), s.whoOf k = some w →
    (∀ c p a i, w.t.status = .trapping c p a i →
      (w.t.quiet = true → w.c.halt = none → w.t.inHandler = false → w.c.handler ≠ 0 → w.e.occupies = true → ∃ t, exec (.trapEntry k) s = .next t ∧
        let n := t.thread k
        n.hcause = BitVec.ofNat 32 c.code ∧ n.hpc = p ∧ n.haddr = a ∧ n.hinfo = i ∧ n.inHandler = true ∧ n.pc = w.c.handler ∧ n.status = .ready ∧
          n.saveClause = w.t.clause ∧ n.saveHints = w.t.hints ∧ n.regs = w.t.regs ∧ n.preds = w.t.preds ∧ t.mem = s.mem ∧
          ∀ j ≠ k, t.thread j = s.thread j) ∧
      (w.t.quiet = true → w.c.halt = none → w.t.inHandler = false → w.c.handler = 0 → w.e.occupies = true →
        exec (.trapEntry k) s = .next (s.trapHalts w c p a)) ∧
      (w.t.quiet = false → exec (.trapEntry k) s = .next s)) ∧
    (∀ granule since, w.t.status = .parked (.fullEmpty granule) since →
      (2 ^ 24 ≤ (s.clock - since).toNat →
        exec (.feWaitExpired k) s = .next (s.takeTrap k .feWaitExpired w.t.pc (w64 (w.granuleAddr granule)) 0)) ∧
      ((s.clock - since).toNat < 2 ^ 24 → exec (.feWaitExpired k) s = .next s)) ∧
    (∀ wake, w.t.status = .sleeping wake → wake ≤ s.clock →
      exec (.sleepExpiry k) s = .next (s.updThread k fun t => { t with status := .ready })) ∧
    (∀ n, w.t.gapUntil = some n → n ≤ s.clock → exec (.issueGapExpiry k) s = .next (s.updThread k fun t => { t with gapUntil := none })) ∧
    (∀ set since, w.t.regroup = some (w.t.pc, set, since) →
      let held := s.awaited k w.t.pc set = true ∧ ∀ n, since = some n → (s.clock - n).toNat < 64
      (¬held → exec (.regroupHoldExpiry k) s = .next (s.updThread k fun t => { t with regroup := none })) ∧
      (held → exec (.regroupHoldExpiry k) s = .next s)) ∧
    (∀ call pas r st, w.t.call = some call → s.engineTranslate w.c.asid w.tr.core (va57 (w.c.slotAddr call.slot) + 48) 12 {} = .ok pas →
      exec (.syscallDone k r st) s = .next (s.hostStore pas (toBytes r.toNat 8 ++ toBytes st.toNat 4))) ∧
    (∀ r st, w.t.call = none → exec (.syscallDone k r st) s = .next s) ∧
    (∀ a since v pas, w.t.status = .parked (.counter a) since → s.engineTranslate w.c.asid w.tr.core (va57 a) 8 {} = .ok pas →
      exec (.lwaitCounter k v) s = .next (s.hostStore pas (toBytes v.toNat 8)))) ∧
  (∀ (s : State) (n : Nat),
    exec (.haltRequest n) s = .next (s.raiseHalt n { index := 436, cause := .haltRequest }) ∧
    exec (.debugHalt n) s = .next (s.raiseHalt n { index := 436, cause := .debugHalt }) ∧
    ((∀ e ∈ s.ensembles, e.occupies = true → n ∉ e.cores) → exec (.sramUncorrectable n) s = .next s) ∧
    (∀ e, s.ensembles = [e] → e.occupies = true → n ∈ e.cores → exec (.sramUncorrectable n) s =
      .next (s.raiseHalt e.ctx { index := 4 * n + Config.choice s.moves % 4, cause := .sramUncorrectable })) ∧
    (∀ c, s.contexts[n]? = some c →
      (c.halt = none → exec (.haltLine n) s = .next s) ∧
      (c.halt ≠ none → c.haltDone = true → exec (.haltLine n) s = .next (s.noteHalt n) ∧ (c.noted = true ∨ s.engineOwes n = true → s.noteHalt n = s)) ∧
      (c.halt ≠ none → c.haltDone = false → ∃ t, exec (.haltLine n) s = .next t ∧ ((t.ctx n).haltDone = true →
        (∀ q ∈ t.queues, q.ctx = n → q.disabled = true) ∧ (∀ r ∈ t.rigger, r.ctx = n → r.live = false) ∧
        ∀ p ∈ t.passes, p.ctx = n → p.live = false)) ∧
      (∀ s1 recs, c.halt ≠ none → c.haltDone = false → s.haltImages n = .ok s1 →
        s.stopPlaces n ((s.updCtx n fun _ => s1.ctx n).stopRecords n) = .ok recs → ∃ t, exec (.haltLine n) s = .next t ∧ (t.ctx n).haltDone = true ∧
          (∀ q ∈ t.queues, q.ctx = n → q.disabled = true) ∧ (∀ r ∈ t.rigger, r.ctx = n → r.live = false) ∧
          (∀ p ∈ t.passes, p.ctx = n → p.live = false) ∧ t.mem = (s1.writeStops n recs).mem ∧
          ((t.ctx n).noted = true ∨ t.engineOwes n = true)) ∧
      (∀ desc, c.live = false ∨ desc.toNat % 256 ≠ 0 → exec (.descriptorUpdate n desc) s = .next s) ∧
      ∀ (desc : BitVec 64) d, c.live = true → desc.toNat % 256 = 0 → desc.toNat < 2 ^ 52 → s.readContext n desc.toNat = .ok d →
        let same := fieldOf d 96 0 768 = fieldOf c.desc 96 0 768
        let takes (s : State) : State := s.updCtx n fun c => { c with desc := d, descAt := desc.toNat }
        (descriptorOk d = false → exec (.descriptorUpdate n desc) s = .next s) ∧
        (descriptorOk d = true → same → ∃ t, exec (.descriptorUpdate n desc) s = .next t ∧ t.contexts = (takes s).contexts ∧ t.cores = s.cores ∧ t.threads = s.threads) ∧
        (descriptorOk d = true → ¬same → ∃ t, exec (.descriptorUpdate n desc) s = .next t ∧ t.contexts = (takes (s.dropAll n)).contexts ∧
          t.cores = (s.dropAll n).cores)) ∧
    ((∃ e ∈ s.ensembles, e.ctx = n ∧ e.occupies = true) → exec (.contextDestruction n) s = .next s) ∧
    ((∀ e ∈ s.ensembles, e.ctx = n → e.occupies = false) → ∃ t, exec (.contextDestruction n) s = .next t ∧
      (∀ c, s.contexts[n]? = some c → (t.ctx n).live = false) ∧
      (∀ q ∈ t.queues, q.ctx = n → q.slot = none ∧ q.disabled = true ∧ q.pending = []) ∧ (∀ x ∈ t.structs, x.ctx ≠ n) ∧ t.mem = s.mem)) ∧
  ∀ (s : State) (asid : BitVec 16) (addr : BitVec 64) (tag : Nat),
    (∀ d, addr.toNat % 256 = 0 → addr.toNat < 2 ^ 52 → (∀ c ∈ s.contexts, c.live = true → c.asid ≠ asid) →
      s.readContext s.contexts.length addr.toNat = .ok d →
      (descriptorOk d = true → exec (.contextCreation asid addr) s = .next { s with contexts := s.contexts ++
        [{ asid := asid, descAt := addr.toNat, desc := d, mapctl := w32 (putSlice (fieldOf d 80 0 32) 2 1 0) }] }) ∧
      (descriptorOk d = false → exec (.contextCreation asid addr) s = .next s)) ∧
    (addr.toNat % 256 ≠ 0 ∨ (∃ c ∈ s.contexts, c.live = true ∧ c.asid = asid) → exec (.contextCreation asid addr) s = .next s) ∧
    (∀ halt, (∀ r ∈ s.pgreqs, r.1.tag ≠ tag) → exec (.pgrsp tag halt) s = .next (if s.linkUp then s.linkFailed else s)) ∧
    (∀ halt, (∃ r ∈ s.pgreqs, r.1.tag = tag) → s.answerable tag = false → exec (.pgrsp tag halt) s = .next s) ∧
    ∀ r rest, s.pgreqs = r :: rest → r.1.tag = tag → s.answerable tag = true → let s1 := { s with pgreqs := s.pgreqs.filter fun x => x.1.tag != tag }
      exec (.pgrsp tag true) s = .next (s1.haltAsid r.1.asid .haltRequest) ∧ (r.1.aux = 0 → exec (.pgrsp tag false) s = .next s1)

/-! ### What the turn completes, the link, translation and power (R37, R184 to R206, R225, R360 to R379) -/

/-- R37, R184 to R205, R225: an obligation that is met leaves its thread, its registers written and its flag down; a prefetch ends when its units can be read
and writes no register; a store that may show is performed on its own bytes and no others and leaves its thread, whose order no earlier access of it may
break; a granule of a live copy moves only after its thread's earlier stores, while the copy engine is ready and runs for its context (R347, R378).
Where it goes beyond the rules' words it states the model's reading: log entries 8, 9, 12, 27, 28, 29, 98, 106. -/
def Obligations.CompletionEvents : Prop :=
  (∀ (s : State) (k n : Nat) (fromL1 : Bool),
    (s.threads[k]? = none → exec (.obligationMet k n fromL1) s = .next s ∧ exec (.visibilityPoint k n) s = .next s) ∧
    ∀ t, s.threads[k]? = some t →
      (∀ l, t.loads[n]? = some l →
        (l.form.level = none →
          (t.mayBind l = false ∨ s.mixedHeld k l = true → exec (.obligationMet k n fromL1) s = .next s) ∧
          (t.mayBind l = true → s.mixedHeld k l = false → l.part = [] → (∀ x ∈ l.locs, x.scratch.isSome = true) → exec (.obligationMet k n fromL1) s =
            .next ((s.loadedAt l.locs).setThread k (t.bind l (l.locs.map fun x => t.forward l.seq x (s.getLoc x)) s.stamp (Config.choice s.moves)
              (s.vagueAt l.locs) (s.troupe t.troupe).relStamp)))) ∧
        ∀ level, l.form.level = some level → s.allReadable (l.locs.map (·.addr)) = true → ∃ u, exec (.obligationMet k n fromL1) s = .next u ∧
          u.thread k = { t.lowerFlag l.flag with loads := t.loads.filter fun x => x.seq != l.seq } ∧ ∀ j ≠ k, u.thread j = s.thread j) ∧
      (∀ o, t.loads.length ≤ n → t.owed[n - t.loads.length]? = some o →
        let ended := o.hold = none ∧ ∀ u ∈ o.units, ∀ r ∈ s.link.reqs, ¬(r.unit = u ∧ r.opc = 3)
        (ended → exec (.obligationMet k n fromL1) s = .next (s.setThread k
          { (t.land o.writes (Config.choice s.moves)).lowerFlag o.flag with owed := t.owed.eraseIdx (n - t.loads.length) })) ∧
        (¬ended → exec (.obligationMet k n fromL1) s = .next s)) ∧
      ∀ p, t.stores[n]? = some p →
        (s.mayShow t p = false ∨ p.sent ≠ [] ∨ s.mixedBusy k p = true → exec (.visibilityPoint k n) s = .next s) ∧
        (MemoryCanonical s → s.mayShow t p = true → p.sent = [] → s.mixedBusy k p = false → p.atomic = none → (∀ b ∈ p.bytes, b.loc.cached = true) → s.allWritable p.pas = true →
          ∃ u, exec (.visibilityPoint k n) s = .next u ∧ (∀ a, a ∉ p.pas → u.getPhys a = s.getPhys a) ∧
            (p.pas.Nodup → ∀ b ∈ p.bytes, u.getPhys b.loc.addr = b.over (s.getPhys b.loc.addr)) ∧
            (u.thread k).stores = t.stores.filter (fun x => x.seq != p.seq) ∧ (u.thread k).regs = t.regs ∧
            (p.order.releases = false ∨ p.scope = .th → u.troupes = s.troupes) ∧
            (p.order.releases = true → p.scope ≠ .th → t.troupe < s.troupes.length → t.acqStamp ≤ (u.troupe t.troupe).relStamp))) ∧
  ∀ (s : State) (n g : Nat) (c : Copy), s.copies[n]? = some c →
    let early := ∃ x ∈ c.after, ∃ p ∈ (s.thread x.1).stores, p.seq < x.2
    let runs := s.engineRuns (s.ens (s.troupe c.troupe).ens).ctx 3 = true ∧ ∀ x ∈ c.sent, x.1 ≠ g
    (c.live = false ∨ g ∉ c.todo ∨ early ∨ s.waits (.copy n) = true ∨ s.engineRuns (s.ens (s.troupe c.troupe).ens).ctx 3 = false →
      exec (.copyGranuleWrite n g) s = .next s) ∧
    (c.live = true → g ∈ c.todo → ¬early → s.waits (.copy n) = false → runs →
      c.kind = .gS ∨ (s.copyFault c [g] = none ∧ s.copyMiss c (c.addrs [g]) = none) → exec (.copyGranuleWrite n g) s = .next (s.moveGranule n g c)) ∧
    (∀ f, c.live = true → g ∈ c.todo → ¬early → s.waits (.copy n) = false → runs → c.kind ≠ .gS → s.copyFault c [g] ≠ none → s.copyFault c c.todo = some f →
      s.copyMiss c ((c.addrs c.todo).filter fun a => decide (a < f.2)) = none →
      exec (.copyGranuleWrite n g) s = .next (s.stopCopy n c f.1 (w64 f.2)))

/-- R189, R190, R206, R360 to R369: a request that arrives at the memory island's home waits behind an open transaction of its unit, and else opens one or,
where it grants no state and no cache holds the unit, takes its whole effect; memory data, a cache's response and GntAck move a transaction on, and a
response that it does not expect is a protocol error that halts every resident context. The device answers a snoop with what it holds, and takes its
grants, uncached data, completions and translations by their tags. An invalidation drops the translations of its range, and its completion goes out
when no access that used them remains. A request that stays without its answer for 2^28 fc halts. A header's fields stand where R361 places them; a
replayed flit changes nothing, a message that has come whole takes its effect, one that has come in part waits for the rest, and an undefined header halts
every resident context. Training ends with the modules that work, a retrain past its time fails, and Present follows a release at .SY of its context, with
no write of its surface on the way.
Where it goes beyond the rules' words it states the model's reading: log entries 11, 12, 18, 19, 20, 26, 89, 92, 110, 111. -/
def Obligations.LinkMessages : Prop :=
  (∀ (s : State) (agent tag unit : Nat) (en : BitVec 64) (data : BitVec 512) (op : BitVec 4) (cmp new : BitVec 128) (gr : BitVec 4) (i : Instr) (q : HomeReq),
    (i, q) ∈ [(Instr.rds agent tag unit, ({ agent := agent, tag := tag, opc := 0 } : HomeReq)), (.rdx agent tag unit, { agent := agent, tag := tag, opc := 1 }),
      (.upg agent tag unit, { agent := agent, tag := tag, opc := 2 }), (.rdu agent tag unit, { agent := agent, tag := tag, opc := 4 }),
      (.wbm agent tag unit gr data, { agent := agent, tag := tag, opc := 3, en := BitVec.ofNat 64 gr.toNat, data := data }),
      (.wru agent tag unit en data, { agent := agent, tag := tag, opc := 5, en := en, data := data }),
      (.wrc agent tag unit en data, { agent := agent, tag := tag, opc := 6, en := en, data := data }),
      (.atoms agent tag (64 * unit) op cmp new,
        { agent := agent, tag := tag, opc := 7, addr := 64 * unit, op := op.toNat, data := BitVec.ofNat 512 (new.toNat + cmp.toNat * 2 ^ 128) })] →
    let d := s.dirOf unit
    let may := s.mayArrive agent tag unit q.opc = true
    (agent ≠ 0 → (may ↔ hostHomed (unit * 64) = false ∧ unit * 64 < 2 ^ 52 ∧ s.linkUp = true) ∧ s.homeReq q = q) ∧
    let at_ (u : State) : State := if agent = 0 then u else { u with link := { u.link with arrived := some u.fclock } }
    (¬may → exec i s = .next s) ∧ (may → d.open_ = none → exec i s = .next (at_ (s.homeServe d (s.homeReq q)))) ∧
    (∀ o, may → d.open_ = some (o, .memWait) → exec i s = .next (at_ (s.setDir { d with waiting := d.waiting ++ [s.homeReq q] }))) ∧
    (may → d.open_ = none → d.owner = none → d.sharers = [] →
      (q.opc = 0 ∨ q.opc = 1 ∨ q.opc = 4 → exec i s = .next (at_ (s.setDir { d with open_ := some (s.homeReq q, .memWait) }))) ∧
      (q.opc = 2 → exec i s = .next (at_ (s.setDir { d with open_ := some ({ s.homeReq q with opc := 1 }, .memWait) }))) ∧
      (q.opc = 3 → exec i s = .next (at_ ((s.homeEffect unit (s.homeReq q)).setDir (d.wroteBack agent)))) ∧
      (5 ≤ q.opc → exec i s = .next (at_ ((s.homeEffect unit (s.homeReq q)).setDir d)))) ∧
    (agent ≠ 0 → MemoryCanonical s → (∀ l, s.l2 unit = some l → l.past = false) → q.opc = 5 ∨ q.opc = 6 → let t := s.homeEffect unit q
      t.link.out = s.link.out ++ [.rsp 0 tag unit 0] ∧
      ∀ a, t.memByte a = if a / 64 = unit ∧ en.getLsbD (a % 64) = true then unitByte data (a % 64) else s.memByte a)) ∧
  (∀ (s : State) (sender : Sender) (unit : Nat) (wbp0 : Bool) (kept : BitVec 3), let d0 := s.dirOf unit
    let agent := sender.id
    let d := d0.heard agent
    let may (opc : Nat) : Prop := s.mayRespond agent unit opc = true
    let wbp := if agent = 0 then (d0.resp.map fun x => x.2 == 1).getD false else wbp0
    (agent ≠ 0 → d = d0 ∧ ∀ opc, may opc ↔ s.linkUp = true) ∧
    (¬may 1 → exec (.rspi sender unit wbp0) s = .next s) ∧ (¬may 2 → exec (.rsps sender unit) s = .next s) ∧
    (¬may 3 → exec (.rspfwd sender unit kept) s = .next s) ∧ (¬may 4 → exec (.gntack sender unit) s = .next s) ∧
    (d.open_ = none → exec (.memoryData unit) s = .next s ∧ (may 1 → exec (.rspi sender unit wbp0) s = .next s.linkFailed) ∧
      (may 2 → exec (.rsps sender unit) s = .next s.linkFailed) ∧ (may 3 → exec (.rspfwd sender unit kept) s = .next s.linkFailed) ∧
      (may 4 → agent ≠ 0 → exec (.gntack sender unit) s = .next s.linkFailed)) ∧
    (∀ q, d0.open_ = some (q, .memWait) →
      (q.opc ≠ 4 → exec (.memoryData unit) s = .next ((s.slcFill unit).grantFrom d0 q true false)) ∧
      (q.opc = 4 → exec (.memoryData unit) s = .next (((s.slcFill unit).homeEffect unit q).homeClose unit))) ∧
    (∀ q, d.open_ = some (q, .gntWait) → may 4 → let mine := q.agent = agent ∧ (agent = 0 ∨ sender.tag = q.tag)
      (mine → exec (.gntack sender unit) s = .next (s.homeClose unit)) ∧ (¬mine → exec (.gntack sender unit) s = .next s.linkFailed)) ∧
    ∀ q, d.open_ = some (q, .fwdWait) → let asked := d.snooped = some agent ∧ (agent = 0 ∨ sender.tag = q.tag)
      (¬asked → (may 1 → exec (.rspi sender unit wbp0) s = .next s.linkFailed) ∧ (may 2 → exec (.rsps sender unit) s = .next s.linkFailed) ∧
        (may 3 → exec (.rspfwd sender unit kept) s = .next s.linkFailed)) ∧
      (asked →
        (may 1 → wbp = true → exec (.rspi sender unit wbp0) s = .next (s.setDir { d with open_ := some (q, .fwdWbWait) })) ∧
        (may 1 → wbp = false → exec (.rspi sender unit wbp0) s =
          .next (s.setDir { d.wroteBack agent with open_ := some (q, .memWait), snooped := none })) ∧
        (may 2 → exec (.rsps sender unit) s =
          .next (s.setDir { d.wroteBack agent with sharers := d.sharers ++ [agent], open_ := some (q, .memWait), snooped := none })) ∧
        (may 3 → q.agent ≠ 0 → q.opc = 4 → exec (.rspfwd sender unit kept) s = .next (s.homeClose unit)) ∧
        (may 3 → agent = 0 → d0.resp = some (3, 2) → q.agent ≠ 0 → q.opc = 0 → exec (.rspfwd sender unit kept) s =
          .next (s.setDir { d with owner := some 0, sharers := (d.sharers ++ [q.agent]).dedup, open_ := some (q, .gntWait), snooped := none })) ∧
        (may 3 → q.agent ≠ 0 → q.opc = 1 → exec (.rspfwd sender unit kept) s =
          .next ((s.takenAway unit).setDir { d with owner := some q.agent, sharers := [], open_ := some (q, .gntWait), snooped := none })))) ∧
  (∀ (s : State) (unit tag requester : Nat),
    let answer (s : State) (opc aux : Nat) : State :=
      if hostHomed (unit * 64) then s.say (.rsp opc tag unit (if opc = 3 then Config.keptCode aux % 8 else aux))
      else s.setDir { s.dirOf unit with resp := some (opc, aux) }
    let none_ (s : State) : State := answer s 1 (if s.asked unit [3] then 1 else 0)
    let may (opc : Nat) : Prop := s.snoopable opc unit tag (if opc = 0 then 0 else requester) = true
    (hostHomed (unit * 64) = true → ∀ opc, may opc ↔ s.linkUp = true) ∧
    (∀ i opc, (i, opc) ∈ [(Instr.snpinv unit tag, 0), (.snpfwds unit tag requester, 1), (.snpfwdx unit tag requester, 2)] →
      (¬may opc → exec i s = .next s) ∧
      (may opc → s.l2 unit = none → exec i s = .next (if opc = 1 then none_ s else (none_ s).takenAway unit))) ∧
    ∀ l, s.l2 unit = some l → let dirty := l.state = .m ∨ l.state = .o
      let out (s : State) : State := (s.remember unit).dropLine unit
      (¬dirty → (may 0 → exec (.snpinv unit tag) s = .next ((none_ ((out s).loseSight unit)).takenAway unit)) ∧
        (may 1 → exec (.snpfwds unit tag requester) s = .next (answer ((s.setLine unit .s).say (.dat 0 tag unit requester l.data)) 3 1)) ∧
        (may 2 → exec (.snpfwdx unit tag requester) s = .next ((answer ((out s).say (.dat 1 tag unit requester l.data)) 3 0).takenAway unit))) ∧
      (dirty → (may 0 → exec (.snpinv unit tag) s = .next ((none_ ((out (s.writeBack l)).loseSight unit)).takenAway unit)) ∧
        (may 1 → exec (.snpfwds unit tag requester) s = .next (answer ((s.setLine unit .o).say (.dat 0 tag unit requester l.data)) 3 2)) ∧
        (may 2 → exec (.snpfwdx unit tag requester) s = .next ((answer ((out s).say (.dat 2 tag unit requester l.data)) 3 0).takenAway unit)))) ∧
  (∀ (s : State) (tag : Nat) (data : BitVec 512),
    (s.reqOf tag = none → s.linkUp = true → ∀ i ∈ [Instr.dats tag data, .date tag data, .datm tag data, .datu tag data, .cmp tag],
      exec i s = .next s.linkFailed) ∧
    ∀ r, s.reqOf tag = some r →
      let far := hostHomed (r.unit * 64) = true
      let done := (far ∧ s.answerable tag = true) ∨ (¬far ∧ r.answer.map (·.1) = some 4)
      (far → s.answerable tag = true → ∀ opc, s.arriving r opc data = some data) ∧
      (∀ i st opc got, (i, st, opc) ∈ [(Instr.dats tag data, Moesi.s, 0), (.date tag data, .e, 1), (.datm tag data, .m, 2)] →
        s.arriving r opc data = some got → r.opc = 0 ∨ (r.opc ≤ 2 ∧ st ≠ .s) → exec i s = .next (s.granted r st got (if st = .m then 15 else 0))) ∧
      (∀ i st, (i, st) ∈ [(Instr.dats tag data, Moesi.s), (.date tag data, .e), (.datm tag data, .m)] → s.linkUp = true →
        2 < r.opc ∨ (r.opc ≠ 0 ∧ st = .s) → exec i s = .next s.linkFailed) ∧
      (∀ l, done → r.opc = 2 → s.l2 r.unit = some l → exec (.cmp tag) s = .next (s.granted r .m l.data l.stored)) ∧
      (done → r.opc = 3 → let u := (if far then s.setMemUnit r.unit (granuleBytes (r.en.truncate 4)) r.data else s).endReq r
        exec (.cmp tag) s = .next (if r.keep = true then u.acquireUnit r.unit false { ctx := r.ctx.getD 0 } else u)) ∧
      (done → far → r.opc = 5 ∨ r.opc = 6 → MemoryCanonical s → (∀ l, s.l2 r.unit = some l → l.past = false) → ∃ u, exec (.cmp tag) s = .next u ∧
        (∀ x ∈ u.link.reqs, x.tag ≠ tag) ∧
        ∀ a, u.memByte a = if a / 64 = r.unit ∧ r.en.getLsbD (a % 64) = true then unitByte r.data (a % 64) else s.memByte a) ∧
      (¬done → exec (.cmp tag) s = .next s) ∧
      (∀ k seq got, r.opc = 4 → r.store = some (k, seq) → s.arriving r 3 data = some got →
        exec (.datu tag data) s = .next ((s.endReq r).updThread k fun t => t.receive seq r.unit got)) ∧
      (let late := 2 ^ 28 ≤ (s.fclock - r.since).toNat
       (∀ c, late → r.ctx = some c → exec (.acknowledgementTimeout tag) s = .next (s.raiseHalt c { index := 436, cause := .linkProtocol })) ∧
       (¬late ∨ r.ctx = none → exec (.acknowledgementTimeout tag) s = .next s))) ∧
  (∀ (s : State) (tag frame base size : Nat) (present tracked : Bool) (sz perms : BitVec 3) (pol : BitVec 2) (asid : BitVec 16),
    (s.linkUp = true → (∀ r ∈ s.xlreqs, r.tag ≠ tag) → exec (.xlrsp tag present frame sz perms pol tracked) s = .next s.linkFailed) ∧
    (∀ r rest, s.xlreqs = r :: rest → r.tag = tag → let n := pageBytes sz.toNat
      let late := 2 ^ 28 ≤ (s.fclock - r.since).toNat
      (late → exec (.translationLinkTimeout tag) s = .next (s.haltAsid r.asid .translationLinkTimeout)) ∧
      (¬late → exec (.translationLinkTimeout tag) s = .next s) ∧
      (s.answerable tag = false → exec (.xlrsp tag present frame sz perms pol tracked) s = .next s) ∧
      (s.answerable tag = true → frame / n * n + (n - 1) < 2 ^ 52 → r.dead = true →
        exec (.xlrsp tag present frame sz perms pol tracked) s = .next { s with xlreqs := s.xlreqs.filter (·.tag != tag) }) ∧
      (s.answerable tag = true → frame / n * n + (n - 1) < 2 ^ 52 → r.dead = false →
        (r.stale = true → ∃ t, exec (.xlrsp tag present frame sz perms pol tracked) s = .next t ∧ t.tlb = s.tlb ∧ t.mem = s.mem ∧
          t.link.out = s.link.out ++ [.xlReq tag r.asid r.page r.kind] ∧ ∀ x ∈ t.xlreqs, x.tag = tag → x.stale = false ∧ x.since = s.fclock) ∧
        (r.stale = false → ∃ t, exec (.xlrsp tag true frame sz perms pol tracked) s = .next t ∧ t.mem = s.mem ∧ t.threads = s.threads ∧
          (∀ x ∈ t.xlreqs, x.tag ≠ tag) ∧
          ∃ e ∈ t.tlb, e.asid = r.asid ∧ e.first = some r.core ∧ e.base = r.page * 4096 / n * n ∧ e.size = n ∧ e.frame = frame / n * n ∧
            e.read = bitAt perms.toNat 0 ∧ e.write = bitAt perms.toNat 1 ∧ e.exec = bitAt perms.toNat 2 ∧ e.tracked = tracked))) ∧
    (s.linkUp = true → s.gaffer.works 1 = false → exec (.xlinv tag asid base size) s = .next (s.say (.xlInvCmp tag))) ∧
    (s.linkUp = true → s.gaffer.works 1 = true → ∃ t, exec (.xlinv tag asid base size) s = .next t ∧ t.mem = s.mem ∧
      (∀ e, e ∈ t.tlb ↔ e ∈ s.tlb ∧ ¬(e.asid = asid ∧ (size = 0 ∨ (e.base < base + size ∧ base < e.base + e.size)))) ∧
      t.xlinvs = s.xlinvs ++ [{ tag := tag, asid := asid, base := base, size := size }]) ∧
    ((∀ x ∈ s.xlinvs, x.tag ≠ tag) → exec (.xlinvcmp tag) s = .next s) ∧
    (∀ x rest, s.xlinvs = x :: rest → x.tag = tag →
      (s.rangeBusy x.asid x.base x.size = false →
        exec (.xlinvcmp tag) s = .next (({ s with xlinvs := s.xlinvs.filter (·.tag != tag) } : State).say (.xlInvCmp tag))) ∧
      (s.rangeBusy x.asid x.base x.size = true → exec (.xlinvcmp tag) s = .next s))) ∧
  (∀ cls opc aux asid tag addr, let h := (headerSlot cls opc aux asid tag addr).toNat
    hdCls h = cls % 8 ∧ hdOpc h = opc % 32 ∧ hdAux h = aux % 2 ^ 16 ∧ hdAsid h = asid % 2 ^ 16 ∧ hdTag h = tag % 2 ^ 16 ∧ hdAddr h = addr % 2 ^ 46) ∧
  ∀ (s : State) (crcOk recovered : Bool) (surface : Surface) (h : BitVec 128) (ds : List (BitVec 128)) (working : BitVec 16) (ctx plane tag : Nat),
    (s.linkUp = false ∨ (crcOk = false ∧ recovered = true) → exec (.flit crcOk recovered (h :: ds)) s = .next s) ∧
    (s.linkUp = true → s.link.rx = [] → headerDefined h.toNat = false → exec (.flit true recovered (h :: ds)) s = .next s.linkFailed) ∧
    (s.linkUp = true → s.link.rx = [] → headerDefined h.toNat = true → ds.length + 1 < slotCount h.toNat →
      exec (.flit true recovered (h :: ds)) s = .next { s with link := { s.link with rx := h :: ds } }) ∧
    (∀ u, s.linkUp = true → s.link.rx = [] → headerDefined h.toNat = true → ds.length + 1 = slotCount h.toNat → s.deliver h.toNat ds = .next u →
      u.link.rx = [] → exec (.flit true recovered (h :: ds)) s = .next u) ∧
    (s.linkUp = true → ∃ t, exec (.flit false false (h :: ds)) s = .next t ∧ t.link.training = true ∧ t.link.rx = [] ∧
      t.contexts = s.linkFailed.contexts) ∧
    (s.link.training = false → exec (.linkTraining working) s = .next s) ∧
    (s.link.training = true → ∃ t, exec (.linkTraining working) s = .next t ∧ t.link.modules = working ∧ t.link.training = false ∧
      (8 ≤ popCount working.toNat 16 → t.link.up = true ∧ t.gaffer = s.gaffer) ∧
      (popCount working.toNat 16 < 8 → t.link.up = false ∧ t.gaffer.ready = 0 ∧ t.gaffer.grp = 0)) ∧
    (let late := s.link.training = true ∧ 2 ^ 24 ≤ (s.fclock - s.link.trainSince).toNat
     (¬late → exec .retrainTimeout s = .next s) ∧
     (late → ∃ t, exec .retrainTimeout s = .next t ∧ t.contexts = s.linkFailed.contexts ∧ t.link.trainSince = s.fclock)) ∧
    (tag ∈ s.link.presents → s.answerable tag = false → exec (.presentcmp tag) s = .next s) ∧
    (s.answerable tag = true → tag ∈ s.link.presents → exec (.presentcmp tag) s =
      .next { s with link := { s.link with presents := s.link.presents.filter (· != tag) } }) ∧
    (s.linkUp = true → tag ∉ s.link.presents → exec (.presentcmp tag) s = .next s.linkFailed) ∧
    (let may := (s.ctx ctx).live = true ∧ (s.ctx ctx).released = true ∧ s.gaffer.works 2 = true ∧ s.surfaceBusy ctx surface = false
     (may → exec (.present ctx surface plane) s =
      .next (({ s with link := { s.link with nextTag := s.freeTag + 1, presents := s.link.presents ++ [s.freeTag] } } : State).say
        (.present s.freeTag surface.addr plane))) ∧
     (¬may → exec (.present ctx surface plane) s = .next s))

/-- R370 to R379: the Gaffer's states follow one another by its commands, the firmware and the functions' readiness; its fields clamp what is written to them;
a grant within the ceiling sets the clock and the CADs, and falls with SUSTAIN; a group without an ensemble is clock-gated; a replay interval sets the
voltage and clock; an error that a replay does not clear halts the core's contexts; a lost phase derates the device, and with fewer than 8 left it drains,
or stays off; TEMP is the hottest sensor's, and heat throttles the device and then halts its resident contexts; power to the memory island keeps what memory
holds and the fused floor.
Where it goes beyond the rules' words it states the model's reading: log entries 3, 66, 67, 89, 90, 104, 109. -/
def Obligations.Power : Prop :=
  ∀ (s : State), let st := s.gaffer.state
    let upd (s : State) (f : Gaffer → Gaffer) : State := { s with gaffer := f s.gaffer }
    (∀ ones, exec (.mboxClear ones) s = .next (upd s fun g => { g with mbox := g.mbox &&& ~~~ones })) ∧ (∀ cmd, exec (.cmdNoAction cmd) s = .next s) ∧
    (∀ v : DWord, exec (.gafferRegisterWrite 0x010 v) s = .next (upd s fun g =>
        { g with sustain := BitVec.ofNat 8 (max 60 (min (v.toNat % 256) 220)), grant := min g.grant (max 60 (min (v.toNat % 256) 220)) }) ∧
      exec (.gafferRegisterWrite 0x014 v) s = .next (upd s fun g => { g with replay := BitVec.ofNat 4 (max 3 (min (v.toNat % 16) 7)) }) ∧
      exec (.gafferRegisterWrite 0x020 v) s = .next (upd s fun g => { g with fwAddr := w64 (v.toNat / 4096 * 4096) }) ∧
      exec (.gafferRegisterWrite 0x028 v) s = .next (upd s fun g => { g with fwSize := w32 (max 4096 (min (v.toNat % 2 ^ 32) (2 ^ 24))) }) ∧
      exec (.gafferRegisterWrite 0x034 v) s = .next (upd s fun g => { g with mboxEn := v.truncate 5 }) ∧
      ∀ off, off ∉ [0x010, 0x014, 0x020, 0x028, 0x034] → exec (.gafferRegisterWrite off v) s = .next s) ∧
    (st = .on → exec .powerOff s = .next (upd (s.preempt (upFrom 0 96)) fun g => { g with state := .draining })) ∧
    (st ≠ .on → exec .powerOff s = .next s) ∧
    (st = .off → ∃ t, exec .powerOn s = .next t ∧ t.mem = s.mem ∧ (8 ≤ popCount s.gaffer.phases.toNat 12 → t.gaffer.state = .verify) ∧
      (t.gaffer.state = .verify → 8 ≤ popCount t.gaffer.phases.toNat 12) ∧
      (s.gaffer.phases = 0xFFF → t.gaffer.state = .verify ∧ t.gaffer.derated = false ∧ t.gaffer.ilim = 0x0FA0)) ∧
    (st ≠ .off → exec .powerOn s = .next s) ∧
    (let done := st = .draining ∧ (∀ e ∈ s.ensembles, e.occupies = false) ∧ (∀ r ∈ s.rigger, r.live = false) ∧ s.link.reqs = []
     (∀ s', done → (upFrom 0 s.queues.length).foldlM State.unmapQueue s = .ok s' → ∃ t, exec .drainDone s = .next t ∧ t.gaffer.state = .off ∧
      t.gaffer.ready = 0 ∧ t.tlb = [] ∧ t.link.lines = [] ∧ (∀ r ∈ t.xlreqs, r.dead = true) ∧ t.xlwaits = [] ∧ ∀ q ∈ t.queues, q.slot = none) ∧
     (¬done → exec .drainDone s = .next s)) ∧
    (∀ a b v fl, (st ≠ .verify → exec (.firmwareVerify a b v fl) s = .next s) ∧
      (st = .verify → a = true → b = true → s.gaffer.floor.toNat ≤ v.toNat →
        exec (.firmwareVerify a b v fl) s = .next (upd s fun g => { g with state := .bringup, fwFail := false, newFloor := fl, version := v })) ∧
      (st = .verify → a = false ∨ b = false ∨ v.toNat < s.gaffer.floor.toNat →
        ∃ t, exec (.firmwareVerify a b v fl) s = .next t ∧ t.gaffer.state = .off ∧ t.gaffer.fwFail = true)) ∧
    (∀ n, let up := (st = .bringup ∨ st = .on) ∧ s.linkUp = true ∧ n < 31
      (¬up → exec (.functionReady n) s = .next s) ∧
      (up → ∃ t, exec (.functionReady n) s = .next t ∧
        (n < 7 → t.gaffer.ready = s.gaffer.ready ||| BitVec.ofNat 7 (2 ^ n)) ∧
        (7 ≤ n → t.gaffer.grp = s.gaffer.grp ||| BitVec.ofNat 24 (2 ^ (n - 7))) ∧
        (t.gaffer.state = .on ↔ st = .on ∨ (t.gaffer.ready = 0x7F ∧ t.gaffer.grp = 0xFFFFFF)))) ∧
    exec .memoryIslandPowerUp s =
      .next { State.reset with
        mem := s.mem, moves := s.moves, schedule := s.schedule, badSectors := s.badSectors,
        gaffer := { floor := s.gaffer.floor } } ∧
    (∀ grant clock cads, let may := grant ≤ s.gaffer.ceiling ∧ clock ≤ 2900000 ∧ cads.length = 24 ∧ ∀ c ∈ cads, 1 ≤ c ∧ c ≤ 16
      (may → exec (.powerArbitration grant clock cads) s = .next (upd { s with cads := cads.map (BitVec.ofNat 5) } fun g =>
        { g with grant := grant, clock := clock })) ∧
      (¬may → exec (.powerArbitration grant clock cads) s = .next s)) ∧
    (∀ n, s.clockGated n = true ↔ ∀ e ∈ s.ensembles, e.occupies = true → e.group ≠ n) ∧
    (s.gaffer.derated = false → s.gaffer.ceiling = s.gaffer.sustain.toNat) ∧
    (s.gaffer.derated = true → s.gaffer.ceiling = s.gaffer.sustain.toNat * popCount s.gaffer.phases.toNat 12 / 12) ∧
    (∀ v c, c ≤ 2900000 → exec (.replayRateAdjust v c) s =
      .next (upd s fun g => { g with voltage := v, clock := c, replays := List.replicate 24 0 })) ∧
    (∀ core storage, let s1 := upd s fun g => { g with replays := updateAt g.replays (core / 4) (· + 1) }
      exec (.timingError core true storage) s = .next s1 ∧
      exec (.timingError core false storage) s = .next ((s1.haltCore core (if storage then .sramUncorrectable else .machineCheckOther)).daily 9 0)) ∧
    (∀ p, (12 ≤ p ∨ s.gaffer.phases.getLsbD p = false → exec (.phaseLoss p) s = .next s) ∧
      (p < 12 → s.gaffer.phases.getLsbD p = true → ∃ t, exec (.phaseLoss p) s = .next t ∧ t.gaffer.phases = s.gaffer.phases &&& ~~~(BitVec.ofNat 12 (2 ^ p)) ∧
        t.gaffer.derated = true ∧ (8 ≤ popCount t.gaffer.phases.toNat 12 → t.contexts = s.contexts ∧ t.gaffer.state = st) ∧
        (popCount t.gaffer.phases.toNat 12 < 8 → st = .off ∨ st = .verify → t.gaffer.state = .off) ∧
        (popCount t.gaffer.phases.toNat 12 < 8 → st = .bringup ∨ st = .on ∨ st = .draining → t.gaffer.state = .draining ∧
          ∀ n < s.contexts.length, (s.ctx n).live = true → s.residentCtx n = true → (t.ctx n).halt ≠ none))) ∧
    (∀ sensor (temp : BitVec 16), (temp.toInt ≤ 1680 → exec (.thermalThrottle sensor temp) s = .next s) ∧
      (∀ i, i = Instr.thermalThrottle sensor temp ∨ (1760 < temp.toInt ∧ i = .thermalEmergency sensor temp) → 1680 < temp.toInt →
        ∃ t, exec i s = .next t ∧ t.cads = List.replicate 24 16 ∧
          (sensor, temp) ∈ t.gaffer.temps ∧ (∃ x ∈ t.gaffer.temps, x.2 = t.gaffer.temp) ∧ (∀ x ∈ t.gaffer.temps, x.2.toInt ≤ t.gaffer.temp.toInt) ∧
          (temp.toInt ≤ 1760 → t.contexts = s.contexts ∧ t.threads = s.threads) ∧
          (1760 < temp.toInt → ∀ n < s.contexts.length, (s.ctx n).live = true → s.residentCtx n = true → (t.ctx n).halt ≠ none)) ∧
      (temp.toInt ≤ 1760 → exec (.thermalEmergency sensor temp) s = .next s))

/-! ### The whole machine -/

/-- R254, R352, R371: after reset sr.clock is 0, every CAD is 1, the Gaffer is OFF with nothing ready, no failure, SUSTAIN 220, REPLAY 5, ILIM 0x0FA0, all
phases and everything else of its block 0, its ring empty, and no context, queue, launch, thread or translation stands. (FLOOR is fused; 0 is the
model's choice, log entry 4, and is not claimed.) -/
def Obligations.ResetState : Prop :=
  State.reset.clock = 0 ∧ State.reset.cads = List.replicate 24 1 ∧
  (let g := State.reset.gaffer
   g.ready = 0 ∧ g.grp = 0 ∧ g.fwFail = false ∧ g.derated = false ∧ g.state = .off ∧ g.sustain = 220 ∧ g.replay = 5 ∧ g.ilim = 0x0FA0 ∧
    g.phases = 0xFFF ∧ g.fwAddr = 0 ∧ g.fwSize = 0 ∧ g.mbox = 0 ∧ g.mboxEn = 0 ∧ g.temp = 0 ∧ g.dlHead = 0 ∧ g.dailies = []) ∧
  State.reset.contexts = [] ∧ State.reset.queues = [] ∧ State.reset.launches = [] ∧ State.reset.threads = [] ∧ State.reset.tlb = []

/-- The memory of the state after reset is in its canonical form.
Where it goes beyond the rules' words it states the model's reading: log entry 1. -/
def Obligations.ResetCanonical : Prop :=  MemoryCanonical State.reset

/-- Every step from a state whose memory is in its canonical form ends in one whose memory is.
Where it goes beyond the rules' words it states the model's reading: log entry 1. -/
def Obligations.MemoryStaysCanonical : Prop :=  Kept MemoryCanonical

/-- From every state the device takes a step: no state, word or event stops the machine.
Where it goes beyond the rules' words it states the model's reading: log entry 2. -/
def Obligations.EveryStepIsTaken : Prop :=  ∀ s, Steps s

/-- R27 to R32: the word of a well-formed instruction is one of 32 bits and decodes to it, with every operand at every value its encoding
admits; and what a word decodes to is well formed, with that word. -/
def Obligations.RoundTrip : Prop :=
  (∀ i n, i.wellFormed = true → encode i = some n → n < 2 ^ 32 ∧ decodeWord n = .ok i) ∧
  ∀ i n, n < 2 ^ 32 → decodeWord n = .ok i → i.wellFormed = true ∧ encode i = some n

/-- Words written out from the encoding tables, a few of each format, decode to what they stand for. -/
def Obligations.DecodeWords : Prop :=
  decodeWord 0 = .ok (.clause 0 0 0 0 0) ∧ decodeWord 0x04000123 = .ok (.hintImm 0x123) ∧ decodeWord 0x0B800005 = .ok (.bra 7 5) ∧
  decodeWord 0x100000DC = .ok (.exit 7) ∧ decodeWord 0x1408FFFF = .ok (.movi 1 0x1FFF 7) ∧ decodeWord 0x1808109C = .ok (.iadd 1 1 4 7) ∧
  decodeWord 0x40082FFF = .ok (.iaddi 1 2 0x1FF 7) ∧ decodeWord 0x501840BC = .ok (.fadd 3 4 5 7) ∧ decodeWord 0x8410400F = .ok (.ld 2 4 0 1 7) ∧
  decodeWord 0xD400013C = .ok (.fence 1 1 7) ∧ decodeWord 0xE882061C = .ok (.mma 16 32 48 7) ∧ decodeWord 0xF020815D = .ok (.tex 4 8 7 1) ∧
  decodeWord 0xF410801D = .ok (.rbox 2 8 7 1) ∧ decodeWord 0x10000001 = .error .reservedField ∧ decodeWord 0xFC000000 = .error .illegalOpcode

/-- R26, R33, R41: a turn of the picker fetches the words of the unit at a thread's PC and, where no breakpoint, decode cause or park of slot V stands
against it, runs exactly the instruction that the first decodes to, on the state that the fetch has left; a thread that waits at its instruction executes
that one again; the turn of an event runs that event.
Where it goes beyond the rules' words it states the model's reading: log entries 2, 3, 10, 36, 37, 38, 39, 40, 41, 42. -/
def Obligations.StepRunsDecoded : Prop :=
  ∀ (s s0 : State) (x : Turn), s.nextTurn = (x, s0) → let s1 := s0.passTime x
    (∀ i, x.act = .event i → isEvent i = true → i ≠ .illegalOpcode → step s = exec i s1) ∧
    ∀ k w i, x.act = .issue k → s1.whoOf k = some w → s1.mayIssue w = true → w.t.regroup = none → pkCompat w.e.packet = false →
      s1.slotFree w (s1.issueSlot w) = true →
      let s2 := (s1.takeSlot w (s1.issueSlot w)).updThread k fun t => { t with leaving := false, ahead := if t.status = .ready then [] else t.ahead }
      (∀ s3 n more, w.t.status = .ready → s2.unitAt w = .ok (s3, (w.t.pc, n) :: more) → decodeWord n = .ok i →
        (isHint n = true ∨ isHeader n = true ∨ w.breakpoint w.t.pc = none) →
        let fresh := fun (t : Thread) => { t with got := [], hints := if t.resumed = true ∧ isHint n = true then {} else t.hints }
        let t : Thread := fresh w.t
        (if t.clause.left = 0 then headerCause t.pc ((t.pc, n) :: more) = none
          else unitCause t.hints t.pc t.clause.fa t.clause.fb t.clause.left ((t.pc, n) :: more) = none) →
        (w.e.grid.on = false ∨ ∀ x ∈ (t.pc, n) :: more, isHint x.2 = true ∨ slotOf x.2 ≠ .v) →
        step s = match exec i { s3.updThread k fresh with cur := k } with
          | .next u => .next (u.afterIssue { w with t := t } (some i))
          | o => o) ∧
      (w.t.waitsAt = true → w.t.issued = some i → (w.e.grid.on = false ∨ (encode i).map slotOf ≠ some .v) →
        step s = match exec i { s2 with cur := k } with
          | .next u => .next (u.afterIssue w (some i))
          | o => o)

/-- R52, R53, R71, R72, R109, R145, R342: reading operands finds, in this order, an illegal register, an expired transient value, a tag that a port cannot
convert, and an enabled flag of a conversion, which is FP_EXCEPTION with every flag that the conversions raise and the elements of the first operand
that raises an enabled one; else it merges the flags and gives each port's value, a register's own where its tag is taken.
Where it goes beyond the rules' words it states the model's reading: log entry 73. -/
def Obligations.OperandsRead : Prop :=
  ∀ (t : Thread) (dsts : List Grp) (srcs : List Src), let grps := srcs.filterMap Src.grp
    let legal := ∀ g ∈ dsts ++ grps, g.base + g.len ≤ t.regs.length ∧ g.base % g.align = 0
    let expired := ∃ g ∈ grps, ∃ n < g.len, (t.reg (g.base + n)).life = .expired
    let clash := ∃ x ∈ srcs, ∃ p ∈ x.ports t, p.isMismatch = true
    (¬legal → t.fetch dsts srcs = .error (.trap .illegalRegister 0 0 0)) ∧
    (legal → expired → t.fetch dsts srcs = .error (.trap .transientExpired 0 0 0)) ∧
    (legal → ¬expired → clash → t.fetch dsts srcs = .error (.trap .tagMismatch 0 0 0)) ∧
    (let of (x : Src) : List Nat := (x.ports t).flatMap Port.flags
     let all := orAll (srcs.map fun x => orAll (of x))
     let on (n : Nat) : Nat := n &&& slice t.fmode.toNat 8 5
     (∀ before x after, legal → ¬expired → ¬clash → srcs = before ++ x :: after → (∀ y ∈ before, on (orAll (of y)) = 0) → on (orAll (of x)) ≠ 0 →
       t.fetch dsts srcs = .error (.trap .fpException 0 (w64 (all + 256 * (ofBits ((of x).map fun f => on f != 0) % 256))) all)) ∧
     (legal → ¬expired → ¬clash → (∀ y ∈ srcs, on (orAll (of y)) = 0) → ∃ x, t.fetch dsts srcs = .ok x ∧ x.fl = all)) ∧
    ∀ x, t.fetch dsts srcs = .ok x → legal ∧ ¬expired ∧ ¬clash ∧ x.t = { t with fflags := w32 (t.fflags.toNat ||| x.fl) } ∧
      x.fl = orAll (srcs.map fun y => orAll ((y.ports t).flatMap Port.flags)) ∧
      x.ops.length = srcs.length ∧ ∀ (n b l al : Nat) (want : List Tag), srcs[n]? = some (Src.regs b l al want : Src) → (∀ j < l, want = [] ∨ (t.reg (b + j)).tag ∈ want) →
        x.ops[n]? = some ((upFrom b l).map t.reg)

/-- R340, R343: a trap of a thread outside its handler, in a context with one and with no halt, that owes nothing, saves its cause, PC, address, value, clause
position and hints and goes to HANDLER at once; one that owes waits; one in its handler, or without one, halts its context, its saved registers as they
were. It changes no register, no memory and no other thread, but that a halt undoes the handler entries of its ac (R347). -/
def Obligations.TrapTaken : Prop :=
  ∀ (s : State) (k : Nat) (w : Who) (c : Cause) (p a i : DWord), s.whoOf k = some w →
    let t := s.takeTrap k c p a i
    let n := t.thread k
    (n.regs = w.t.regs ∧ n.preds = w.t.preds ∧ n.flags = w.t.flags ∧ n.rsp = w.t.rsp ∧ n.fflags = w.t.fflags ∧ n.stores = w.t.stores ∧
      n.armStep = false ∧ n.armSkip = false ∧ t.mem = s.mem ∧ t.troupes = s.troupes ∧ t.ensembles = s.ensembles ∧
      ∀ j ≠ k, t.thread j = s.thread j ∨ t.thread j = (s.thread j).undoEntry s.clock ∧ (w.c.handler = 0 ∨ w.t.inHandler = true)) ∧
    (w.c.handler ≠ 0 → w.t.inHandler = false → (∀ f ∈ w.t.flags, f = 0) → w.c.halt = none →
      n.hcause = BitVec.ofNat 32 c.code ∧ n.hpc = p ∧ n.haddr = a ∧ n.hinfo = i ∧ n.saveClause = w.t.clause ∧ n.saveHints = w.t.hints ∧
        n.inHandler = true ∧ n.pc = w.c.handler ∧ n.hints = {} ∧ n.clause.left = 0 ∧ n.status = .ready ∧ t.contexts = s.contexts) ∧
    (w.c.handler ≠ 0 → w.t.inHandler = false → (∃ f ∈ w.t.flags, f ≠ 0) → n.status = .trapping c p a i ∧ n.pc = w.t.pc ∧ t.contexts = s.contexts) ∧
    (w.c.handler = 0 ∨ w.t.inHandler = true → (∀ e, w.t.entry = some e → e.at_ ≠ s.clock) → n.hcause = w.t.hcause ∧ n.hpc = w.t.hpc ∧ n.haddr = w.t.haddr ∧ n.hinfo = w.t.hinfo ∧
      (w.c.halt = none → (t.ctx w.cI).halt = some s.clock ∧
        (t.ctx w.cI).raisers = [{ index := w.partIndex, cause := c, pc := p, addr := a, thread := some k, mapped := s.isMapped w.tr.core k }]))

/-- R29, R53, R54: what the words of one thread leave alone, whether they complete, trap or pass under a false guard: every register but the destination's (of
whose life alone the transient windows tell), the predicates, the flags' counts, the stack, the pins, what is outstanding, every other thread, memory,
scratch and every other part of the device; a context may halt, which undoes the handler entries of its ac. Only the sums touch sr.carry. A false guard does nothing but go on.
Where it goes beyond the rules' words it states the model's reading: log entry 72. -/
def Obligations.ThreadWordFrame : Prop :=
  ∀ (s : State) (w : Who) (g : PredField) (d a b : RegField) (i9 : BitVec 9) (i16 : BitVec 16) (i : Instr) (n : Nat), s.whoOf s.cur = some w →
    (i, n) ∈ [(Instr.iadd d a b g, 1), (.isub d a b g, 1), (.iadc d a b g, 1), (.iaddi d a i9 g, 1), (.imul d a b g, 1), (.imulh d a b g, 1),
      (.imad d a b g, 1), (.imadw d a b g, 2), (.lea d a b g, 2), (.imin d a b g, 1), (.iminN d a b g, 1), (.imax d a b g, 1), (.imaxN d a b g, 1),
      (.and d a b g, 1), (.or d a b g, 1), (.xor d a b g, 1), (.andn d a b g, 1), (.andi d a i9 g, 1), (.ori d a i9 g, 1), (.shl d a b g, 1),
      (.shr d a b g, 1), (.sar d a b g, 1), (.rot d a b g, 1), (.bfx d a b g, 1), (.bfxS d a b g, 1), (.bfi d a b g, 1), (.sel d a b g, 1),
      (.movi d i16 g, 1), (.mov d a g, 1), (.iabs d a g, 1), (.ineg d a g, 1), (.not d a g, 1), (.popc d a g, 1), (.clz d a g, 1), (.brev d a g, 1),
      (.ptox d g, 1)] →
    (w.t.guard g = false → exec i s = .next (s.retire w.k w.t)) ∧
    ∀ t, exec i s = .next t →
      let u := t.thread w.k
      (∀ r, r < d.toNat ∨ d.toNat + n ≤ r → (u.reg r).val = (w.t.reg r).val ∧ (u.reg r).tag = (w.t.reg r).tag) ∧ u.regs.length = w.t.regs.length ∧
      (i ∉ [Instr.iadd d a b g, .isub d a b g, .iadc d a b g, .iaddi d a i9 g] → u.carry = w.t.carry) ∧
      u.preds = w.t.preds ∧ u.flags = w.t.flags ∧ u.rsp = w.t.rsp ∧ u.rsl = w.t.rsl ∧ u.fmode = w.t.fmode ∧ u.pin0 = w.t.pin0 ∧ u.pin1 = w.t.pin1 ∧
      u.loads = w.t.loads ∧ u.stores = w.t.stores ∧ u.owed = w.t.owed ∧
      (∀ j ≠ w.k, t.thread j = s.thread j ∨ t.thread j = (s.thread j).undoEntry s.clock) ∧ t.mem = s.mem ∧ t.troupes = s.troupes ∧
      t.ensembles = s.ensembles ∧ t.launches = s.launches ∧ t.queues = s.queues ∧ t.cores = s.cores ∧ t.copies = s.copies ∧ t.rigger = s.rigger ∧
      t.structs = s.structs ∧ t.passes = s.passes ∧ t.tlb = s.tlb ∧ t.link = s.link ∧ t.gaffer = s.gaffer ∧ t.clock = s.clock

/-- R107, R110: a pattern of a format that stands for a number is exact: encoded again, in any mode and saturating or not, it is itself and raises
nothing. -/
def Obligations.FloatEncodingExact : Prop :=
  ∀ (f : FloatFmt) (mode : RMode) (sat : Bool) (b : Nat), f ∈ [fF32, fF16, fBF16, fE4M3, fE5M2, fE2M1] → b < 2 ^ f.width →
    (f.decode b).finite = true → f.encode mode sat (f.decode b) = (b, 0)
end

