-- ==== Sys2Proof/Laws/State.lean ====
section
/-! SUPPORT. What each update of the state leaves alone and what it sets, field by field: true by rfl, for simp. -/

namespace Sys2Proof.Machine

/-! ### updThread -/

@[simp] theorem State.updThread_clock (s : State) (k : Nat) (f : Thread → Thread) : (s.updThread k f).clock = s.clock := rfl
@[simp] theorem State.updThread_moves (s : State) (k : Nat) (f : Thread → Thread) : (s.updThread k f).moves = s.moves := rfl
@[simp] theorem State.updThread_schedule (s : State) (k : Nat) (f : Thread → Thread) : (s.updThread k f).schedule = s.schedule := rfl
@[simp] theorem State.updThread_cur (s : State) (k : Nat) (f : Thread → Thread) : (s.updThread k f).cur = s.cur := rfl
@[simp] theorem State.updThread_viaL1 (s : State) (k : Nat) (f : Thread → Thread) : (s.updThread k f).viaL1 = s.viaL1 := rfl
@[simp] theorem State.updThread_mem (s : State) (k : Nat) (f : Thread → Thread) : (s.updThread k f).mem = s.mem := rfl
@[simp] theorem State.updThread_threads (s : State) (k : Nat) (f : Thread → Thread) : (s.updThread k f).threads = updateAt s.threads k f := rfl
@[simp] theorem State.updThread_troupes (s : State) (k : Nat) (f : Thread → Thread) : (s.updThread k f).troupes = s.troupes := rfl
@[simp] theorem State.updThread_ensembles (s : State) (k : Nat) (f : Thread → Thread) : (s.updThread k f).ensembles = s.ensembles := rfl
@[simp] theorem State.updThread_launches (s : State) (k : Nat) (f : Thread → Thread) : (s.updThread k f).launches = s.launches := rfl
@[simp] theorem State.updThread_queues (s : State) (k : Nat) (f : Thread → Thread) : (s.updThread k f).queues = s.queues := rfl
@[simp] theorem State.updThread_contexts (s : State) (k : Nat) (f : Thread → Thread) : (s.updThread k f).contexts = s.contexts := rfl
@[simp] theorem State.updThread_cores (s : State) (k : Nat) (f : Thread → Thread) : (s.updThread k f).cores = s.cores := rfl
@[simp] theorem State.updThread_cads (s : State) (k : Nat) (f : Thread → Thread) : (s.updThread k f).cads = s.cads := rfl
@[simp] theorem State.updThread_ptrs (s : State) (k : Nat) (f : Thread → Thread) : (s.updThread k f).ptrs = s.ptrs := rfl
@[simp] theorem State.updThread_stamp (s : State) (k : Nat) (f : Thread → Thread) : (s.updThread k f).stamp = s.stamp := rfl
@[simp] theorem State.updThread_badSectors (s : State) (k : Nat) (f : Thread → Thread) : (s.updThread k f).badSectors = s.badSectors := rfl
@[simp] theorem State.updThread_copies (s : State) (k : Nat) (f : Thread → Thread) : (s.updThread k f).copies = s.copies := rfl
@[simp] theorem State.updThread_rigger (s : State) (k : Nat) (f : Thread → Thread) : (s.updThread k f).rigger = s.rigger := rfl
@[simp] theorem State.updThread_structs (s : State) (k : Nat) (f : Thread → Thread) : (s.updThread k f).structs = s.structs := rfl
@[simp] theorem State.updThread_passes (s : State) (k : Nat) (f : Thread → Thread) : (s.updThread k f).passes = s.passes := rfl
@[simp] theorem State.updThread_tlb (s : State) (k : Nat) (f : Thread → Thread) : (s.updThread k f).tlb = s.tlb := rfl
@[simp] theorem State.updThread_xlreqs (s : State) (k : Nat) (f : Thread → Thread) : (s.updThread k f).xlreqs = s.xlreqs := rfl
@[simp] theorem State.updThread_pgreqs (s : State) (k : Nat) (f : Thread → Thread) : (s.updThread k f).pgreqs = s.pgreqs := rfl
@[simp] theorem State.updThread_xlwaits (s : State) (k : Nat) (f : Thread → Thread) : (s.updThread k f).xlwaits = s.xlwaits := rfl
@[simp] theorem State.updThread_xlinvs (s : State) (k : Nat) (f : Thread → Thread) : (s.updThread k f).xlinvs = s.xlinvs := rfl
@[simp] theorem State.updThread_link (s : State) (k : Nat) (f : Thread → Thread) : (s.updThread k f).link = s.link := rfl
@[simp] theorem State.updThread_gaffer (s : State) (k : Nat) (f : Thread → Thread) : (s.updThread k f).gaffer = s.gaffer := rfl
@[simp] theorem State.updThread_fclock (s : State) (k : Nat) (f : Thread → Thread) : (s.updThread k f).fclock = s.fclock := rfl

/-! ### setThread -/

@[simp] theorem State.setThread_clock (s : State) (k : Nat) (t : Thread) : (s.setThread k t).clock = s.clock := rfl
@[simp] theorem State.setThread_moves (s : State) (k : Nat) (t : Thread) : (s.setThread k t).moves = s.moves := rfl
@[simp] theorem State.setThread_schedule (s : State) (k : Nat) (t : Thread) : (s.setThread k t).schedule = s.schedule := rfl
@[simp] theorem State.setThread_cur (s : State) (k : Nat) (t : Thread) : (s.setThread k t).cur = s.cur := rfl
@[simp] theorem State.setThread_viaL1 (s : State) (k : Nat) (t : Thread) : (s.setThread k t).viaL1 = s.viaL1 := rfl
@[simp] theorem State.setThread_mem (s : State) (k : Nat) (t : Thread) : (s.setThread k t).mem = s.mem := rfl
@[simp] theorem State.setThread_threads (s : State) (k : Nat) (t : Thread) : (s.setThread k t).threads = updateAt s.threads k (fun _ => t) := rfl
@[simp] theorem State.setThread_troupes (s : State) (k : Nat) (t : Thread) : (s.setThread k t).troupes = s.troupes := rfl
@[simp] theorem State.setThread_ensembles (s : State) (k : Nat) (t : Thread) : (s.setThread k t).ensembles = s.ensembles := rfl
@[simp] theorem State.setThread_launches (s : State) (k : Nat) (t : Thread) : (s.setThread k t).launches = s.launches := rfl
@[simp] theorem State.setThread_queues (s : State) (k : Nat) (t : Thread) : (s.setThread k t).queues = s.queues := rfl
@[simp] theorem State.setThread_contexts (s : State) (k : Nat) (t : Thread) : (s.setThread k t).contexts = s.contexts := rfl
@[simp] theorem State.setThread_cores (s : State) (k : Nat) (t : Thread) : (s.setThread k t).cores = s.cores := rfl
@[simp] theorem State.setThread_cads (s : State) (k : Nat) (t : Thread) : (s.setThread k t).cads = s.cads := rfl
@[simp] theorem State.setThread_ptrs (s : State) (k : Nat) (t : Thread) : (s.setThread k t).ptrs = s.ptrs := rfl
@[simp] theorem State.setThread_stamp (s : State) (k : Nat) (t : Thread) : (s.setThread k t).stamp = s.stamp := rfl
@[simp] theorem State.setThread_badSectors (s : State) (k : Nat) (t : Thread) : (s.setThread k t).badSectors = s.badSectors := rfl
@[simp] theorem State.setThread_copies (s : State) (k : Nat) (t : Thread) : (s.setThread k t).copies = s.copies := rfl
@[simp] theorem State.setThread_rigger (s : State) (k : Nat) (t : Thread) : (s.setThread k t).rigger = s.rigger := rfl
@[simp] theorem State.setThread_structs (s : State) (k : Nat) (t : Thread) : (s.setThread k t).structs = s.structs := rfl
@[simp] theorem State.setThread_passes (s : State) (k : Nat) (t : Thread) : (s.setThread k t).passes = s.passes := rfl
@[simp] theorem State.setThread_tlb (s : State) (k : Nat) (t : Thread) : (s.setThread k t).tlb = s.tlb := rfl
@[simp] theorem State.setThread_xlreqs (s : State) (k : Nat) (t : Thread) : (s.setThread k t).xlreqs = s.xlreqs := rfl
@[simp] theorem State.setThread_pgreqs (s : State) (k : Nat) (t : Thread) : (s.setThread k t).pgreqs = s.pgreqs := rfl
@[simp] theorem State.setThread_xlwaits (s : State) (k : Nat) (t : Thread) : (s.setThread k t).xlwaits = s.xlwaits := rfl
@[simp] theorem State.setThread_xlinvs (s : State) (k : Nat) (t : Thread) : (s.setThread k t).xlinvs = s.xlinvs := rfl
@[simp] theorem State.setThread_link (s : State) (k : Nat) (t : Thread) : (s.setThread k t).link = s.link := rfl
@[simp] theorem State.setThread_gaffer (s : State) (k : Nat) (t : Thread) : (s.setThread k t).gaffer = s.gaffer := rfl
@[simp] theorem State.setThread_fclock (s : State) (k : Nat) (t : Thread) : (s.setThread k t).fclock = s.fclock := rfl

/-! ### updTroupe -/

@[simp] theorem State.updTroupe_clock (s : State) (k : Nat) (f : Troupe → Troupe) : (s.updTroupe k f).clock = s.clock := rfl
@[simp] theorem State.updTroupe_moves (s : State) (k : Nat) (f : Troupe → Troupe) : (s.updTroupe k f).moves = s.moves := rfl
@[simp] theorem State.updTroupe_schedule (s : State) (k : Nat) (f : Troupe → Troupe) : (s.updTroupe k f).schedule = s.schedule := rfl
@[simp] theorem State.updTroupe_cur (s : State) (k : Nat) (f : Troupe → Troupe) : (s.updTroupe k f).cur = s.cur := rfl
@[simp] theorem State.updTroupe_viaL1 (s : State) (k : Nat) (f : Troupe → Troupe) : (s.updTroupe k f).viaL1 = s.viaL1 := rfl
@[simp] theorem State.updTroupe_mem (s : State) (k : Nat) (f : Troupe → Troupe) : (s.updTroupe k f).mem = s.mem := rfl
@[simp] theorem State.updTroupe_threads (s : State) (k : Nat) (f : Troupe → Troupe) : (s.updTroupe k f).threads = s.threads := rfl
@[simp] theorem State.updTroupe_troupes (s : State) (k : Nat) (f : Troupe → Troupe) : (s.updTroupe k f).troupes = updateAt s.troupes k f := rfl
@[simp] theorem State.updTroupe_ensembles (s : State) (k : Nat) (f : Troupe → Troupe) : (s.updTroupe k f).ensembles = s.ensembles := rfl
@[simp] theorem State.updTroupe_launches (s : State) (k : Nat) (f : Troupe → Troupe) : (s.updTroupe k f).launches = s.launches := rfl
@[simp] theorem State.updTroupe_queues (s : State) (k : Nat) (f : Troupe → Troupe) : (s.updTroupe k f).queues = s.queues := rfl
@[simp] theorem State.updTroupe_contexts (s : State) (k : Nat) (f : Troupe → Troupe) : (s.updTroupe k f).contexts = s.contexts := rfl
@[simp] theorem State.updTroupe_cores (s : State) (k : Nat) (f : Troupe → Troupe) : (s.updTroupe k f).cores = s.cores := rfl
@[simp] theorem State.updTroupe_cads (s : State) (k : Nat) (f : Troupe → Troupe) : (s.updTroupe k f).cads = s.cads := rfl
@[simp] theorem State.updTroupe_ptrs (s : State) (k : Nat) (f : Troupe → Troupe) : (s.updTroupe k f).ptrs = s.ptrs := rfl
@[simp] theorem State.updTroupe_stamp (s : State) (k : Nat) (f : Troupe → Troupe) : (s.updTroupe k f).stamp = s.stamp := rfl
@[simp] theorem State.updTroupe_badSectors (s : State) (k : Nat) (f : Troupe → Troupe) : (s.updTroupe k f).badSectors = s.badSectors := rfl
@[simp] theorem State.updTroupe_copies (s : State) (k : Nat) (f : Troupe → Troupe) : (s.updTroupe k f).copies = s.copies := rfl
@[simp] theorem State.updTroupe_rigger (s : State) (k : Nat) (f : Troupe → Troupe) : (s.updTroupe k f).rigger = s.rigger := rfl
@[simp] theorem State.updTroupe_structs (s : State) (k : Nat) (f : Troupe → Troupe) : (s.updTroupe k f).structs = s.structs := rfl
@[simp] theorem State.updTroupe_passes (s : State) (k : Nat) (f : Troupe → Troupe) : (s.updTroupe k f).passes = s.passes := rfl
@[simp] theorem State.updTroupe_tlb (s : State) (k : Nat) (f : Troupe → Troupe) : (s.updTroupe k f).tlb = s.tlb := rfl
@[simp] theorem State.updTroupe_xlreqs (s : State) (k : Nat) (f : Troupe → Troupe) : (s.updTroupe k f).xlreqs = s.xlreqs := rfl
@[simp] theorem State.updTroupe_pgreqs (s : State) (k : Nat) (f : Troupe → Troupe) : (s.updTroupe k f).pgreqs = s.pgreqs := rfl
@[simp] theorem State.updTroupe_xlwaits (s : State) (k : Nat) (f : Troupe → Troupe) : (s.updTroupe k f).xlwaits = s.xlwaits := rfl
@[simp] theorem State.updTroupe_xlinvs (s : State) (k : Nat) (f : Troupe → Troupe) : (s.updTroupe k f).xlinvs = s.xlinvs := rfl
@[simp] theorem State.updTroupe_link (s : State) (k : Nat) (f : Troupe → Troupe) : (s.updTroupe k f).link = s.link := rfl
@[simp] theorem State.updTroupe_gaffer (s : State) (k : Nat) (f : Troupe → Troupe) : (s.updTroupe k f).gaffer = s.gaffer := rfl
@[simp] theorem State.updTroupe_fclock (s : State) (k : Nat) (f : Troupe → Troupe) : (s.updTroupe k f).fclock = s.fclock := rfl

/-! ### updEns -/

@[simp] theorem State.updEns_clock (s : State) (k : Nat) (f : Ensemble → Ensemble) : (s.updEns k f).clock = s.clock := rfl
@[simp] theorem State.updEns_moves (s : State) (k : Nat) (f : Ensemble → Ensemble) : (s.updEns k f).moves = s.moves := rfl
@[simp] theorem State.updEns_schedule (s : State) (k : Nat) (f : Ensemble → Ensemble) : (s.updEns k f).schedule = s.schedule := rfl
@[simp] theorem State.updEns_cur (s : State) (k : Nat) (f : Ensemble → Ensemble) : (s.updEns k f).cur = s.cur := rfl
@[simp] theorem State.updEns_viaL1 (s : State) (k : Nat) (f : Ensemble → Ensemble) : (s.updEns k f).viaL1 = s.viaL1 := rfl
@[simp] theorem State.updEns_mem (s : State) (k : Nat) (f : Ensemble → Ensemble) : (s.updEns k f).mem = s.mem := rfl
@[simp] theorem State.updEns_threads (s : State) (k : Nat) (f : Ensemble → Ensemble) : (s.updEns k f).threads = s.threads := rfl
@[simp] theorem State.updEns_troupes (s : State) (k : Nat) (f : Ensemble → Ensemble) : (s.updEns k f).troupes = s.troupes := rfl
@[simp] theorem State.updEns_ensembles (s : State) (k : Nat) (f : Ensemble → Ensemble) : (s.updEns k f).ensembles = updateAt s.ensembles k f := rfl
@[simp] theorem State.updEns_launches (s : State) (k : Nat) (f : Ensemble → Ensemble) : (s.updEns k f).launches = s.launches := rfl
@[simp] theorem State.updEns_queues (s : State) (k : Nat) (f : Ensemble → Ensemble) : (s.updEns k f).queues = s.queues := rfl
@[simp] theorem State.updEns_contexts (s : State) (k : Nat) (f : Ensemble → Ensemble) : (s.updEns k f).contexts = s.contexts := rfl
@[simp] theorem State.updEns_cores (s : State) (k : Nat) (f : Ensemble → Ensemble) : (s.updEns k f).cores = s.cores := rfl
@[simp] theorem State.updEns_cads (s : State) (k : Nat) (f : Ensemble → Ensemble) : (s.updEns k f).cads = s.cads := rfl
@[simp] theorem State.updEns_ptrs (s : State) (k : Nat) (f : Ensemble → Ensemble) : (s.updEns k f).ptrs = s.ptrs := rfl
@[simp] theorem State.updEns_stamp (s : State) (k : Nat) (f : Ensemble → Ensemble) : (s.updEns k f).stamp = s.stamp := rfl
@[simp] theorem State.updEns_badSectors (s : State) (k : Nat) (f : Ensemble → Ensemble) : (s.updEns k f).badSectors = s.badSectors := rfl
@[simp] theorem State.updEns_copies (s : State) (k : Nat) (f : Ensemble → Ensemble) : (s.updEns k f).copies = s.copies := rfl
@[simp] theorem State.updEns_rigger (s : State) (k : Nat) (f : Ensemble → Ensemble) : (s.updEns k f).rigger = s.rigger := rfl
@[simp] theorem State.updEns_structs (s : State) (k : Nat) (f : Ensemble → Ensemble) : (s.updEns k f).structs = s.structs := rfl
@[simp] theorem State.updEns_passes (s : State) (k : Nat) (f : Ensemble → Ensemble) : (s.updEns k f).passes = s.passes := rfl
@[simp] theorem State.updEns_tlb (s : State) (k : Nat) (f : Ensemble → Ensemble) : (s.updEns k f).tlb = s.tlb := rfl
@[simp] theorem State.updEns_xlreqs (s : State) (k : Nat) (f : Ensemble → Ensemble) : (s.updEns k f).xlreqs = s.xlreqs := rfl
@[simp] theorem State.updEns_pgreqs (s : State) (k : Nat) (f : Ensemble → Ensemble) : (s.updEns k f).pgreqs = s.pgreqs := rfl
@[simp] theorem State.updEns_xlwaits (s : State) (k : Nat) (f : Ensemble → Ensemble) : (s.updEns k f).xlwaits = s.xlwaits := rfl
@[simp] theorem State.updEns_xlinvs (s : State) (k : Nat) (f : Ensemble → Ensemble) : (s.updEns k f).xlinvs = s.xlinvs := rfl
@[simp] theorem State.updEns_link (s : State) (k : Nat) (f : Ensemble → Ensemble) : (s.updEns k f).link = s.link := rfl
@[simp] theorem State.updEns_gaffer (s : State) (k : Nat) (f : Ensemble → Ensemble) : (s.updEns k f).gaffer = s.gaffer := rfl
@[simp] theorem State.updEns_fclock (s : State) (k : Nat) (f : Ensemble → Ensemble) : (s.updEns k f).fclock = s.fclock := rfl

/-! ### updCtx -/

@[simp] theorem State.updCtx_clock (s : State) (k : Nat) (f : Ctx → Ctx) : (s.updCtx k f).clock = s.clock := rfl
@[simp] theorem State.updCtx_moves (s : State) (k : Nat) (f : Ctx → Ctx) : (s.updCtx k f).moves = s.moves := rfl
@[simp] theorem State.updCtx_schedule (s : State) (k : Nat) (f : Ctx → Ctx) : (s.updCtx k f).schedule = s.schedule := rfl
@[simp] theorem State.updCtx_cur (s : State) (k : Nat) (f : Ctx → Ctx) : (s.updCtx k f).cur = s.cur := rfl
@[simp] theorem State.updCtx_viaL1 (s : State) (k : Nat) (f : Ctx → Ctx) : (s.updCtx k f).viaL1 = s.viaL1 := rfl
@[simp] theorem State.updCtx_mem (s : State) (k : Nat) (f : Ctx → Ctx) : (s.updCtx k f).mem = s.mem := rfl
@[simp] theorem State.updCtx_threads (s : State) (k : Nat) (f : Ctx → Ctx) : (s.updCtx k f).threads = s.threads := rfl
@[simp] theorem State.updCtx_troupes (s : State) (k : Nat) (f : Ctx → Ctx) : (s.updCtx k f).troupes = s.troupes := rfl
@[simp] theorem State.updCtx_ensembles (s : State) (k : Nat) (f : Ctx → Ctx) : (s.updCtx k f).ensembles = s.ensembles := rfl
@[simp] theorem State.updCtx_launches (s : State) (k : Nat) (f : Ctx → Ctx) : (s.updCtx k f).launches = s.launches := rfl
@[simp] theorem State.updCtx_queues (s : State) (k : Nat) (f : Ctx → Ctx) : (s.updCtx k f).queues = s.queues := rfl
@[simp] theorem State.updCtx_contexts (s : State) (k : Nat) (f : Ctx → Ctx) : (s.updCtx k f).contexts = updateAt s.contexts k f := rfl
@[simp] theorem State.updCtx_cores (s : State) (k : Nat) (f : Ctx → Ctx) : (s.updCtx k f).cores = s.cores := rfl
@[simp] theorem State.updCtx_cads (s : State) (k : Nat) (f : Ctx → Ctx) : (s.updCtx k f).cads = s.cads := rfl
@[simp] theorem State.updCtx_ptrs (s : State) (k : Nat) (f : Ctx → Ctx) : (s.updCtx k f).ptrs = s.ptrs := rfl
@[simp] theorem State.updCtx_stamp (s : State) (k : Nat) (f : Ctx → Ctx) : (s.updCtx k f).stamp = s.stamp := rfl
@[simp] theorem State.updCtx_badSectors (s : State) (k : Nat) (f : Ctx → Ctx) : (s.updCtx k f).badSectors = s.badSectors := rfl
@[simp] theorem State.updCtx_copies (s : State) (k : Nat) (f : Ctx → Ctx) : (s.updCtx k f).copies = s.copies := rfl
@[simp] theorem State.updCtx_rigger (s : State) (k : Nat) (f : Ctx → Ctx) : (s.updCtx k f).rigger = s.rigger := rfl
@[simp] theorem State.updCtx_structs (s : State) (k : Nat) (f : Ctx → Ctx) : (s.updCtx k f).structs = s.structs := rfl
@[simp] theorem State.updCtx_passes (s : State) (k : Nat) (f : Ctx → Ctx) : (s.updCtx k f).passes = s.passes := rfl
@[simp] theorem State.updCtx_tlb (s : State) (k : Nat) (f : Ctx → Ctx) : (s.updCtx k f).tlb = s.tlb := rfl
@[simp] theorem State.updCtx_xlreqs (s : State) (k : Nat) (f : Ctx → Ctx) : (s.updCtx k f).xlreqs = s.xlreqs := rfl
@[simp] theorem State.updCtx_pgreqs (s : State) (k : Nat) (f : Ctx → Ctx) : (s.updCtx k f).pgreqs = s.pgreqs := rfl
@[simp] theorem State.updCtx_xlwaits (s : State) (k : Nat) (f : Ctx → Ctx) : (s.updCtx k f).xlwaits = s.xlwaits := rfl
@[simp] theorem State.updCtx_xlinvs (s : State) (k : Nat) (f : Ctx → Ctx) : (s.updCtx k f).xlinvs = s.xlinvs := rfl
@[simp] theorem State.updCtx_link (s : State) (k : Nat) (f : Ctx → Ctx) : (s.updCtx k f).link = s.link := rfl
@[simp] theorem State.updCtx_gaffer (s : State) (k : Nat) (f : Ctx → Ctx) : (s.updCtx k f).gaffer = s.gaffer := rfl
@[simp] theorem State.updCtx_fclock (s : State) (k : Nat) (f : Ctx → Ctx) : (s.updCtx k f).fclock = s.fclock := rfl

/-! ### updLaunch -/

@[simp] theorem State.updLaunch_clock (s : State) (k : Nat) (f : Launch → Launch) : (s.updLaunch k f).clock = s.clock := rfl
@[simp] theorem State.updLaunch_moves (s : State) (k : Nat) (f : Launch → Launch) : (s.updLaunch k f).moves = s.moves := rfl
@[simp] theorem State.updLaunch_schedule (s : State) (k : Nat) (f : Launch → Launch) : (s.updLaunch k f).schedule = s.schedule := rfl
@[simp] theorem State.updLaunch_cur (s : State) (k : Nat) (f : Launch → Launch) : (s.updLaunch k f).cur = s.cur := rfl
@[simp] theorem State.updLaunch_viaL1 (s : State) (k : Nat) (f : Launch → Launch) : (s.updLaunch k f).viaL1 = s.viaL1 := rfl
@[simp] theorem State.updLaunch_mem (s : State) (k : Nat) (f : Launch → Launch) : (s.updLaunch k f).mem = s.mem := rfl
@[simp] theorem State.updLaunch_threads (s : State) (k : Nat) (f : Launch → Launch) : (s.updLaunch k f).threads = s.threads := rfl
@[simp] theorem State.updLaunch_troupes (s : State) (k : Nat) (f : Launch → Launch) : (s.updLaunch k f).troupes = s.troupes := rfl
@[simp] theorem State.updLaunch_ensembles (s : State) (k : Nat) (f : Launch → Launch) : (s.updLaunch k f).ensembles = s.ensembles := rfl
@[simp] theorem State.updLaunch_launches (s : State) (k : Nat) (f : Launch → Launch) : (s.updLaunch k f).launches = updateAt s.launches k f := rfl
@[simp] theorem State.updLaunch_queues (s : State) (k : Nat) (f : Launch → Launch) : (s.updLaunch k f).queues = s.queues := rfl
@[simp] theorem State.updLaunch_contexts (s : State) (k : Nat) (f : Launch → Launch) : (s.updLaunch k f).contexts = s.contexts := rfl
@[simp] theorem State.updLaunch_cores (s : State) (k : Nat) (f : Launch → Launch) : (s.updLaunch k f).cores = s.cores := rfl
@[simp] theorem State.updLaunch_cads (s : State) (k : Nat) (f : Launch → Launch) : (s.updLaunch k f).cads = s.cads := rfl
@[simp] theorem State.updLaunch_ptrs (s : State) (k : Nat) (f : Launch → Launch) : (s.updLaunch k f).ptrs = s.ptrs := rfl
@[simp] theorem State.updLaunch_stamp (s : State) (k : Nat) (f : Launch → Launch) : (s.updLaunch k f).stamp = s.stamp := rfl
@[simp] theorem State.updLaunch_badSectors (s : State) (k : Nat) (f : Launch → Launch) : (s.updLaunch k f).badSectors = s.badSectors := rfl
@[simp] theorem State.updLaunch_copies (s : State) (k : Nat) (f : Launch → Launch) : (s.updLaunch k f).copies = s.copies := rfl
@[simp] theorem State.updLaunch_rigger (s : State) (k : Nat) (f : Launch → Launch) : (s.updLaunch k f).rigger = s.rigger := rfl
@[simp] theorem State.updLaunch_structs (s : State) (k : Nat) (f : Launch → Launch) : (s.updLaunch k f).structs = s.structs := rfl
@[simp] theorem State.updLaunch_passes (s : State) (k : Nat) (f : Launch → Launch) : (s.updLaunch k f).passes = s.passes := rfl
@[simp] theorem State.updLaunch_tlb (s : State) (k : Nat) (f : Launch → Launch) : (s.updLaunch k f).tlb = s.tlb := rfl
@[simp] theorem State.updLaunch_xlreqs (s : State) (k : Nat) (f : Launch → Launch) : (s.updLaunch k f).xlreqs = s.xlreqs := rfl
@[simp] theorem State.updLaunch_pgreqs (s : State) (k : Nat) (f : Launch → Launch) : (s.updLaunch k f).pgreqs = s.pgreqs := rfl
@[simp] theorem State.updLaunch_xlwaits (s : State) (k : Nat) (f : Launch → Launch) : (s.updLaunch k f).xlwaits = s.xlwaits := rfl
@[simp] theorem State.updLaunch_xlinvs (s : State) (k : Nat) (f : Launch → Launch) : (s.updLaunch k f).xlinvs = s.xlinvs := rfl
@[simp] theorem State.updLaunch_link (s : State) (k : Nat) (f : Launch → Launch) : (s.updLaunch k f).link = s.link := rfl
@[simp] theorem State.updLaunch_gaffer (s : State) (k : Nat) (f : Launch → Launch) : (s.updLaunch k f).gaffer = s.gaffer := rfl
@[simp] theorem State.updLaunch_fclock (s : State) (k : Nat) (f : Launch → Launch) : (s.updLaunch k f).fclock = s.fclock := rfl

/-! ### updQueue -/

@[simp] theorem State.updQueue_clock (s : State) (k : Nat) (f : UQueue → UQueue) : (s.updQueue k f).clock = s.clock := rfl
@[simp] theorem State.updQueue_moves (s : State) (k : Nat) (f : UQueue → UQueue) : (s.updQueue k f).moves = s.moves := rfl
@[simp] theorem State.updQueue_schedule (s : State) (k : Nat) (f : UQueue → UQueue) : (s.updQueue k f).schedule = s.schedule := rfl
@[simp] theorem State.updQueue_cur (s : State) (k : Nat) (f : UQueue → UQueue) : (s.updQueue k f).cur = s.cur := rfl
@[simp] theorem State.updQueue_viaL1 (s : State) (k : Nat) (f : UQueue → UQueue) : (s.updQueue k f).viaL1 = s.viaL1 := rfl
@[simp] theorem State.updQueue_mem (s : State) (k : Nat) (f : UQueue → UQueue) : (s.updQueue k f).mem = s.mem := rfl
@[simp] theorem State.updQueue_threads (s : State) (k : Nat) (f : UQueue → UQueue) : (s.updQueue k f).threads = s.threads := rfl
@[simp] theorem State.updQueue_troupes (s : State) (k : Nat) (f : UQueue → UQueue) : (s.updQueue k f).troupes = s.troupes := rfl
@[simp] theorem State.updQueue_ensembles (s : State) (k : Nat) (f : UQueue → UQueue) : (s.updQueue k f).ensembles = s.ensembles := rfl
@[simp] theorem State.updQueue_launches (s : State) (k : Nat) (f : UQueue → UQueue) : (s.updQueue k f).launches = s.launches := rfl
@[simp] theorem State.updQueue_queues (s : State) (k : Nat) (f : UQueue → UQueue) : (s.updQueue k f).queues = updateAt s.queues k f := rfl
@[simp] theorem State.updQueue_contexts (s : State) (k : Nat) (f : UQueue → UQueue) : (s.updQueue k f).contexts = s.contexts := rfl
@[simp] theorem State.updQueue_cores (s : State) (k : Nat) (f : UQueue → UQueue) : (s.updQueue k f).cores = s.cores := rfl
@[simp] theorem State.updQueue_cads (s : State) (k : Nat) (f : UQueue → UQueue) : (s.updQueue k f).cads = s.cads := rfl
@[simp] theorem State.updQueue_ptrs (s : State) (k : Nat) (f : UQueue → UQueue) : (s.updQueue k f).ptrs = s.ptrs := rfl
@[simp] theorem State.updQueue_stamp (s : State) (k : Nat) (f : UQueue → UQueue) : (s.updQueue k f).stamp = s.stamp := rfl
@[simp] theorem State.updQueue_badSectors (s : State) (k : Nat) (f : UQueue → UQueue) : (s.updQueue k f).badSectors = s.badSectors := rfl
@[simp] theorem State.updQueue_copies (s : State) (k : Nat) (f : UQueue → UQueue) : (s.updQueue k f).copies = s.copies := rfl
@[simp] theorem State.updQueue_rigger (s : State) (k : Nat) (f : UQueue → UQueue) : (s.updQueue k f).rigger = s.rigger := rfl
@[simp] theorem State.updQueue_structs (s : State) (k : Nat) (f : UQueue → UQueue) : (s.updQueue k f).structs = s.structs := rfl
@[simp] theorem State.updQueue_passes (s : State) (k : Nat) (f : UQueue → UQueue) : (s.updQueue k f).passes = s.passes := rfl
@[simp] theorem State.updQueue_tlb (s : State) (k : Nat) (f : UQueue → UQueue) : (s.updQueue k f).tlb = s.tlb := rfl
@[simp] theorem State.updQueue_xlreqs (s : State) (k : Nat) (f : UQueue → UQueue) : (s.updQueue k f).xlreqs = s.xlreqs := rfl
@[simp] theorem State.updQueue_pgreqs (s : State) (k : Nat) (f : UQueue → UQueue) : (s.updQueue k f).pgreqs = s.pgreqs := rfl
@[simp] theorem State.updQueue_xlwaits (s : State) (k : Nat) (f : UQueue → UQueue) : (s.updQueue k f).xlwaits = s.xlwaits := rfl
@[simp] theorem State.updQueue_xlinvs (s : State) (k : Nat) (f : UQueue → UQueue) : (s.updQueue k f).xlinvs = s.xlinvs := rfl
@[simp] theorem State.updQueue_link (s : State) (k : Nat) (f : UQueue → UQueue) : (s.updQueue k f).link = s.link := rfl
@[simp] theorem State.updQueue_gaffer (s : State) (k : Nat) (f : UQueue → UQueue) : (s.updQueue k f).gaffer = s.gaffer := rfl
@[simp] theorem State.updQueue_fclock (s : State) (k : Nat) (f : UQueue → UQueue) : (s.updQueue k f).fclock = s.fclock := rfl

/-! ### updCore -/

@[simp] theorem State.updCore_clock (s : State) (k : Nat) (f : Core → Core) : (s.updCore k f).clock = s.clock := rfl
@[simp] theorem State.updCore_moves (s : State) (k : Nat) (f : Core → Core) : (s.updCore k f).moves = s.moves := rfl
@[simp] theorem State.updCore_schedule (s : State) (k : Nat) (f : Core → Core) : (s.updCore k f).schedule = s.schedule := rfl
@[simp] theorem State.updCore_cur (s : State) (k : Nat) (f : Core → Core) : (s.updCore k f).cur = s.cur := rfl
@[simp] theorem State.updCore_viaL1 (s : State) (k : Nat) (f : Core → Core) : (s.updCore k f).viaL1 = s.viaL1 := rfl
@[simp] theorem State.updCore_mem (s : State) (k : Nat) (f : Core → Core) : (s.updCore k f).mem = s.mem := rfl
@[simp] theorem State.updCore_threads (s : State) (k : Nat) (f : Core → Core) : (s.updCore k f).threads = s.threads := rfl
@[simp] theorem State.updCore_troupes (s : State) (k : Nat) (f : Core → Core) : (s.updCore k f).troupes = s.troupes := rfl
@[simp] theorem State.updCore_ensembles (s : State) (k : Nat) (f : Core → Core) : (s.updCore k f).ensembles = s.ensembles := rfl
@[simp] theorem State.updCore_launches (s : State) (k : Nat) (f : Core → Core) : (s.updCore k f).launches = s.launches := rfl
@[simp] theorem State.updCore_queues (s : State) (k : Nat) (f : Core → Core) : (s.updCore k f).queues = s.queues := rfl
@[simp] theorem State.updCore_contexts (s : State) (k : Nat) (f : Core → Core) : (s.updCore k f).contexts = s.contexts := rfl
@[simp] theorem State.updCore_cores (s : State) (k : Nat) (f : Core → Core) : (s.updCore k f).cores = updateAt s.cores k f := rfl
@[simp] theorem State.updCore_cads (s : State) (k : Nat) (f : Core → Core) : (s.updCore k f).cads = s.cads := rfl
@[simp] theorem State.updCore_ptrs (s : State) (k : Nat) (f : Core → Core) : (s.updCore k f).ptrs = s.ptrs := rfl
@[simp] theorem State.updCore_stamp (s : State) (k : Nat) (f : Core → Core) : (s.updCore k f).stamp = s.stamp := rfl
@[simp] theorem State.updCore_badSectors (s : State) (k : Nat) (f : Core → Core) : (s.updCore k f).badSectors = s.badSectors := rfl
@[simp] theorem State.updCore_copies (s : State) (k : Nat) (f : Core → Core) : (s.updCore k f).copies = s.copies := rfl
@[simp] theorem State.updCore_rigger (s : State) (k : Nat) (f : Core → Core) : (s.updCore k f).rigger = s.rigger := rfl
@[simp] theorem State.updCore_structs (s : State) (k : Nat) (f : Core → Core) : (s.updCore k f).structs = s.structs := rfl
@[simp] theorem State.updCore_passes (s : State) (k : Nat) (f : Core → Core) : (s.updCore k f).passes = s.passes := rfl
@[simp] theorem State.updCore_tlb (s : State) (k : Nat) (f : Core → Core) : (s.updCore k f).tlb = s.tlb := rfl
@[simp] theorem State.updCore_xlreqs (s : State) (k : Nat) (f : Core → Core) : (s.updCore k f).xlreqs = s.xlreqs := rfl
@[simp] theorem State.updCore_pgreqs (s : State) (k : Nat) (f : Core → Core) : (s.updCore k f).pgreqs = s.pgreqs := rfl
@[simp] theorem State.updCore_xlwaits (s : State) (k : Nat) (f : Core → Core) : (s.updCore k f).xlwaits = s.xlwaits := rfl
@[simp] theorem State.updCore_xlinvs (s : State) (k : Nat) (f : Core → Core) : (s.updCore k f).xlinvs = s.xlinvs := rfl
@[simp] theorem State.updCore_link (s : State) (k : Nat) (f : Core → Core) : (s.updCore k f).link = s.link := rfl
@[simp] theorem State.updCore_gaffer (s : State) (k : Nat) (f : Core → Core) : (s.updCore k f).gaffer = s.gaffer := rfl
@[simp] theorem State.updCore_fclock (s : State) (k : Nat) (f : Core → Core) : (s.updCore k f).fclock = s.fclock := rfl

/-! ### updCopy -/

@[simp] theorem State.updCopy_clock (s : State) (k : Nat) (f : Copy → Copy) : (s.updCopy k f).clock = s.clock := rfl
@[simp] theorem State.updCopy_moves (s : State) (k : Nat) (f : Copy → Copy) : (s.updCopy k f).moves = s.moves := rfl
@[simp] theorem State.updCopy_schedule (s : State) (k : Nat) (f : Copy → Copy) : (s.updCopy k f).schedule = s.schedule := rfl
@[simp] theorem State.updCopy_cur (s : State) (k : Nat) (f : Copy → Copy) : (s.updCopy k f).cur = s.cur := rfl
@[simp] theorem State.updCopy_viaL1 (s : State) (k : Nat) (f : Copy → Copy) : (s.updCopy k f).viaL1 = s.viaL1 := rfl
@[simp] theorem State.updCopy_mem (s : State) (k : Nat) (f : Copy → Copy) : (s.updCopy k f).mem = s.mem := rfl
@[simp] theorem State.updCopy_threads (s : State) (k : Nat) (f : Copy → Copy) : (s.updCopy k f).threads = s.threads := rfl
@[simp] theorem State.updCopy_troupes (s : State) (k : Nat) (f : Copy → Copy) : (s.updCopy k f).troupes = s.troupes := rfl
@[simp] theorem State.updCopy_ensembles (s : State) (k : Nat) (f : Copy → Copy) : (s.updCopy k f).ensembles = s.ensembles := rfl
@[simp] theorem State.updCopy_launches (s : State) (k : Nat) (f : Copy → Copy) : (s.updCopy k f).launches = s.launches := rfl
@[simp] theorem State.updCopy_queues (s : State) (k : Nat) (f : Copy → Copy) : (s.updCopy k f).queues = s.queues := rfl
@[simp] theorem State.updCopy_contexts (s : State) (k : Nat) (f : Copy → Copy) : (s.updCopy k f).contexts = s.contexts := rfl
@[simp] theorem State.updCopy_cores (s : State) (k : Nat) (f : Copy → Copy) : (s.updCopy k f).cores = s.cores := rfl
@[simp] theorem State.updCopy_cads (s : State) (k : Nat) (f : Copy → Copy) : (s.updCopy k f).cads = s.cads := rfl
@[simp] theorem State.updCopy_ptrs (s : State) (k : Nat) (f : Copy → Copy) : (s.updCopy k f).ptrs = s.ptrs := rfl
@[simp] theorem State.updCopy_stamp (s : State) (k : Nat) (f : Copy → Copy) : (s.updCopy k f).stamp = s.stamp := rfl
@[simp] theorem State.updCopy_badSectors (s : State) (k : Nat) (f : Copy → Copy) : (s.updCopy k f).badSectors = s.badSectors := rfl
@[simp] theorem State.updCopy_copies (s : State) (k : Nat) (f : Copy → Copy) : (s.updCopy k f).copies = updateAt s.copies k f := rfl
@[simp] theorem State.updCopy_rigger (s : State) (k : Nat) (f : Copy → Copy) : (s.updCopy k f).rigger = s.rigger := rfl
@[simp] theorem State.updCopy_structs (s : State) (k : Nat) (f : Copy → Copy) : (s.updCopy k f).structs = s.structs := rfl
@[simp] theorem State.updCopy_passes (s : State) (k : Nat) (f : Copy → Copy) : (s.updCopy k f).passes = s.passes := rfl
@[simp] theorem State.updCopy_tlb (s : State) (k : Nat) (f : Copy → Copy) : (s.updCopy k f).tlb = s.tlb := rfl
@[simp] theorem State.updCopy_xlreqs (s : State) (k : Nat) (f : Copy → Copy) : (s.updCopy k f).xlreqs = s.xlreqs := rfl
@[simp] theorem State.updCopy_pgreqs (s : State) (k : Nat) (f : Copy → Copy) : (s.updCopy k f).pgreqs = s.pgreqs := rfl
@[simp] theorem State.updCopy_xlwaits (s : State) (k : Nat) (f : Copy → Copy) : (s.updCopy k f).xlwaits = s.xlwaits := rfl
@[simp] theorem State.updCopy_xlinvs (s : State) (k : Nat) (f : Copy → Copy) : (s.updCopy k f).xlinvs = s.xlinvs := rfl
@[simp] theorem State.updCopy_link (s : State) (k : Nat) (f : Copy → Copy) : (s.updCopy k f).link = s.link := rfl
@[simp] theorem State.updCopy_gaffer (s : State) (k : Nat) (f : Copy → Copy) : (s.updCopy k f).gaffer = s.gaffer := rfl
@[simp] theorem State.updCopy_fclock (s : State) (k : Nat) (f : Copy → Copy) : (s.updCopy k f).fclock = s.fclock := rfl

/-! ### updPass -/

@[simp] theorem State.updPass_clock (s : State) (k : Nat) (f : Pass → Pass) : (s.updPass k f).clock = s.clock := rfl
@[simp] theorem State.updPass_moves (s : State) (k : Nat) (f : Pass → Pass) : (s.updPass k f).moves = s.moves := rfl
@[simp] theorem State.updPass_schedule (s : State) (k : Nat) (f : Pass → Pass) : (s.updPass k f).schedule = s.schedule := rfl
@[simp] theorem State.updPass_cur (s : State) (k : Nat) (f : Pass → Pass) : (s.updPass k f).cur = s.cur := rfl
@[simp] theorem State.updPass_viaL1 (s : State) (k : Nat) (f : Pass → Pass) : (s.updPass k f).viaL1 = s.viaL1 := rfl
@[simp] theorem State.updPass_mem (s : State) (k : Nat) (f : Pass → Pass) : (s.updPass k f).mem = s.mem := rfl
@[simp] theorem State.updPass_threads (s : State) (k : Nat) (f : Pass → Pass) : (s.updPass k f).threads = s.threads := rfl
@[simp] theorem State.updPass_troupes (s : State) (k : Nat) (f : Pass → Pass) : (s.updPass k f).troupes = s.troupes := rfl
@[simp] theorem State.updPass_ensembles (s : State) (k : Nat) (f : Pass → Pass) : (s.updPass k f).ensembles = s.ensembles := rfl
@[simp] theorem State.updPass_launches (s : State) (k : Nat) (f : Pass → Pass) : (s.updPass k f).launches = s.launches := rfl
@[simp] theorem State.updPass_queues (s : State) (k : Nat) (f : Pass → Pass) : (s.updPass k f).queues = s.queues := rfl
@[simp] theorem State.updPass_contexts (s : State) (k : Nat) (f : Pass → Pass) : (s.updPass k f).contexts = s.contexts := rfl
@[simp] theorem State.updPass_cores (s : State) (k : Nat) (f : Pass → Pass) : (s.updPass k f).cores = s.cores := rfl
@[simp] theorem State.updPass_cads (s : State) (k : Nat) (f : Pass → Pass) : (s.updPass k f).cads = s.cads := rfl
@[simp] theorem State.updPass_ptrs (s : State) (k : Nat) (f : Pass → Pass) : (s.updPass k f).ptrs = s.ptrs := rfl
@[simp] theorem State.updPass_stamp (s : State) (k : Nat) (f : Pass → Pass) : (s.updPass k f).stamp = s.stamp := rfl
@[simp] theorem State.updPass_badSectors (s : State) (k : Nat) (f : Pass → Pass) : (s.updPass k f).badSectors = s.badSectors := rfl
@[simp] theorem State.updPass_copies (s : State) (k : Nat) (f : Pass → Pass) : (s.updPass k f).copies = s.copies := rfl
@[simp] theorem State.updPass_rigger (s : State) (k : Nat) (f : Pass → Pass) : (s.updPass k f).rigger = s.rigger := rfl
@[simp] theorem State.updPass_structs (s : State) (k : Nat) (f : Pass → Pass) : (s.updPass k f).structs = s.structs := rfl
@[simp] theorem State.updPass_passes (s : State) (k : Nat) (f : Pass → Pass) : (s.updPass k f).passes = updateAt s.passes k f := rfl
@[simp] theorem State.updPass_tlb (s : State) (k : Nat) (f : Pass → Pass) : (s.updPass k f).tlb = s.tlb := rfl
@[simp] theorem State.updPass_xlreqs (s : State) (k : Nat) (f : Pass → Pass) : (s.updPass k f).xlreqs = s.xlreqs := rfl
@[simp] theorem State.updPass_pgreqs (s : State) (k : Nat) (f : Pass → Pass) : (s.updPass k f).pgreqs = s.pgreqs := rfl
@[simp] theorem State.updPass_xlwaits (s : State) (k : Nat) (f : Pass → Pass) : (s.updPass k f).xlwaits = s.xlwaits := rfl
@[simp] theorem State.updPass_xlinvs (s : State) (k : Nat) (f : Pass → Pass) : (s.updPass k f).xlinvs = s.xlinvs := rfl
@[simp] theorem State.updPass_link (s : State) (k : Nat) (f : Pass → Pass) : (s.updPass k f).link = s.link := rfl
@[simp] theorem State.updPass_gaffer (s : State) (k : Nat) (f : Pass → Pass) : (s.updPass k f).gaffer = s.gaffer := rfl
@[simp] theorem State.updPass_fclock (s : State) (k : Nat) (f : Pass → Pass) : (s.updPass k f).fclock = s.fclock := rfl

/-! ### raiseHalt and the memory of the device -/

@[simp] theorem State.raiseHalt_clock (s : State) (c : Nat) (r : Raiser) : (s.raiseHalt c r).clock = s.clock := rfl
@[simp] theorem State.raiseHalt_moves (s : State) (c : Nat) (r : Raiser) : (s.raiseHalt c r).moves = s.moves := rfl
@[simp] theorem State.raiseHalt_schedule (s : State) (c : Nat) (r : Raiser) : (s.raiseHalt c r).schedule = s.schedule := rfl
@[simp] theorem State.raiseHalt_cur (s : State) (c : Nat) (r : Raiser) : (s.raiseHalt c r).cur = s.cur := rfl
@[simp] theorem State.raiseHalt_viaL1 (s : State) (c : Nat) (r : Raiser) : (s.raiseHalt c r).viaL1 = s.viaL1 := rfl
@[simp] theorem State.raiseHalt_mem (s : State) (c : Nat) (r : Raiser) : (s.raiseHalt c r).mem = s.mem := rfl
@[simp] theorem State.raiseHalt_troupes (s : State) (c : Nat) (r : Raiser) : (s.raiseHalt c r).troupes = s.troupes := rfl
@[simp] theorem State.raiseHalt_ensembles (s : State) (c : Nat) (r : Raiser) : (s.raiseHalt c r).ensembles = s.ensembles := rfl
@[simp] theorem State.raiseHalt_launches (s : State) (c : Nat) (r : Raiser) : (s.raiseHalt c r).launches = s.launches := rfl
@[simp] theorem State.raiseHalt_queues (s : State) (c : Nat) (r : Raiser) : (s.raiseHalt c r).queues = s.queues := rfl
@[simp] theorem State.raiseHalt_cores (s : State) (c : Nat) (r : Raiser) : (s.raiseHalt c r).cores = s.cores := rfl
@[simp] theorem State.raiseHalt_cads (s : State) (c : Nat) (r : Raiser) : (s.raiseHalt c r).cads = s.cads := rfl
@[simp] theorem State.raiseHalt_ptrs (s : State) (c : Nat) (r : Raiser) : (s.raiseHalt c r).ptrs = s.ptrs := rfl
@[simp] theorem State.raiseHalt_stamp (s : State) (c : Nat) (r : Raiser) : (s.raiseHalt c r).stamp = s.stamp := rfl
@[simp] theorem State.raiseHalt_badSectors (s : State) (c : Nat) (r : Raiser) : (s.raiseHalt c r).badSectors = s.badSectors := rfl
@[simp] theorem State.raiseHalt_copies (s : State) (c : Nat) (r : Raiser) : (s.raiseHalt c r).copies = s.copies := rfl
@[simp] theorem State.raiseHalt_rigger (s : State) (c : Nat) (r : Raiser) : (s.raiseHalt c r).rigger = s.rigger := rfl
@[simp] theorem State.raiseHalt_structs (s : State) (c : Nat) (r : Raiser) : (s.raiseHalt c r).structs = s.structs := rfl
@[simp] theorem State.raiseHalt_passes (s : State) (c : Nat) (r : Raiser) : (s.raiseHalt c r).passes = s.passes := rfl
@[simp] theorem State.raiseHalt_tlb (s : State) (c : Nat) (r : Raiser) : (s.raiseHalt c r).tlb = s.tlb := rfl
@[simp] theorem State.raiseHalt_xlreqs (s : State) (c : Nat) (r : Raiser) : (s.raiseHalt c r).xlreqs = s.xlreqs := rfl
@[simp] theorem State.raiseHalt_pgreqs (s : State) (c : Nat) (r : Raiser) : (s.raiseHalt c r).pgreqs = s.pgreqs := rfl
@[simp] theorem State.raiseHalt_xlwaits (s : State) (c : Nat) (r : Raiser) : (s.raiseHalt c r).xlwaits = s.xlwaits := rfl
@[simp] theorem State.raiseHalt_xlinvs (s : State) (c : Nat) (r : Raiser) : (s.raiseHalt c r).xlinvs = s.xlinvs := rfl
@[simp] theorem State.raiseHalt_link (s : State) (c : Nat) (r : Raiser) : (s.raiseHalt c r).link = s.link := rfl
@[simp] theorem State.raiseHalt_gaffer (s : State) (c : Nat) (r : Raiser) : (s.raiseHalt c r).gaffer = s.gaffer := rfl
@[simp] theorem State.raiseHalt_fclock (s : State) (c : Nat) (r : Raiser) : (s.raiseHalt c r).fclock = s.fclock := rfl
@[simp] theorem State.setMemByte_clock (s : State) (a : Nat) (v : Byte) : (s.setMemByte a v).clock = s.clock := rfl
@[simp] theorem State.setMemByte_moves (s : State) (a : Nat) (v : Byte) : (s.setMemByte a v).moves = s.moves := rfl
@[simp] theorem State.setMemByte_schedule (s : State) (a : Nat) (v : Byte) : (s.setMemByte a v).schedule = s.schedule := rfl
@[simp] theorem State.setMemByte_cur (s : State) (a : Nat) (v : Byte) : (s.setMemByte a v).cur = s.cur := rfl
@[simp] theorem State.setMemByte_viaL1 (s : State) (a : Nat) (v : Byte) : (s.setMemByte a v).viaL1 = s.viaL1 := rfl
@[simp] theorem State.setMemByte_mem (s : State) (a : Nat) (v : Byte) : (s.setMemByte a v).mem = cellSet memDefault s.mem a v := rfl
@[simp] theorem State.setMemByte_threads (s : State) (a : Nat) (v : Byte) : (s.setMemByte a v).threads = s.threads := rfl
@[simp] theorem State.setMemByte_troupes (s : State) (a : Nat) (v : Byte) : (s.setMemByte a v).troupes = s.troupes := rfl
@[simp] theorem State.setMemByte_ensembles (s : State) (a : Nat) (v : Byte) : (s.setMemByte a v).ensembles = s.ensembles := rfl
@[simp] theorem State.setMemByte_launches (s : State) (a : Nat) (v : Byte) : (s.setMemByte a v).launches = s.launches := rfl
@[simp] theorem State.setMemByte_queues (s : State) (a : Nat) (v : Byte) : (s.setMemByte a v).queues = s.queues := rfl
@[simp] theorem State.setMemByte_contexts (s : State) (a : Nat) (v : Byte) : (s.setMemByte a v).contexts = s.contexts := rfl
@[simp] theorem State.setMemByte_cores (s : State) (a : Nat) (v : Byte) : (s.setMemByte a v).cores = s.cores := rfl
@[simp] theorem State.setMemByte_cads (s : State) (a : Nat) (v : Byte) : (s.setMemByte a v).cads = s.cads := rfl
@[simp] theorem State.setMemByte_ptrs (s : State) (a : Nat) (v : Byte) : (s.setMemByte a v).ptrs = s.ptrs := rfl
@[simp] theorem State.setMemByte_stamp (s : State) (a : Nat) (v : Byte) : (s.setMemByte a v).stamp = s.stamp := rfl
@[simp] theorem State.setMemByte_badSectors (s : State) (a : Nat) (v : Byte) : (s.setMemByte a v).badSectors = s.badSectors := rfl
@[simp] theorem State.setMemByte_copies (s : State) (a : Nat) (v : Byte) : (s.setMemByte a v).copies = s.copies := rfl
@[simp] theorem State.setMemByte_rigger (s : State) (a : Nat) (v : Byte) : (s.setMemByte a v).rigger = s.rigger := rfl
@[simp] theorem State.setMemByte_structs (s : State) (a : Nat) (v : Byte) : (s.setMemByte a v).structs = s.structs := rfl
@[simp] theorem State.setMemByte_passes (s : State) (a : Nat) (v : Byte) : (s.setMemByte a v).passes = s.passes := rfl
@[simp] theorem State.setMemByte_tlb (s : State) (a : Nat) (v : Byte) : (s.setMemByte a v).tlb = s.tlb := rfl
@[simp] theorem State.setMemByte_xlreqs (s : State) (a : Nat) (v : Byte) : (s.setMemByte a v).xlreqs = s.xlreqs := rfl
@[simp] theorem State.setMemByte_pgreqs (s : State) (a : Nat) (v : Byte) : (s.setMemByte a v).pgreqs = s.pgreqs := rfl
@[simp] theorem State.setMemByte_xlwaits (s : State) (a : Nat) (v : Byte) : (s.setMemByte a v).xlwaits = s.xlwaits := rfl
@[simp] theorem State.setMemByte_xlinvs (s : State) (a : Nat) (v : Byte) : (s.setMemByte a v).xlinvs = s.xlinvs := rfl
@[simp] theorem State.setMemByte_link (s : State) (a : Nat) (v : Byte) : (s.setMemByte a v).link = s.link := rfl
@[simp] theorem State.setMemByte_gaffer (s : State) (a : Nat) (v : Byte) : (s.setMemByte a v).gaffer = s.gaffer := rfl
@[simp] theorem State.setMemByte_fclock (s : State) (a : Nat) (v : Byte) : (s.setMemByte a v).fclock = s.fclock := rfl

/-! ### A thread: setReg -/

@[simp] theorem Thread.setReg_ens (t : Thread) (n : Nat) (v : Word) (g : Tag) : (t.setReg n v g).ens = t.ens := rfl
@[simp] theorem Thread.setReg_troupe (t : Thread) (n : Nat) (v : Word) (g : Tag) : (t.setReg n v g).troupe = t.troupe := rfl
@[simp] theorem Thread.setReg_tid (t : Thread) (n : Nat) (v : Word) (g : Tag) : (t.setReg n v g).tid = t.tid := rfl
@[simp] theorem Thread.setReg_pc (t : Thread) (n : Nat) (v : Word) (g : Tag) : (t.setReg n v g).pc = t.pc := rfl
@[simp] theorem Thread.setReg_status (t : Thread) (n : Nat) (v : Word) (g : Tag) : (t.setReg n v g).status = t.status := rfl
@[simp] theorem Thread.setReg_preds (t : Thread) (n : Nat) (v : Word) (g : Tag) : (t.setReg n v g).preds = t.preds := rfl
@[simp] theorem Thread.setReg_flags (t : Thread) (n : Nat) (v : Word) (g : Tag) : (t.setReg n v g).flags = t.flags := rfl
@[simp] theorem Thread.setReg_clause (t : Thread) (n : Nat) (v : Word) (g : Tag) : (t.setReg n v g).clause = t.clause := rfl
@[simp] theorem Thread.setReg_hints (t : Thread) (n : Nat) (v : Word) (g : Tag) : (t.setReg n v g).hints = t.hints := rfl
@[simp] theorem Thread.setReg_rsp (t : Thread) (n : Nat) (v : Word) (g : Tag) : (t.setReg n v g).rsp = t.rsp := rfl
@[simp] theorem Thread.setReg_rsl (t : Thread) (n : Nat) (v : Word) (g : Tag) : (t.setReg n v g).rsl = t.rsl := rfl
@[simp] theorem Thread.setReg_stackTop (t : Thread) (n : Nat) (v : Word) (g : Tag) : (t.setReg n v g).stackTop = t.stackTop := rfl
@[simp] theorem Thread.setReg_fmode (t : Thread) (n : Nat) (v : Word) (g : Tag) : (t.setReg n v g).fmode = t.fmode := rfl
@[simp] theorem Thread.setReg_fflags (t : Thread) (n : Nat) (v : Word) (g : Tag) : (t.setReg n v g).fflags = t.fflags := rfl
@[simp] theorem Thread.setReg_carry (t : Thread) (n : Nat) (v : Word) (g : Tag) : (t.setReg n v g).carry = t.carry := rfl
@[simp] theorem Thread.setReg_inHandler (t : Thread) (n : Nat) (v : Word) (g : Tag) : (t.setReg n v g).inHandler = t.inHandler := rfl
@[simp] theorem Thread.setReg_entry (t : Thread) (n : Nat) (v : Word) (g : Tag) : (t.setReg n v g).entry = t.entry := rfl
@[simp] theorem Thread.setReg_saveClause (t : Thread) (n : Nat) (v : Word) (g : Tag) : (t.setReg n v g).saveClause = t.saveClause := rfl
@[simp] theorem Thread.setReg_saveHints (t : Thread) (n : Nat) (v : Word) (g : Tag) : (t.setReg n v g).saveHints = t.saveHints := rfl
@[simp] theorem Thread.setReg_hcause (t : Thread) (n : Nat) (v : Word) (g : Tag) : (t.setReg n v g).hcause = t.hcause := rfl
@[simp] theorem Thread.setReg_hpc (t : Thread) (n : Nat) (v : Word) (g : Tag) : (t.setReg n v g).hpc = t.hpc := rfl
@[simp] theorem Thread.setReg_haddr (t : Thread) (n : Nat) (v : Word) (g : Tag) : (t.setReg n v g).haddr = t.haddr := rfl
@[simp] theorem Thread.setReg_hinfo (t : Thread) (n : Nat) (v : Word) (g : Tag) : (t.setReg n v g).hinfo = t.hinfo := rfl
@[simp] theorem Thread.setReg_armStep (t : Thread) (n : Nat) (v : Word) (g : Tag) : (t.setReg n v g).armStep = t.armStep := rfl
@[simp] theorem Thread.setReg_armSkip (t : Thread) (n : Nat) (v : Word) (g : Tag) : (t.setReg n v g).armSkip = t.armSkip := rfl
@[simp] theorem Thread.setReg_pin0 (t : Thread) (n : Nat) (v : Word) (g : Tag) : (t.setReg n v g).pin0 = t.pin0 := rfl
@[simp] theorem Thread.setReg_pin1 (t : Thread) (n : Nat) (v : Word) (g : Tag) : (t.setReg n v g).pin1 = t.pin1 := rfl
@[simp] theorem Thread.setReg_callSlot (t : Thread) (n : Nat) (v : Word) (g : Tag) : (t.setReg n v g).callSlot = t.callSlot := rfl
@[simp] theorem Thread.setReg_call (t : Thread) (n : Nat) (v : Word) (g : Tag) : (t.setReg n v g).call = t.call := rfl
@[simp] theorem Thread.setReg_regroup (t : Thread) (n : Nat) (v : Word) (g : Tag) : (t.setReg n v g).regroup = t.regroup := rfl
@[simp] theorem Thread.setReg_gapUntil (t : Thread) (n : Nat) (v : Word) (g : Tag) : (t.setReg n v g).gapUntil = t.gapUntil := rfl
@[simp] theorem Thread.setReg_split (t : Thread) (n : Nat) (v : Word) (g : Tag) : (t.setReg n v g).split = t.split := rfl
@[simp] theorem Thread.setReg_resumed (t : Thread) (n : Nat) (v : Word) (g : Tag) : (t.setReg n v g).resumed = t.resumed := rfl
@[simp] theorem Thread.setReg_leaving (t : Thread) (n : Nat) (v : Word) (g : Tag) : (t.setReg n v g).leaving = t.leaving := rfl
@[simp] theorem Thread.setReg_near (t : Thread) (n : Nat) (v : Word) (g : Tag) : (t.setReg n v g).near = t.near := rfl
@[simp] theorem Thread.setReg_compatPend (t : Thread) (n : Nat) (v : Word) (g : Tag) : (t.setReg n v g).compatPend = t.compatPend := rfl
@[simp] theorem Thread.setReg_issued (t : Thread) (n : Nat) (v : Word) (g : Tag) : (t.setReg n v g).issued = t.issued := rfl
@[simp] theorem Thread.setReg_seq (t : Thread) (n : Nat) (v : Word) (g : Tag) : (t.setReg n v g).seq = t.seq := rfl
@[simp] theorem Thread.setReg_loads (t : Thread) (n : Nat) (v : Word) (g : Tag) : (t.setReg n v g).loads = t.loads := rfl
@[simp] theorem Thread.setReg_stores (t : Thread) (n : Nat) (v : Word) (g : Tag) : (t.setReg n v g).stores = t.stores := rfl
@[simp] theorem Thread.setReg_owed (t : Thread) (n : Nat) (v : Word) (g : Tag) : (t.setReg n v g).owed = t.owed := rfl
@[simp] theorem Thread.setReg_got (t : Thread) (n : Nat) (v : Word) (g : Tag) : (t.setReg n v g).got = t.got := rfl
@[simp] theorem Thread.setReg_acqStamp (t : Thread) (n : Nat) (v : Word) (g : Tag) : (t.setReg n v g).acqStamp = t.acqStamp := rfl
@[simp] theorem Thread.setReg_shade (t : Thread) (n : Nat) (v : Word) (g : Tag) : (t.setReg n v g).shade = t.shade := rfl
@[simp] theorem Thread.setReg_ahead (t : Thread) (n : Nat) (v : Word) (g : Tag) : (t.setReg n v g).ahead = t.ahead := rfl

/-! ### A thread: merge -/

@[simp] theorem Thread.merge_ens (t : Thread) (fl : Nat) : (t.merge fl).ens = t.ens := rfl
@[simp] theorem Thread.merge_troupe (t : Thread) (fl : Nat) : (t.merge fl).troupe = t.troupe := rfl
@[simp] theorem Thread.merge_tid (t : Thread) (fl : Nat) : (t.merge fl).tid = t.tid := rfl
@[simp] theorem Thread.merge_pc (t : Thread) (fl : Nat) : (t.merge fl).pc = t.pc := rfl
@[simp] theorem Thread.merge_status (t : Thread) (fl : Nat) : (t.merge fl).status = t.status := rfl
@[simp] theorem Thread.merge_regs (t : Thread) (fl : Nat) : (t.merge fl).regs = t.regs := rfl
@[simp] theorem Thread.merge_preds (t : Thread) (fl : Nat) : (t.merge fl).preds = t.preds := rfl
@[simp] theorem Thread.merge_flags (t : Thread) (fl : Nat) : (t.merge fl).flags = t.flags := rfl
@[simp] theorem Thread.merge_clause (t : Thread) (fl : Nat) : (t.merge fl).clause = t.clause := rfl
@[simp] theorem Thread.merge_hints (t : Thread) (fl : Nat) : (t.merge fl).hints = t.hints := rfl
@[simp] theorem Thread.merge_rsp (t : Thread) (fl : Nat) : (t.merge fl).rsp = t.rsp := rfl
@[simp] theorem Thread.merge_rsl (t : Thread) (fl : Nat) : (t.merge fl).rsl = t.rsl := rfl
@[simp] theorem Thread.merge_stackTop (t : Thread) (fl : Nat) : (t.merge fl).stackTop = t.stackTop := rfl
@[simp] theorem Thread.merge_fmode (t : Thread) (fl : Nat) : (t.merge fl).fmode = t.fmode := rfl
@[simp] theorem Thread.merge_carry (t : Thread) (fl : Nat) : (t.merge fl).carry = t.carry := rfl
@[simp] theorem Thread.merge_inHandler (t : Thread) (fl : Nat) : (t.merge fl).inHandler = t.inHandler := rfl
@[simp] theorem Thread.merge_entry (t : Thread) (fl : Nat) : (t.merge fl).entry = t.entry := rfl
@[simp] theorem Thread.merge_saveClause (t : Thread) (fl : Nat) : (t.merge fl).saveClause = t.saveClause := rfl
@[simp] theorem Thread.merge_saveHints (t : Thread) (fl : Nat) : (t.merge fl).saveHints = t.saveHints := rfl
@[simp] theorem Thread.merge_hcause (t : Thread) (fl : Nat) : (t.merge fl).hcause = t.hcause := rfl
@[simp] theorem Thread.merge_hpc (t : Thread) (fl : Nat) : (t.merge fl).hpc = t.hpc := rfl
@[simp] theorem Thread.merge_haddr (t : Thread) (fl : Nat) : (t.merge fl).haddr = t.haddr := rfl
@[simp] theorem Thread.merge_hinfo (t : Thread) (fl : Nat) : (t.merge fl).hinfo = t.hinfo := rfl
@[simp] theorem Thread.merge_armStep (t : Thread) (fl : Nat) : (t.merge fl).armStep = t.armStep := rfl
@[simp] theorem Thread.merge_armSkip (t : Thread) (fl : Nat) : (t.merge fl).armSkip = t.armSkip := rfl
@[simp] theorem Thread.merge_pin0 (t : Thread) (fl : Nat) : (t.merge fl).pin0 = t.pin0 := rfl
@[simp] theorem Thread.merge_pin1 (t : Thread) (fl : Nat) : (t.merge fl).pin1 = t.pin1 := rfl
@[simp] theorem Thread.merge_callSlot (t : Thread) (fl : Nat) : (t.merge fl).callSlot = t.callSlot := rfl
@[simp] theorem Thread.merge_call (t : Thread) (fl : Nat) : (t.merge fl).call = t.call := rfl
@[simp] theorem Thread.merge_regroup (t : Thread) (fl : Nat) : (t.merge fl).regroup = t.regroup := rfl
@[simp] theorem Thread.merge_gapUntil (t : Thread) (fl : Nat) : (t.merge fl).gapUntil = t.gapUntil := rfl
@[simp] theorem Thread.merge_split (t : Thread) (fl : Nat) : (t.merge fl).split = t.split := rfl
@[simp] theorem Thread.merge_wrote (t : Thread) (fl : Nat) : (t.merge fl).wrote = t.wrote := rfl
@[simp] theorem Thread.merge_resumed (t : Thread) (fl : Nat) : (t.merge fl).resumed = t.resumed := rfl
@[simp] theorem Thread.merge_leaving (t : Thread) (fl : Nat) : (t.merge fl).leaving = t.leaving := rfl
@[simp] theorem Thread.merge_near (t : Thread) (fl : Nat) : (t.merge fl).near = t.near := rfl
@[simp] theorem Thread.merge_compatPend (t : Thread) (fl : Nat) : (t.merge fl).compatPend = t.compatPend := rfl
@[simp] theorem Thread.merge_issued (t : Thread) (fl : Nat) : (t.merge fl).issued = t.issued := rfl
@[simp] theorem Thread.merge_seq (t : Thread) (fl : Nat) : (t.merge fl).seq = t.seq := rfl
@[simp] theorem Thread.merge_loads (t : Thread) (fl : Nat) : (t.merge fl).loads = t.loads := rfl
@[simp] theorem Thread.merge_stores (t : Thread) (fl : Nat) : (t.merge fl).stores = t.stores := rfl
@[simp] theorem Thread.merge_owed (t : Thread) (fl : Nat) : (t.merge fl).owed = t.owed := rfl
@[simp] theorem Thread.merge_got (t : Thread) (fl : Nat) : (t.merge fl).got = t.got := rfl
@[simp] theorem Thread.merge_acqStamp (t : Thread) (fl : Nat) : (t.merge fl).acqStamp = t.acqStamp := rfl
@[simp] theorem Thread.merge_shade (t : Thread) (fl : Nat) : (t.merge fl).shade = t.shade := rfl
@[simp] theorem Thread.merge_ahead (t : Thread) (fl : Nat) : (t.merge fl).ahead = t.ahead := rfl

/-! ### A thread: advance -/

@[simp] theorem Thread.advance_ens (t : Thread) : t.advance.ens = t.ens := rfl
@[simp] theorem Thread.advance_troupe (t : Thread) : t.advance.troupe = t.troupe := rfl
@[simp] theorem Thread.advance_tid (t : Thread) : t.advance.tid = t.tid := rfl
@[simp] theorem Thread.advance_status (t : Thread) : t.advance.status = t.status := rfl
@[simp] theorem Thread.advance_regs (t : Thread) : t.advance.regs = t.regs := rfl
@[simp] theorem Thread.advance_preds (t : Thread) : t.advance.preds = t.preds := rfl
@[simp] theorem Thread.advance_flags (t : Thread) : t.advance.flags = t.flags := rfl
@[simp] theorem Thread.advance_hints (t : Thread) : t.advance.hints = t.hints := rfl
@[simp] theorem Thread.advance_rsp (t : Thread) : t.advance.rsp = t.rsp := rfl
@[simp] theorem Thread.advance_rsl (t : Thread) : t.advance.rsl = t.rsl := rfl
@[simp] theorem Thread.advance_stackTop (t : Thread) : t.advance.stackTop = t.stackTop := rfl
@[simp] theorem Thread.advance_fmode (t : Thread) : t.advance.fmode = t.fmode := rfl
@[simp] theorem Thread.advance_fflags (t : Thread) : t.advance.fflags = t.fflags := rfl
@[simp] theorem Thread.advance_carry (t : Thread) : t.advance.carry = t.carry := rfl
@[simp] theorem Thread.advance_inHandler (t : Thread) : t.advance.inHandler = t.inHandler := rfl
@[simp] theorem Thread.advance_entry (t : Thread) : t.advance.entry = t.entry := rfl
@[simp] theorem Thread.advance_saveClause (t : Thread) : t.advance.saveClause = t.saveClause := rfl
@[simp] theorem Thread.advance_saveHints (t : Thread) : t.advance.saveHints = t.saveHints := rfl
@[simp] theorem Thread.advance_hcause (t : Thread) : t.advance.hcause = t.hcause := rfl
@[simp] theorem Thread.advance_hpc (t : Thread) : t.advance.hpc = t.hpc := rfl
@[simp] theorem Thread.advance_haddr (t : Thread) : t.advance.haddr = t.haddr := rfl
@[simp] theorem Thread.advance_hinfo (t : Thread) : t.advance.hinfo = t.hinfo := rfl
@[simp] theorem Thread.advance_armStep (t : Thread) : t.advance.armStep = t.armStep := rfl
@[simp] theorem Thread.advance_armSkip (t : Thread) : t.advance.armSkip = t.armSkip := rfl
@[simp] theorem Thread.advance_pin0 (t : Thread) : t.advance.pin0 = t.pin0 := rfl
@[simp] theorem Thread.advance_pin1 (t : Thread) : t.advance.pin1 = t.pin1 := rfl
@[simp] theorem Thread.advance_callSlot (t : Thread) : t.advance.callSlot = t.callSlot := rfl
@[simp] theorem Thread.advance_call (t : Thread) : t.advance.call = t.call := rfl
@[simp] theorem Thread.advance_regroup (t : Thread) : t.advance.regroup = t.regroup := rfl
@[simp] theorem Thread.advance_gapUntil (t : Thread) : t.advance.gapUntil = t.gapUntil := rfl
@[simp] theorem Thread.advance_split (t : Thread) : t.advance.split = t.split := rfl
@[simp] theorem Thread.advance_wrote (t : Thread) : t.advance.wrote = t.wrote := rfl
@[simp] theorem Thread.advance_resumed (t : Thread) : t.advance.resumed = t.resumed := rfl
@[simp] theorem Thread.advance_leaving (t : Thread) : t.advance.leaving = t.leaving := rfl
@[simp] theorem Thread.advance_near (t : Thread) : t.advance.near = t.near := rfl
@[simp] theorem Thread.advance_compatPend (t : Thread) : t.advance.compatPend = t.compatPend := rfl
@[simp] theorem Thread.advance_issued (t : Thread) : t.advance.issued = t.issued := rfl
@[simp] theorem Thread.advance_seq (t : Thread) : t.advance.seq = t.seq := rfl
@[simp] theorem Thread.advance_loads (t : Thread) : t.advance.loads = t.loads := rfl
@[simp] theorem Thread.advance_stores (t : Thread) : t.advance.stores = t.stores := rfl
@[simp] theorem Thread.advance_owed (t : Thread) : t.advance.owed = t.owed := rfl
@[simp] theorem Thread.advance_got (t : Thread) : t.advance.got = t.got := rfl
@[simp] theorem Thread.advance_acqStamp (t : Thread) : t.advance.acqStamp = t.acqStamp := rfl
@[simp] theorem Thread.advance_shade (t : Thread) : t.advance.shade = t.shade := rfl
@[simp] theorem Thread.advance_ahead (t : Thread) : t.advance.ahead = t.ahead := rfl

/-! ### A thread: jump -/

@[simp] theorem Thread.jump_ens (t : Thread) (p : DWord) : (t.jump p).ens = t.ens := rfl
@[simp] theorem Thread.jump_troupe (t : Thread) (p : DWord) : (t.jump p).troupe = t.troupe := rfl
@[simp] theorem Thread.jump_tid (t : Thread) (p : DWord) : (t.jump p).tid = t.tid := rfl
@[simp] theorem Thread.jump_status (t : Thread) (p : DWord) : (t.jump p).status = t.status := rfl
@[simp] theorem Thread.jump_regs (t : Thread) (p : DWord) : (t.jump p).regs = t.regs := rfl
@[simp] theorem Thread.jump_preds (t : Thread) (p : DWord) : (t.jump p).preds = t.preds := rfl
@[simp] theorem Thread.jump_flags (t : Thread) (p : DWord) : (t.jump p).flags = t.flags := rfl
@[simp] theorem Thread.jump_rsp (t : Thread) (p : DWord) : (t.jump p).rsp = t.rsp := rfl
@[simp] theorem Thread.jump_rsl (t : Thread) (p : DWord) : (t.jump p).rsl = t.rsl := rfl
@[simp] theorem Thread.jump_stackTop (t : Thread) (p : DWord) : (t.jump p).stackTop = t.stackTop := rfl
@[simp] theorem Thread.jump_fmode (t : Thread) (p : DWord) : (t.jump p).fmode = t.fmode := rfl
@[simp] theorem Thread.jump_fflags (t : Thread) (p : DWord) : (t.jump p).fflags = t.fflags := rfl
@[simp] theorem Thread.jump_carry (t : Thread) (p : DWord) : (t.jump p).carry = t.carry := rfl
@[simp] theorem Thread.jump_inHandler (t : Thread) (p : DWord) : (t.jump p).inHandler = t.inHandler := rfl
@[simp] theorem Thread.jump_entry (t : Thread) (p : DWord) : (t.jump p).entry = t.entry := rfl
@[simp] theorem Thread.jump_saveClause (t : Thread) (p : DWord) : (t.jump p).saveClause = t.saveClause := rfl
@[simp] theorem Thread.jump_saveHints (t : Thread) (p : DWord) : (t.jump p).saveHints = t.saveHints := rfl
@[simp] theorem Thread.jump_hcause (t : Thread) (p : DWord) : (t.jump p).hcause = t.hcause := rfl
@[simp] theorem Thread.jump_hpc (t : Thread) (p : DWord) : (t.jump p).hpc = t.hpc := rfl
@[simp] theorem Thread.jump_haddr (t : Thread) (p : DWord) : (t.jump p).haddr = t.haddr := rfl
@[simp] theorem Thread.jump_hinfo (t : Thread) (p : DWord) : (t.jump p).hinfo = t.hinfo := rfl
@[simp] theorem Thread.jump_armStep (t : Thread) (p : DWord) : (t.jump p).armStep = t.armStep := rfl
@[simp] theorem Thread.jump_armSkip (t : Thread) (p : DWord) : (t.jump p).armSkip = t.armSkip := rfl
@[simp] theorem Thread.jump_pin0 (t : Thread) (p : DWord) : (t.jump p).pin0 = t.pin0 := rfl
@[simp] theorem Thread.jump_pin1 (t : Thread) (p : DWord) : (t.jump p).pin1 = t.pin1 := rfl
@[simp] theorem Thread.jump_callSlot (t : Thread) (p : DWord) : (t.jump p).callSlot = t.callSlot := rfl
@[simp] theorem Thread.jump_call (t : Thread) (p : DWord) : (t.jump p).call = t.call := rfl
@[simp] theorem Thread.jump_regroup (t : Thread) (p : DWord) : (t.jump p).regroup = t.regroup := rfl
@[simp] theorem Thread.jump_gapUntil (t : Thread) (p : DWord) : (t.jump p).gapUntil = t.gapUntil := rfl
@[simp] theorem Thread.jump_split (t : Thread) (p : DWord) : (t.jump p).split = t.split := rfl
@[simp] theorem Thread.jump_wrote (t : Thread) (p : DWord) : (t.jump p).wrote = t.wrote := rfl
@[simp] theorem Thread.jump_resumed (t : Thread) (p : DWord) : (t.jump p).resumed = t.resumed := rfl
@[simp] theorem Thread.jump_leaving (t : Thread) (p : DWord) : (t.jump p).leaving = t.leaving := rfl
@[simp] theorem Thread.jump_near (t : Thread) (p : DWord) : (t.jump p).near = t.near := rfl
@[simp] theorem Thread.jump_compatPend (t : Thread) (p : DWord) : (t.jump p).compatPend = t.compatPend := rfl
@[simp] theorem Thread.jump_issued (t : Thread) (p : DWord) : (t.jump p).issued = t.issued := rfl
@[simp] theorem Thread.jump_seq (t : Thread) (p : DWord) : (t.jump p).seq = t.seq := rfl
@[simp] theorem Thread.jump_loads (t : Thread) (p : DWord) : (t.jump p).loads = t.loads := rfl
@[simp] theorem Thread.jump_stores (t : Thread) (p : DWord) : (t.jump p).stores = t.stores := rfl
@[simp] theorem Thread.jump_owed (t : Thread) (p : DWord) : (t.jump p).owed = t.owed := rfl
@[simp] theorem Thread.jump_got (t : Thread) (p : DWord) : (t.jump p).got = t.got := rfl
@[simp] theorem Thread.jump_acqStamp (t : Thread) (p : DWord) : (t.jump p).acqStamp = t.acqStamp := rfl
@[simp] theorem Thread.jump_shade (t : Thread) (p : DWord) : (t.jump p).shade = t.shade := rfl
@[simp] theorem Thread.jump_ahead (t : Thread) (p : DWord) : (t.jump p).ahead = t.ahead := rfl

/-! ### A thread: pushLoad -/

@[simp] theorem Thread.pushLoad_ens (t : Thread) (l : PendingLoad) : (t.pushLoad l).ens = t.ens := rfl
@[simp] theorem Thread.pushLoad_troupe (t : Thread) (l : PendingLoad) : (t.pushLoad l).troupe = t.troupe := rfl
@[simp] theorem Thread.pushLoad_tid (t : Thread) (l : PendingLoad) : (t.pushLoad l).tid = t.tid := rfl
@[simp] theorem Thread.pushLoad_pc (t : Thread) (l : PendingLoad) : (t.pushLoad l).pc = t.pc := rfl
@[simp] theorem Thread.pushLoad_status (t : Thread) (l : PendingLoad) : (t.pushLoad l).status = t.status := rfl
@[simp] theorem Thread.pushLoad_regs (t : Thread) (l : PendingLoad) : (t.pushLoad l).regs = t.regs := rfl
@[simp] theorem Thread.pushLoad_preds (t : Thread) (l : PendingLoad) : (t.pushLoad l).preds = t.preds := rfl
@[simp] theorem Thread.pushLoad_flags (t : Thread) (l : PendingLoad) : (t.pushLoad l).flags = t.flags := rfl
@[simp] theorem Thread.pushLoad_clause (t : Thread) (l : PendingLoad) : (t.pushLoad l).clause = t.clause := rfl
@[simp] theorem Thread.pushLoad_hints (t : Thread) (l : PendingLoad) : (t.pushLoad l).hints = t.hints := rfl
@[simp] theorem Thread.pushLoad_rsp (t : Thread) (l : PendingLoad) : (t.pushLoad l).rsp = t.rsp := rfl
@[simp] theorem Thread.pushLoad_rsl (t : Thread) (l : PendingLoad) : (t.pushLoad l).rsl = t.rsl := rfl
@[simp] theorem Thread.pushLoad_stackTop (t : Thread) (l : PendingLoad) : (t.pushLoad l).stackTop = t.stackTop := rfl
@[simp] theorem Thread.pushLoad_fmode (t : Thread) (l : PendingLoad) : (t.pushLoad l).fmode = t.fmode := rfl
@[simp] theorem Thread.pushLoad_fflags (t : Thread) (l : PendingLoad) : (t.pushLoad l).fflags = t.fflags := rfl
@[simp] theorem Thread.pushLoad_carry (t : Thread) (l : PendingLoad) : (t.pushLoad l).carry = t.carry := rfl
@[simp] theorem Thread.pushLoad_inHandler (t : Thread) (l : PendingLoad) : (t.pushLoad l).inHandler = t.inHandler := rfl
@[simp] theorem Thread.pushLoad_entry (t : Thread) (l : PendingLoad) : (t.pushLoad l).entry = t.entry := rfl
@[simp] theorem Thread.pushLoad_saveClause (t : Thread) (l : PendingLoad) : (t.pushLoad l).saveClause = t.saveClause := rfl
@[simp] theorem Thread.pushLoad_saveHints (t : Thread) (l : PendingLoad) : (t.pushLoad l).saveHints = t.saveHints := rfl
@[simp] theorem Thread.pushLoad_hcause (t : Thread) (l : PendingLoad) : (t.pushLoad l).hcause = t.hcause := rfl
@[simp] theorem Thread.pushLoad_hpc (t : Thread) (l : PendingLoad) : (t.pushLoad l).hpc = t.hpc := rfl
@[simp] theorem Thread.pushLoad_haddr (t : Thread) (l : PendingLoad) : (t.pushLoad l).haddr = t.haddr := rfl
@[simp] theorem Thread.pushLoad_hinfo (t : Thread) (l : PendingLoad) : (t.pushLoad l).hinfo = t.hinfo := rfl
@[simp] theorem Thread.pushLoad_armStep (t : Thread) (l : PendingLoad) : (t.pushLoad l).armStep = t.armStep := rfl
@[simp] theorem Thread.pushLoad_armSkip (t : Thread) (l : PendingLoad) : (t.pushLoad l).armSkip = t.armSkip := rfl
@[simp] theorem Thread.pushLoad_pin0 (t : Thread) (l : PendingLoad) : (t.pushLoad l).pin0 = t.pin0 := rfl
@[simp] theorem Thread.pushLoad_pin1 (t : Thread) (l : PendingLoad) : (t.pushLoad l).pin1 = t.pin1 := rfl
@[simp] theorem Thread.pushLoad_callSlot (t : Thread) (l : PendingLoad) : (t.pushLoad l).callSlot = t.callSlot := rfl
@[simp] theorem Thread.pushLoad_call (t : Thread) (l : PendingLoad) : (t.pushLoad l).call = t.call := rfl
@[simp] theorem Thread.pushLoad_regroup (t : Thread) (l : PendingLoad) : (t.pushLoad l).regroup = t.regroup := rfl
@[simp] theorem Thread.pushLoad_gapUntil (t : Thread) (l : PendingLoad) : (t.pushLoad l).gapUntil = t.gapUntil := rfl
@[simp] theorem Thread.pushLoad_split (t : Thread) (l : PendingLoad) : (t.pushLoad l).split = t.split := rfl
@[simp] theorem Thread.pushLoad_wrote (t : Thread) (l : PendingLoad) : (t.pushLoad l).wrote = t.wrote := rfl
@[simp] theorem Thread.pushLoad_resumed (t : Thread) (l : PendingLoad) : (t.pushLoad l).resumed = t.resumed := rfl
@[simp] theorem Thread.pushLoad_leaving (t : Thread) (l : PendingLoad) : (t.pushLoad l).leaving = t.leaving := rfl
@[simp] theorem Thread.pushLoad_near (t : Thread) (l : PendingLoad) : (t.pushLoad l).near = t.near := rfl
@[simp] theorem Thread.pushLoad_compatPend (t : Thread) (l : PendingLoad) : (t.pushLoad l).compatPend = t.compatPend := rfl
@[simp] theorem Thread.pushLoad_issued (t : Thread) (l : PendingLoad) : (t.pushLoad l).issued = t.issued := rfl
@[simp] theorem Thread.pushLoad_stores (t : Thread) (l : PendingLoad) : (t.pushLoad l).stores = t.stores := rfl
@[simp] theorem Thread.pushLoad_owed (t : Thread) (l : PendingLoad) : (t.pushLoad l).owed = t.owed := rfl
@[simp] theorem Thread.pushLoad_got (t : Thread) (l : PendingLoad) : (t.pushLoad l).got = t.got := rfl
@[simp] theorem Thread.pushLoad_acqStamp (t : Thread) (l : PendingLoad) : (t.pushLoad l).acqStamp = t.acqStamp := rfl
@[simp] theorem Thread.pushLoad_shade (t : Thread) (l : PendingLoad) : (t.pushLoad l).shade = t.shade := rfl
@[simp] theorem Thread.pushLoad_ahead (t : Thread) (l : PendingLoad) : (t.pushLoad l).ahead = t.ahead := rfl

/-! ### A thread: pushStore -/

@[simp] theorem Thread.pushStore_ens (t : Thread) (p : PendingStore) : (t.pushStore p).ens = t.ens := rfl
@[simp] theorem Thread.pushStore_troupe (t : Thread) (p : PendingStore) : (t.pushStore p).troupe = t.troupe := rfl
@[simp] theorem Thread.pushStore_tid (t : Thread) (p : PendingStore) : (t.pushStore p).tid = t.tid := rfl
@[simp] theorem Thread.pushStore_pc (t : Thread) (p : PendingStore) : (t.pushStore p).pc = t.pc := rfl
@[simp] theorem Thread.pushStore_status (t : Thread) (p : PendingStore) : (t.pushStore p).status = t.status := rfl
@[simp] theorem Thread.pushStore_regs (t : Thread) (p : PendingStore) : (t.pushStore p).regs = t.regs := rfl
@[simp] theorem Thread.pushStore_preds (t : Thread) (p : PendingStore) : (t.pushStore p).preds = t.preds := rfl
@[simp] theorem Thread.pushStore_flags (t : Thread) (p : PendingStore) : (t.pushStore p).flags = t.flags := rfl
@[simp] theorem Thread.pushStore_clause (t : Thread) (p : PendingStore) : (t.pushStore p).clause = t.clause := rfl
@[simp] theorem Thread.pushStore_hints (t : Thread) (p : PendingStore) : (t.pushStore p).hints = t.hints := rfl
@[simp] theorem Thread.pushStore_rsp (t : Thread) (p : PendingStore) : (t.pushStore p).rsp = t.rsp := rfl
@[simp] theorem Thread.pushStore_rsl (t : Thread) (p : PendingStore) : (t.pushStore p).rsl = t.rsl := rfl
@[simp] theorem Thread.pushStore_stackTop (t : Thread) (p : PendingStore) : (t.pushStore p).stackTop = t.stackTop := rfl
@[simp] theorem Thread.pushStore_fmode (t : Thread) (p : PendingStore) : (t.pushStore p).fmode = t.fmode := rfl
@[simp] theorem Thread.pushStore_fflags (t : Thread) (p : PendingStore) : (t.pushStore p).fflags = t.fflags := rfl
@[simp] theorem Thread.pushStore_carry (t : Thread) (p : PendingStore) : (t.pushStore p).carry = t.carry := rfl
@[simp] theorem Thread.pushStore_inHandler (t : Thread) (p : PendingStore) : (t.pushStore p).inHandler = t.inHandler := rfl
@[simp] theorem Thread.pushStore_entry (t : Thread) (p : PendingStore) : (t.pushStore p).entry = t.entry := rfl
@[simp] theorem Thread.pushStore_saveClause (t : Thread) (p : PendingStore) : (t.pushStore p).saveClause = t.saveClause := rfl
@[simp] theorem Thread.pushStore_saveHints (t : Thread) (p : PendingStore) : (t.pushStore p).saveHints = t.saveHints := rfl
@[simp] theorem Thread.pushStore_hcause (t : Thread) (p : PendingStore) : (t.pushStore p).hcause = t.hcause := rfl
@[simp] theorem Thread.pushStore_hpc (t : Thread) (p : PendingStore) : (t.pushStore p).hpc = t.hpc := rfl
@[simp] theorem Thread.pushStore_haddr (t : Thread) (p : PendingStore) : (t.pushStore p).haddr = t.haddr := rfl
@[simp] theorem Thread.pushStore_hinfo (t : Thread) (p : PendingStore) : (t.pushStore p).hinfo = t.hinfo := rfl
@[simp] theorem Thread.pushStore_armStep (t : Thread) (p : PendingStore) : (t.pushStore p).armStep = t.armStep := rfl
@[simp] theorem Thread.pushStore_armSkip (t : Thread) (p : PendingStore) : (t.pushStore p).armSkip = t.armSkip := rfl
@[simp] theorem Thread.pushStore_pin0 (t : Thread) (p : PendingStore) : (t.pushStore p).pin0 = t.pin0 := rfl
@[simp] theorem Thread.pushStore_pin1 (t : Thread) (p : PendingStore) : (t.pushStore p).pin1 = t.pin1 := rfl
@[simp] theorem Thread.pushStore_callSlot (t : Thread) (p : PendingStore) : (t.pushStore p).callSlot = t.callSlot := rfl
@[simp] theorem Thread.pushStore_call (t : Thread) (p : PendingStore) : (t.pushStore p).call = t.call := rfl
@[simp] theorem Thread.pushStore_regroup (t : Thread) (p : PendingStore) : (t.pushStore p).regroup = t.regroup := rfl
@[simp] theorem Thread.pushStore_gapUntil (t : Thread) (p : PendingStore) : (t.pushStore p).gapUntil = t.gapUntil := rfl
@[simp] theorem Thread.pushStore_split (t : Thread) (p : PendingStore) : (t.pushStore p).split = t.split := rfl
@[simp] theorem Thread.pushStore_wrote (t : Thread) (p : PendingStore) : (t.pushStore p).wrote = t.wrote := rfl
@[simp] theorem Thread.pushStore_resumed (t : Thread) (p : PendingStore) : (t.pushStore p).resumed = t.resumed := rfl
@[simp] theorem Thread.pushStore_leaving (t : Thread) (p : PendingStore) : (t.pushStore p).leaving = t.leaving := rfl
@[simp] theorem Thread.pushStore_near (t : Thread) (p : PendingStore) : (t.pushStore p).near = t.near := rfl
@[simp] theorem Thread.pushStore_compatPend (t : Thread) (p : PendingStore) : (t.pushStore p).compatPend = t.compatPend := rfl
@[simp] theorem Thread.pushStore_issued (t : Thread) (p : PendingStore) : (t.pushStore p).issued = t.issued := rfl
@[simp] theorem Thread.pushStore_loads (t : Thread) (p : PendingStore) : (t.pushStore p).loads = t.loads := rfl
@[simp] theorem Thread.pushStore_owed (t : Thread) (p : PendingStore) : (t.pushStore p).owed = t.owed := rfl
@[simp] theorem Thread.pushStore_got (t : Thread) (p : PendingStore) : (t.pushStore p).got = t.got := rfl
@[simp] theorem Thread.pushStore_acqStamp (t : Thread) (p : PendingStore) : (t.pushStore p).acqStamp = t.acqStamp := rfl
@[simp] theorem Thread.pushStore_shade (t : Thread) (p : PendingStore) : (t.pushStore p).shade = t.shade := rfl
@[simp] theorem Thread.pushStore_ahead (t : Thread) (p : PendingStore) : (t.pushStore p).ahead = t.ahead := rfl

/-! ### A thread: enterHandler -/

@[simp] theorem Thread.enterHandler_ens (t : Thread) (now h : DWord) (c : Cause) (p a i : DWord) : (t.enterHandler now h c p a i).ens = t.ens := rfl
@[simp] theorem Thread.enterHandler_troupe (t : Thread) (now h : DWord) (c : Cause) (p a i : DWord) : (t.enterHandler now h c p a i).troupe = t.troupe := rfl
@[simp] theorem Thread.enterHandler_tid (t : Thread) (now h : DWord) (c : Cause) (p a i : DWord) : (t.enterHandler now h c p a i).tid = t.tid := rfl
@[simp] theorem Thread.enterHandler_regs (t : Thread) (now h : DWord) (c : Cause) (p a i : DWord) : (t.enterHandler now h c p a i).regs = t.regs := rfl
@[simp] theorem Thread.enterHandler_preds (t : Thread) (now h : DWord) (c : Cause) (p a i : DWord) : (t.enterHandler now h c p a i).preds = t.preds := rfl
@[simp] theorem Thread.enterHandler_flags (t : Thread) (now h : DWord) (c : Cause) (p a i : DWord) : (t.enterHandler now h c p a i).flags = t.flags := rfl
@[simp] theorem Thread.enterHandler_rsp (t : Thread) (now h : DWord) (c : Cause) (p a i : DWord) : (t.enterHandler now h c p a i).rsp = t.rsp := rfl
@[simp] theorem Thread.enterHandler_rsl (t : Thread) (now h : DWord) (c : Cause) (p a i : DWord) : (t.enterHandler now h c p a i).rsl = t.rsl := rfl
@[simp] theorem Thread.enterHandler_stackTop (t : Thread) (now h : DWord) (c : Cause) (p a i : DWord) : (t.enterHandler now h c p a i).stackTop = t.stackTop := rfl
@[simp] theorem Thread.enterHandler_fmode (t : Thread) (now h : DWord) (c : Cause) (p a i : DWord) : (t.enterHandler now h c p a i).fmode = t.fmode := rfl
@[simp] theorem Thread.enterHandler_fflags (t : Thread) (now h : DWord) (c : Cause) (p a i : DWord) : (t.enterHandler now h c p a i).fflags = t.fflags := rfl
@[simp] theorem Thread.enterHandler_carry (t : Thread) (now h : DWord) (c : Cause) (p a i : DWord) : (t.enterHandler now h c p a i).carry = t.carry := rfl
@[simp] theorem Thread.enterHandler_pin0 (t : Thread) (now h : DWord) (c : Cause) (p a i : DWord) : (t.enterHandler now h c p a i).pin0 = t.pin0 := rfl
@[simp] theorem Thread.enterHandler_pin1 (t : Thread) (now h : DWord) (c : Cause) (p a i : DWord) : (t.enterHandler now h c p a i).pin1 = t.pin1 := rfl
@[simp] theorem Thread.enterHandler_callSlot (t : Thread) (now h : DWord) (c : Cause) (p a i : DWord) : (t.enterHandler now h c p a i).callSlot = t.callSlot := rfl
@[simp] theorem Thread.enterHandler_call (t : Thread) (now h : DWord) (c : Cause) (p a i : DWord) : (t.enterHandler now h c p a i).call = t.call := rfl
@[simp] theorem Thread.enterHandler_regroup (t : Thread) (now h : DWord) (c : Cause) (p a i : DWord) : (t.enterHandler now h c p a i).regroup = t.regroup := rfl
@[simp] theorem Thread.enterHandler_gapUntil (t : Thread) (now h : DWord) (c : Cause) (p a i : DWord) : (t.enterHandler now h c p a i).gapUntil = t.gapUntil := rfl
@[simp] theorem Thread.enterHandler_split (t : Thread) (now h : DWord) (c : Cause) (p a i : DWord) : (t.enterHandler now h c p a i).split = t.split := rfl
@[simp] theorem Thread.enterHandler_wrote (t : Thread) (now h : DWord) (c : Cause) (p a i : DWord) : (t.enterHandler now h c p a i).wrote = t.wrote := rfl
@[simp] theorem Thread.enterHandler_leaving (t : Thread) (now h : DWord) (c : Cause) (p a i : DWord) : (t.enterHandler now h c p a i).leaving = t.leaving := rfl
@[simp] theorem Thread.enterHandler_near (t : Thread) (now h : DWord) (c : Cause) (p a i : DWord) : (t.enterHandler now h c p a i).near = t.near := rfl
@[simp] theorem Thread.enterHandler_compatPend (t : Thread) (now h : DWord) (c : Cause) (p a i : DWord) : (t.enterHandler now h c p a i).compatPend = t.compatPend := rfl
@[simp] theorem Thread.enterHandler_loads (t : Thread) (now h : DWord) (c : Cause) (p a i : DWord) : (t.enterHandler now h c p a i).loads = t.loads := rfl
@[simp] theorem Thread.enterHandler_stores (t : Thread) (now h : DWord) (c : Cause) (p a i : DWord) : (t.enterHandler now h c p a i).stores = t.stores := rfl
@[simp] theorem Thread.enterHandler_owed (t : Thread) (now h : DWord) (c : Cause) (p a i : DWord) : (t.enterHandler now h c p a i).owed = t.owed := rfl
@[simp] theorem Thread.enterHandler_acqStamp (t : Thread) (now h : DWord) (c : Cause) (p a i : DWord) : (t.enterHandler now h c p a i).acqStamp = t.acqStamp := rfl
@[simp] theorem Thread.enterHandler_shade (t : Thread) (now h : DWord) (c : Cause) (p a i : DWord) : (t.enterHandler now h c p a i).shade = t.shade := rfl
@[simp] theorem Thread.enterHandler_ahead (t : Thread) (now h : DWord) (c : Cause) (p a i : DWord) : (t.enterHandler now h c p a i).ahead = t.ahead := rfl

/-! ### A thread: complete -/

@[simp] theorem Thread.complete_ens (t : Thread) (now : DWord) (h : HintLatch) (b : Bool) : (t.complete now h b).ens = t.ens := rfl
@[simp] theorem Thread.complete_troupe (t : Thread) (now : DWord) (h : HintLatch) (b : Bool) : (t.complete now h b).troupe = t.troupe := rfl
@[simp] theorem Thread.complete_tid (t : Thread) (now : DWord) (h : HintLatch) (b : Bool) : (t.complete now h b).tid = t.tid := rfl
@[simp] theorem Thread.complete_pc (t : Thread) (now : DWord) (h : HintLatch) (b : Bool) : (t.complete now h b).pc = t.pc := rfl
@[simp] theorem Thread.complete_preds (t : Thread) (now : DWord) (h : HintLatch) (b : Bool) : (t.complete now h b).preds = t.preds := rfl
@[simp] theorem Thread.complete_flags (t : Thread) (now : DWord) (h : HintLatch) (b : Bool) : (t.complete now h b).flags = t.flags := rfl
@[simp] theorem Thread.complete_clause (t : Thread) (now : DWord) (h : HintLatch) (b : Bool) : (t.complete now h b).clause = t.clause := rfl
@[simp] theorem Thread.complete_rsp (t : Thread) (now : DWord) (h : HintLatch) (b : Bool) : (t.complete now h b).rsp = t.rsp := rfl
@[simp] theorem Thread.complete_rsl (t : Thread) (now : DWord) (h : HintLatch) (b : Bool) : (t.complete now h b).rsl = t.rsl := rfl
@[simp] theorem Thread.complete_stackTop (t : Thread) (now : DWord) (h : HintLatch) (b : Bool) : (t.complete now h b).stackTop = t.stackTop := rfl
@[simp] theorem Thread.complete_fmode (t : Thread) (now : DWord) (h : HintLatch) (b : Bool) : (t.complete now h b).fmode = t.fmode := rfl
@[simp] theorem Thread.complete_fflags (t : Thread) (now : DWord) (h : HintLatch) (b : Bool) : (t.complete now h b).fflags = t.fflags := rfl
@[simp] theorem Thread.complete_carry (t : Thread) (now : DWord) (h : HintLatch) (b : Bool) : (t.complete now h b).carry = t.carry := rfl
@[simp] theorem Thread.complete_inHandler (t : Thread) (now : DWord) (h : HintLatch) (b : Bool) : (t.complete now h b).inHandler = t.inHandler := rfl
@[simp] theorem Thread.complete_entry (t : Thread) (now : DWord) (h : HintLatch) (b : Bool) : (t.complete now h b).entry = t.entry := rfl
@[simp] theorem Thread.complete_saveClause (t : Thread) (now : DWord) (h : HintLatch) (b : Bool) : (t.complete now h b).saveClause = t.saveClause := rfl
@[simp] theorem Thread.complete_saveHints (t : Thread) (now : DWord) (h : HintLatch) (b : Bool) : (t.complete now h b).saveHints = t.saveHints := rfl
@[simp] theorem Thread.complete_hcause (t : Thread) (now : DWord) (h : HintLatch) (b : Bool) : (t.complete now h b).hcause = t.hcause := rfl
@[simp] theorem Thread.complete_hpc (t : Thread) (now : DWord) (h : HintLatch) (b : Bool) : (t.complete now h b).hpc = t.hpc := rfl
@[simp] theorem Thread.complete_haddr (t : Thread) (now : DWord) (h : HintLatch) (b : Bool) : (t.complete now h b).haddr = t.haddr := rfl
@[simp] theorem Thread.complete_hinfo (t : Thread) (now : DWord) (h : HintLatch) (b : Bool) : (t.complete now h b).hinfo = t.hinfo := rfl
@[simp] theorem Thread.complete_pin0 (t : Thread) (now : DWord) (h : HintLatch) (b : Bool) : (t.complete now h b).pin0 = t.pin0 := rfl
@[simp] theorem Thread.complete_pin1 (t : Thread) (now : DWord) (h : HintLatch) (b : Bool) : (t.complete now h b).pin1 = t.pin1 := rfl
@[simp] theorem Thread.complete_callSlot (t : Thread) (now : DWord) (h : HintLatch) (b : Bool) : (t.complete now h b).callSlot = t.callSlot := rfl
@[simp] theorem Thread.complete_call (t : Thread) (now : DWord) (h : HintLatch) (b : Bool) : (t.complete now h b).call = t.call := rfl
@[simp] theorem Thread.complete_regroup (t : Thread) (now : DWord) (h : HintLatch) (b : Bool) : (t.complete now h b).regroup = t.regroup := rfl
@[simp] theorem Thread.complete_compatPend (t : Thread) (now : DWord) (h : HintLatch) (b : Bool) : (t.complete now h b).compatPend = t.compatPend := rfl
@[simp] theorem Thread.complete_seq (t : Thread) (now : DWord) (h : HintLatch) (b : Bool) : (t.complete now h b).seq = t.seq := rfl
@[simp] theorem Thread.complete_loads (t : Thread) (now : DWord) (h : HintLatch) (b : Bool) : (t.complete now h b).loads = t.loads := rfl
@[simp] theorem Thread.complete_stores (t : Thread) (now : DWord) (h : HintLatch) (b : Bool) : (t.complete now h b).stores = t.stores := rfl
@[simp] theorem Thread.complete_owed (t : Thread) (now : DWord) (h : HintLatch) (b : Bool) : (t.complete now h b).owed = t.owed := rfl
@[simp] theorem Thread.complete_acqStamp (t : Thread) (now : DWord) (h : HintLatch) (b : Bool) : (t.complete now h b).acqStamp = t.acqStamp := rfl
@[simp] theorem Thread.complete_shade (t : Thread) (now : DWord) (h : HintLatch) (b : Bool) : (t.complete now h b).shade = t.shade := rfl
@[simp] theorem Thread.complete_wrote (t : Thread) (now : DWord) (h : HintLatch) (b : Bool) : (t.complete now h b).wrote = t.wrote := rfl
@[simp] theorem Thread.complete_leaving (t : Thread) (now : DWord) (h : HintLatch) (b : Bool) : (t.complete now h b).leaving = t.leaving := rfl
@[simp] theorem Thread.complete_ahead (t : Thread) (now : DWord) (h : HintLatch) (b : Bool) : (t.complete now h b).ahead = t.ahead := rfl

@[simp] theorem Thread.advance_pc (t : Thread) : t.advance.pc = nextPc t.pc := rfl
@[simp] theorem Thread.jump_pc (t : Thread) (p : DWord) : (t.jump p).pc = p := rfl
@[simp] theorem Thread.enterHandler_pc (t : Thread) (now h : DWord) (c : Cause) (p a i : DWord) : (t.enterHandler now h c p a i).pc = h := rfl
@[simp] theorem Thread.enterHandler_hpc (t : Thread) (now h : DWord) (c : Cause) (p a i : DWord) : (t.enterHandler now h c p a i).hpc = p := rfl
@[simp] theorem Thread.enterHandler_seq (t : Thread) (now h : DWord) (c : Cause) (p a i : DWord) : (t.enterHandler now h c p a i).seq = t.seq + 1 := rfl
@[simp] theorem Thread.enterHandler_inHandler (t : Thread) (now h : DWord) (c : Cause) (p a i : DWord) : (t.enterHandler now h c p a i).inHandler = true := rfl
@[simp] theorem Thread.complete_hints (t : Thread) (now : DWord) (h : HintLatch) (b : Bool) : (t.complete now h b).hints = {} := rfl

end Sys2Proof.Machine
end

