-- ==== Sys2Proof/Laws/Memory.lean ====
section
/-! SUPPORT. The laws of lists with a replaced element and of the memory's canonical form: every operation on memory keeps it, a read after a
write gives what was written, and every other byte stays. -/

namespace Sys2Proof.Machine

/-! ### Lists -/

@[simp] theorem length_updateAt {α : Type} (l : List α) (i : Nat) (f : α → α) : (updateAt l i f).length = l.length :=
  List.length_modify f l i

theorem getElem?_updateAt {α : Type} (l : List α) (i j : Nat) (f : α → α) :
    (updateAt l i f)[j]? = if i = j then l[j]?.map f else l[j]? := by
  rw [updateAt, List.getElem?_modify]
  split <;> simp

theorem nth_updateAt {α : Type} (l : List α) (i j : Nat) (f : α → α) (d : α) :
    nth (updateAt l i f) j d = if i = j ∧ j < l.length then f (nth l j d) else nth l j d := by
  simp only [nth, List.getD_eq_getElem?_getD, getElem?_updateAt]
  by_cases h : i = j
  · subst h
    by_cases hl : i < l.length
    · simp [hl]
    · simp [hl]
  · simp [h]

theorem nth_updateAt_of_ne {α : Type} (l : List α) {i j : Nat} (f : α → α) (d : α) (h : i ≠ j) : nth (updateAt l i f) j d = nth l j d := by
  simp [nth_updateAt, h]

/-- The numbers from a are Lean's own range. -/
theorem upFrom_eq_range (a n : Nat) : upFrom a n = List.range' a n := by
  induction n generalizing a with
  | zero => rfl
  | succ n ih => rw [upFrom, ih, List.range'_succ]

theorem mem_upFrom (a n x : Nat) : x ∈ upFrom a n ↔ a ≤ x ∧ x < a + n := by
  rw [upFrom_eq_range, List.mem_range'_1]

@[simp] theorem length_upFrom (a n : Nat) : (upFrom a n).length = n := by
  rw [upFrom_eq_range, List.length_range']

/-! ### Cells -/

theorem cellsAbove_mono (d : Nat → Byte) {lo hi : Nat} (h : lo ≤ hi) (l : List Host.Cell) (hl : cellsAbove d hi l = true) : cellsAbove d lo l = true := by
  cases l with
  | nil => rfl
  | cons c r =>
    simp only [cellsAbove, Bool.and_eq_true, decide_eq_true_eq] at hl ⊢
    exact ⟨⟨by omega, hl.1.2⟩, hl.2⟩

/-- Setting a byte keeps the canonical form. -/
theorem cellsAbove_cellSet (d : Nat → Byte) (l : List Host.Cell) (lo a : Nat) (v : Byte) (hl : cellsAbove d lo l = true) (ha : lo ≤ a) :
    cellsAbove d lo (cellSet d l a v) = true := by
  induction l generalizing lo with
  | nil => rw [cellSet]; split_ifs with h <;> simp [cellsAbove, ha, h]
  | cons c r ih =>
    rcases c with ⟨b, w⟩
    have hl' : (lo ≤ b ∧ w ≠ d b) ∧ cellsAbove d (b + 1) r = true := by simpa [cellsAbove] using hl
    have later : b < a → cellsAbove d (b + 1) (cellSet d r a v) = true := fun hba => ih (b + 1) hl'.2 hba
    rw [cellSet]
    split_ifs with h1 h2 h3 h4
    · exact cellsAbove_mono d (by omega) r hl'.2
    · subst h1; simp [cellsAbove, hl', h2]
    · exact hl
    · simp [cellsAbove, hl', ha, h4, Nat.succ_le_of_lt h3]
    · simp [cellsAbove, hl', later (by omega)]

/-- An address below every entry reads as unlisted. -/
theorem cellGet_below (d : Nat → Byte) (l : List Host.Cell) (lo a : Nat) (hl : cellsAbove d lo l = true) (ha : a < lo) : cellGet d l a = d a := by
  cases l with
  | nil => rfl
  | cons c r =>
    obtain ⟨b, w⟩ := c
    simp only [cellsAbove, Bool.and_eq_true, decide_eq_true_eq] at hl
    have h1 : a ≠ b := by omega
    have h2 : a < b := by omega
    simp [cellGet, h1, h2]

/-- A read after a write: the byte written at its own address, and what stood there at every other. -/
theorem cellGet_cellSet (d : Nat → Byte) (l : List Host.Cell) (lo a b : Nat) (v : Byte) (hl : cellsAbove d lo l = true) :
    cellGet d (cellSet d l a v) b = if b = a then v else cellGet d l b := by
  induction l generalizing lo with
  | nil => rw [cellSet]; split_ifs with h hb <;> simp_all [cellGet]
  | cons c r ih =>
    rcases c with ⟨x, w⟩
    have hr : cellsAbove d (x + 1) r = true := by simp_all [cellsAbove]
    have low : ∀ y, y ≤ x → cellGet d r y = d y := fun y hy => cellGet_below d r (x + 1) y hr (by omega)
    have tail := ih (x + 1) hr
    rw [cellSet]
    split_ifs with h1 h2 h3 hb <;> (try simp only [cellGet]) <;> (try split_ifs) <;> first | omega | (simp_all; done) | rw [low b (by omega)]

/-- A write of the device's memory keeps its canonical form. -/
theorem wf_setMemByte (s : State) (a : Nat) (v : Byte) (h : Memory.wf s.mem = true) : Memory.wf (s.setMemByte a v).mem = true :=
  cellsAbove_cellSet memDefault s.mem 0 a v h (Nat.zero_le a)

theorem memByte_setMemByte (s : State) (a b : Nat) (v : Byte) (h : Memory.wf s.mem = true) :
    (s.setMemByte a v).memByte b = if b = a then v else s.memByte b :=
  cellGet_cellSet memDefault s.mem 0 a b v h

theorem wf_putPhys (s : State) (a : Nat) (v : Byte) (h : Memory.wf s.mem = true) : Memory.wf (s.putPhys a v).mem = true := by
  unfold State.putPhys
  split
  · exact h
  · exact wf_setMemByte s a v h

theorem wf_putLoc (s : State) (l : Loc) (v : Byte) (h : Memory.wf s.mem = true) : Memory.wf (s.putLoc l v).mem = true := by
  unfold State.putLoc
  split
  · exact h
  · exact wf_putPhys s l.addr v h

/-- A fold of steps that each keep the canonical form keeps it. -/
theorem wf_foldl {α : Type} (f : State → α → State) (hf : ∀ s x, Memory.wf s.mem = true → Memory.wf (f s x).mem = true) (l : List α) (s : State)
    (h : Memory.wf s.mem = true) : Memory.wf (l.foldl f s).mem = true := by
  exact List.foldlRecOn l f h fun s hs x _ => hf s x hs

theorem wf_setMemUnit (s : State) (unit : Nat) (places : List Nat) (data : Unit64) (h : Memory.wf s.mem = true) :
    Memory.wf (s.setMemUnit unit places data).mem = true :=
  wf_foldl _ (fun s _ hs => wf_setMemByte s _ _ hs) _ s h

@[simp] theorem dropLine_mem (s : State) (unit : Nat) : (s.dropLine unit).mem = s.mem := rfl

theorem wf_settlePast (s : State) (unit : Nat) (h : Memory.wf s.mem = true) : Memory.wf (s.settlePast unit).mem = true := by
  unfold State.settlePast
  split
  · split
    · rw [dropLine_mem]; exact wf_setMemUnit s _ _ _ h
    · exact h
  · exact h

/-- A request on its way changes no memory. -/
@[simp] theorem send_mem (s : State) (r : LinkReq) (aux : Nat) : (s.send r aux).mem = s.mem := by
  unfold State.send
  simp only
  split <;> split <;> rfl

@[simp] theorem passUnit_mem (s : State) (b : Behalf) (unit : Nat) (bytes : List (Nat × Byte)) : (s.passUnit b unit bytes).mem = s.mem := by
  unfold State.passUnit
  simp only
  split
  · rfl
  · exact send_mem ..

/-- What an engine writes keeps the canonical form: copies brought past the caches leave, the bytes are put, and messages go out. -/
theorem wf_writePhys (s : State) (pas : List Nat) (bs : List Byte) (b : Behalf) (h : Memory.wf s.mem = true) :
    Memory.wf (s.writePhys pas bs b).mem = true := by
  unfold State.writePhys
  refine wf_foldl _ (fun s u hs => by simpa using hs) _ _ ?_
  refine wf_foldl _ (fun s x hs => wf_putPhys s x.1 x.2 hs) _ _ ?_
  exact wf_foldl _ (fun s u hs => wf_settlePast s u hs) _ _ h

theorem wf_reset : Memory.wf State.reset.mem = true := rfl

end Sys2Proof.Machine
end

