-- ==== Sys2Proof/Laws/Meanings.lean ====
section
/-! SUPPORT. What the shared operations do, said once: the wrappers that give a body its guard and its trap, completing a word, taking a trap, and
reaching a thread. -/

namespace Sys2Proof.Machine

/-! ### Reaching a thread -/

theorem State.whoOf_eq (s : State) (k : Nat) (w : Who) (h : s.whoOf k = some w) :
    w.k = k ∧ s.threads[k]? = some w.t ∧ s.troupes[w.trI]? = some w.tr ∧ s.ensembles[w.eI]? = some w.e ∧ s.contexts[w.cI]? = some w.c
      ∧ w.trI = w.t.troupe ∧ w.eI = w.t.ens ∧ w.cI = w.e.ctx := by
  match ht : s.threads[k]?, h with
  | some t, h =>
    match htr : s.troupes[t.troupe]?, he : s.ensembles[t.ens]?, h with
    | some tr, some e, h =>
      match hc : s.contexts[e.ctx]?, h with
      | some c, h =>
        have hw : w = ⟨k, t, t.troupe, tr, t.ens, e, e.ctx, c⟩ := by simpa [State.whoOf, ht, htr, he, hc] using h.symm
        simp [hw, htr, he, hc]
      | none, h => simp [State.whoOf, ht, htr, he, hc] at h
    | none, _, h => simp [State.whoOf, ht, htr] at h
    | some tr, none, h => simp [State.whoOf, ht, htr, he] at h
  | none, h => simp [State.whoOf, ht] at h

theorem State.thread_of_whoOf (s : State) (k : Nat) (w : Who) (h : s.whoOf k = some w) : s.thread w.k = w.t := by
  obtain ⟨hk, ht, -⟩ := s.whoOf_eq k w h
  simp [State.thread, nth, List.getD_eq_getElem?_getD, hk, ht]

theorem State.lt_of_whoOf (s : State) (k : Nat) (w : Who) (h : s.whoOf k = some w) : w.k < s.threads.length := by
  obtain ⟨hk, ht, -⟩ := s.whoOf_eq k w h
  rw [hk]
  exact (List.getElem?_eq_some_iff.mp ht).1

@[simp] theorem State.thread_setThread (s : State) (k : Nat) (t : Thread) (h : k < s.threads.length) : (s.setThread k t).thread k = t := by
  simp [State.thread, nth_updateAt, h]

theorem State.thread_updThread (s : State) (k : Nat) (f : Thread → Thread) (h : k < s.threads.length) :
    (s.updThread k f).thread k = f (s.thread k) := by
  simp [State.thread, nth_updateAt, h]

theorem State.thread_updThread_ne (s : State) {k j : Nat} (f : Thread → Thread) (h : k ≠ j) : (s.updThread k f).thread j = s.thread j := by
  simp [State.thread, nth_updateAt, h]

theorem State.thread_setThread_ne (s : State) {k j : Nat} (t : Thread) (h : k ≠ j) : (s.setThread k t).thread j = s.thread j :=
  s.thread_updThread_ne _ h

/-! ### Taking a trap -/

/-- All that a trap can do: nothing, to its thread, or to its thread and its context's halt line. -/
theorem State.takeTrap_cases (s : State) (k : Nat) (c : Cause) (p a i : DWord) :
    s.takeTrap k c p a i = s ∨ (∃ t, s.takeTrap k c p a i = s.setThread k t) ∨
      ∃ t x r, s.takeTrap k c p a i = (s.setThread k t).raiseHalt x r := by
  simp only [State.takeTrap]
  split
  · exact .inl rfl
  · split
    · exact .inr (.inr ⟨_, _, _, rfl⟩)
    · split <;> exact .inr (.inl ⟨_, rfl⟩)

@[simp] theorem State.takeTrap_clock (s : State) (k : Nat) (c : Cause) (p a i : DWord) : (s.takeTrap k c p a i).clock = s.clock := by
  obtain h | ⟨t, h⟩ | ⟨t, x, r, h⟩ := s.takeTrap_cases k c p a i <;> rw [h] <;> rfl
@[simp] theorem State.takeTrap_moves (s : State) (k : Nat) (c : Cause) (p a i : DWord) : (s.takeTrap k c p a i).moves = s.moves := by
  obtain h | ⟨t, h⟩ | ⟨t, x, r, h⟩ := s.takeTrap_cases k c p a i <;> rw [h] <;> rfl
@[simp] theorem State.takeTrap_schedule (s : State) (k : Nat) (c : Cause) (p a i : DWord) : (s.takeTrap k c p a i).schedule = s.schedule := by
  obtain h | ⟨t, h⟩ | ⟨t, x, r, h⟩ := s.takeTrap_cases k c p a i <;> rw [h] <;> rfl
@[simp] theorem State.takeTrap_cur (s : State) (k : Nat) (c : Cause) (p a i : DWord) : (s.takeTrap k c p a i).cur = s.cur := by
  obtain h | ⟨t, h⟩ | ⟨t, x, r, h⟩ := s.takeTrap_cases k c p a i <;> rw [h] <;> rfl
@[simp] theorem State.takeTrap_viaL1 (s : State) (k : Nat) (c : Cause) (p a i : DWord) : (s.takeTrap k c p a i).viaL1 = s.viaL1 := by
  obtain h | ⟨t, h⟩ | ⟨t, x, r, h⟩ := s.takeTrap_cases k c p a i <;> rw [h] <;> rfl
@[simp] theorem State.takeTrap_mem (s : State) (k : Nat) (c : Cause) (p a i : DWord) : (s.takeTrap k c p a i).mem = s.mem := by
  obtain h | ⟨t, h⟩ | ⟨t, x, r, h⟩ := s.takeTrap_cases k c p a i <;> rw [h] <;> rfl
@[simp] theorem State.takeTrap_troupes (s : State) (k : Nat) (c : Cause) (p a i : DWord) : (s.takeTrap k c p a i).troupes = s.troupes := by
  obtain h | ⟨t, h⟩ | ⟨t, x, r, h⟩ := s.takeTrap_cases k c p a i <;> rw [h] <;> rfl
@[simp] theorem State.takeTrap_ensembles (s : State) (k : Nat) (c : Cause) (p a i : DWord) : (s.takeTrap k c p a i).ensembles = s.ensembles := by
  obtain h | ⟨t, h⟩ | ⟨t, x, r, h⟩ := s.takeTrap_cases k c p a i <;> rw [h] <;> rfl
@[simp] theorem State.takeTrap_launches (s : State) (k : Nat) (c : Cause) (p a i : DWord) : (s.takeTrap k c p a i).launches = s.launches := by
  obtain h | ⟨t, h⟩ | ⟨t, x, r, h⟩ := s.takeTrap_cases k c p a i <;> rw [h] <;> rfl
@[simp] theorem State.takeTrap_queues (s : State) (k : Nat) (c : Cause) (p a i : DWord) : (s.takeTrap k c p a i).queues = s.queues := by
  obtain h | ⟨t, h⟩ | ⟨t, x, r, h⟩ := s.takeTrap_cases k c p a i <;> rw [h] <;> rfl
@[simp] theorem State.takeTrap_cores (s : State) (k : Nat) (c : Cause) (p a i : DWord) : (s.takeTrap k c p a i).cores = s.cores := by
  obtain h | ⟨t, h⟩ | ⟨t, x, r, h⟩ := s.takeTrap_cases k c p a i <;> rw [h] <;> rfl
@[simp] theorem State.takeTrap_cads (s : State) (k : Nat) (c : Cause) (p a i : DWord) : (s.takeTrap k c p a i).cads = s.cads := by
  obtain h | ⟨t, h⟩ | ⟨t, x, r, h⟩ := s.takeTrap_cases k c p a i <;> rw [h] <;> rfl
@[simp] theorem State.takeTrap_ptrs (s : State) (k : Nat) (c : Cause) (p a i : DWord) : (s.takeTrap k c p a i).ptrs = s.ptrs := by
  obtain h | ⟨t, h⟩ | ⟨t, x, r, h⟩ := s.takeTrap_cases k c p a i <;> rw [h] <;> rfl
@[simp] theorem State.takeTrap_stamp (s : State) (k : Nat) (c : Cause) (p a i : DWord) : (s.takeTrap k c p a i).stamp = s.stamp := by
  obtain h | ⟨t, h⟩ | ⟨t, x, r, h⟩ := s.takeTrap_cases k c p a i <;> rw [h] <;> rfl
@[simp] theorem State.takeTrap_badSectors (s : State) (k : Nat) (c : Cause) (p a i : DWord) : (s.takeTrap k c p a i).badSectors = s.badSectors := by
  obtain h | ⟨t, h⟩ | ⟨t, x, r, h⟩ := s.takeTrap_cases k c p a i <;> rw [h] <;> rfl
@[simp] theorem State.takeTrap_copies (s : State) (k : Nat) (c : Cause) (p a i : DWord) : (s.takeTrap k c p a i).copies = s.copies := by
  obtain h | ⟨t, h⟩ | ⟨t, x, r, h⟩ := s.takeTrap_cases k c p a i <;> rw [h] <;> rfl
@[simp] theorem State.takeTrap_rigger (s : State) (k : Nat) (c : Cause) (p a i : DWord) : (s.takeTrap k c p a i).rigger = s.rigger := by
  obtain h | ⟨t, h⟩ | ⟨t, x, r, h⟩ := s.takeTrap_cases k c p a i <;> rw [h] <;> rfl
@[simp] theorem State.takeTrap_structs (s : State) (k : Nat) (c : Cause) (p a i : DWord) : (s.takeTrap k c p a i).structs = s.structs := by
  obtain h | ⟨t, h⟩ | ⟨t, x, r, h⟩ := s.takeTrap_cases k c p a i <;> rw [h] <;> rfl
@[simp] theorem State.takeTrap_passes (s : State) (k : Nat) (c : Cause) (p a i : DWord) : (s.takeTrap k c p a i).passes = s.passes := by
  obtain h | ⟨t, h⟩ | ⟨t, x, r, h⟩ := s.takeTrap_cases k c p a i <;> rw [h] <;> rfl
@[simp] theorem State.takeTrap_tlb (s : State) (k : Nat) (c : Cause) (p a i : DWord) : (s.takeTrap k c p a i).tlb = s.tlb := by
  obtain h | ⟨t, h⟩ | ⟨t, x, r, h⟩ := s.takeTrap_cases k c p a i <;> rw [h] <;> rfl
@[simp] theorem State.takeTrap_xlreqs (s : State) (k : Nat) (c : Cause) (p a i : DWord) : (s.takeTrap k c p a i).xlreqs = s.xlreqs := by
  obtain h | ⟨t, h⟩ | ⟨t, x, r, h⟩ := s.takeTrap_cases k c p a i <;> rw [h] <;> rfl
@[simp] theorem State.takeTrap_pgreqs (s : State) (k : Nat) (c : Cause) (p a i : DWord) : (s.takeTrap k c p a i).pgreqs = s.pgreqs := by
  obtain h | ⟨t, h⟩ | ⟨t, x, r, h⟩ := s.takeTrap_cases k c p a i <;> rw [h] <;> rfl
@[simp] theorem State.takeTrap_xlwaits (s : State) (k : Nat) (c : Cause) (p a i : DWord) : (s.takeTrap k c p a i).xlwaits = s.xlwaits := by
  obtain h | ⟨t, h⟩ | ⟨t, x, r, h⟩ := s.takeTrap_cases k c p a i <;> rw [h] <;> rfl
@[simp] theorem State.takeTrap_xlinvs (s : State) (k : Nat) (c : Cause) (p a i : DWord) : (s.takeTrap k c p a i).xlinvs = s.xlinvs := by
  obtain h | ⟨t, h⟩ | ⟨t, x, r, h⟩ := s.takeTrap_cases k c p a i <;> rw [h] <;> rfl
@[simp] theorem State.takeTrap_link (s : State) (k : Nat) (c : Cause) (p a i : DWord) : (s.takeTrap k c p a i).link = s.link := by
  obtain h | ⟨t, h⟩ | ⟨t, x, r, h⟩ := s.takeTrap_cases k c p a i <;> rw [h] <;> rfl
@[simp] theorem State.takeTrap_gaffer (s : State) (k : Nat) (c : Cause) (p a i : DWord) : (s.takeTrap k c p a i).gaffer = s.gaffer := by
  obtain h | ⟨t, h⟩ | ⟨t, x, r, h⟩ := s.takeTrap_cases k c p a i <;> rw [h] <;> rfl

/-- What raising a halt line does to a thread: in the halting context an entry of this ac is undone (R347), and every other thread stands. -/
theorem State.raiseHalt_thread (s : State) (c j : Nat) (r : Raiser) :
    (s.raiseHalt c r).thread j = if (s.ens (s.thread j).ens).ctx = c then (s.thread j).undoEntry s.clock else s.thread j := by
  cases h : s.threads[j]? <;> simp [State.raiseHalt, State.updCtx, State.thread, State.ens, nth, List.getD_eq_getElem?_getD, h, Thread.undoEntry]

/-- A trap changes no thread but its own; beside it only what the halt line undoes. -/
theorem State.takeTrap_thread_ne (s : State) {k j : Nat} (c : Cause) (p a i : DWord) (h : k ≠ j) :
    (s.takeTrap k c p a i).thread j = s.thread j ∨ (s.takeTrap k c p a i).thread j = (s.thread j).undoEntry s.clock := by
  obtain e | ⟨t, e⟩ | ⟨t, x, r, e⟩ := s.takeTrap_cases k c p a i <;> rw [e]
  · exact .inl rfl
  · exact .inl (s.thread_setThread_ne _ h)
  · rw [State.raiseHalt_thread, s.thread_setThread_ne t h]
    split
    · exact .inr rfl
    · exact .inl rfl

/-- Where a handler is configured, the thread is outside it and nothing is outstanding, the trap enters the handler at once. -/
theorem State.takeTrap_enter (s : State) (k : Nat) (w : Who) (c : Cause) (p a i : DWord) (hw : s.whoOf k = some w) (hh : w.c.handler ≠ 0)
    (hi : w.t.inHandler = false) (hq : w.t.quiet = true) (hl : w.c.halt = none) :
    s.takeTrap k c p a i = s.setThread k (({ w.t with armStep := false, armSkip := false } : Thread).enterHandler s.clock w.c.handler c p a i) := by
  unfold State.takeTrap
  rw [hw]
  dsimp only
  rw [if_neg (by rw [hi, Bool.or_false, decide_eq_true_eq]; exact hh), if_pos (by rw [hl]; simpa [Thread.quiet] using hq)]

/-! ### Completing a word -/

@[simp] theorem State.finish_clock (s : State) (k : Nat) (t0 : Thread) : (s.finish k t0).clock = s.clock := by
  simp only [State.finish]; split <;> simp
@[simp] theorem State.retire_clock (s : State) (k : Nat) (t0 : Thread) : (s.retire k t0).clock = s.clock := by simp [State.retire]
@[simp] theorem State.finish_moves (s : State) (k : Nat) (t0 : Thread) : (s.finish k t0).moves = s.moves := by
  simp only [State.finish]; split <;> simp
@[simp] theorem State.retire_moves (s : State) (k : Nat) (t0 : Thread) : (s.retire k t0).moves = s.moves := by simp [State.retire]
@[simp] theorem State.finish_schedule (s : State) (k : Nat) (t0 : Thread) : (s.finish k t0).schedule = s.schedule := by
  simp only [State.finish]; split <;> simp
@[simp] theorem State.retire_schedule (s : State) (k : Nat) (t0 : Thread) : (s.retire k t0).schedule = s.schedule := by simp [State.retire]
@[simp] theorem State.finish_cur (s : State) (k : Nat) (t0 : Thread) : (s.finish k t0).cur = s.cur := by
  simp only [State.finish]; split <;> simp
@[simp] theorem State.retire_cur (s : State) (k : Nat) (t0 : Thread) : (s.retire k t0).cur = s.cur := by simp [State.retire]
@[simp] theorem State.finish_viaL1 (s : State) (k : Nat) (t0 : Thread) : (s.finish k t0).viaL1 = s.viaL1 := by
  simp only [State.finish]; split <;> simp
@[simp] theorem State.retire_viaL1 (s : State) (k : Nat) (t0 : Thread) : (s.retire k t0).viaL1 = s.viaL1 := by simp [State.retire]
@[simp] theorem State.finish_mem (s : State) (k : Nat) (t0 : Thread) : (s.finish k t0).mem = s.mem := by
  simp only [State.finish]; split <;> simp
@[simp] theorem State.retire_mem (s : State) (k : Nat) (t0 : Thread) : (s.retire k t0).mem = s.mem := by simp [State.retire]
@[simp] theorem State.finish_troupes (s : State) (k : Nat) (t0 : Thread) : (s.finish k t0).troupes = s.troupes := by
  simp only [State.finish]; split <;> simp
@[simp] theorem State.retire_troupes (s : State) (k : Nat) (t0 : Thread) : (s.retire k t0).troupes = s.troupes := by simp [State.retire]
@[simp] theorem State.finish_ensembles (s : State) (k : Nat) (t0 : Thread) : (s.finish k t0).ensembles = s.ensembles := by
  simp only [State.finish]; split <;> simp
@[simp] theorem State.retire_ensembles (s : State) (k : Nat) (t0 : Thread) : (s.retire k t0).ensembles = s.ensembles := by simp [State.retire]
@[simp] theorem State.finish_launches (s : State) (k : Nat) (t0 : Thread) : (s.finish k t0).launches = s.launches := by
  simp only [State.finish]; split <;> simp
@[simp] theorem State.retire_launches (s : State) (k : Nat) (t0 : Thread) : (s.retire k t0).launches = s.launches := by simp [State.retire]
@[simp] theorem State.finish_queues (s : State) (k : Nat) (t0 : Thread) : (s.finish k t0).queues = s.queues := by
  simp only [State.finish]; split <;> simp
@[simp] theorem State.retire_queues (s : State) (k : Nat) (t0 : Thread) : (s.retire k t0).queues = s.queues := by simp [State.retire]
@[simp] theorem State.finish_cores (s : State) (k : Nat) (t0 : Thread) : (s.finish k t0).cores = s.cores := by
  simp only [State.finish]; split <;> simp
@[simp] theorem State.retire_cores (s : State) (k : Nat) (t0 : Thread) : (s.retire k t0).cores = s.cores := by simp [State.retire]
@[simp] theorem State.finish_cads (s : State) (k : Nat) (t0 : Thread) : (s.finish k t0).cads = s.cads := by
  simp only [State.finish]; split <;> simp
@[simp] theorem State.retire_cads (s : State) (k : Nat) (t0 : Thread) : (s.retire k t0).cads = s.cads := by simp [State.retire]
@[simp] theorem State.finish_ptrs (s : State) (k : Nat) (t0 : Thread) : (s.finish k t0).ptrs = s.ptrs := by
  simp only [State.finish]; split <;> simp
@[simp] theorem State.retire_ptrs (s : State) (k : Nat) (t0 : Thread) : (s.retire k t0).ptrs = s.ptrs := by simp [State.retire]
@[simp] theorem State.finish_stamp (s : State) (k : Nat) (t0 : Thread) : (s.finish k t0).stamp = s.stamp := by
  simp only [State.finish]; split <;> simp
@[simp] theorem State.retire_stamp (s : State) (k : Nat) (t0 : Thread) : (s.retire k t0).stamp = s.stamp := by simp [State.retire]
@[simp] theorem State.finish_badSectors (s : State) (k : Nat) (t0 : Thread) : (s.finish k t0).badSectors = s.badSectors := by
  simp only [State.finish]; split <;> simp
@[simp] theorem State.retire_badSectors (s : State) (k : Nat) (t0 : Thread) : (s.retire k t0).badSectors = s.badSectors := by simp [State.retire]
@[simp] theorem State.finish_copies (s : State) (k : Nat) (t0 : Thread) : (s.finish k t0).copies = s.copies := by
  simp only [State.finish]; split <;> simp
@[simp] theorem State.retire_copies (s : State) (k : Nat) (t0 : Thread) : (s.retire k t0).copies = s.copies := by simp [State.retire]
@[simp] theorem State.finish_rigger (s : State) (k : Nat) (t0 : Thread) : (s.finish k t0).rigger = s.rigger := by
  simp only [State.finish]; split <;> simp
@[simp] theorem State.retire_rigger (s : State) (k : Nat) (t0 : Thread) : (s.retire k t0).rigger = s.rigger := by simp [State.retire]
@[simp] theorem State.finish_structs (s : State) (k : Nat) (t0 : Thread) : (s.finish k t0).structs = s.structs := by
  simp only [State.finish]; split <;> simp
@[simp] theorem State.retire_structs (s : State) (k : Nat) (t0 : Thread) : (s.retire k t0).structs = s.structs := by simp [State.retire]
@[simp] theorem State.finish_passes (s : State) (k : Nat) (t0 : Thread) : (s.finish k t0).passes = s.passes := by
  simp only [State.finish]; split <;> simp
@[simp] theorem State.retire_passes (s : State) (k : Nat) (t0 : Thread) : (s.retire k t0).passes = s.passes := by simp [State.retire]
@[simp] theorem State.finish_tlb (s : State) (k : Nat) (t0 : Thread) : (s.finish k t0).tlb = s.tlb := by
  simp only [State.finish]; split <;> simp
@[simp] theorem State.retire_tlb (s : State) (k : Nat) (t0 : Thread) : (s.retire k t0).tlb = s.tlb := by simp [State.retire]
@[simp] theorem State.finish_xlreqs (s : State) (k : Nat) (t0 : Thread) : (s.finish k t0).xlreqs = s.xlreqs := by
  simp only [State.finish]; split <;> simp
@[simp] theorem State.retire_xlreqs (s : State) (k : Nat) (t0 : Thread) : (s.retire k t0).xlreqs = s.xlreqs := by simp [State.retire]
@[simp] theorem State.finish_pgreqs (s : State) (k : Nat) (t0 : Thread) : (s.finish k t0).pgreqs = s.pgreqs := by
  simp only [State.finish]; split <;> simp
@[simp] theorem State.retire_pgreqs (s : State) (k : Nat) (t0 : Thread) : (s.retire k t0).pgreqs = s.pgreqs := by simp [State.retire]
@[simp] theorem State.finish_xlwaits (s : State) (k : Nat) (t0 : Thread) : (s.finish k t0).xlwaits = s.xlwaits := by
  simp only [State.finish]; split <;> simp
@[simp] theorem State.retire_xlwaits (s : State) (k : Nat) (t0 : Thread) : (s.retire k t0).xlwaits = s.xlwaits := by simp [State.retire]
@[simp] theorem State.finish_xlinvs (s : State) (k : Nat) (t0 : Thread) : (s.finish k t0).xlinvs = s.xlinvs := by
  simp only [State.finish]; split <;> simp
@[simp] theorem State.retire_xlinvs (s : State) (k : Nat) (t0 : Thread) : (s.retire k t0).xlinvs = s.xlinvs := by simp [State.retire]
@[simp] theorem State.finish_link (s : State) (k : Nat) (t0 : Thread) : (s.finish k t0).link = s.link := by
  simp only [State.finish]; split <;> simp
@[simp] theorem State.retire_link (s : State) (k : Nat) (t0 : Thread) : (s.retire k t0).link = s.link := by simp [State.retire]
@[simp] theorem State.finish_gaffer (s : State) (k : Nat) (t0 : Thread) : (s.finish k t0).gaffer = s.gaffer := by
  simp only [State.finish]; split <;> simp
@[simp] theorem State.retire_gaffer (s : State) (k : Nat) (t0 : Thread) : (s.retire k t0).gaffer = s.gaffer := by simp [State.retire]

/-- A word that completes outside single step: only its own thread changes, which goes on to the next word. -/
theorem State.retire_eq (s : State) (k : Nat) (t0 : Thread) (h : t0.armStep = false) :
    s.retire k t0 = (s.updThread k Thread.advance).updThread k fun t => t.complete s.clock t0.hints t0.inHandler := by
  simp [State.retire, State.finish, h]

theorem State.finish_thread_ne (s : State) {k j : Nat} (t0 : Thread) (h : k ≠ j) :
    (s.finish k t0).thread j = s.thread j ∨ (s.finish k t0).thread j = (s.thread j).undoEntry s.clock := by
  simp only [State.finish]
  split
  · simpa [State.thread_updThread_ne _ _ h] using
      (s.updThread k fun t => t.complete s.clock t0.hints t0.inHandler).takeTrap_thread_ne .singleStep
        (((s.updThread k fun t => t.complete s.clock t0.hints t0.inHandler).thread k).pc) 0 0 h
  · exact .inl (State.thread_updThread_ne _ _ h)

theorem State.retire_thread_ne (s : State) {k j : Nat} (t0 : Thread) (h : k ≠ j) :
    (s.retire k t0).thread j = s.thread j ∨ (s.retire k t0).thread j = (s.thread j).undoEntry s.clock := by
  simpa [State.retire, State.thread_updThread_ne _ _ h] using (s.updThread k Thread.advance).finish_thread_ne t0 h

/-- Outside single step a word that completes changes no other thread. -/
theorem State.retire_thread_other (s : State) {k j : Nat} (t0 : Thread) (h : k ≠ j) (ha : t0.armStep = false) :
    (s.retire k t0).thread j = s.thread j := by
  rw [State.retire_eq s k t0 ha, State.thread_updThread_ne _ _ h, State.thread_updThread_ne _ _ h]

/-! ### Stops -/

/-- A trap of a word is its thread's merge of flags and the shared trap. -/
theorem State.stopped_trap (s : State) (w : Who) (c : Cause) (a i : DWord) (fl : Nat) :
    s.stopped w (.trap c a i fl) = (s.updThread w.k (fun t => t.merge fl)).takeTrap w.k c w.t.pc a i := rfl

/-! ### Meanings -/

theorem runWord_ok {s s' : State} {w : Who} {g : PredField} {body : Who → Except Stop State} (h : Executes s w g) (hb : body w = .ok s') :
    runWord s g body = s'.wordDone w := by
  simp [runWord, h.1, h.2, hb, State.wordDone]

theorem runWord_error {s : State} {w : Who} {g : PredField} {body : Who → Except Stop State} {e : Stop} (h : Executes s w g)
    (hb : body w = .error e) : runWord s g body = .next (s.stopped w e) := by
  simp [runWord, h.1, h.2, hb]

theorem runWord_false {s : State} {w : Who} {g : PredField} {body : Who → Except Stop State} (h : s.whoOf s.cur = some w)
    (hg : w.t.guard g = false) : runWord s g body = .next (s.retire w.k w.t) := by
  simp [runWord, h, hg]

theorem runThread_ok {s : State} {w : Who} {g : PredField} {body : Thread → Except Stop Thread} {t : Thread} (h : Executes s w g)
    (hb : body w.t = .ok t) : runThread s g body = s.threadDone w t :=
  runWord_ok h (by simp [hb, Except.map])

theorem runThread_error {s : State} {w : Who} {g : PredField} {body : Thread → Except Stop Thread} {e : Stop} (h : Executes s w g)
    (hb : body w.t = .error e) : runThread s g body = .next (s.stopped w e) :=
  runWord_error h (by simp [hb, Except.map])

theorem runThread_false {s : State} {w : Who} {g : PredField} {body : Thread → Except Stop Thread} (h : s.whoOf s.cur = some w)
    (hg : w.t.guard g = false) : runThread s g body = .next (s.retire w.k w.t) :=
  runWord_false h hg

theorem runJump_ok {s s' : State} {w : Who} {g : PredField} {body : Who → Except Stop State} (h : Executes s w g) (hb : body w = .ok s') :
    runJump s g body = s'.jumpDone w := by
  simp [runJump, h.1, h.2, hb, State.jumpDone]

/-- A word of a thread that exists always goes on. -/
theorem runWord_next {s : State} {w : Who} (h : s.whoOf s.cur = some w) (g : PredField) (body : Who → Except Stop State) :
    ∃ t, runWord s g body = .next t := by
  simp only [runWord, h]
  split
  · split <;> exact ⟨_, rfl⟩
  · exact ⟨_, rfl⟩

theorem runThread_next {s : State} {w : Who} (h : s.whoOf s.cur = some w) (g : PredField) (body : Thread → Except Stop Thread) :
    ∃ t, runThread s g body = .next t := runWord_next h g _

theorem runJump_next {s : State} {w : Who} (h : s.whoOf s.cur = some w) (g : PredField) (body : Who → Except Stop State) :
    ∃ t, runJump s g body = .next t := by
  simp only [runJump, h]
  split
  · split <;> exact ⟨_, rfl⟩
  · exact ⟨_, rfl⟩

theorem runRendezvous_next {s : State} {w : Who} (h : s.whoOf s.cur = some w) (i : Instr) (g : PredField) (m : RegField)
    (check : Thread → Except Stop Unit) (done : List (Nat × Nat) → State → State) : ∃ t, runRendezvous s i g m check done = .next t := by
  simp only [runRendezvous, h]
  split
  · split <;> exact ⟨_, rfl⟩
  · exact ⟨_, rfl⟩

theorem runCall_next {s : State} {w : Who} (h : s.whoOf s.cur = some w) (g : PredField) (body : Who → Except Stop State) :
    ∃ t, runCall s g body = .next t := by
  simp only [runCall, h]
  split
  · split <;> exact ⟨_, rfl⟩
  · exact ⟨_, rfl⟩

theorem runBarrier_next {s : State} {w : Who} (h : s.whoOf s.cur = some w) (g : PredField) (sc : Scope) (join : Who → State) :
    ∃ t, runBarrier s g sc join = .next t := by
  simp only [runBarrier, h]
  split
  · exact ⟨_, rfl⟩
  · split <;> exact ⟨_, rfl⟩

/-! ### Completion flags and arithmetic -/

theorem Thread.raiseFlags_ok {t : Thread} {fs : List Nat} (h : t.Room fs) : t.raiseFlags fs = .ok (t.raised fs) := by
  have : ¬ (t.raised fs).flags.any (fun c => decide (63 < c)) = true := by
    simp only [List.any_eq_true, not_exists, not_and]
    intro c hc
    have := h c hc
    simp only [decide_eq_true_eq]
    omega
  simp only [Thread.raised] at this
  simp only [Thread.raiseFlags, Thread.raised, if_neg this]

theorem Thread.owe_ok {t : Thread} {o : Obligation} (h : t.Room [o.flag]) : t.owe o = .ok (t.owing o) := by
  simp [Thread.owe, Thread.raiseFlags_ok h, Except.map, Thread.owing, Thread.raised]

theorem Thread.oweRegs_ok {t : Thread} {d : Nat} {vs : List Word} {tag : Tag} (h : t.Room [t.fa]) :
    t.oweRegs d vs tag = .ok (t.owing (t.oweA d vs tag)) :=
  Thread.owe_ok (o := t.oweA d vs tag) h

/-- A word of one thread that ends in arithmetic on what it has read: its exception, or its result with the flags merged (R109). -/
theorem runThread_arith {s : State} {w : Who} {g : PredField} {x : Fetched} {fl : Nat} {elems : List Nat} {done : Thread → Thread}
    {body : Thread → Except Stop Thread} (h : Executes s w g) (hb : body w.t = (x.arith fl elems).map done) :
    runThread s g body = s.arithDone w x fl elems done := by
  simp only [State.arithDone, Fetched.arith] at *
  split <;> rename_i hz
  · exact runThread_ok h (by rw [hb, if_neg (by simpa using hz)]; rfl)
  · exact runThread_error h (by rw [hb, if_pos (by simpa using hz)]; rfl)

/-! ### What a fetch leaves -/

/-- Reading the operands only merges the flags that its port conversions raised (R71, R109). -/
theorem Thread.fetch_t {t : Thread} {dsts : List Grp} {srcs : List Src} {x : Fetched} (h : t.fetch dsts srcs = .ok x) : x.t = t.merge x.fl := by
  revert h
  simp only [Thread.fetch, fail]
  split_ifs <;> intro h
  all_goals try exact h.elim
  split at h <;> cases h; rfl

/-- The thread that a fetch leaves stands where the thread stood. -/
theorem State.whoOf_fetch {s : State} {w : Who} {k : Nat} {dsts : List Grp} {srcs : List Src} {x : Fetched} (hw : s.whoOf k = some w)
    (hx : w.t.fetch dsts srcs = .ok x) : (s.setThread w.k x.t).whoOf k = some { w with t := x.t } := by
  obtain ⟨rfl, ht, htr, he, hc, h1, h2, h3⟩ := s.whoOf_eq k w hw
  have hx' := Thread.fetch_t hx
  have e1 : x.t.troupe = w.t.troupe := by rw [hx']; rfl
  have e2 : x.t.ens = w.t.ens := by rw [hx']; rfl
  have hn : (s.setThread w.k x.t).threads[w.k]? = some x.t := by simp [getElem?_updateAt, ht]
  rw [h1] at htr; rw [h2] at he; rw [h3] at hc
  simp only [State.whoOf, hn, e1, e2]
  simp [State.setThread, htr, he, hc, h1, h2, h3]

/-! ### Rendezvous -/

theorem State.meet_of_gathered {s : State} {w : Who} {i : Instr} {m : DWord} {here : List (Nat × Nat)} {done : List (Nat × Nat) → State → State}
    (h : Gathered s w i m here) :
    s.meet w i m done = done here (s.updThread w.k fun t => { t with status := .arrived i m }) := by
  obtain ⟨h1, h2, h3, h4, h5, h6, h7⟩ := h
  unfold State.meet
  simp only [← h1]
  rw [if_neg, if_pos]
  · simp only [List.all_eq_true, Bool.or_eq_true, Bool.not_eq_true', List.any_eq_true, beq_iff_eq]
    intro x hx
    cases hb : bitAt (m.toNat % 65536) x.1
    · simp
    · rcases h7 x hx hb with h | h
      · exact .inl (.inr ⟨x, h, rfl⟩)
      · exact .inr h
  · have e1 : (onesOf (m.toNat % 65536) 16).any (fun l => !(s.crewOf w.tr w.t.crew).any fun x => x.1 == l) = false := by
      simp only [List.any_eq_false, onesOf, List.mem_filter]
      rintro l ⟨hl, hb⟩
      have : l < 16 := by
        simp [upFrom] at hl; omega
      obtain ⟨x, hx, rfl⟩ := h3 l this hb
      simpa using ⟨_, hx⟩
    have e2 : (!isSplitWord i && (s.crewOf w.tr w.t.crew).any fun x => bitAt (m.toNat % 65536) x.1 && (s.thread x.2).status == .exited) = false := by
      cases hi : isSplitWord i
      · simp only [Bool.not_false, Bool.true_and, List.any_eq_false, Bool.and_eq_true, beq_iff_eq, not_and]
        exact fun x hx hb => h4 hi x hx hb
      · rfl
    have e3 : (here.any fun x => ((s.updThread w.k fun t => { t with status := .arrived i m }).thread x.2).arrivalKey != some m) = false := by
      simp only [List.any_eq_false, bne_iff_ne, ne_eq, not_not]
      exact h5
    rw [e1, e2, e3, h2]
    simp only [Bool.not_true, Bool.or_self, Bool.false_or, Bool.not_eq_true', Bool.not_eq_false]
    rw [List.isEmpty_iff]
    have none_elsewhere : ∀ q : DWord × Nat,
        (∃ x ∈ s.crewOf w.tr w.t.crew, (s.thread x.2).pc = q.1 ∧ ∃ n, (s.thread x.2).arrivalMask = some n ∧
          (bitAt n w.t.lane = true ∨ bitAt (m.toNat % 65536) x.1 = true)) → q.1 = w.t.pc := by
      rintro q ⟨x, hx, hq, n, hn, hb⟩
      by_contra hne
      have := h6 x hx (hq ▸ hne) n hn
      simp_all
    rw [List.dedup_eq_nil, List.filter_eq_nil_iff]
    intro q hq
    have := none_elsewhere q (by
      rcases List.mem_append.mp hq with hq | hq
      · obtain ⟨p, hp, rfl⟩ := List.mem_map.mp hq
        simp only [State.pcsNaming, List.mem_dedup, List.mem_filterMap] at hp
        obtain ⟨x, hx, hp⟩ := hp
        cases hn : (s.thread x.2).arrivalMask with
        | none => simp [hn] at hp
        | some n =>
          rw [hn, Option.ite_none_right_eq_some] at hp
          exact ⟨x, hx, by simpa using hp.2, n, hn, .inl hp.1⟩
      · obtain ⟨x, hx, hp⟩ := List.mem_filterMap.mp hq
        split_ifs at hp with hb
        cases hp
        obtain ⟨hb, n, hn⟩ := by simpa [Option.isSome_iff_exists] using hb
        exact ⟨x, hx, rfl, n, hn, .inr hb⟩)
    simp [this]

theorem State.arrive_of_gathered {s : State} {w : Who} {i : Instr} {v : Word} {here : List (Nat × Nat)}
    {done : List (Nat × Nat) → State → State} (h : Gathered s w i (w64 (v.toNat % 65536)) here) :
    Host.Outcome.next (s.arrive w i v done) = s.leaveAll w i (w64 (v.toNat % 65536)) here (done here) := by
  rw [State.arrive, State.meet_of_gathered h, State.leaveAll]

end Sys2Proof.Machine
end

