-- ==== Sys2Proof/Tests/Slice0.lean ====
section
/-! SUPPORT. The model's own tests: words written out from the encoding tables, ill-formed terms that the check refuses, single steps whose results
come from the reference's rules, and for each statement a state and operands that meet its hypotheses. -/

namespace Sys2Proof.Tests

open Sys2Proof Sys2Proof.Machine

set_option Elab.async false

/-! ### A small device -/

/-- x0 to x15 hold their numbers, the pairs from x16 to x47 the addresses 0x1000, 0x1200, …, x48 to x63 zero, x64 to x79 F32 patterns (1, a quiet and a
signalling NaN, both infinities, both zeros, 2.5, and ones), x80 to
x95 zeros with the sixteen tags in the order of their codes, x96 to x127 zeros. -/
def demoRegs : List Reg :=
  (List.range 16).map (fun n => { val := w32 n }) ++
  (List.range 32).map (fun n => { val := if n % 2 = 0 then w32 (0x1000 + 0x100 * n) else 0 }) ++
  List.replicate 16 ({} : Reg) ++ [0x3F800000, 0x7FC00000, 0x7F800001, 0x7F800000, 0xFF800000, 0, 0x80000000, 0x40200000].map (fun v => { val := v, tag := .f32 }) ++
  List.replicate 8 { val := 0x3F800000, tag := .f32 } ++
  (List.range 16).map (fun n => { tag := Tag.ofCode n }) ++ List.replicate 32 ({} : Reg)

def demoThread : Thread :=
  { regs := demoRegs, pc := 4, clause := { header := 0, len := 8, pos := 0, fa := 0, fb := 1 }, rsp := 0x2000, rsl := 0x1000, stackTop := 0x3000 }
def demoTroupe : Troupe := { threads := [0], cleared := true, slice := 32768, latches := [none] }
def demoEns : Ensemble := { packet := onePacket, phase := .resident, cores := [0], troupes := [0] }
def demoCtx : Ctx := {}
/-- 64 KiB of memory at address 0, readable, writable and executable, its translation in the first-level TLB of core 0. -/
def demoPage : TlbEntry :=
  { asid := 0, first := some 0, group := 0, base := 0, size := 65536, frame := 0, read := true, write := true, exec := true, policy := .wb,
    tracked := false }

/-- A device that is on and whose one thread is the one given, in the troupe, ensemble and context given. -/
def demoOf (t : Thread) (tr : Troupe) (e : Ensemble) (c : Ctx) : State :=
  { State.reset with
    threads := [t], troupes := [tr], ensembles := [e], contexts := [c], tlb := [demoPage], queues := [{}],
    launches := [{ packet := onePacket, placed := 1, started := true, live := 1 }],
    gaffer := { ready := 0x7F, grp := 0xFFFFFF, state := .on }, link := { up := true, modules := 0xFFFF, training := false } }
def demoWho (t : Thread) (tr : Troupe) (e : Ensemble) (c : Ctx) : Who := ⟨0, t, 0, tr, 0, e, 0, c⟩
def demo (t : Thread) : State := demoOf t demoTroupe demoEns demoCtx
def who (t : Thread) : Who := demoWho t demoTroupe demoEns demoCtx

/-- A computation that answers, with an answer that has a property. -/
def Answers {α : Type} (e : Except Stop α) (p : α → Bool) : Prop := ∃ x, e = .ok x ∧ p x = true

theorem answers {α : Type} {e : Except Stop α} {p : α → Bool} (h : e.toOption.any p = true) : Answers e p := by
  cases e with
  | error e => simp [Except.toOption] at h
  | ok x => exact ⟨x, rfl, by simpa [Except.toOption] using h⟩

/-- Reading these operands of a thread succeeds. -/
abbrev Reads (t : Thread) (dsts : List Grp) (srcs : List Src) : Prop := Answers (t.fetch dsts srcs) fun _ => true

/-- The same for an instruction that raises no flag when it reads. -/
abbrev ReadsQuiet (t : Thread) (dsts : List Grp) (srcs : List Src) : Prop := Answers (t.fetchQuiet dsts srcs) fun _ => true

theorem demo_guard : demoThread.guard 7 = true := by decide

theorem demo_executes : Executes (demo demoThread) (who demoThread) 7 := ⟨rfl, by decide⟩

/-- A record whose fields are given by byte offset. -/
def recordOf (fields : List (Nat × Nat)) : Nat := fields.foldl (fun n x => n + x.2 * 2 ^ (8 * x.1)) 0
/-- Memory that holds an n-byte record at an address, and zeros elsewhere. -/
def cellsOf (a n v : Nat) : List Host.Cell := ((upFrom a n).zip (toBytes v n)).filter (·.2 != 0)

/-! ### Hypotheses that are met: words of one thread -/

theorem witness_IntegerSums : Executes (demo demoThread) (who demoThread) 7 ∧
    Reads demoThread [wr1 1] [rd1 2 [.b32], demoThread.bOperand 3 [.b32]] ∧
    Reads demoThread [wr1 1] [rd1 2 [.b32], .imm (demoThread.imm9 511 true) .b32] :=
  ⟨demo_executes, answers (by decide +kernel), answers (by decide +kernel)⟩

theorem witness_IntegerProducts : Executes (demo demoThread) (who demoThread) 7 ∧
    Reads demoThread [wr1 4] [rd1 2 [.b32], demoThread.bOperand 3 [.b32]] ∧
    Reads demoThread [wr1 4] [rd1 2 [.b32], demoThread.bOperand 3 [.b32], rd1 4 [.b32]] ∧
    Reads demoThread [wr2 4] [rd1 2 [.b32], demoThread.bOperand 3 [.b32], rd2 4 [.b32]] ∧
    Reads demoThread [wr2 4] [rd2 2 [.b32], demoThread.bOperand 3 [.b32]] :=
  ⟨demo_executes, answers (by decide +kernel), answers (by decide +kernel), answers (by decide +kernel), answers (by decide +kernel)⟩

theorem witness_IntegerMinMax : Executes (demo demoThread) (who demoThread) 7 ∧
    Reads demoThread [wr1 1] [rd1 2 [.b32], demoThread.bOperand 3 [.b32]] :=
  ⟨demo_executes, answers (by decide +kernel)⟩

theorem witness_Logic : Executes (demo demoThread) (who demoThread) 7 ∧
    Reads demoThread [wr1 1] [rd1 64 [], demoThread.bOperand 3 []] ∧ Reads demoThread [wr1 1] [rd1 64 []] :=
  ⟨demo_executes, answers (by decide +kernel), answers (by decide +kernel)⟩

theorem witness_Shifts : Executes (demo demoThread) (who demoThread) 7 ∧
    Reads demoThread [wr1 127] [rd1 2 [], demoThread.bOperand 3 []] ∧ Reads demoThread [wr1 127] [rd1 2 []] :=
  ⟨demo_executes, answers (by decide +kernel), answers (by decide +kernel)⟩

theorem witness_BitFields : Executes (demo demoThread) (who demoThread) 7 ∧
    Reads demoThread [wr1 1] [rd1 2 [], demoThread.bOperand 3 []] ∧
    Reads demoThread [wr1 1] [rd1 2 [], demoThread.bOperand 3 [], rd1 1 []] ∧
    Reads demoThread [wr1 1] [rd1 2 [], demoThread.bOperand 3 [], .regs (demoThread.hints.cReg.getD 1) 1 1 []] :=
  ⟨demo_executes, answers (by decide +kernel), answers (by decide +kernel), answers (by decide +kernel)⟩

/-- Conditions 0 and 11 are the least and the greatest that the integer compares assign. -/
theorem witness_Compares : Executes (demo demoThread) (who demoThread) 7 ∧
    (∀ c : BitVec 4, c = 0 ∨ c = 11 → c.toNat < 12) ∧ Reads demoThread [] [rd1 2 [.b32], demoThread.bOperand 3 [.b32]] ∧
    Reads demoThread [wr1 1] [] ∧ Reads demoThread [] [rd1 2 []] :=
  ⟨demo_executes, by decide, answers (by decide +kernel), answers (by decide +kernel), answers (by decide +kernel)⟩

theorem witness_MovesAndImmediates : Executes (demo demoThread) (who demoThread) 7 ∧ Reads demoThread [wr1 1] [] ∧
    Reads demoThread [wr1 1] [rd1 64 []] ∧ Reads demoThread [wr1 1] [rd1 2 [.b32]] :=
  ⟨demo_executes, answers (by decide +kernel), answers (by decide +kernel), answers (by decide +kernel)⟩

theorem witness_DotProducts : Executes (demo demoThread) (who demoThread) 7 ∧
    Reads demoThread [wr1 1] [rd1 87 [.i8x4, .b32, .n8x4], demoThread.bOperand 93 [.i8x4, .b32, .n8x4], rd1 1 [.b32]] ∧
    Reads demoThread [wr1 1] [rd1 93 [.n8x4, .b32, .i8x4], demoThread.bOperand 87 [.n8x4, .b32, .i8x4], rd1 1 [.b32]] ∧
    Reads demoThread [wr1 1] [rd1 87 [.i8x4, .b32, .n8x4], demoThread.bOperand 93 [.n8x4, .b32, .i8x4], rd1 1 [.b32]] ∧
    Reads demoThread [wr1 1] [rd1 94 [.i16x2, .b32], demoThread.bOperand 94 [.i16x2, .b32], rd1 1 [.b32]] :=
  ⟨demo_executes, answers (by decide +kernel), answers (by decide +kernel), answers (by decide +kernel), answers (by decide +kernel)⟩

theorem witness_FloatArithmetic : Executes (demo demoThread) (who demoThread) 7 ∧
    Reads demoThread [wr1 1] [rd1 64 wantF32, demoThread.bOperand 66 wantF32] ∧
    Reads demoThread [wr1 1] [rd1 64 wantF32, demoThread.bOperand 66 wantF32, demoThread.addend 1 wantF32] ∧
    Reads demoThread [wr1 1] [rd1 64 wantF32, demoThread.bOperand 3 [.b32]] ∧
    Reads demoThread [wr1 67] [rd1 82 [.f16x2, .bf16x2], demoThread.bOperand 82 [demoThread.packedTag 82], demoThread.addend 67 wantF32] :=
  ⟨demo_executes, answers (by decide +kernel), answers (by decide +kernel), answers (by decide +kernel), answers (by decide +kernel)⟩

theorem witness_FloatCompares : Executes (demo demoThread) (who demoThread) 7 ∧
    Reads demoThread [] [rd1 64 wantF32, demoThread.bOperand 65 wantF32] ∧ Reads demoThread [] [rd1 64 wantF32, demoThread.bOperand 3 []] :=
  ⟨demo_executes, answers (by decide +kernel), answers (by decide +kernel)⟩

theorem witness_PackedFloat : Executes (demo demoThread) (who demoThread) 7 ∧
    Reads demoThread [wr1 1] [rd1 83 [.f16x2, .bf16x2], demoThread.bOperand 83 [demoThread.packedTag 83]] ∧
    Reads demoThread [wr1 83] [rd1 83 [.f16x2, .bf16x2], demoThread.bOperand 83 [demoThread.packedTag 83], demoThread.addend 83 [demoThread.packedTag 83]] ∧
    Reads demoThread [] [rd1 82 [.f16x2, .bf16x2], demoThread.bOperand 82 [demoThread.packedTag 82]] :=
  ⟨demo_executes, answers (by decide +kernel), answers (by decide +kernel), answers (by decide +kernel)⟩

/-- A NaN of each kind, both infinities, both zeros and a number; and a flag with 62 obligations still takes one. -/
theorem witness_Functions : Executes (demo demoThread) (who demoThread) 7 ∧ Reads demoThread [wr1 1] [rd1 64 wantF32] ∧
    demoThread.Room [demoThread.fa] ∧ ({ demoThread with flags := [62, 63] } : Thread).Room [0] ∧
    fF32.decode 0x7FC00000 = .nan false ∧ fF32.decode 0x7F800001 = .nan true ∧ fF32.decode 0x7F800000 = .inf false ∧
    fF32.decode 0xFF800000 = .inf true ∧ (∃ e, fF32.decode 0 = .num false 0 e) ∧ (∃ e, fF32.decode 0x80000000 = .num true 0 e) ∧
    ∃ n m e, fF32.decode 0x40200000 = .num n m e ∧ m ≠ 0 :=
  ⟨demo_executes, answers (by decide +kernel), by unfold Thread.Room; decide +kernel, by unfold Thread.Room; decide +kernel, by decide +kernel,
    by decide +kernel, rfl, rfl, ⟨_, rfl⟩, ⟨_, rfl⟩, ⟨_, _, _, rfl, by decide⟩⟩

theorem witness_FormatInstructions : Executes (demo demoThread) (who demoThread) 7 ∧
    (let h := cvtShape .plain demoThread 64 2
     Reads demoThread [⟨2, h.gd, h.gd⟩] (cvtSrcs .plain h demoThread 2 64)) ∧
    (let h := cvtShape .hi demoThread 85 1
     Reads demoThread [⟨4, h.gd, h.gd⟩] (cvtSrcs .hi h demoThread 4 85)) ∧
    Reads demoThread [wr1 2] [rd1 3 [], demoThread.bOperand 4 []] ∧ Reads demoThread [wr1 2] [rd1 3 [], demoThread.bOperand 4 [], rd1 2 []] ∧
    Reads demoThread [wr2 2] [rd1 3 []] ∧ Reads demoThread [wr4 4] [rd1 3 []] ∧ Reads demoThread [wr1 2] [rd1 82 []] :=
  ⟨demo_executes, answers (by decide +kernel), answers (by decide +kernel), answers (by decide +kernel), (answers (by decide +kernel)),
    answers (by decide +kernel), answers (by decide +kernel), answers (by decide +kernel)⟩

/-- Elements of 16 and of 8 bits, and a tag of neither for the trap of SPX. -/
theorem witness_Sparse : Executes (demo demoThread) (who demoThread) 7 ∧ Reads demoThread [wr2 2] [rd2 82 [.f16x2]] ∧
    Reads demoThread [wr1 2] [rd1 84 [.e4m3x4, .e5m2x4, .i8x4, .n8x4]] ∧
    (demoThread.reg 82).tag.elemBits = 16 ∧ Reads demoThread [wr2 2] [rd1 82 [], demoThread.bOperand 3 []] ∧
    (demoThread.reg 84).tag.elemBits = 8 ∧ Reads demoThread [wr1 2] [rd1 84 [], demoThread.bOperand 3 []] ∧
    (demoThread.reg 64).tag.elemBits = 0 ∧ Reads demoThread [wr1 2] [rd1 64 [], demoThread.bOperand 3 []] :=
  ⟨demo_executes, answers (by decide +kernel), answers (by decide +kernel), by decide +kernel, answers (by decide +kernel), by decide +kernel,
    answers (by decide +kernel), by decide +kernel, answers (by decide +kernel)⟩

/-! ### Hypotheses that are met: control -/

/-- A thread on its own with its fields changed still executes. -/
theorem executes_of (t : Thread) (hg : t.guard 7 = true) (h : t.troupe = 0) (he : t.ens = 0) : Executes (demo t) (who t) 7 := by
  refine ⟨?_, hg⟩
  simp [demo, demoOf, State.whoOf, who, demoWho, h, he, demoEns, State.reset]

theorem witness_Transfers : Executes (demo demoThread) (who demoThread) 7 ∧
    (let tgt := demoThread.pc + ((5 : BitVec 23).signExtend 64 <<< 2)
     canonical tgt = true ∧ tgt.toNat % 4 = 0) ∧
    (let t := { demoThread with rsl := 0x1FF9 }
     Executes (demo t) (who t) 7 ∧ t.rsp.toNat < t.rsl.toNat + 8) ∧
    (let t := { demoThread with rsl := 0x1FF8 }
     Executes (demo t) (who t) 7 ∧ t.rsl.toNat + 8 ≤ t.rsp.toNat ∧
       Answers ((demo t).checkGlobal (who t) (t.rsp - 8) 8 8 { write := true }) fun _ => true) ∧
    (let t := { demoThread with pc := 0x00FFFFFFFFFFFFFC }
     Executes (demo t) (who t) 7 ∧ canonical (t.pc + ((1 : BitVec 23).signExtend 64 <<< 2)) = false) ∧
    (let t := { demoThread with pc := 6 }
     Executes (demo t) (who t) 7 ∧ canonical (t.pc + ((1 : BitVec 23).signExtend 64 <<< 2)) = true ∧
       (t.pc + ((1 : BitVec 23).signExtend 64 <<< 2)).toNat % 4 ≠ 0) :=
  ⟨demo_executes, by decide +kernel, ⟨executes_of _ (by decide) rfl rfl, by decide⟩,
    ⟨executes_of _ (by decide) rfl rfl, by decide, answers (by decide +kernel)⟩,
    ⟨executes_of _ (by decide) rfl rfl, by decide⟩, ⟨executes_of _ (by decide) rfl rfl, by decide, by decide⟩⟩

theorem witness_Returns : (let t := { demoThread with rsp := 0x3000 }
      Executes (demo t) (who t) 7 ∧ t.stackTop.toNat ≤ t.rsp.toNat) ∧
    Executes (demo demoThread) (who demoThread) 7 ∧ demoThread.rsp.toNat < demoThread.stackTop.toNat ∧
    Answers ((demo demoThread).checkGlobal (who demoThread) demoThread.rsp 8 8 { read := true }) (fun p =>
      ((demo demoThread).readNow (who demoThread) p.locs).toOption.any fun b => canonical (w64 (ofBytes b.2)) && (w64 (ofBytes b.2)).toNat % 4 == 0) ∧
    (let s := { demo demoThread with mem := [(0x2007, 1)] }
     Executes s (who demoThread) 7 ∧ Answers (s.checkGlobal (who demoThread) demoThread.rsp 8 8 { read := true }) (fun p =>
       (s.readNow (who demoThread) p.locs).toOption.any fun b => !canonical (w64 (ofBytes b.2)))) ∧
    (let s := { demo demoThread with mem := [(0x2000, 2)] }
     Executes s (who demoThread) 7 ∧ Answers (s.checkGlobal (who demoThread) demoThread.rsp 8 8 { read := true }) (fun p =>
       (s.readNow (who demoThread) p.locs).toOption.any fun b => canonical (w64 (ofBytes b.2)) && (w64 (ofBytes b.2)).toNat % 4 != 0)) :=
  ⟨⟨executes_of _ (by decide) rfl rfl, by decide⟩, demo_executes, by decide, answers (by decide +kernel), ⟨⟨rfl, by decide⟩,
    answers (by decide +kernel)⟩, ⟨rfl, by decide⟩, answers (by decide +kernel)⟩

/-- A table at 0x2000 with reconvergence PC 0x100 and one entry, 0x1000. -/
def tableDevice : State := { demo demoThread with mem := [(0x2001, 1), (0x2008, 1), (0x2011, 0x10)] }
theorem witness_PermittedTargets : Executes tableDevice (who demoThread) 7 ∧
    Answers (tableDevice.tableTarget (who demoThread) 32 16) (fun r => r.tgt == 0x1000 && r.reconv == 0x100) ∧
    Answers ((tableDevice.setThread 0 demoThread).push (who demoThread) (demoThread.pc + 4)) fun _ => true := by
  refine ⟨⟨rfl, by decide⟩, ?_, answers (by decide +kernel)⟩
  unfold State.tableTarget
  dsimp only
  generalize Config.choice tableDevice.moves = may
  generalize bitAt may 0 = all
  generalize bitAt may 1 = refuse
  cases all <;> cases refuse <;> exact answers (by decide +kernel)

theorem witness_ClausesHintsPauses : (demo demoThread).whoOf (demo demoThread).cur = some (who demoThread) ∧
    demoThread.busyMask &&& (0xFFF : BitVec 12).toNat = 0 ∧ demoThread.armStep = false ∧
    (let t := { demoThread with flags := 0 :: 1 :: List.replicate 10 0 }
     (demo t).whoOf (demo t).cur = some (who t) ∧ t.busyMask &&& (2 : BitVec 12).toNat ≠ 0) ∧
    Executes (demo demoThread) (who demoThread) 7 ∧ Answers (demoThread.fetch [] [rd1 0 [.b32]]) (fun x => x.v 0 == 0) ∧
    Answers (demoThread.fetch [] [rd1 1 [.b32]]) (fun x => x.v 0 != 0) ∧ demoThread.status ≠ .exited :=
  ⟨rfl, by decide +kernel, rfl, ⟨rfl, by decide +kernel⟩, demo_executes, answers (by decide +kernel), answers (by decide +kernel), by decide⟩

theorem witness_TrapWordsAndReturn : Executes (demo demoThread) (who demoThread) 7 ∧ demoThread.inHandler = false ∧
    (let t := { demoThread with inHandler := true, hpc := 0x0100000000000000 }
     Executes (demo t) (who t) 7 ∧ t.inHandler = true ∧ canonical t.hpc = false) ∧
    (let t := { demoThread with inHandler := true, hpc := 6 }
     Executes (demo t) (who t) 7 ∧ t.inHandler = true ∧ canonical t.hpc = true ∧ t.hpc.toNat % 4 ≠ 0) ∧
    (let t := { demoThread with inHandler := true, hpc := 8, saveClause := { header := 0, len := 2, pos := 1 } }
     Executes (demo t) (who t) 7 ∧ t.inHandler = true ∧ canonical t.hpc = true ∧ t.hpc.toNat % 4 = 0 ∧
       t.saveClause.header.toNat + 4 ≤ t.hpc.toNat ∧ t.hpc.toNat < t.saveClause.header.toNat + 4 + 4 * t.saveClause.len ∧
       t.hpc.toNat = t.saveClause.header.toNat + 4 + 4 * t.saveClause.pos) :=
  ⟨demo_executes, rfl, ⟨executes_of _ (by decide) rfl rfl, rfl, by decide⟩, ⟨executes_of _ (by decide) rfl rfl, rfl, by decide, by decide⟩,
    ⟨executes_of _ (by decide) rfl rfl, rfl, by decide, by decide, by decide, by decide, by decide⟩⟩

/-- Two threads of a crew: the first has arrived with mask 3 at the PC where the second now executes. -/
def crewOfTwo (i : Instr) (m : DWord) : State :=
  { demoOf { demoThread with status := .arrived i m } { demoTroupe with threads := [0, 1] } demoEns demoCtx with
    threads := [{ demoThread with status := .arrived i m }, { demoThread with tid := 1 }], cur := 1 }
def secondOfTwo : Who := ⟨1, { demoThread with tid := 1 }, 0, { demoTroupe with threads := [0, 1] }, 0, demoEns, 0, demoCtx⟩

/-- Lanes of one quad that have all arrived at one instruction are the arrivals there, by quad or by crew. -/
theorem arrivals_all (s : State) (crew : List (Nat × Nat)) (pc : DWord) (lane : Nat) (i : Instr) (m : DWord)
    (h : ∀ x ∈ crew, (s.thread x.2).status = .arrived i m ∧ (s.thread x.2).pc = pc ∧ x.1 / 4 = lane / 4) : crew = s.arrivals crew pc lane := by
  refine (List.filter_eq_self.2 fun x hx => ?_).symm
  obtain ⟨ha, hp, hl⟩ := h x hx
  simp [Thread.sharesWith, ha, hp, hl]

theorem gathered_two (i : Instr) (m : DWord) (hm : m.toNat % 65536 = 3) : Gathered (crewOfTwo i m) secondOfTwo i m [(0, 0), (1, 1)] := by
  have hc : (crewOfTwo i m).crewOf secondOfTwo.tr secondOfTwo.t.crew = [(0, 0), (1, 1)] := rfl
  unfold Gathered
  simp only [hc, hm]
  refine ⟨arrivals_all _ _ _ _ i m ?_, by decide, by decide, ?_, ?_, ?_, fun _ hx _ => .inl hx⟩
  · exact List.forall_mem_cons.2 ⟨⟨rfl, rfl, rfl⟩, List.forall_mem_singleton.2 ⟨rfl, rfl, rfl⟩⟩
  · exact fun _ => List.forall_mem_cons.2 ⟨nofun, List.forall_mem_singleton.2 nofun⟩
  · exact List.forall_mem_cons.2 ⟨rfl, List.forall_mem_singleton.2 rfl⟩
  · exact List.forall_mem_cons.2 ⟨fun h => absurd rfl h, List.forall_mem_singleton.2 fun h => absurd rfl h⟩

/-- x3 holds the mask of both. -/
theorem witness_Collectives (i : Instr) : Executes (crewOfTwo i 3) secondOfTwo 7 ∧
    ((secondOfTwo.t.reg 3).val.truncate 16 : BitVec 16).zeroExtend 64 = 3#64 ∧ Gathered (crewOfTwo i 3) secondOfTwo i 3 [(0, 0), (1, 1)] ∧
    ReadsQuiet secondOfTwo.t [wr1 1] [rd1 2 [], rd1 3 []] ∧ ReadsQuiet secondOfTwo.t [] [rd1 3 []] ∧ ReadsQuiet secondOfTwo.t [wr1 1] [rd1 3 []] ∧
    ReadsQuiet secondOfTwo.t [wr1 1] [rd1 2 [.b32], rd1 3 []] ∧
    ∀ x ∈ [((0, 0) : Nat × Nat), (1, 1)], ((crewOfTwo i 3).thread x.2).troupe = secondOfTwo.trI ∧ ((crewOfTwo i 3).thread x.2).crew = secondOfTwo.t.crew :=
  ⟨⟨rfl, by decide⟩, by decide +kernel, gathered_two i 3 (by decide), answers (by decide +kernel), answers (by decide +kernel),
    answers (by decide +kernel), answers (by decide +kernel), List.forall_mem_cons.2 ⟨⟨rfl, show 0 / 16 = 1 / 16 from rfl⟩, List.forall_mem_singleton.2 ⟨rfl, rfl⟩⟩⟩

/-- EXIT of the only thread, EXIT.S with the successor that its ensemble selected, and an exit with a flag raised; and a plain exit of one of two. -/
theorem witness_Exits : Executes (demo demoThread) (who demoThread) 7 ∧ Answers ((demo demoThread).nextOf (who demoThread) none) (fun n => n.2.isNone) ∧
    (let e := { demoEns with successor := some (3, onePacket) }
     let tr := { demoTroupe with threads := [0, 1] }
     let s := { demoOf demoThread tr e demoCtx with threads := [demoThread, { demoThread with tid := 1 }] }
     let w := demoWho demoThread tr e demoCtx
     Executes s w 7 ∧ w.t.call = none ∧ w.t.callSlot = none ∧ w.e.successor = some ((3 : BitVec 3).toNat, onePacket) ∧
       (∀ n, w.t.pin0.claim ≠ .own n) ∧ (∀ n, w.t.pin1.claim ≠ .own n) ∧ w.t.quiet = true ∧ s.lastOf w w.tr.threads = false ∧
       s.lastOf w (s.threadsOf w.e) = false ∧ (∀ x ∈ s.crewOf w.tr w.t.crew, (s.thread x.2).arrivalMask = none) ∧
       w.tr.barrier.arrived = [] ∧ w.e.ebar.arrived = [] ∧ w.e.sbar.arrived = []) ∧
    (demo demoThread).exitPending (who demoThread) = false ∧ Answers ((demo demoThread).releaseOwn (who demoThread) 0) (fun _ => true) ∧
    Answers ((demo demoThread).releaseOwn (who demoThread) 1) (fun _ => true) ∧ demoEns.isMesh = false ∧
    (let e := { demoEns with successor := some (3, onePacket) }
     Executes (demoOf demoThread demoTroupe e demoCtx) (demoWho demoThread demoTroupe e demoCtx) 7 ∧
       Answers ((demoOf demoThread demoTroupe e demoCtx).nextOf (demoWho demoThread demoTroupe e demoCtx) (some (3 : BitVec 3).toNat)) fun n => n.2.isSome) ∧
    (let t := { demoThread with flags := 1 :: List.replicate 11 0 }
     Executes (demo t) (who t) 7 ∧ Answers ((demo t).nextOf (who t) none) (fun _ => true) ∧ (demo t).exitPending (who t) = true) :=
  ⟨demo_executes, answers (by decide +kernel), ⟨⟨rfl, by decide⟩, rfl, rfl, rfl, nofun, nofun, by decide +kernel⟩, by decide +kernel,
    answers (by decide +kernel), answers (by decide +kernel), rfl, ⟨⟨rfl, by decide⟩, answers (by decide +kernel)⟩, ⟨executes_of _ (by decide) rfl rfl, answers (by decide +kernel), by decide +kernel⟩⟩

/-! ### Hypotheses that are met: memory -/

/-- The flags that the clause names can each take one more. -/
theorem demo_room (fs : List Nat) (h : fs.length ≤ 2) (hb : ∀ f ∈ fs, f < 12) : demoThread.Room fs := by
  match fs, h, hb with
  | [], _, _ => unfold Thread.Room; decide +kernel
  | [a], _, hb =>
    have := hb a (by simp)
    unfold Thread.Room
    interval_cases a <;> decide +kernel
  | [a, b], _, hb =>
    have := hb a (by simp)
    have := hb b (by simp)
    unfold Thread.Room
    interval_cases a <;> interval_cases b <;> decide +kernel

/-- Type 0 is admitted by every major, 11 by none of a single register; an offset of -16 and one of 15 words. -/
theorem witness_Loads : Executes (demo demoThread) (who demoThread) 7 ∧
    typeAdmitted (11 : BitVec 4).toNat 1 true = false ∧ typeAdmitted (13 : BitVec 4).toNat 4 false = false ∧ typeAdmitted (0 : BitVec 4).toNat 4 false = true ∧
    typeAdmitted (0 : BitVec 4).toNat 1 true = true ∧ demoThread.Room [demoThread.fa] ∧
    Answers (demoThread.fetch [⟨4, 4, 4⟩] [rd2 16 [.b32]]) (fun x => (((demo demoThread).checkGlobal (who demoThread)
      (globalAddr (x.n 0) (demoThread.memOffset 16) (typeBytes 0 4)) (typeBytes 0 4) (typeAlign 0 4) { read := true }).toOption.isSome)) ∧
    Answers (demoThread.fetch [⟨4, 1, 1⟩] [rd1 16 [.b32]]) (fun x => ((demo demoThread).checkScratch (who demoThread)
      (scratchAddr (x.n 0) (demoThread.memOffset 15) (typeBytes 0 1)) (typeBytes 0 1) (typeAlign 0 1)).toOption.isSome) :=
  ⟨demo_executes, by decide, by decide, by decide, by decide, demo_room _ (by decide) (by decide), answers (by decide +kernel),
    answers (by decide +kernel)⟩

theorem witness_Stores : Executes (demo demoThread) (who demoThread) 7 ∧ demoThread.Room [demoThread.fb] ∧
    typeAdmitted (11 : BitVec 4).toNat 2 false = false ∧ typeAdmitted (1 : BitVec 4).toNat 1 false = true ∧
    Answers (demoThread.fetch [] [rd2 16 [.b32], .regs 64 1 1 (storeTags 1)]) (fun x => (((demo demoThread).checkGlobal (who demoThread)
      (globalAddr (x.n 0) (demoThread.memOffset 16) (typeBytes 1 1)) (typeBytes 1 1) (typeAlign 1 1) { write := true }).toOption.isSome)) ∧
    Answers (demoThread.fetch [] [rd1 16 [.b32], .regs 64 4 4 (storeTags 1)]) (fun x => ((demo demoThread).checkScratch (who demoThread)
      (scratchAddr (x.n 0) (demoThread.memOffset 15) (typeBytes 1 4)) (typeBytes 1 4) (typeAlign 1 4)).toOption.isSome) :=
  ⟨demo_executes, demo_room _ (by decide) (by decide), by decide, by decide, answers (by decide +kernel), answers (by decide +kernel)⟩

/-- A packet whose constant bank 0 is the 16 bytes at 0x3000. -/
def constEns : Ensemble := { demoEns with packet := onePacket ||| BitVec.ofNat 1024 (0x3000 * 2 ^ 64 + 16 * 2 ^ 192) }
def constWho : Who := demoWho demoThread demoTroupe constEns demoCtx
def constDevice : State := demoOf demoThread demoTroupe constEns demoCtx
/-- A slice whose granule at 0x1000 is full. -/
def fullTroupe : Troupe := { demoTroupe with full := [0x100] }
def fullWho : Who := demoWho demoThread fullTroupe demoEns demoCtx
def fullDevice : State := demoOf demoThread fullTroupe demoEns demoCtx
/-- HINT.C names x18, whose pair holds 0x1200. -/
def mxThread : Thread := { demoThread with hints := { c := some (18 * 2 ^ 17) } }

/-- LDC at 12 ends where its region of 16 bytes does, at 16 it passes it, and at 1 it is not aligned; a granule that is full, and one that is not;
blocks of E4M3x4, and a type that has none. -/
theorem witness_SpecialAccesses : Executes constDevice constWho 7 ∧ typeAdmitted (0 : BitVec 4).toNat 1 true = true ∧
    Answers (demoThread.fetch [wr1 4] [if (12 : RegField) = 127 then .imm 0 .b32 else rd1 12 [.b32]]) (fun x =>
      let c := scratchAddr (x.n 0) (demoThread.memOffset 0) 4
      let r := constRegion constWho.e.packet c
      c % 4 == 0 && decide (c % 2 ^ 28 + 4 ≤ r.2) &&
        (constDevice.checkGlobal constWho (w64 r.1 + w64 (c % 2 ^ 28)) 4 4 { read := true }).toOption.isSome) ∧
    Answers (demoThread.fetch [wr1 4] [if (12 : RegField) = 127 then .imm 0 .b32 else rd1 12 [.b32]]) (fun x =>
      let c := scratchAddr (x.n 0) (demoThread.memOffset 1) 4
      c % 4 == 0 && decide ((constRegion constWho.e.packet c).2 < c % 2 ^ 28 + 4)) ∧
    Answers (demoThread.fetch [wr1 4] [if (1 : RegField) = 127 then .imm 0 .b32 else rd1 1 [.b32]]) (fun x =>
      scratchAddr (x.n 0) (demoThread.memOffset 0) 4 % 4 != 0) ∧
    (Executes fullDevice fullWho 7 ∧ Answers (demoThread.fetch [wr4 4] [rd1 16 [.b32]]) (fun x =>
      (fullDevice.checkScratch fullWho (scratchAddr (x.n 0) (demoThread.memOffset 0) 16) 16 16).toOption == some (0, 0x1000)) ∧
      (fullDevice.troupe 0).isFull 0x1000 = true ∧ fullDevice.feFirst fullWho (0x1000 / 16) = true ∧ (fullDevice.troupe 0).isFull 0x1010 = false ∧
      Answers (fullDevice.readNow fullWho (scratchLocs 0 0x1000 16)) fun _ => true) ∧
    Answers (demoThread.fetch [] [rd1 16 [.b32], rd4 4 []]) (fun _ => true) ∧ demoThread.Room [demoThread.fb] ∧
    mxShape (1 : BitVec 4).toNat = none ∧ mxShape (4 : BitVec 4).toNat = some (8, 32) ∧
    (Executes (demo mxThread) (who mxThread) 7 ∧
      Answers (mxThread.fetch [⟨0, 8, 8⟩, ⟨8, 1, 1⟩] [rd2 16 [.b32], .regs (mxThread.hints.cReg.getD 0) 2 2 [.b32]]) (fun x =>
        (mxPlaces (demo mxThread) (who mxThread) (globalAddr (x.n 0) (mxThread.memOffset 0) 32) (w64 (x.n 1)) 32 { read := true }).toOption.isSome)) ∧
    (let t := { mxThread with regs := List.replicate 16 ({ tag := .e4m3x4 } : Reg) ++ demoRegs.drop 16 }
     let u := { t with regs := updateAt t.regs 8 fun _ => { tag := .e8m0x4 } }
     Executes (demo u) (who u) 7 ∧ Answers (u.fetch [] [rd2 16 [.b32], .regs (u.hints.cReg.getD 0) 2 2 [.b32], .regs 0 8 8 [Tag.ofCode 4],
       .regs (0 + 8) 1 1 [.e8m0x4]]) (fun x =>
        (mxPlaces (demo u) (who u) (globalAddr (x.n 0) (u.memOffset 0) 32) (w64 (x.n 1)) 32 { write := true }).toOption.isSome)) :=
  ⟨⟨rfl, by decide⟩, by decide, answers (by decide +kernel), answers (by decide +kernel), answers (by decide +kernel),
    ⟨⟨rfl, by decide⟩, answers (by decide +kernel), by decide +kernel, by decide +kernel, by decide +kernel, answers (by decide +kernel)⟩,
    answers (by decide +kernel), demo_room _ (by decide) (by decide), rfl, rfl,
    ⟨executes_of _ (by decide) rfl rfl, answers (by decide +kernel)⟩, ⟨executes_of _ (by decide +kernel) rfl rfl, answers (by decide +kernel)⟩⟩

/-- The last canonical byte and the first that is not; an address that is not aligned; an access that passes. -/
theorem witness_AccessChecks : Answers ((demo demoThread).checkGlobal (who demoThread) 0x1000 4 4 { read := true }) (fun p => p.locs.length == 4) ∧
    (0 : Nat) < 4 ∧ canonical (0x00FFFFFFFFFFFFFC + w64 3) = true ∧ canonical (0x00FFFFFFFFFFFFFC + w64 4) = false ∧
    (∀ i < 4, canonical (0x1002 + w64 i) = true) ∧ (0x1002 : DWord).toNat % 4 ≠ 0 :=
  ⟨answers (by decide +kernel), by decide +kernel⟩

theorem witness_Atomics : Executes (demo demoThread) (who demoThread) 7 ∧ demoThread.Room [demoThread.fa, demoThread.fb] ∧
    Answers (demoThread.fetch [wr1 4] [rd2 16 [.b32], .regs 4 1 1 (atomicWant 0 .b32)]) (fun x =>
      ((demo demoThread).checkAtomic (who demoThread) (x.n 0) 31 4 true).toOption.isSome) ∧
    Answers (demoThread.fetchQuiet [wr1 4] [rd2 16 [.b32], .regs 64 1 1 (atomicWant 11 .f32)]) (fun x =>
      ((demo demoThread).checkAtomic (who demoThread) (x.n 0) 31 4 true).toOption.isSome) ∧
    Answers (demoThread.fetchQuiet [] [rd2 16 [.b32], rd1 64 (atomicWant 11 .f32)]) (fun x =>
      ((demo demoThread).checkAtomic (who demoThread) (x.n 0) 15 4 false).toOption.isSome) ∧
    Answers (demoThread.fetch [] (rd2 16 [.b32] :: [rd4 4 [], .regs (demoThread.hints.cReg.getD 0) 4 4 []])) (fun x =>
      ((demo demoThread).checkAtomic (who demoThread) (x.n 0) 0 16 true).toOption.isSome) :=
  ⟨demo_executes, demo_room _ (by decide) (by decide), answers (by decide +kernel), answers (by decide +kernel), answers (by decide +kernel), answers (by decide +kernel)⟩

/-- A load that is not bound and a store that is not visible keep a fence waiting. -/
def busyThread : Thread :=
  { demoThread with loads := [{ seq := 0, locs := [{ addr := 0x1000 }], form := { type := 0, dst := 4, count := 1 }, flag := 0 }] }

theorem witness_CacheAndFences : Executes (demo demoThread) (who demoThread) 7 ∧ demoThread.Room [demoThread.fb] ∧
    Answers (demoThread.fetch [] [rd2 16 [.b32]]) (fun x => canonical (w64 (x.n 0)) &&
      ((demo demoThread).pageCheck 0 0 (va57 (w64 (x.n 0))) { read := true }).toOption.isSome &&
      ((demo demoThread).checkGlobal (who demoThread) (w64 (x.n 0)) 1 1 { read := true } false).toOption.any fun p =>
        !(demo demoThread).asked ((p.locs.headD {}).addr / 64) [0, 1, 2] && !(demo demoThread).homeOpen ((p.locs.headD {}).addr / 64)) ∧
    Answers (({ demoThread with regs := updateAt demoRegs 17 fun _ => { val := 0x01000000 } } : Thread).fetch [] [rd2 16 [.b32]])
      (fun x => !canonical (w64 (x.n 0))) ∧
    (∃ e, (demo demoThread).pageCheck 0 0 0x10000 { read := true } = .error e) ∧ demoThread.stores = [] ∧
    (∀ r : RegField, r = 0 ∨ r = 1 → Answers (demoThread.fetch [] [rd2 16 [.b32], rd1 r [.b32]]) (fun x => x.n 1 == r.toNat &&
      ((unitRanges (w64 (x.n 0)) (x.n 1 / 64 + 2) (x.n 1)).mapM fun r =>
        (demo demoThread).checkGlobal (who demoThread) r.1 r.2 1 { read := true } false).toOption.any fun ps =>
          ps.all fun p => !(demo demoThread).asked ((p.locs.headD {}).addr / 64) [0, 1, 2] && !(demo demoThread).homeOpen ((p.locs.headD {}).addr / 64))) ∧
    demoThread.combining = false ∧
    (let t := { demoThread with stores := [{ seq := 0, bytes := [{ loc := { addr := 0x1000, policy := .wc }, val := 7 }] }] }
     Executes (demo t) (who t) 7 ∧ t.combining = true) ∧
    Executes (demo busyThread) (who busyThread) 7 ∧ busyThread.allBound = false ∧ (demo busyThread).released busyThread .dv = false ∧
    demoThread.allBound = true ∧ (demo demoThread).released demoThread .sy = true :=
  ⟨demo_executes, demo_room _ (by decide) (by decide), answers (by decide +kernel), answers (by decide +kernel), ⟨_, rfl⟩, rfl,
    by rintro r (rfl | rfl) <;> exact answers (by decide +kernel), rfl, ⟨executes_of _ (by decide) rfl rfl, rfl⟩,
    executes_of _ (by decide) rfl rfl, rfl, rfl, rfl, rfl⟩

/-! ### Hypotheses that are met: the system, barriers and queues -/

/-- A special register of 32 bits, one of 64, the first that is not assigned; writes inside and outside a handler. -/
theorem witness_SpecialRegisters : Executes (demo demoThread) (who demoThread) 7 ∧
    (∀ n : RegField, n = 0 ∨ n = 22 ∨ n = 127 → Reads demoThread [if n.toNat ∈ [8, 14, 15, 18, 19, 20] then wr2 2 else wr1 2] []) ∧
    Reads demoThread [if (8 : RegField).toNat ∈ [8, 14, 15, 18, 19, 20] then wr2 2 else wr1 2] [] ∧
    Reads demoThread [] [if (14 : RegField).toNat ∈ [8, 14, 15, 18, 19, 20] then rd2 16 [] else rd1 16 []] ∧
    Reads demoThread [] [if (9 : RegField).toNat ∈ [8, 14, 15, 18, 19, 20] then rd2 16 [] else rd1 16 []] ∧
    (let t := { demoThread with inHandler := true }
     Executes (demo t) (who t) 7 ∧ t.inHandler = true ∧ Reads t [] [if (18 : RegField).toNat ∈ [8, 14, 15, 18, 19, 20] then rd2 16 [] else rd1 16 []]) := by
  refine ⟨demo_executes, ?_, answers (by decide +kernel), answers (by decide +kernel), answers (by decide +kernel),
    executes_of _ (by decide) rfl rfl, rfl, answers (by decide +kernel)⟩
  rintro n (rfl | rfl | rfl) <;> exact answers (by decide +kernel)

/-- One system-call slot at 0x5000, and a heap of 16 bytes at 0x6000. -/
def sysCtx : Ctx := { desc := BitVec.ofNat 2048 (recordOf [(44, 1), (48, 0x5000), (56, 0x6000), (64, 16)]) }
def sysDevice (t : Thread) : State := { demoOf t demoTroupe demoEns sysCtx with mem := cellsOf 0x5000 64 (recordOf [(0, 7), (48, 5), (56, 3)]) }
def sysWho (t : Thread) : Who := demoWho t demoTroupe demoEns sysCtx
/-- A thread with call 7 outstanding in slot 0. -/
def caller (waiting : Bool) : Thread := { demoThread with callSlot := some 0, call := some { slot := 0, id := 7, waiting := waiting } }

/-- What a thread whose call 7 is outstanding finds in its slot, with the number and the status given there. -/
def Finds (id status : Nat) : Prop :=
  let s : State := { sysDevice (caller true) with mem := cellsOf 0x5000 64 (recordOf [(0, id), (48, 5), (56, status)]), viaL1 := false }
  Executes s (sysWho (caller true)) 7 ∧
    Answers (s.checkGlobal (sysWho (caller true)) (sysCtx.slotAddr 0) 64 1 { read := true, write := true } false) fun p =>
      (s.readNow (sysWho (caller true)) p.locs).toOption.any fun b => ofBytes (b.2.take 8) == id && ofBytes ((b.2.drop 56).take 4) == status

/-- An answered call, one that waits, one whose slot holds another or no status; a second call; no slot; a first call; a wait without a call. -/
theorem witness_SystemCalls : Reads (caller true) [⟨16, 12, 4⟩, wr4 4] [.regs 16 1 1 [], .regs 18 10 1 []] ∧
    Reads (caller true) [⟨16, 12, 4⟩] [.regs 16 1 1 [], .regs 18 10 1 []] ∧ Reads (caller true) [wr4 4] [] ∧
    (∀ waiting, Executes (sysDevice (caller waiting)) (sysWho (caller waiting)) 7) ∧ (caller true).stores = [] ∧
    Finds 7 3 ∧ Finds 7 4 ∧ Finds 7 2 ∧ Finds 8 3 ∧ Finds 7 5 ∧
    (Executes (demo demoThread) (who demoThread) 7 ∧ demoThread.call = none ∧ demoThread.callSlot = none ∧
      (who demoThread).c.freeSlot (Config.choice (demo demoThread).moves) = none) ∧
    (Executes (sysDevice demoThread) (sysWho demoThread) 7 ∧ sysCtx.freeSlot (Config.choice (sysDevice demoThread).moves) = some 0 ∧
      Answers ((sysDevice demoThread).checkGlobal (sysWho demoThread) (sysCtx.slotAddr 0) 64 1 { write := true } false) fun p => p.locs.length == 64) := by
  refine ⟨answers (by decide +kernel), answers (by decide +kernel), answers (by decide +kernel), fun w => ⟨rfl, by cases w <;> decide⟩, rfl,
    ⟨⟨rfl, by decide⟩, answers (by decide +kernel)⟩, ⟨⟨rfl, by decide⟩, answers (by decide +kernel)⟩, ⟨⟨rfl, by decide⟩, answers (by decide +kernel)⟩,
    ⟨⟨rfl, by decide⟩, answers (by decide +kernel)⟩, ⟨⟨rfl, by decide⟩, answers (by decide +kernel)⟩, ⟨demo_executes, rfl, rfl, ?_⟩, ⟨⟨rfl, by decide⟩, ?_, answers (by decide +kernel)⟩⟩
  · have h : demoCtx.field 44 0 32 = 0 := by decide +kernel
    show demoCtx.freeSlot _ = none
    simp [Ctx.freeSlot, h]
  · have h : sysCtx.field 44 0 32 = 1 := by decide +kernel
    simp only [Ctx.freeSlot, h]
    split
    · rename_i hc
      simp at hc
      simp [hc.1]
    · decide +kernel

/-- 0 bytes; a heap that has no room; one whose only place is free; and a FREE of 0, of no block, and of a block. -/
theorem witness_DeviceHeap : Executes (sysDevice demoThread) (sysWho demoThread) 7 ∧ Answers (demoThread.fetch [wr2 4] [rd1 0 [.b32]]) (fun x => x.v 0 == 0) ∧
    Answers (demoThread.fetch [wr2 4] [rd1 1 [.b32]]) (fun x => (x.v 0).toNat == 1) ∧
    (demoCtx.blockFits (demoCtx.heapPlace (Config.choice (demo demoThread).moves)) 1 = false) ∧
    (let at_ := sysCtx.heapPlace (Config.choice (sysDevice demoThread).moves)
     sysCtx.blockFits at_ 1 = true ∧ Answers ((sysDevice demoThread).heapAccess (sysWho demoThread) at_) fun _ => true) ∧
    Answers (demoThread.fetch [] [rd2 48 [.b32]]) (fun x => x.n 0 == 0) ∧ Answers (demoThread.fetch [] [rd2 16 [.b32]]) (fun x => x.n 0 == 0x1000) ∧
    (let c : Ctx := { heap := [{ base := 0x1000, size := 16 }] }
     Executes (demoOf demoThread demoTroupe demoEns c) (demoWho demoThread demoTroupe demoEns c) 7 ∧ (∃ b ∈ c.heap, b.base = 0x1000) ∧
       Answers ((demoOf demoThread demoTroupe demoEns c).heapAccess (demoWho demoThread demoTroupe demoEns c) 0x1000) fun _ => true) := by
  have hp : ∀ n, sysCtx.heapPlace n = 0x6000 := by
    intro n
    have h1 : alignUp (sysCtx.field 56 0 64) 16 = 0x6000 := by decide +kernel
    have h2 : sysCtx.field 64 0 64 / 16 = 1 := by decide +kernel
    simp [Ctx.heapPlace, h1, h2, Nat.mod_one]
  refine ⟨⟨rfl, by decide⟩, answers (by decide +kernel), answers (by decide +kernel), ?_, ?_, answers (by decide +kernel), answers (by decide +kernel),
    ⟨rfl, by decide⟩, by decide, answers (by decide +kernel)⟩
  · have h1 : demoCtx.field 56 0 64 = 0 := by decide +kernel
    have h2 : demoCtx.field 64 0 64 = 0 := by decide +kernel
    have h3 : ∀ a, ¬(a + alignUp 1 16 ≤ 0) := by
      intro a
      have : alignUp 1 16 = 16 := by decide
      omega
    simp only [Ctx.blockFits, h1, h2, Nat.add_zero, h3, decide_false, Bool.and_false, Bool.false_and]
  · simp only [hp]
    exact ⟨by decide +kernel, answers (by decide +kernel)⟩

theorem witness_Barriers : Executes (demo busyThread) (who busyThread) 7 ∧ (demo busyThread).released busyThread .tr = false ∧
    (demo busyThread).released busyThread .en = false ∧ Executes (demo demoThread) (who demoThread) 7 ∧
    (demo demoThread).released demoThread .tr = true ∧ (demo demoThread).released demoThread .en = true ∧ Reads demoThread [wr1 2] [] ∧
    (who demoThread).k ∉ (who demoThread).e.sbar.arrived ∧ Reads demoThread [] [rd1 0 [.b32]] :=
  ⟨executes_of _ (by decide) rfl rfl, rfl, rfl, demo_executes, rfl, rfl, answers (by decide +kernel), by decide, answers (by decide +kernel)⟩

/-- A troupe whose queue 2 holds the words given, with nobody waiting. -/
def queueTroupe (words : List (Word × Tag)) : Troupe := { demoTroupe with queues := updateAt demoTroupe.queues 2 fun q => { q with base := some 0, words := words } }
def queueWho (words : List (Word × Tag)) : Who := demoWho demoThread (queueTroupe words) demoEns demoCtx

/-- An unbound queue, one of 63 words, one of 64, an empty one; a region at the end of a slice of 32 KiB. -/
theorem witness_RelayQueues : Executes (demo demoThread) (who demoThread) 7 ∧ ((who demoThread).tr.queue 2).base = none ∧
    (∀ words, Executes (demoOf demoThread (queueTroupe words) demoEns demoCtx) (queueWho words) 7) ∧ demoThread.acquirePending demoThread.seq = false ∧
    (let t := { demoThread with seq := 1, loads := [{ seq := 0, locs := [{ addr := 0x1000 }], order := .acq, form := { type := 0, dst := 4, count := 1 }, flag := 0 }] }
     Executes (demoOf t (queueTroupe []) demoEns demoCtx) (demoWho t (queueTroupe []) demoEns demoCtx) 7 ∧ t.acquirePending t.seq = true) ∧
    (∀ words, ((queueWho words).tr.queue 2).base ≠ none ∧ ((queueWho words).tr.queue 2).words = words ∧
      ((queueWho words).tr.queue 2).pushWait = [] ∧ ((queueWho words).tr.queue 2).popWait = []) ∧
    (List.replicate 63 ((0, .b32) : Word × Tag)).length < 64 ∧ ¬(List.replicate 64 ((0, .b32) : Word × Tag)).length < 64 ∧
    Reads demoThread [] [rd1 2 []] ∧ Reads demoThread [wr1 2] [] ∧ Answers (demoThread.fetch [] [rd1 16 []]) (fun x =>
      slice (x.v 0).toNat 1 8 == 0 && !(x.v 0).getLsbD 0) ∧
    (let t := { demoThread with regs := updateAt demoRegs 2 fun _ => { val := 0x7E01 } }
     Executes (demo t) (who t) 7 ∧ Answers (t.fetch [] [rd1 2 []]) (fun x => slice (x.v 0).toNat 1 8 == 0 && (x.v 0).getLsbD 0 &&
       decide ((x.v 0).toNat / 512 * 512 + 512 ≤ demoTroupe.slice)) ∧ (∀ i < 8, ((who t).tr.queue i).base = none) ∧
       (demo t).meetsCarousel demoEns 0 0x7E00 512 = false) :=
  ⟨demo_executes, rfl, fun _ => ⟨rfl, demo_guard⟩, by decide +kernel, ⟨⟨rfl, demo_guard⟩, by decide +kernel⟩, fun _ => ⟨nofun, rfl, rfl, rfl⟩, by decide, by decide, answers (by decide +kernel),
    answers (by decide +kernel), answers (by decide +kernel), executes_of _ (by decide +kernel) rfl rfl, answers (by decide +kernel),
    by decide +kernel, by decide +kernel⟩

/-! ### Hypotheses that are met: copies, Carousels and the loop mapper -/

/-- At 0x2000, the address in x32, a descriptor of 16 bytes at 0x1000. -/
def tensorBytes : Nat := recordOf [(0, 0x1000), (8, 0x100), (80, 16), (116, 16)]
def copyDevice (tr : Troupe) (e : Ensemble) : State := { demoOf demoThread tr e demoCtx with mem := cellsOf 0x2000 128 tensorBytes }
def copyWho (tr : Troupe) (e : Ensemble) : Who := demoWho demoThread tr e demoCtx
/-- A Carousel of two stages of 512 bytes at 0, the first acquired. -/
def ringTroupe (a b : Stage) : Troupe :=
  { demoTroupe with carousels := updateAt demoTroupe.carousels 0 fun _ => { base := 0, size := 512, stages := [a, b] } }
/-- A reservation of 96 KiB. -/
def gridEns : Ensemble := { demoEns with packet := onePacket ||| BitVec.ofNat 1024 (1536 * 2 ^ 448) }

theorem witness_Copies : (∀ tr e, tr.threads = [0] → Executes (copyDevice tr e) (copyWho tr e) 7 ∨ e.ctx ≠ 0) ∧
    Reads demoThread [] [rd4 48 [.b32], if (0 : BitVec 1) = 1#1 then rd1 32 [.b32] else rd2 32 [.b32]] ∧
    Answers ((copyDevice demoTroupe demoEns).readDescriptor (copyWho demoTroupe demoEns) ((0 : BitVec 1) == 1#1) 0x2000) (fun desc =>
      tnFailure .ld desc.2 == none && tnFailure .gS desc.2 == none && tnBytes desc.2 == 16 &&
      (tnExtent desc.2 ((upFrom 0 9).map fun _ => 0)).any fun r => ((copyDevice demoTroupe demoEns).rangePlace (copyWho demoTroupe demoEns) r.1 1).toOption.isSome &&
        ((copyDevice demoTroupe demoEns).rangePlace (copyWho demoTroupe demoEns) r.2 1).toOption.isSome) ∧
    demoTroupe.k = pkProducer demoEns.packet ∧ ({ demoTroupe with k := 1 } : Troupe).k ≠ pkProducer demoEns.packet ∧
    tnFailure .ld 0 = some 8 ∧ Answers ((copyDevice demoTroupe demoEns).rangePlace (copyWho demoTroupe demoEns) (32768 - 16) 16) (fun p => p == (0, 32752)) ∧
    tileBytes gridEns.packet ≠ 0 ∧ 0 + 16 ≤ tileBytes gridEns.packet ∧
    (copyDevice (ringTroupe .acq .free) demoEns).stageAt (nth (ringTroupe .acq .free).carousels 0 {}) 0 0 = some 0 ∧
    (copyDevice demoTroupe demoEns).engineLoad (copyWho demoTroupe demoEns).group < 64 ∧ (nth demoTroupe.maps 15 {}).inflight < 16 ∧
    demoThread.Room [demoThread.fb] ∧
    -- CWAIT and its like: 257 chunks, 256, chunks that are written, a latched fault, and neither
    Answers ({ demoThread with regs := updateAt demoRegs 2 fun _ => { val := 257 * 256 } }.fetch [] [rd1 2 []]) (fun x => decide (256 < slice (x.v 0).toNat 8 9)) ∧
    Answers ({ demoThread with regs := updateAt demoRegs 2 fun _ => { val := 256 * 256 } }.fetch [] [rd1 2 []]) (fun x =>
      slice (x.v 0).toNat 8 9 == 256 && slice (x.v 0).toNat 17 15 == 0) ∧
    bitAt ({ bits := 1 } : CompletionMap).bits.toNat 0 = true ∧ (nth demoTroupe.maps 15 {}).latch = none ∧
    ({ latch := some (.permissionRead, 0) } : CompletionMap).latch = some (.permissionRead, 0) ∧ Reads demoThread [wr1 4] [rd1 2 []] ∧
    demoThread.Room [demoThread.fa] ∧
    -- CPYC: a granule of the map's copy still passes to its home, and none
    (let x : Copy := { todo := [1], sent := [(0, [1536])] }
     let s := { demo demoThread with copies := [x], link := { up := true, reqs := [{ tag := 3, opc := 5, unit := 1536 }] } }
     x ∈ s.copies ∧ x.live = true ∧ x.troupe = 0 ∧ x.kind ≠ .cb ∧ x.map = 0 ∧ (∃ y ∈ x.sent, s.passing y.2 = true) ∧ (demo demoThread).copies = []) := by
  refine ⟨?_, answers (by decide +kernel), answers (by decide +kernel), by decide +kernel, by decide +kernel, by decide +kernel,
    answers (by decide +kernel), by decide +kernel, by decide +kernel, by decide +kernel, by decide +kernel, by decide +kernel,
    demo_room _ (by decide) (by decide), answers (by decide +kernel), answers (by decide +kernel), by decide +kernel, by decide +kernel, rfl,
    answers (by decide +kernel), demo_room _ (by decide) (by decide), ⟨List.mem_singleton_self _, rfl, rfl, by decide, rfl, ⟨_, List.mem_singleton_self _, rfl⟩, rfl⟩⟩
  intro tr e _
  by_cases h : e.ctx = 0
  · left
    refine ⟨?_, demo_guard⟩
    simp [copyDevice, copyWho, demoWho, demoOf, State.whoOf, demoThread, h, State.reset]
  · exact .inr h

/-- An empty Carousel, one whose first stage is free, full, held, acquired or stopped by a fault; a layout of 16 stages at 0x1000, and none. -/
theorem witness_Carousels : (∀ a b, Executes (copyDevice (ringTroupe a b) demoEns) (copyWho (ringTroupe a b) demoEns) 7 ∧
      (copyWho (ringTroupe a b) demoEns).e.troupes[(ringTroupe a b).k ^^^ (0 : BitVec 2).toNat]? = some 0 ∧
      nth ((copyDevice (ringTroupe a b) demoEns).troupe 0).carousels 0 {} = { base := 0, size := 512, stages := [a, b] } ∧
      (nth ((copyDevice (ringTroupe a b) demoEns).troupe 0).carousels 0 {}).stage 0 = a) ∧
    Executes (demo demoThread) (who demoThread) 7 ∧ (nth ((demo demoThread).troupe 0).carousels 0 {}).stages = [] ∧
    Answers (demoThread.fetch [] [rd2 48 []]) (fun x => 512 * slice (nth (x.ws 0) 1 0).toNat 0 16 == 0 && slice (nth (x.ws 0) 1 0).toNat 20 12 == 0) ∧
    (let t := { demoThread with regs := updateAt (updateAt demoRegs 2 fun _ => { val := 0x1000 }) 3 fun _ => { val := 0xF0001 } }
     Executes (demo t) (who t) 7 ∧ Answers (t.fetch [] [rd2 2 []]) (fun x =>
       slice (nth (x.ws 0) 1 0).toNat 20 12 == 0 && slice (nth (x.ws 0) 1 0).toNat 16 4 + 1 == 16 && (nth (x.ws 0) 0 0).toNat % 512 == 0) ∧
     Answers ((demo t).checkScratch (who t) 0x1000 (512 * 16) 1) fun p => p == (0, 0x1000)) ∧
    Reads demoThread [wr1 2] [] ∧ Reads demoThread [] [rd1 0 [.b32]] ∧
    (copyDevice (ringTroupe .acq .held) demoEns).stageAt { base := 0, size := 512, stages := [.acq, .held] } 0 0 = some 0 ∧
    (copyDevice (ringTroupe .acq .held) demoEns).released demoThread .en = true :=
  ⟨fun _ _ => ⟨⟨rfl, demo_guard⟩, by simp [copyWho, ringTroupe, demoWho, demoEns, demoTroupe], rfl, rfl⟩, demo_executes, rfl, answers (by decide +kernel),
    ⟨executes_of _ (by decide +kernel) rfl rfl, answers (by decide +kernel), answers (by decide +kernel)⟩, answers (by decide +kernel),
    answers (by decide +kernel), by decide +kernel, rfl⟩

/-- Mapping on, off and without hints; head 0 and head 0x1000; a core with a candidate whose body is one word, and one without. -/
theorem witness_LoopMapper : (∀ m : Word, Executes (demoOf demoThread demoTroupe demoEns { mapctl := m }) (demoWho demoThread demoTroupe demoEns { mapctl := m }) 7) ∧
    (0x400 : Word).getLsbD 0 = false ∧ (0x400 : Word).getLsbD 1 = false ∧ (0x401 : Word).getLsbD 0 = true ∧
    Answers (demoThread.fetch [] [rd2 16 [.b32]]) (fun x => canonical (w64 (x.n 0)) && (w64 (x.n 0)).toNat % 4 == 0 && w64 (x.n 0) != 0) ∧
    Answers (demoThread.fetch [] [rd2 48 [.b32]]) (fun x => canonical (w64 (x.n 0)) && w64 (x.n 0) == 0) ∧
    ({ demo demoThread with tlb := [] } : State).headsLoop 0 0x1000 = false ∧
    ({ demo demoThread with cores := [{ backs := [(0, 0x1000, 0x1004)] }] } : State).headsLoop 0 0x1000 = true ∧
    ((demo demoThread).core 0).heat.find? (fun h => h.ctx == 0 && h.head == 0x1000 && h.candidate) = none ∧
    (let h : Heat := { ctx := 0, head := 0x1000, back := 0x1004, count := 16, since := 0, candidate := true }
     let s := { demo demoThread with cores := [{ heat := [h] }] }
     (s.core 0).heat.find? (fun h => h.ctx == 0 && h.head == 0x1000 && h.candidate) = some h ∧ (s.ctx 0).mapsHead 0x1000 = true ∧
       (h.back.toNat - h.head.toNat) / 4 ≤ 4096 ∧ (s.bodyOf 0 0 0x1000 0x1004).isSome = true) :=
  ⟨fun _ => ⟨rfl, demo_guard⟩, by decide, by decide, by decide, answers (by decide +kernel), answers (by decide +kernel), by decide +kernel, by decide +kernel,
    by decide +kernel, by decide +kernel, by decide +kernel, by decide +kernel, by decide +kernel⟩

/-! ### Hypotheses that are met: matrices and the grid -/

/-- Registers of a crew that multiplies I8: x0 to x15 B32, the rest I8x4. -/
def matThread : Thread := { demoThread with regs := List.replicate 16 ({} : Reg) ++ List.replicate 112 ({ tag := .i8x4 } : Reg) }
/-- Two of them: the first has arrived at an MMA, and the second now executes it. -/
def matCrew (i : Instr) (m : DWord) : State :=
  { demoOf { matThread with status := .arrived i m } { demoTroupe with threads := [0, 1] } demoEns demoCtx with
    threads := [{ matThread with status := .arrived i m }, { matThread with tid := 1 }], cur := 1 }
def matWho : Who := ⟨1, { matThread with tid := 1 }, 0, { demoTroupe with threads := [0, 1] }, 0, demoEns, 0, demoCtx⟩

theorem gathered_mat (i : Instr) (m : DWord) (hm : m.toNat % 65536 = 3) : Gathered (matCrew i m) matWho i m [(0, 0), (1, 1)] := by
  have hc : (matCrew i m).crewOf matWho.tr matWho.t.crew = [(0, 0), (1, 1)] := rfl
  unfold Gathered
  simp only [hc, hm]
  refine ⟨arrivals_all _ _ _ _ i m ?_, by decide, by decide, ?_, ?_, ?_, fun _ hx _ => .inl hx⟩
  · exact List.forall_mem_cons.2 ⟨⟨rfl, rfl, rfl⟩, List.forall_mem_singleton.2 ⟨rfl, rfl, rfl⟩⟩
  · exact fun _ => List.forall_mem_cons.2 ⟨nofun, List.forall_mem_singleton.2 nofun⟩
  · exact List.forall_mem_cons.2 ⟨rfl, List.forall_mem_singleton.2 rfl⟩
  · exact List.forall_mem_cons.2 ⟨fun h => absurd rfl h, List.forall_mem_singleton.2 fun h => absurd rfl h⟩

/-- MMA x0, x16, x32 of class I8 by a crew of two, whose masks name both. -/
theorem witness_MatrixProducts : (let i := Instr.mma 0 16 32 7
     let m := matWho.maskPair
     Executes (matCrew i m) matWho 7 ∧ Answers (mmaCheck false 0 16 32 matWho) (fun _ => true) ∧ Gathered (matCrew i m) matWho i m [(0, 0), (1, 1)] ∧
       (matWho.t.lane, matWho.k) ∈ [(0, 0), (1, 1)] ∧ m.toNat % 65536 = matWho.tr.crewMask matWho.t.crew ∧
       (∀ x ∈ [(0, 0), (1, 1)], ((matCrew i m).updThread 1 fun t => { t with status := .arrived i m }).thread x.2 =
         { matThread with tid := x.2, status := .arrived i m }) ∧
       ∀ x ∈ [(0, 0), (1, 1)], (matLane false 16 32 ((matCrew i m).updThread 1 fun t => { t with status := .arrived i m }) x).cls = some .int) ∧
    (1 : Nat) ≠ matWho.tr.crewMask matWho.t.crew ∧ matThread.hints.sat = false ∧
    (let t := { matThread with hints := { sched := some (2 ^ 23) } }
     (latchUsed (some { field := 16, cls := .int, sparse := false, mx := false, rows := [] }) t false 16).isSome = true) ∧
    latchUsed none matThread false 16 = none ∧ (matThread.reg 16).tag.matClass = some .int := by
  refine ⟨⟨⟨rfl, by decide +kernel⟩, answers (by decide +kernel), gathered_mat _ _ (by decide +kernel), by decide +kernel, by decide +kernel, ?_, ?_⟩,
    by decide +kernel, by decide, by decide +kernel, rfl, by decide +kernel⟩
  · exact List.forall_mem_cons.2 ⟨rfl, List.forall_mem_singleton.2 rfl⟩
  · exact List.forall_mem_cons.2 ⟨rfl, List.forall_mem_singleton.2 rfl⟩

/-- TLD of KIND 0 of I8 from global memory at pair x48, and of KIND 3 in an ensemble with a reservation; TST of F32, and of nibbles, to scratch. -/
theorem witness_MatrixFragments : (let t := { matThread with regs := updateAt matThread.regs 2 fun _ => { val := 0x07000010 } }
     let w : Who := ⟨1, { t with tid := 1 }, 0, { demoTroupe with threads := [0, 1] }, 0, demoEns, 0, demoCtx⟩
     let s (i : Instr) (m : DWord) : State := { matCrew i m with threads := [{ t with status := .arrived i m }, { t with tid := 1 }] }
     (∀ i, Executes (s i w.maskPair) w 7) ∧ w.t.split = false ∧ Answers (fragCheck false 32 4 2 w) (fun _ => true) ∧
       Gathered (s (.tld 32 4 2 7) w.maskPair) w (.tld 32 4 2 7) w.maskPair [(0, 0), (1, 1)] ∧ w.maskPair.toNat % 65536 = w.tr.crewMask w.t.crew) ∧
    (let t := { matThread with regs := updateAt matThread.regs 2 (fun _ => { val := 0x07000010 }), split := true }
     Executes (demo t) (who t) 7 ∧ t.split = true ∧ (fragCtl (t.reg 2).val).kind ≠ 3 ∧ t.Room [t.fa] ∧
       Answers (fragPlaces (demo t) (who t) (fragCtl (t.reg 2).val) 4 false (who t).maskPair) fun _ => true) ∧
    (let t := { matThread with regs := updateAt matThread.regs 2 (fun _ => { val := 0x31000000 }), split := true }
     Executes (demoOf t demoTroupe gridEns demoCtx) (demoWho t demoTroupe gridEns demoCtx) 7 ∧ t.split = true ∧ (fragCtl (t.reg 2).val).kind = 3 ∧ t.Room [t.fa]) ∧
    (let t := { matThread with regs := updateAt matThread.regs 2 (fun _ => { val := 0x60000040 }), split := true }
     Executes (demo t) (who t) 7 ∧ (fragCtl (t.reg 2).val).width ≠ 4 ∧ t.Room [t.fb] ∧
       Answers (fragPlaces (demo t) (who t) (fragCtl (t.reg 2).val) 4 true (who t).maskPair) fun _ => true) ∧
    (let t := { matThread with regs := updateAt matThread.regs 2 (fun _ => { val := 0x46000040 }), split := true }
     let c := fragCtl (t.reg 2).val
     Executes (demo t) (who t) 7 ∧ c.width = 4 ∧ t.Room [t.fb] ∧ Answers (fragPlaces (demo t) (who t) c 4 true (who t).maskPair) fun ps =>
       (nibbleStores (demo t) (who t) (mergeNibbles (ps.flatMap fun x => x.2.map fun l => { loc := l, val := 1, mask := if x.1.2 then 0xF0 else 0x0F }))).toOption.isSome) := by
  refine ⟨⟨fun _ => ⟨rfl, by decide +kernel⟩, rfl, answers (by decide +kernel), ?_, by decide +kernel⟩,
    ⟨executes_of _ (by decide +kernel) rfl rfl, rfl, by decide +kernel, by unfold Thread.Room; decide +kernel, answers (by decide +kernel)⟩,
    ⟨⟨rfl, by decide +kernel⟩, rfl, by decide +kernel, by unfold Thread.Room; decide +kernel⟩,
    ⟨executes_of _ (by decide +kernel) rfl rfl, by decide +kernel, by unfold Thread.Room; decide +kernel, answers (by decide +kernel)⟩,
    ⟨executes_of _ (by decide +kernel) rfl rfl, by decide +kernel, by unfold Thread.Room; decide +kernel, answers (by decide +kernel)⟩⟩
  unfold Gathered
  refine ⟨rfl, by decide +kernel, by decide +kernel, by decide +kernel, ?_, ?_, ?_⟩
  · intro x hx
    simp only [List.mem_cons, List.not_mem_nil, or_false] at hx
    rcases hx with rfl | rfl <;> rfl
  · intro x hx h
    have hx' : x ∈ [(0, 0), (1, 1)] := hx
    simp only [List.mem_cons, List.not_mem_nil, or_false] at hx'
    rcases hx' with rfl | rfl <;> exact absurd rfl h
  · intro x hx _
    exact .inl hx

/-- An ensemble that owns its grid, with the share R251 asks for. -/
def ownerEns : Ensemble := { gridEns with packet := gridEns.packet ||| BitVec.ofNat 1024 (2 ^ 392) }
def onEns : Ensemble := { ownerEns with grid := { on := true, issued := 1, done := 1 } }

/-- No owner, an owner of 1,536 and of too few units, a grid that is on, a SIMT obligation outstanding; gangs of one and of two crews; the last
sequence number and the one beyond it, with and without a fault. -/
theorem witness_GridControl : Executes (demo demoThread) (who demoThread) 7 ∧ ¬fieldOf demoEns.packet 48 8 1 = 1 ∧ fieldOf ownerEns.packet 48 8 1 = 1 ∧
    fieldOf ownerEns.packet 56 0 16 = 1536 ∧ fieldOf (demoEns.packet ||| BitVec.ofNat 1024 (2 ^ 392)) 56 0 16 < 1536 ∧
    (∀ e ∈ [ownerEns, onEns], e.grid.queue = [] ∧ (demoOf demoThread demoTroupe e demoCtx).latched e = [] ∧
      Executes (demoOf demoThread demoTroupe e demoCtx) (demoWho demoThread demoTroupe e demoCtx) 7) ∧ ownerEns.grid.on = false ∧ onEns.grid.on = true ∧
    (let t := { demoThread with owed := [{ flag := 0, simt := true }] }
     Executes (demoOf t demoTroupe ownerEns demoCtx) (demoWho t demoTroupe ownerEns demoCtx) 7 ∧
       ∃ k ∈ (demoOf t demoTroupe ownerEns demoCtx).threadsOf ownerEns, ∃ o ∈ ((demoOf t demoTroupe ownerEns demoCtx).thread k).owed, o.simt = true) ∧
    Answers (demoThread.fetch [] [rd1 48 [.b32]]) (fun x => x.v 0 == 0) ∧ Answers (demoThread.fetch [] [rd1 1 [.b32]]) (fun x => x.v 0 == 1) ∧
    Answers (demoThread.fetch [] [rd1 2 [.b32]]) (fun x => x.v 0 == 2) ∧ Answers (demoThread.fetch [] [rd1 22 [.b32]]) (fun x => slice (x.v 0).toNat 8 6 == 22) ∧
    popCount 1 6 = 1 ∧ popCount 3 6 ≠ 1 ∧ ((1 : Word) - onEns.grid.issued).toNat = 0 ∧ ((2 : Word) - onEns.grid.issued).toNat = 1 ∧
    (onEns.grid.done - (1 : Word)).toNat < 2 ^ 31 ∧ 2 ^ 31 ≤ (ownerEns.grid.done - (1 : Word)).toNat ∧ onEns.grid.fault = none ∧
    ({ onEns.grid with fault := some (.permissionRead, 0, 1) } : Grid).fault = some (.permissionRead, 0, 1) ∧ ((1 : Word) - 1).toNat < 2 ^ 31 := by
  refine ⟨demo_executes, by decide +kernel, by decide +kernel, by decide +kernel, by decide +kernel, ?_, rfl, rfl, ⟨⟨rfl, by decide⟩, ?_⟩,
    answers (by decide +kernel), answers (by decide +kernel), answers (by decide +kernel), answers (by decide +kernel), by decide, by decide, by decide,
    by decide, by decide, by decide, rfl, rfl, by decide⟩
  · intro e he
    simp only [List.mem_cons, List.not_mem_nil, or_false] at he
    rcases he with rfl | rfl
    · exact ⟨rfl, rfl, rfl, demo_guard⟩
    · exact ⟨rfl, rfl, rfl, demo_guard⟩
  · exact ⟨0, by decide +kernel, { flag := 0, simt := true }, by decide +kernel, rfl⟩

/-- A slice with a parameter block at 0x1000, the address in x16. -/
def blockTroupe (v : Nat) : Troupe := { demoTroupe with scratch := (upFrom 0x1000 64).zip (toBytes v 64) }

/-- A GMMA of 1 by 1 by 1 in F16 and a GTLD of one word are accepted; RBOX.G of one ray; an operation at the head that has no step left. -/
theorem witness_GridOperations : (let tr := blockTroupe (recordOf [(0, 1), (2, 1), (4, 1), (8, 0x22)])
     Executes (demoOf demoThread tr onEns demoCtx) (demoWho demoThread tr onEns demoCtx) 7 ∧ (∀ j b, demoThread.status ≠ .latched j b) ∧
       Answers (demoThread.fetch [wr1 2] [rd1 16 [.b32]]) (fun x => x.v 0 == 0x1000) ∧
       Answers ((demoOf demoThread tr onEns demoCtx).checkOp .gmma 0x1000 [0] (demoWho demoThread tr onEns demoCtx)) fun op => op.seq == 2) ∧
    slice onEns.grid.gang.toNat 8 6 = 0 ∧
    (let tr := blockTroupe (recordOf [(0, 1), (2, 1), (4, 0x101), (16, 0x2000)])
     Executes (demoOf demoThread tr onEns demoCtx) (demoWho demoThread tr onEns demoCtx) 7 ∧
       Answers ((demoOf demoThread tr onEns demoCtx).checkOp .gtld 0x1000 [0] (demoWho demoThread tr onEns demoCtx)) fun op => op.seq == 2) ∧
    (let t := { demoThread with regs := updateAt demoRegs 51 fun _ => { val := 1 } }
     Executes (demoOf t demoTroupe onEns demoCtx) (demoWho t demoTroupe onEns demoCtx) 7 ∧
       Answers (t.fetch [wr1 2] [rd4 48 []]) (fun x => (nth (x.ws 0) 0 0).toNat % 32 == 0 && (nth (x.ws 0) 3 0).toNat == 1) ∧ t.Room [t.fa] ∧
       ∀ r ∈ [(0, 32), (0, 128), (0, 8)], Answers ((demoOf t demoTroupe onEns demoCtx).checkScratch (demoWho t demoTroupe onEns demoCtx) r.1 r.2 1) fun _ => true) ∧
    (let op : GridOp := { kind := .gmma, seq := 2, begun := true, next := 1, block := BitVec.ofNat 512 (recordOf [(4, 1), (8, 0x2022)]) }
     let e := { onEns with grid := { onEns.grid with queue := [op] } }
     let s := demoOf demoThread demoTroupe e demoCtx
     s.ensembles[0]? = some e ∧ s.gridRuns 0 e = true ∧ s.opReady op = true ∧ op.isMatrix = true ∧ op.steps ≤ op.next ∧ op.reuse = true ∧
       (demoOf demoThread demoTroupe demoEns demoCtx).gridRuns 0 demoEns = false ∧ ({ op with kind := .gtst } : GridOp).isMatrix = false) ∧
    -- a latch of two crews; the first of two steps of 1 by 1 by 32 in F16, from the reservation; a move of one word from memory; an empty queue
    (let e := { onEns with grid := { onEns.grid with gang := 0x300 } }
     let s := demoOf demoThread demoTroupe e demoCtx
     Executes s (demoWho demoThread demoTroupe e demoCtx) 7 ∧ gangCrews 0x300 = [0, 1] ∧ (64 * demoTroupe.k + demoThread.crew) ∈ [0, 1] ∧ s.latched e = [] ∧
       ∃ c ∈ [0, 1], c ≠ 64 * demoTroupe.k + demoThread.crew) ∧
    (let op : GridOp := { kind := .gmma, seq := 2, begun := true, block := BitVec.ofNat 512 (recordOf [(0, 1), (2, 1), (4, 32), (8, 0x22)]) }
     let e := { onEns with grid := { onEns.grid with queue := [op] } }
     let s := demoOf demoThread demoTroupe e demoCtx
     s.gridRuns 0 e = true ∧ op.isMatrix = true ∧ op.next + 1 < op.steps ∧ op.reuse = false ∧ op.n ≤ 64 ∧ op.m = 1 ∧ op.above 0 0 = false ∧
       (s.gridPhys 0 e (((upFrom 0 op.m).map (op.operandPlaces e 0 true 0) ++ (upFrom 0 op.n).map (op.operandPlaces e 0 false 0)).flatMap fun p => p.1 ++ p.2)
         { read := true }).toOption.isSome = true) ∧
    (let op : GridOp := { kind := .gtld, seq := 2, block := BitVec.ofNat 512 (recordOf [(0, 1), (2, 1), (4, 0x201), (16, 0x2000)]) }
     let e := { onEns with grid := { onEns.grid with queue := [op] } }
     let s := demoOf demoThread demoTroupe e demoCtx
     s.gridRuns 0 e = true ∧ s.opReady op = true ∧ op.isMatrix = false ∧ op.n ≤ 64 ∧ op.moveCells e 0 ≠ [] ∧
       (s.gridPhys 0 e ((op.moveCells e 0).flatMap (·.2)) { read := true }).toOption.isSome = true) ∧ onEns.grid.queue = [] := by
  refine ⟨⟨⟨rfl, by decide⟩, fun j b => (nofun : Status.ready ≠ .latched j b), answers (by decide +kernel), answers (by decide +kernel)⟩, by decide, ⟨⟨rfl, by decide⟩, answers (by decide +kernel)⟩,
    ⟨⟨rfl, by decide +kernel⟩, answers (by decide +kernel), by unfold Thread.Room; decide +kernel, ?_⟩,
    ⟨List.getElem?_cons_zero .., by decide +kernel⟩, ⟨⟨rfl, by decide⟩, by decide, by decide, rfl, 1, by decide, by decide⟩, by decide +kernel,
    by decide +kernel, rfl⟩
  intro r hr
  simp only [List.mem_cons, List.not_mem_nil, or_false] at hr
  rcases hr with rfl | rfl | rfl <;> exact answers (by decide +kernel)

/-! ### Hypotheses that are met: structures, graphics and images -/

/-- A structure table at 0x7000 whose entry 1, of tag 5, has the pool 0x2000 to 0x3000 and generation 9 current in record 0. -/
def rayCtx : Ctx := { desc := BitVec.ofNat 2048 (recordOf [(32, 0x7000), (40, 4)]) }
def entryCells : List Host.Cell := cellsOf 0x7100 256 (recordOf [(0, 0x2000), (8, 0x1000), (16, 1), (18, 5), (20, 9), (64, 9), (72, 0x2001)])
def theHandle : Word := 0x00050001
/-- Its thread has pinned generation 9; x2 holds the handle; HINT.C names x32, the address 0x2000. -/
def rayThread : Thread :=
  { demoThread with regs := updateAt demoRegs 2 (fun _ => { val := theHandle }), pin0 := { handle := theHandle, claim := .own 9 }, hints := { c := some (32 * 2 ^ 17) } }
def rayDevice (t : Thread) (cells : List Host.Cell) : State :=
  { demoOf t demoTroupe demoEns rayCtx with mem := cells ++ entryCells, structs := [{ ctx := 0, entry := 1, place := some 0x7100, isLive := true, pool := 0x2000, size := 0x1000, reclaim := [0] }] }
def rayWho (t : Thread) : Who := demoWho t demoTroupe demoEns rayCtx

/-- A node and a record of zeros are well formed, with no child and a degenerate triangle; a node whose byte 15 is 1 is not; pins and handles, and a
launch's pin. -/
theorem witness_Rays : (∀ cells, Executes (rayDevice rayThread cells) (rayWho rayThread) 7) ∧ rayThread.Room [rayThread.fa] ∧
    Answers (rayThread.fetchQuiet [wr2 4] [.regs 72 8 8 [.f32, .acc], rayThread.cPair]) (fun x => x.n 1 == 0x2000) ∧
    Answers (rayThread.fetchQuiet [wr4 4] [.regs 72 8 8 [.f32, .acc], rayThread.cPair]) (fun x => x.n 1 == 0x2000) ∧
    (rayDevice rayThread []).isSpoilt 0 1 9 = false ∧
    Answers ((rayDevice rayThread []).checkGlobal (rayWho rayThread) 0x2000 128 128 { read := true }) (fun p =>
      ((rayDevice rayThread []).readNow (rayWho rayThread) p.locs).toOption.any fun bs => ofBytes bs.2 == 0) ∧
    Answers ((rayDevice rayThread []).checkGlobal (rayWho rayThread) 0x2000 48 16 { read := true }) (fun p =>
      ((rayDevice rayThread []).readNow (rayWho rayThread) p.locs).toOption.any fun bs => ofBytes bs.2 == 0) ∧
    (rayDevice rayThread []).pinHeld (rayWho rayThread) 0 = some (theHandle, 9) ∧ (rayDevice rayThread []).pinHeld (rayWho rayThread) 1 = none ∧
    (rayDevice rayThread []).inPool (rayWho rayThread) theHandle 0x2000 128 = true ∧ (rayDevice rayThread []).inPool (rayWho rayThread) theHandle 0x2F80 129 = false ∧
    (∀ i < 8, refKind (Node.child 0 i) = 0) ∧ Node.malformed 0 = false ∧ TriRec.malformed 0 = false ∧ Node.malformed (BitVec.ofNat 1024 (recordOf [(15, 1)])) = true ∧
    TriRec.malformed (BitVec.ofNat 384 (recordOf [(44, 1)])) = true ∧ Ray.void [0, 0, 0, 0, 0, 0, 0, 0x7FC00000] = true ∧
    Answers (rayThread.fetch [wr2 4, wr4 32] [rd2 32 [.b32], .regs (32 + 2) 1 1 [.b32]]) (fun x => x.n 0 == 0x2000) ∧
    (let t := { rayThread with pin0 := {} }
     let s := rayDevice t []
     Executes s (rayWho t) 7 ∧ Answers (t.fetch [wr1 4] (if (1 : BitVec 1) = 1#1 then [rd1 2 [.b32]] else [])) (fun x => x.v 0 == theHandle) ∧
       rayCtx.handleIndex theHandle = some 1 ∧ Answers (s.releaseOwn (rayWho t) 0) (fun _ => true) ∧
       Answers (s.threadEntry (rayWho t) 1 false) (fun e => e.2.valid theHandle && e.2.cur == 9 && !e.2.valid 0x00060001 && e.2.record 9 == some 0) ∧
       Answers (s.threadEntry (rayWho t) 1 true) (fun e => ((s.pinUp 0 1 e.1 9).releaseOwn (rayWho t) 0).toOption.isSome) ∧ rayCtx.handleIndex 0 = none ∧
       Reads t [wr4 4] [] ∧ (s.launch 0).pin0 = none) ∧
    (let s := { rayDevice rayThread [] with launches := [{ packet := onePacket, placed := 1, started := true, live := 1, pin0 := some 9 }] }
     Executes s (rayWho rayThread) 7 ∧ (s.launch 0).pin0 = some 9 ∧ Answers (s.releaseOwn (rayWho rayThread) 0) fun s2 =>
       (s2.threadEntry (rayWho rayThread) 1 true).toOption.isSome) := by
  refine ⟨fun _ => ⟨rfl, by decide +kernel⟩, by unfold Thread.Room; decide +kernel, answers (by decide +kernel), answers (by decide +kernel), by decide +kernel,
    answers (by decide +kernel), answers (by decide +kernel), ?_, ?_, ?_, ?_, ?_, ?_, ?_, ?_, ?_, by decide +kernel, answers (by decide +kernel),
    ⟨⟨rfl, by decide +kernel⟩, answers (by decide +kernel), by decide +kernel, answers (by decide +kernel), answers (by decide +kernel),
      answers (by decide +kernel), by decide +kernel, answers (by decide +kernel), rfl⟩,
    ⟨⟨rfl, by decide +kernel⟩, rfl, answers (by decide +kernel)⟩⟩
  all_goals decide +kernel

/-- A block that builds, with its status record at 0x3000, at the address of x32. -/
def buildBytes : Nat := recordOf [(32, 0x3000), (40, 12)]
def buildDevice (t : Thread) (status : List Host.Cell) : State :=
  { demoOf t demoTroupe demoEns rayCtx with mem := cellsOf 0x2000 64 buildBytes ++ status }

/-- A block that holds and one whose stride is 0; room in the Rigger's queue and none; status words of QUEUED, of DONE, and of DONE with a
degenerate triangle; a free engine and one that has a command; a record to reclaim, and a context that does not run. -/
theorem witness_Builds : (∀ st, Executes (buildDevice demoThread st) (rayWho demoThread) 7) ∧
    Answers (demoThread.fetch [] [rd2 32 [.b32]]) (fun x => x.n 0 == 0x2000) ∧
    Answers ((buildDevice demoThread []).checkGlobal (rayWho demoThread) 0x2000 64 64 { read := true }) (fun p =>
      ((buildDevice demoThread []).readNow (rayWho demoThread) p.locs).toOption.any fun bs => ofBytes bs.2 == buildBytes) ∧
    buildFailure (BitVec.ofNat 512 buildBytes) = none ∧ buildFailure 0 = some 40 ∧
    Answers ((buildDevice demoThread []).checkGlobal (rayWho demoThread) 0x3000 32 32 { write := true }) (fun _ => true) ∧
    ((buildDevice demoThread []).rigger.filter (·.live)).length < 256 ∧ 256 ≤ ((List.replicate 256 ({} : RigCmd)).filter (·.live)).length ∧
    demoThread.Room [demoThread.fb] ∧
    (let t := { demoThread with regs := updateAt demoRegs 48 (fun _ => { val := 0x3000 }), fmode := 4 }
     Answers (t.fetch [⟨8, 8, 8⟩] [rd2 48 [.b32]]) (fun x => x.n 0 == 0x3000) ∧ Answers (t.fetch [] [rd2 48 [.b32]]) (fun x => x.n 0 == 0x3000) ∧
       Answers (readStatus (buildDevice t []) (rayWho t) 0x3000) (fun ws => (nth ws.2 0 0).toNat % 4 == 0) ∧
       Answers (readStatus (buildDevice t [(0x3000, 2)]) (rayWho t) 0x3000) (fun ws => (nth ws.2 0 0).toNat % 4 == 2 && nth ws.2 2 0 == 0) ∧
       Answers (readStatus (buildDevice t [(0x3000, 2), (0x3008, 1)]) (rayWho t) 0x3000) (fun ws => (nth ws.2 0 0).toNat % 4 == 2 && nth ws.2 2 0 != 0) ∧
       (buildDevice t []).buildStrict (rayWho t) = true ∧ (buildDevice demoThread []).buildStrict (rayWho demoThread) = false ∧ t.Room [t.fa]) ∧
    (let c : RigCmd := { block := BitVec.ofNat 512 buildBytes, status := 0x3000 }
     let s := { buildDevice demoThread [] with rigger := [c] }
     s.rigger[0]? = some c ∧ c.engine = none ∧ c.live = true ∧ s.rigger.take 0 = [] ∧ s.engineRuns 0 4 = true ∧ s.waits (.rigger 0) = false ∧ (s.thread 0).stores = [] ∧
       (s.rigStatus 0 c).toOption.isSome = true ∧ (s.ctx 0).handleIndex (w32 (fieldOf c.block 0 0 32)) = none) ∧
    (let c : RigCmd := { block := BitVec.ofNat 512 buildBytes, status := 0x3000, engine := some 3 }
     let s := { buildDevice demoThread [] with rigger := [c] }
     s.rigger[0]? = some c ∧ (s.rigStatus 0 c).toOption.isSome = true ∧ (s.rigRun 0 c [] 0 true []).toOption.isSome = true) ∧
    (let s := rayDevice rayThread []
     (s.structOf 0 1).isSome = true ∧ (s.structOf 0 2).isSome = false ∧ s.engineRuns 0 4 = true ∧ s.waits .engine = false ∧
       (s.engineAccess 0 432 0 .engine ((s.ctx 0).entryAddr 1) 256 { read := true, write := true }).toOption.isSome = true ∧
       ({ s with contexts := [{ live := false }] } : State).engineRuns 0 4 = false) := by
  refine ⟨fun _ => ⟨rfl, demo_guard⟩, answers (by decide +kernel), answers (by decide +kernel), by decide +kernel, by decide +kernel,
    answers (by decide +kernel), by decide +kernel, by decide +kernel, demo_room _ (by decide) (by decide),
    ⟨answers (by decide +kernel), answers (by decide +kernel), answers (by decide +kernel), answers (by decide +kernel), answers (by decide +kernel),
      by decide +kernel, by decide +kernel, by unfold Thread.Room; decide +kernel⟩,
    ⟨List.getElem?_cons_zero .., by decide +kernel⟩, ⟨List.getElem?_cons_zero .., by decide +kernel⟩, by decide +kernel⟩

/-- A task ensemble whose successors stand at 0x3000; a mesh ensemble with one vertex, one primitive and one attribute slot. -/
def taskEns : Ensemble := { demoEns with packet := onePacket ||| BitVec.ofNat 1024 (recordOf [(72, 0x3000)]) }
def meshEns : Ensemble := { demoEns with role := .mesh 0 0 0 }
def meshTroupe : Troupe := { demoTroupe with mesh := { counts := some (1, 1, 0) } }
def taskDevice (t : Thread) : State :=
  { demoOf t demoTroupe taskEns demoCtx with
    launches := [{ packet := onePacket, placed := 1, started := true, live := 1, pass := some 0 }], passes := [{ addr := 0x1000 }],
    mem := cellsOf 0x3000 128 (onePacket.toNat + 0x1000) }
/-- The same where no TDISP has named the launch's pass yet: its descriptor, its shade packet and its bin array are in memory. -/
def unnamedPass (t : Thread) : State :=
  { taskDevice t with
    launches := [{ packet := onePacket, placed := 1, started := true, live := 1 }]
    passes := []
    mem := cellsOf 0x1000 128 (recordOf [(0, 64), (2, 64), (8, 0x3100), (16, 0x3200), (24, 1)]) ++ cellsOf 0x3000 128 (onePacket.toNat + 0x1000) ++
      cellsOf 0x3100 128 (onePacket.toNat + 3 * 2 ^ 320) ++ cellsOf 0x3200 8 0x200000 }
def taskThread (n : Word) : Thread :=
  { demoThread with regs := updateAt (updateAt (updateAt (updateAt demoRegs 4 fun _ => { val := n }) 5 fun _ => {}) 6 fun _ => { val := 0x1000 }) 7 fun _ => {} }

/-- TPAY at 0, misaligned at 1, and beyond the staging; TDISP of no ensemble, of one with a ring slot free, and with none; MCNT at its limits
and past them; a vertex slot and a primitive in and out of the counts, in a strict troupe and not; records binned and not; a tile final. -/
theorem witness_Geometry : Executes (demo demoThread) (who demoThread) 7 ∧ Answers (demoThread.fetch [] [rd1 48 [.b32], rd4 4 []]) (fun x => x.n 0 == 0) ∧
    Answers (demoThread.fetch [] [rd1 1 [.b32], rd4 4 []]) (fun x => x.n 0 % 16 != 0) ∧ demoEns.isTask = true ∧ meshEns.isTask = false ∧ 16384 ≤ demoTroupe.slice ∧
    Answers ((demo demoThread).checkScratch (who demoThread) (demoTroupe.slice - 16384 + 0) 16 16) (fun _ => true) ∧ demoThread.Room [demoThread.fb] ∧
    (∀ n ∈ [(0 : Word), 1], Executes (taskDevice (taskThread n)) (demoWho (taskThread n) demoTroupe taskEns demoCtx) 7 ∧
      Answers ((taskThread n).fetch [] [rd4 4 [.b32]]) (fun x => slice (x.n 0) 0 16 == n.toNat && slice (x.n 0) 19 13 == 0 && slice (x.n 0) 47 17 == 0 &&
        w64 (slice (x.n 0) 64 64) == 0x1000 && slice (x.n 0) 32 15 == 0) ∧
      Answers ((taskDevice (taskThread n)).successorEntry (demoWho (taskThread n) demoTroupe taskEns demoCtx) 0) (fun m =>
        m.2.any fun p => (packetFailure p).isNone) ∧
      ((taskDevice (taskThread n)).launch taskEns.launch).pass = some 0 ∧ ((unnamedPass (taskThread n)).launch taskEns.launch).pass = none ∧
      Answers ((unnamedPass (taskThread n)).readPass (demoWho (taskThread n) demoTroupe taskEns demoCtx) 0x1000) (fun r =>
        (passFailure r.2.1 r.2.2.1).isNone && r.2.2.2.all fun c => !chunkBad c) ∧
      (taskDevice (taskThread n)).ringFirst (demoWho (taskThread n) demoTroupe taskEns demoCtx) = true ∧
      (taskDevice (taskThread n)).released (taskThread n) .dv = true) ∧
    ((taskDevice (taskThread 1)).core 0).freeSlot = some 0 ∧ ({ ring := List.replicate 4 { left := 1 } } : Core).freeSlot = none ∧
    (∀ e ∈ [demoEns, meshEns], Executes (demoOf demoThread meshTroupe e demoCtx) (demoWho demoThread meshTroupe e demoCtx) 7) ∧
    slice (256 + 512 * 512) 0 9 = 256 ∧ slice (256 + 512 * 512) 9 10 = 512 ∧ slice (257 + 512 * 512) 0 9 = 257 ∧ slice (2 ^ 22) 22 10 = 1 ∧
    Reads demoThread [] [rd1 1 [.b32]] ∧ Answers (demoThread.fetch [] [rd1 48 [.b32], rd4 4 []]) (fun x => slice (x.n 0) 11 21 == 0) ∧
    Answers (demoThread.fetch [] [rd1 1 [.b32], rd4 4 []]) (fun x => slice (x.n 0) 11 21 == 0 && slice (x.n 0) 0 8 == 1) ∧
    Answers (demoThread.fetch [] [rd1 0 [.b32], rd2 48 []]) (fun x => slice (x.n 1) 25 7 == 0 && (upFrom 0 3).all fun i => slice (x.n 1) (8 * i) 8 == 0) ∧
    Answers (demoThread.fetch [] [rd1 0 [.b32], rd2 2 []]) (fun x => slice (x.n 1) 25 7 == 0 && slice (x.n 1) 0 8 == 2) ∧
    meshTroupe.mesh.v = 1 ∧ meshTroupe.mesh.p = 1 ∧ meshTroupe.mesh.a = 0 ∧
    (let t := { demoThread with fmode := 2 }
     (demo t).meshStrict (demoWho t meshTroupe meshEns demoCtx) = true ∧ (demo demoThread).meshStrict (demoWho demoThread meshTroupe meshEns demoCtx) = false) ∧
    (let p : Pass := { recs := [{ tiles := [] }, { tiles := [0] }] }
     let s := { demo demoThread with passes := [p] }
     s.passes[0]? = some p ∧ p.recs[0]? = some { tiles := [] } ∧ p.recs[1]? = some { tiles := [0] } ∧ s.engineRuns p.ctx 5 = true ∧
       ({ s with gaffer := { state := .off } } : State).engineRuns p.ctx 5 = false) ∧
    (let p : Pass := { desc := BitVec.ofNat 1024 (recordOf [(0, 1), (2, 1)]) }
     let s := { demoOf demoThread demoTroupe { demoEns with phase := .retired } demoCtx with passes := [p] }
     s.passes[0]? = some p ∧ 0 ∉ p.formed ∧ tileCount p.desc = 1 ∧ p.live = true ∧ p.recs = [] ∧ s.geometryDone p.launch = true ∧ (s.ctx p.ctx).halt = none ∧
       s.engineRuns p.ctx 5 = true ∧ ∀ f, shadeUnits p 0 f = []) ∧
    (let p : Pass := { desc := BitVec.ofNat 1024 (recordOf [(0, 1), (2, 1)]), shade := BitVec.ofNat 1024 (recordOf [(40, 1)]),
                       recs := [{ prim := 5 }], entries := [{ px := 0, py := 0, j := 0, prim := 5, depth := 0, order := 0 }] }
     pdDerivs p.desc = false ∧ fieldOf p.shade 40 0 16 = 1 ∧ ∀ f, shadeUnits p 0 f = [[{ prim := 5, coverage := 1 }]]) := by
  refine ⟨demo_executes, answers (by decide +kernel), answers (by decide +kernel), by decide +kernel, by decide +kernel, by decide, answers (by decide +kernel),
    demo_room _ (by decide) (by decide), ?_, by decide +kernel, by decide +kernel, ?_, by decide, by decide, by decide, by decide, answers (by decide +kernel),
    answers (by decide +kernel), answers (by decide +kernel), answers (by decide +kernel), answers (by decide +kernel), rfl, rfl, rfl,
    by decide +kernel, ⟨List.getElem?_cons_zero .., rfl, rfl, by decide +kernel, by decide +kernel⟩,
    ⟨List.getElem?_cons_zero .., by decide, by decide +kernel, rfl, rfl, by decide +kernel, rfl, by decide +kernel, ?_⟩, by decide +kernel, by decide +kernel, ?_⟩
  · intro n hn
    simp only [List.mem_cons, List.not_mem_nil, or_false] at hn
    rcases hn with rfl | rfl <;>
      exact ⟨⟨rfl, by decide +kernel⟩, answers (by decide +kernel), answers (by decide +kernel), rfl, rfl, answers (by decide +kernel), by decide +kernel, by decide +kernel⟩
  · exact List.forall_mem_cons.2 ⟨⟨rfl, demo_guard⟩, List.forall_mem_singleton.2 ⟨rfl, demo_guard⟩⟩
  · intro f
    have hx : tilePixels (BitVec.ofNat 1024 (recordOf [(0, 1), (2, 1)])) 0 = [(0, 0)] := by decide +kernel
    have hd : pdDerivs (BitVec.ofNat 1024 (recordOf [(0, 1), (2, 1)])) = false := by decide +kernel
    simp [shadeUnits, hx, hd, visibleAt]
  · intro f
    have hx : tilePixels (BitVec.ofNat 1024 (recordOf [(0, 1), (2, 1)])) 0 = [(0, 0)] := by decide +kernel
    have hd : pdDerivs (BitVec.ofNat 1024 (recordOf [(0, 1), (2, 1)])) = false := by decide +kernel
    have hm : pdSamp (BitVec.ofNat 1024 (recordOf [(0, 1), (2, 1)])) = 0 := by decide +kernel
    have hs : ({ prim := 5#32 } : BinRec).screen (BitVec.ofNat 1024 (recordOf [(0, 1), (2, 1)])) = none := by decide +kernel
    simp [shadeUnits, hx, hd, hs, hm, visibleAt, shadeRec, upFrom, nth, maskOf, bitAt]

/-- A shade thread of a pixel quad at lane 0 with one vertex slot, and a helper. -/
def shadeThread (helper : Bool) (quad : Option Nat) : Thread :=
  { demoThread with shade := some { helper := helper, quad := quad, attrs := [[0], [0], [0]] }, hints := { c := some (48 * 2 ^ 17) } }

/-- Four threads of a pixel quad: three have arrived, and the last now executes. -/
def quadCrew (i : Instr) (m : DWord) : State :=
  let t := shadeThread false (some 0)
  { demoOf t { demoTroupe with threads := [0, 1, 2, 3] } demoEns demoCtx with
    threads := [{ t with status := .arrived i m }, { t with tid := 1, status := .arrived i m }, { t with tid := 2, status := .arrived i m }, { t with tid := 3 }], cur := 3 }
def quadWho : Who := ⟨3, { shadeThread false (some 0) with tid := 3 }, 0, { demoTroupe with threads := [0, 1, 2, 3] }, 0, demoEns, 0, demoCtx⟩

theorem demo_guard_c : ({ demoThread with hints := { c := some (48 * 2 ^ 17) } } : Thread).guard 7 = true := by decide

theorem gathered_quad (i : Instr) : Gathered (quadCrew i 15) quadWho i 15 [(0, 0), (1, 1), (2, 2), (3, 3)] := by
  have hc : (quadCrew i 15).crewOf quadWho.tr quadWho.t.crew = [(0, 0), (1, 1), (2, 2), (3, 3)] := rfl
  unfold Gathered
  simp only [hc]
  have all {p : Nat × Nat → Prop} (h0 : p (0, 0)) (h1 : p (1, 1)) (h2 : p (2, 2)) (h3 : p (3, 3)) : ∀ x ∈ [((0, 0) : Nat × Nat), (1, 1), (2, 2), (3, 3)], p x :=
    List.forall_mem_cons.2 ⟨h0, List.forall_mem_cons.2 ⟨h1, List.forall_mem_cons.2 ⟨h2, List.forall_mem_singleton.2 h3⟩⟩⟩
  refine ⟨arrivals_all _ _ _ _ i 15 (all ⟨rfl, rfl, rfl⟩ ⟨rfl, rfl, rfl⟩ ⟨rfl, rfl, rfl⟩ ⟨rfl, rfl, rfl⟩), by decide, by decide,
    fun _ => all nofun nofun nofun nofun, all rfl rfl rfl rfl, ?_, fun _ hx _ => .inl hx⟩
  exact all (fun h => absurd rfl h) (fun h => absurd rfl h) (fun h => absurd rfl h) fun h => absurd rfl h

/-- A thread with a captured pixel and one without; an attribute slot of 0 and the first that is not there; DERIV outside a quad and at the meeting of
one; an image of one texel at 0, its coordinates within and beyond; a helper; TEX outside a pixel quad. -/
theorem witness_Images (i : Instr) : Executes (demo demoThread) (who demoThread) 7 ∧ demoThread.shade = none ∧
    (∀ h q, Executes (demo (shadeThread h q)) (who (shadeThread h q)) 7 ∧ ∃ r, (shadeThread h q).shade = some r ∧ r.helper = h ∧ (nth r.attrs 0 []).length = 1) ∧
    Reads demoThread [wr4 4] [] ∧ Reads demoThread [wr2 4] [] ∧ (shadeThread false none).Room [(shadeThread false none).fa] ∧
    (shadeThread false none).Room [(shadeThread false none).fb] ∧ (shadeThread false none).fb = 1 ∧
    Answers ((shadeThread false none).fetch [wr4 4] [rd1 0 [.b32]]) (fun x => slice (x.n 0) 4 28 == 0 && slice (x.n 0) 0 3 == 0 && !bitAt (x.n 0) 3) ∧
    Answers ((shadeThread false none).fetch [wr4 4] [rd1 8 [.b32]]) (fun x => slice (x.n 0) 4 28 == 0 && slice (x.n 0) 0 3 == 0 && bitAt (x.n 0) 3) ∧
    Answers ((shadeThread false none).fetch [wr4 4] [rd1 1 [.b32]]) (fun x => slice (x.n 0) 4 28 == 0 && slice (x.n 0) 0 3 == 1) ∧
    ReadsQuiet demoThread [wr1 2] [rd1 64 [.f32, .acc]] ∧ demoThread.quadLane = none ∧ quadWho.t.quadLane = some 0 ∧ Executes (quadCrew i 15) quadWho 7 ∧
    w64 ((w32 (15 * 2 ^ 0)).toNat % 65536) = 15 ∧ Gathered (quadCrew i 15) quadWho i 15 [(0, 0), (1, 1), (2, 2), (3, 3)] ∧
    (let t := shadeThread false none
     Answers (t.fetch [wr4 4] [rd2 48 [.b32], t.texelCoords]) (fun x => x.n 0 == 0) ∧ Answers (t.fetch [] [rd2 48 [.b32], rd4 8 [], t.texelCoords]) (fun x => x.n 0 == 0) ∧
       Answers (imageAt (demo t) (who t) 0 true) (fun p => coordAddr p.2 [0, 0, 0, 0] == some 0 && coordAddr p.2 [1, 0, 0, 0] == none &&
         (p.1.checkGlobal (who t) 0 1 1 { read := true }).toOption.isSome && (p.1.checkGlobal (who t) 0 1 1 { write := true }).toOption.isSome) ∧
       Answers (imageAt (demo t) (who t) 0 false) fun p => texelBytes (imFormat p.2) == 1) ∧
    (let l (raw : Bool) : LoadForm := { type := 0, dst := 4, count := 4, image := some { fmt := 0, size := 1, raw := raw } }
     (l true).frag = none ∧ ∃ f, (l false).image = some f ∧ f.terms = none ∧ f.fmt ≤ 7) ∧
    (let t := { demoThread with hints := { c := some (72 * 2 ^ 17) } }
     Executes (demo t) (who t) 7 ∧ t.split = false ∧ t.quadLane = none ∧ Answers (texOne (LodForm.ofCode 0) 4 48 (who t) (demo t)) fun _ => true) := by
  refine ⟨demo_executes, rfl, fun h q => ⟨executes_of _ demo_guard_c rfl rfl, ⟨_, rfl, rfl, rfl⟩⟩, answers (by decide +kernel), answers (by decide +kernel),
    by unfold Thread.Room; decide +kernel, by unfold Thread.Room; decide +kernel, rfl, answers (by decide +kernel), answers (by decide +kernel), answers (by decide +kernel),
    answers (by decide +kernel), rfl, rfl, ⟨rfl, by decide +kernel⟩, by decide, gathered_quad i,
    ⟨answers (by decide +kernel), answers (by decide +kernel), answers (by decide +kernel), answers (by decide +kernel)⟩,
    ⟨rfl, _, rfl, rfl, by decide⟩, ⟨executes_of _ (by decide) rfl rfl, rfl, rfl, answers (by decide +kernel)⟩⟩

/-! ### Hypotheses that are met: launches, traps, completion, the link and power -/

/-- A device with a mapped queue at whose head a launch of one thread waits, its dependence met. -/
def headLaunch : Launch := { packet := onePacket, depMet := true }
def queueDevice : State :=
  { demo demoThread with
    launches := [{ packet := onePacket, placed := 1, started := true, live := 1 }, headLaunch]
    queues := [{ page := 3, ring := 2, slot := some 0, pending := [1] }, { page := 4, ring := 1 }] }
/-- A packet with a dependence counter at 0x8000. -/
def waitingPacket : Packet := onePacket ||| BitVec.ofNat 1024 (recordOf [(88, 0x8000), (96, 5)])

/-- A range of low addresses holds none that is not canonical. -/
theorem low_canonical {a : DWord} {len : Nat} (h : a.toNat + len ≤ 2 ^ 56) : ((upFrom 0 len).find? fun i => !canonical (a + w64 i)) = none := by
  refine List.find?_eq_none.2 fun i hi => ?_
  have hi := (mem_upFrom 0 len i).1 hi
  have hn : (a + w64 i).toNat = a.toNat + i := by
    rw [BitVec.toNat_add, show (w64 i).toNat = i from (BitVec.toNat_ofNat i 64).trans (Nat.mod_eq_of_lt (by omega)), Nat.mod_eq_of_lt (by omega)]
  have h0 : (a.toNat + i) / 2 ^ 56 = 0 := Nat.div_eq_of_lt (by omega)
  have h1 : (a.toNat + i) / 2 ^ 57 = 0 := Nat.div_eq_of_lt (by omega)
  simp only [canonical, hn, slice, bitAt, h0, h1]
  decide

/-- A write of the Ringmaster to low addresses that are mapped, in pages that are cached and units that the device may write. -/
theorem ring_ok {s : State} {cI : Nat} {a : DWord} {len : Nat} (h1 : a.toNat + len ≤ 2 ^ 56)
    (h2 : ((s.engineTranslate (s.ctx cI).asid 0 (va57 a) len { write := true }).toOption.any fun pas => pas.all fun p => s.writable (p / 64)) = true)
    (h3 : s.pastUnits (s.ctx cI).asid 0 (va57 a) len = []) : (s.ringAccess cI a len { write := true }).toOption.isSome = true := by
  unfold State.ringAccess State.engineAccess
  rw [low_canonical h1]
  cases ht : s.engineTranslate (s.ctx cI).asid 0 (va57 a) len { write := true } with
  | error e => simp [ht, Except.toOption] at h2
  | ok pas =>
    have hw : ∀ x ∈ unitsOf pas, s.writable x = true := by
      simp only [ht, Except.toOption, Option.any_some, List.all_eq_true] at h2
      simpa [unitsOf] using h2
    have hr : s.engineReady cI ringmaster pas { write := true } [] (va57 a) = .ok pas := by
      simpa [State.engineReady, State.engineMay, State.engineHas] using hw
    simp [ht, h3, hr, Except.toOption]

theorem witness_Launches : (let s := { demo demoThread with mem := cellsOf 0x1000 128 onePacket.toNat, queues := [{ ring := 1, slot := some 0 }] }
     Executes s (who demoThread) 7 ∧ Answers (demoThread.fetch [wr1 4] [rd2 16 [.b32]]) (fun x => x.n 0 == 0x1000) ∧
       Answers (s.loadRecord (who demoThread) 0x1000 128 128) (fun v => v.2 == onePacket.toNat && (v.1.judgePacket 0 (BitVec.ofNat 1024 v.2)).1 == 0 && v.1.released demoThread .dv && !v.1.launchHeld (who demoThread)) ∧
       ((demo demoThread).judgePacket 0 onePacket).1 = 3 ∧ ({ demo demoThread with queues := [{ ring := 1 }] } : State).judgePacket 0 onePacket = (1, 0, 0) ∧
       (({ demo demoThread with queues := [{ ring := 1 }] } : State).enqueue 0 onePacket 1).toOption.isSome = true) ∧
    -- a thread before it in its bundle waits still at its LAUNCH
    (let t := { demoThread with ahead := [0] }
     ({ demo t with threads := [{ t with ahead := [], status := .parked .launchStatus 0, issued := some (.launch 4 16 7) }] } : State).launchHeld (who t) = true) ∧
    (Executes (demo busyThread) (who busyThread) 7 ∧ (demo busyThread).released busyThread .dv = false ∧ ((demo busyThread).judgePacket 0 0).1 = 3) ∧
    -- LWAIT: a counter at 0x1200 of 0, with the values 0 and 1 in the quad's upper pair
    Answers (demoThread.fetch [] [rd4 16 [.b32]]) (fun x => w64 (x.n 0) == 0x1000 && x.n 0 / 2 ^ 64 == 0x1200) ∧
    (let t := { demoThread with regs := updateAt demoRegs 18 fun _ => {} }
     Executes (demo t) (who t) 7 ∧ Answers (t.fetch [] [rd4 16 [.b32]]) (fun x => x.n 0 / 2 ^ 64 == 0) ∧
       Answers (({ demo t with viaL1 := false } : State).loadRecord (who t) 0x1000 8 8) fun v => v.2 == 0) ∧
    -- judgements
    ({ disabled := true } : UQueue).disabled = true ∧ packetFailure 0 ≠ none ∧ packetFailure onePacket = none ∧ packetExceeds onePacket = none ∧
    -- submissions, mappings, creations
    (queueDevice.queues[0]? = some { page := 3, ring := 2, slot := some 0, pending := [1] } ∧ (∀ q ∈ queueDevice.queues, q.page ≠ 5) ∧
      queueDevice.gaffer.state = .on ∧ queueDevice.linkUp = true ∧ State.reset.linkUp = false ∧ State.reset.gaffer.works 2 = false ∧
      (queueDevice.ctx (queueDevice.ctxOfTroupe 0)).halt = none ∧ (({ queueDevice with contexts := [{ halt := some 0 }] } : State).ctx 0).halt ≠ none ∧ (∀ q ∈ queueDevice.queues, q.slot ≠ some 63) ∧ (63 : Nat) < 64 ∧ ¬(64 : Nat) < 64 ∧
      queueDevice.queues[1]? = some { page := 4, ring := 1 } ∧ queueDevice.gaffer.ready.getLsbD 2 = true ∧ (16383 : Nat) < 16384 ∧
      (∀ q ∈ queueDevice.queues, q.page ≠ 16383) ∧ queueDevice.contexts[0]? = some demoCtx ∧ demoCtx.live = true ∧ queueDevice.contexts[1]? = none ∧
      queueDevice.gaffer.works 2 = true ∧ (∀ u : Use, u = { read := true } ∨ u = { write := true } →
        (queueDevice.engineReady 0 436 ([1].flatMap fun l => upFrom (128 * (queueDevice.launch l).entry) 128) u).toOption.isSome = true)) ∧
    -- placement: none placeable, and the head of queue 0 placeable
    ((∀ q ∈ (demo demoThread).checkDeps.tidyQueues.queues, (demo demoThread).checkDeps.tidyQueues.placeable q = false) ∧
      (let s1 := queueDevice.checkDeps.tidyQueues
       s1.chooseQueue.2 = some 0 ∧ (nth s1.chooseQueue.1.queues 0 {}).head = some (.fresh 1) ∧ s1.chooseQueue.1.headCores (.fresh 1) [1] = some [1])) ∧
    -- dependences, completion, the watchdog
    (let s := { demo demoThread with launches := [{ packet := waitingPacket }] }
     s.launches[0]? = some { packet := waitingPacket } ∧ fieldOf waitingPacket 88 0 64 = 0x8000 ∧ ({ packet := waitingPacket } : Launch).depMet = false ∧
       (s.engineTranslate (s.ctx 0).asid 0 (0x8000 % 2 ^ 57) 8 {}).toOption.isSome = true ∧ (∀ l ∈ s.launches, fieldOf l.packet 88 0 64 ≠ 0x9000)) ∧
    (let s := { demoOf demoThread demoTroupe { demoEns with phase := .retired } { desc := BitVec.ofNat 2048 (recordOf [(72, 1)]) } with
       launches := [{ packet := onePacket, placed := 1, started := true }] }
     s.launchEnded 0 = true ∧ s.launchQuiet 0 = true ∧ (s.ctx 0).halt = none ∧ s.gaffer.works 2 = true ∧ s.waits .engine = false ∧ s.engineOwes 0 = false ∧ fieldOf onePacket 104 0 64 = 0 ∧
       fieldOf onePacket 112 16 1 = 0 ∧ (s.ctx 0).field 72 0 32 = 1 ∧ (demo demoThread).launchEnded 0 = false ∧ (demo demoThread).ctx 0 = demoCtx ∧
       demoCtx.field 72 0 32 = 0 ∧ (let l := s.launch 0; l.started = true ∧ l.done = false ∧ l.pin0 = none ∧ l.pin1 = none ∧ l.recorded = 0 ∧
         1 * 2 ^ 20 < ((0x100001 : DWord) - l.start).toNat ∧ ¬1 * 2 ^ 20 < ((0x100000 : DWord) - l.start).toNat)) ∧
    -- pre-emption: the context holds core 0; an ensemble that drains and is drained; a queue whose head waits for nothing
    ((∀ c ∈ (demo demoThread).coresOf 0, c ∈ [0]) ∧ (∃ c ∈ (demo demoThread).coresOf 0, c ∉ [1]) ∧ (demo demoThread).queues[0]? = some ({} : UQueue) ∧
      ({} : UQueue).head = none ∧
      (let e := { demoEns with phase := .draining }
       let s := demoOf demoThread demoTroupe e { preempt := [([0], 0)] }
       s.ensembles[0]? = some e ∧ s.drainedEns 0 = true ∧ (s.ctx 0).halt = none ∧ (∃ x ∈ s.ensembles, x.ctx = 0 ∧ x.phase = .draining ∧ x.victimOf [0] = true) ∧
         (([0], 0) : List Nat × DWord) ∈ (s.ctx 0).preempt ∧ 2 ^ 20 ≤ ((0x100000 : DWord) - 0).toNat ∧ ((0xFFFFF : DWord) - 0).toNat < 2 ^ 20 ∧
         s.imageSlot 0 = none) ∧
      (let e := { demoEns with phase := .draining }
       let s := demoOf demoThread demoTroupe e { desc := BitVec.ofNat 2048 (recordOf [(8, 0x4000), (16, 0x8000), (20, 1)]) }
       s.imageSlot 0 = some 0 ∧ (s.ringAccess 0 (w64 ((s.ctx 0).field 8 0 64)) 4096 { write := true }).toOption.isSome = true ∧
         (s.ringAccess 0 (s.imageAddr 0 0) (s.imageBytes 0) { write := true }).toOption.isSome = true) ∧
      -- a head of level 1 that the grid's ensemble on the one group that is ready keeps out, for 8,192 fc
      (let e := { demoEns with packet := onePacket ||| BitVec.ofNat 1024 (2 ^ 392) }
       let q : UQueue := { slot := some 0, pending := [1], wait := 1 }
       let s := { demoOf demoThread demoTroupe e demoCtx with
         fclock := 0x2001, queues := [q], gaffer := { ready := 0x7F, grp := 1, state := .on }
         launches := [{ packet := onePacket, placed := 1, started := true, live := 1 },
                      { packet := onePacket ||| BitVec.ofNat 1024 (2 ^ 396 + 2 ^ 392), depMet := true }] }
       let gone := s.updEns 0 fun e => { e with phase := .saved }
       q.head = some (.fresh 1) ∧ s.headReady q = true ∧ s.placeable q = false ∧ e.occupies = true ∧ e.group = 0 ∧ 8192 ≤ (s.fclock - q.wait).toNat ∧
         pkPrio (s.launch e.launch).packet < s.level q ∧ 0 ∈ s.headGroups (.fresh 1) ∧
         (gone.findCores (s.headShape (.fresh 1)).1 (s.headShape (.fresh 1)).2 (s.headGroups (.fresh 1))).isSome = true ∧
         gone.fitsCores (s.headShape (.fresh 1)).1 (s.headShape (.fresh 1)).2 [0] = true)) := by
  refine ⟨⟨⟨rfl, demo_guard⟩, answers (by decide +kernel), answers (by decide +kernel), by decide +kernel, by decide +kernel, by decide +kernel⟩,
    by decide +kernel, ⟨executes_of _ (by decide) rfl rfl, rfl, by decide +kernel⟩, answers (by decide +kernel),
    ⟨executes_of _ (by decide) rfl rfl, answers (by decide +kernel), answers (by decide +kernel)⟩, rfl, by decide +kernel, by decide +kernel, by decide +kernel,
    ⟨rfl, by decide, rfl, rfl, rfl, rfl, rfl, nofun, by decide, by decide, by decide, rfl, by decide, by decide, by decide, rfl, rfl, rfl, rfl,
      by rintro u (rfl | rfl) <;> decide +kernel⟩,
    ⟨by decide +kernel, by decide +kernel⟩, ⟨rfl, by decide +kernel⟩, by decide +kernel,
    ⟨by decide +kernel, by decide +kernel, rfl, rfl, ⟨rfl, by decide +kernel, rfl, ?_⟩, ⟨?_, ring_ok (by decide +kernel) (by decide +kernel) (by decide +kernel), ring_ok (by decide +kernel) (by decide +kernel) (by decide +kernel)⟩,
      by decide +kernel⟩⟩
  · refine ⟨⟨_, List.mem_singleton_self _, rfl, rfl, by decide⟩, by decide, by decide, by decide, ?_⟩
    simp only [State.imageSlot]
    split
    · decide +kernel
    · rfl
  · simp only [State.imageSlot]
    split
    · decide +kernel
    · rename_i h
      simp only [Bool.or_eq_true, not_or, Bool.not_eq_true] at h
      exact absurd h.1 (by decide +kernel)

/-- A context whose handler is at 0x8000. -/
def handlerCtx : Ctx := { desc := BitVec.ofNat 2048 (recordOf [(0, 0x8000)]) }

theorem witness_TrapsAndHalts : (let t := { demoThread with status := .trapping .misaligned 4 1 0 }
     let w := demoWho t demoTroupe demoEns handlerCtx
     (demoOf t demoTroupe demoEns handlerCtx).whoOf 0 = some w ∧ w.t.quiet = true ∧ w.c.halt = none ∧ w.t.inHandler = false ∧ w.c.handler ≠ 0 ∧ w.e.occupies = true ∧
       (demo t).whoOf 0 = some (who t) ∧ (who t).c.halt = none ∧ (who t).c.handler = 0) ∧
    ({ demoThread with flags := [1] } : Thread).quiet = false ∧
    (let t := { demoThread with status := .parked (.fullEmpty 5) 0 }
     (demo t).whoOf 0 = some (who t) ∧ 2 ^ 24 ≤ ((0x1000000 : DWord) - 0).toNat ∧ ((0xFFFFFF : DWord) - 0).toNat < 2 ^ 24) ∧
    (let t := { demoThread with status := .sleeping 0, gapUntil := some 0, regroup := some (4, [0], some 0) }
     (demo t).whoOf 0 = some (who t) ∧ (0 : DWord) ≤ (demo t).clock ∧ t.regroup = some (t.pc, [0], some 0) ∧ (demo t).awaited 0 t.pc [0] = false) ∧
    (let t := { demoThread with regroup := some (4, [0, 1], none) }
     let s := { demo t with threads := [t, { t with pc := 0x100, tid := 1 }] }
     s.awaited 0 t.pc [0, 1] = true) ∧
    ((sysDevice (caller true)).whoOf 0 = some (sysWho (caller true)) ∧ (caller true).call = some { slot := 0, id := 7, waiting := true } ∧
      ((sysDevice (caller true)).engineTranslate sysCtx.asid 0 (va57 (sysCtx.slotAddr 0) + 48) 12 {}).toOption.isSome = true ∧ demoThread.call = none) ∧
    (let t := { demoThread with status := .parked (.counter 0x1000) 0 }
     (demo t).whoOf 0 = some (who t) ∧ ((demo t).engineTranslate 0 0 (va57 0x1000) 8 {}).toOption.isSome = true) ∧
    (demo demoThread).ensembles = [demoEns] ∧ demoEns.occupies = true ∧ 0 ∈ demoEns.cores ∧ (∀ e ∈ (demo demoThread).ensembles, 1 ∉ e.cores) ∧
    (demo demoThread).contexts[0]? = some demoCtx ∧ demoCtx.halt = none ∧ ({ halt := some 0 } : Ctx).halt ≠ none ∧ ({ halt := some 0 } : Ctx).haltDone = false ∧
    descriptorOk (BitVec.ofNat 2048 (recordOf [(80, 0x400)])) = true ∧ descriptorOk (BitVec.ofNat 2048 1) = false ∧
    -- a descriptor in memory, good and bad; one that changes a field from byte 96; and a halt line whose records have their page
    (let s (v : Nat) : State := { demo demoThread with mem := cellsOf 0x1000 256 v }
     (s (recordOf [(80, 0x400)])).readContext 1 0x1000 = .ok (BitVec.ofNat 2048 (recordOf [(80, 0x400)])) ∧ (s 1).readContext 1 0x1000 = .ok (BitVec.ofNat 2048 1) ∧
       fieldOf (BitVec.ofNat 2048 (recordOf [(80, 0x400)])) 96 0 768 = fieldOf demoCtx.desc 96 0 768 ∧
       fieldOf (BitVec.ofNat 2048 (recordOf [(80, 0x400), (96, 1)])) 96 0 768 ≠ fieldOf demoCtx.desc 96 0 768) ∧
    (let c : Ctx := { desc := BitVec.ofNat 2048 (recordOf [(24, 0x8000)]), halt := some 0, raisers := [{ index := 0, cause := .haltRequest }] }
     let s := { demoOf demoThread demoTroupe { demoEns with phase := .retired } c with clock := 0x1000 }
     c.halt ≠ none ∧ c.haltDone = false ∧
       ((s.haltImages 0).toOption.any fun s1 => (s.stopPlaces 0 ((s.updCtx 0 fun _ => s1.ctx 0).stopRecords 0)).toOption.isSome) = true) ∧
    -- a halt that is over, whose driver has been told, and one that owes nothing more
    (let c : Ctx := { halt := some 0, haltDone := true, noted := true }
     c.halt ≠ none ∧ c.haltDone = true ∧ c.noted = true ∧ (demoOf demoThread demoTroupe demoEns { c with noted := false }).engineOwes 0 = false) ∧
    (∃ e ∈ (demo demoThread).ensembles, e.ctx = 0 ∧ e.occupies = true) ∧ ({ demoEns with phase := .retired } : Ensemble).occupies = false ∧
    (∀ c ∈ (demo demoThread).contexts, c.live = true → c.asid ≠ 1) ∧ (∃ c ∈ (demo demoThread).contexts, c.live = true ∧ c.asid = 0) ∧
    (let r : PgReq := { tag := 2, asid := 0, page := 1, aux := 0 }
     let s := { demo demoThread with pgreqs := [(r, [.thread 0])] }
     s.pgreqs = (r, [.thread 0]) :: [] ∧ r.tag = 2 ∧ r.aux = 0 ∧ s.answerable 2 = true ∧ (∀ x ∈ s.pgreqs, x.1.tag ≠ 3) ∧
       ({ s with link := State.reset.link } : State).answerable 2 = false) := by
  refine ⟨⟨rfl, by decide, rfl, rfl, by decide +kernel, by decide, rfl, rfl, by decide +kernel⟩, by decide, ⟨rfl, by decide, by decide⟩, ⟨rfl, by decide, rfl, by decide⟩, by decide,
    ⟨rfl, rfl, by decide +kernel, rfl⟩, ⟨rfl, by decide +kernel⟩, rfl, by decide, by decide, by decide, rfl, rfl, nofun, rfl, by decide +kernel, by decide +kernel,
    by decide +kernel, by decide +kernel, ⟨nofun, rfl, rfl, rfl⟩, ⟨demoEns, List.mem_singleton_self _, rfl, by decide⟩, by decide, by decide, ⟨demoCtx, List.mem_singleton_self _, rfl, rfl⟩, ⟨rfl, rfl, rfl, rfl, by decide, rfl⟩⟩

/-- A thread with a scratch load that may bind, an obligation, and a store of two bytes of memory that may show; the same behind an acquire; a copy with
one granule to move, after its thread's stores and before. -/
def pendingThread : Thread :=
  { demoThread with
    loads := [{ seq := 5, locs := scratchLocs 0 0 4, form := { type := 0, dst := 4, count := 1 }, flag := 0 }], owed := [{ flag := 1 }],
    stores := [{ seq := 0, bytes := [{ loc := { addr := 0x1000 }, val := 7 }, { loc := { addr := 0x1001 }, val := 9 }] }], seq := 6 }
def plainCopy : Copy := { kind := .ld, desc := BitVec.ofNat 1024 tensorBytes, origin := List.replicate 9 0, todo := [0], after := [(0, 0)] }

theorem witness_CompletionEvents : (demo demoThread).threads[1]? = none ∧ (demo pendingThread).threads[0]? = some pendingThread ∧
    (∀ l, pendingThread.loads[0]? = some l → l.form.level = none ∧ pendingThread.mayBind l = true ∧ (demo pendingThread).mixedHeld 0 l = false ∧ l.part = [] ∧
      ∀ x ∈ l.locs, x.scratch.isSome = true) ∧ pendingThread.loads[0]?.isSome = true ∧
    pendingThread.owed[1 - pendingThread.loads.length]? = some { flag := 1 } ∧
    (∀ p, pendingThread.stores[0]? = some p → (demo pendingThread).mayShow pendingThread p = true ∧ p.sent = [] ∧ (demo pendingThread).mixedBusy 0 p = false ∧ p.atomic = none ∧
      p.order.releases = false ∧
      (∀ b ∈ p.bytes, b.loc.cached = true) ∧ (demo pendingThread).allWritable p.pas = true ∧ p.pas.Nodup) ∧ pendingThread.stores[0]?.isSome = true ∧
    MemoryCanonical (demo pendingThread) ∧
    (let t := { pendingThread with loads := [{ seq := 0, locs := [{ addr := 0x1000 }], order := .acq, form := { type := 0, dst := 4, count := 1 }, flag := 0 }],
                                    stores := [{ seq := 1, bytes := [{ loc := { addr := 0x1000 }, val := 7 }] }] }
     ∀ p, t.stores[0]? = some p → (demo t).mayShow t p = false) ∧
    -- a load behind one that acquires
    (let l : PendingLoad := { seq := 1, locs := [{ addr := 0x1000 }], form := { type := 0, dst := 4, count := 1 }, flag := 0 }
     ({ demoThread with loads := [{ l with seq := 0, order := .acq }, l] } : Thread).mayBind l = false) ∧
    -- a prefetch whose unit can be read, and a store that releases at .TR
    (let l : PendingLoad := { seq := 0, locs := [{ addr := 0x1000 }], form := { type := 0, dst := 0, count := 0, level := some 1 }, flag := 0 }
     l.form.level = some 1 ∧ (demo { demoThread with loads := [l] }).allReadable (l.locs.map (·.addr)) = true) ∧
    (let p : PendingStore := { seq := 0, bytes := [{ loc := { addr := 0x1000 }, val := 7 }], order := .rel, scope := .tr }
     let t := { demoThread with stores := [p], seq := 1 }
     (demo t).mayShow t p = true ∧ p.order.releases = true ∧ p.scope ≠ .th ∧ (demo t).mixedBusy 0 p = false ∧ (demo t).allWritable p.pas = true ∧
       t.troupe < (demo t).troupes.length) ∧
    (let s := { demo demoThread with copies := [plainCopy] }
     s.copies[0]? = some plainCopy ∧ plainCopy.live = true ∧ 0 ∈ plainCopy.todo ∧ (∀ x ∈ plainCopy.sent, x.1 ≠ 0) ∧ ¬(∃ x ∈ plainCopy.after, ∃ p ∈ (s.thread x.1).stores, p.seq < x.2) ∧
       s.waits (.copy 0) = false ∧ s.engineRuns (s.ens (s.troupe plainCopy.troupe).ens).ctx 3 = true ∧
       ({ s with gaffer := { state := .bringup } } : State).engineRuns 0 3 = false ∧ s.copyFault plainCopy [0] = none ∧ s.copyMiss plainCopy (plainCopy.addrs [0]) = none) ∧
    (let s := { demo pendingThread with copies := [{ plainCopy with after := [(0, 1)] }] }
     ∃ x ∈ [((0, 1) : Nat × Nat)], ∃ p ∈ (s.thread x.1).stores, p.seq < x.2) ∧
    (let s := { demo demoThread with tlb := [{ demoPage with read := false }] }
     s.copyFault plainCopy [0] ≠ none ∧ s.copyFault plainCopy plainCopy.todo = some (.permissionRead, 0x1000) ∧
       s.copyMiss plainCopy ((plainCopy.addrs plainCopy.todo).filter fun a => decide (a < 0x1000)) = none) ∧
    (let o : Obligation := { flag := 1, units := [100] }
     let s := { demo demoThread with link := { up := true, reqs := [{ tag := 3, opc := 3, unit := 100 }] } }
     (∃ u ∈ o.units, ∃ r ∈ s.link.reqs, r.unit = u ∧ r.opc = 3) ∧ ∀ u ∈ o.units, ∀ r ∈ (demo demoThread).link.reqs, ¬(r.unit = u ∧ r.opc = 3)) := by
  have none_ : (demo demoThread).link.reqs = [] := rfl
  refine ⟨rfl, rfl, ?_, rfl, rfl, ?_, rfl, by unfold MemoryCanonical; decide +kernel, ?_, by decide +kernel, ⟨rfl, by decide +kernel⟩, by decide +kernel,
    ⟨rfl, rfl, by decide, nofun, by decide, by decide +kernel⟩,
    ⟨(0, 1), by decide, _, List.mem_singleton_self _, by decide⟩, by decide +kernel,
    ⟨100, by decide, { tag := 3, opc := 3, unit := 100 }, List.mem_singleton_self _, rfl, rfl⟩, by simp [none_]⟩
  · intro l hl
    cases hl
    exact ⟨rfl, by decide +kernel, by decide +kernel, rfl, by decide +kernel⟩
  · intro p hp
    cases hp
    exact ⟨by decide +kernel, rfl, by decide +kernel, rfl, by decide, by decide +kernel⟩
  · intro t p hp
    cases hp
    decide +kernel

/-- A request that a home serves, and a home's entry with it open in a state. -/
def homeDevice (q : HomeReq) (st : HomeState) : State :=
  { demo demoThread with link := { up := true, modules := 0xFFFF, training := false, homes := [{ unit := 100, open_ := some (q, st), snooped := some 2 }] } }
/-- A device whose L2 holds a unit of the host die in a state, and that has one request outstanding. -/
def lineDevice (r : LinkReq) (st : Moesi) : State :=
  { demo demoThread with link := { up := true, modules := 0xFFFF, training := false, lines := [{ unit := 1536, state := st, data := 7 }], reqs := [r] } }

/-- Units of the memory island, 100, and of the host die, 1536. A home that waits for memory, for its grant and for a forwarding; a snooped agent and
another; lines clean and dirty, and a unit not held; requests that data, a Cmp and an uncached read answer; a translation and an invalidation; Presents;
a header that is defined and one that is not; the link up, down and training. -/
theorem witness_LinkMessages : hostHomed (100 * 64) = false ∧ hostHomed (1536 * 64) = true ∧ (demo demoThread).mayArrive 1 3 100 0 = true ∧
    (demo demoThread).mayArrive 1 3 1536 0 = false ∧ (demo demoThread).l2 100 = none ∧ MemoryCanonical (demo demoThread) ∧ (demo demoThread).linkUp = true ∧ State.reset.linkUp = false ∧
    ((demo demoThread).dirOf 100).open_ = none ∧ ((demo demoThread).dirOf 100).owner = none ∧ ((demo demoThread).dirOf 100).sharers = [] ∧
    (∀ opc ∈ upFrom 0 8, let q : HomeReq := { agent := 1, tag := 3, opc := opc }
      (∀ st ∈ [HomeState.fwdWait, .memWait, .gntWait], ((homeDevice q st).dirOf 100).open_ = some (q, st) ∧ ((homeDevice q st).dirOf 100).snooped = some 2) ∧
        (homeDevice q .memWait).mayArrive 1 4 100 0 = true ∧ ({ id := 2, tag := 3 } : Sender).tag = q.tag ∧ ({ id := 2, tag := 4 } : Sender).tag ≠ q.tag ∧ ∀ o ∈ upFrom 1 4, (homeDevice q .fwdWait).mayRespond 2 100 o = true) ∧
    -- the device's own L2 has told the home that it keeps the unit in state O
    (let q : HomeReq := { agent := 1, tag := 3, opc := 0 }
     let s : State := { demo demoThread with link := { up := true, homes := [{ unit := 100, open_ := some (q, .fwdWait), snooped := some 0, resp := some (3, 2) }] } }
     s.mayRespond 0 100 3 = true ∧ (s.dirOf 100).resp = some (3, 2) ∧ ((s.dirOf 100).heard 0).open_ = some (q, .fwdWait) ∧
       ((s.dirOf 100).heard 0).snooped = some 0) ∧
    State.reset.mayRespond 2 100 1 = false ∧
    (∀ st ∈ [Moesi.m, .o, .e, .s], let s := lineDevice { tag := 3, opc := 2, unit := 1536, ctx := some 0 } st
      s.l2 1536 = some { unit := 1536, state := st, data := 7 } ∧ s.l2 1537 = none ∧
        ∀ opc ∈ upFrom 0 3, s.snoopable opc 1536 3 2 = true ∧ s.snoopable opc 1537 3 2 = true) ∧ State.reset.snoopable 0 1536 3 2 = false ∧
    (∀ opc ∈ upFrom 0 8, ∀ st ∈ [Moesi.m, .o, .e, .s], let r : LinkReq := { tag := 3, opc := opc, unit := 1536, ctx := some 0, store := some (0, 5) }
      let s := lineDevice r st
      s.reqOf 3 = some r ∧ s.reqOf 4 = none ∧ s.linkUp = true ∧ s.answerable 3 = true ∧ s.arriving r 0 9 = some 9 ∧ s.arriving r 3 9 = some 9 ∧
        ∀ l, s.l2 1536 = some l → l.past = false) ∧
    (let r : LinkReq := { tag := 3, opc := 0, unit := 100, answer := some (0, 9) }
     (lineDevice r .s).arriving r 0 1 = some 9 ∧ ({ r with answer := some (4, 0) } : LinkReq).answer.map (·.1) = some 4) ∧
    2 ^ 28 ≤ ((0x10000000 : DWord) - 0).toNat ∧ ¬2 ^ 28 ≤ ((0xFFFFFFF : DWord) - 0).toNat ∧
    (∀ stale dead, let r : XlReq := { tag := 1, asid := 0, page := 2, kind := 0, core := 0, stale := stale, dead := dead }
      let x : XlInvOp := { tag := 4, asid := 1, base := 0, size := 4096 }
      let s := { demo demoThread with xlreqs := [r], xlinvs := [x] }
      s.linkUp = true ∧ s.answerable 1 = true ∧ ({ s with link := State.reset.link } : State).answerable 1 = false ∧ (∀ r ∈ s.xlreqs, r.tag ≠ 2) ∧ s.xlreqs = r :: [] ∧ 4096 / pageBytes 0 * pageBytes 0 + (pageBytes 0 - 1) < 2 ^ 52 ∧
        (∀ x ∈ s.xlinvs, x.tag ≠ 5) ∧ s.xlinvs = x :: [] ∧ s.rangeBusy 1 0 4096 = false ∧ s.gaffer.works 1 = true ∧
        ({ s with gaffer := {} } : State).gaffer.works 1 = false) ∧
    (let t := { demoThread with loads := [{ seq := 0, locs := [{ addr := 0x1000, va := 0x1000 }], form := { type := 0, dst := 4, count := 1 }, flag := 0 }] }
     (demo t).rangeBusy 0 0x1000 4096 = true) ∧
    -- a context that has released at .SY, with nothing of the surface on its way, and one with a store to it
    (let s (t : Thread) : State := { demoOf t demoTroupe demoEns { released := true } with
       link := { up := true, modules := 0xFFFF, training := false, presents := [9] } }
     let t := { demoThread with stores := [{ seq := 0, bytes := [{ loc := { addr := 0x1000, va := 0x1000 }, val := 7 }] }] }
     (s demoThread).linkUp = true ∧ 9 ∈ (s demoThread).link.presents ∧ 8 ∉ (s demoThread).link.presents ∧ (s demoThread).answerable 9 = true ∧
       ({ s demoThread with link := { presents := [9] } } : State).answerable 9 = false ∧ ((s demoThread).ctx 0).live = true ∧
       ((s demoThread).ctx 0).released = true ∧ (s demoThread).gaffer.works 2 = true ∧ (s demoThread).surfaceBusy 0 ⟨0x1000, 256⟩ = false ∧
       (s t).surfaceBusy 0 ⟨0x1000, 256⟩ = true ∧ (s demoThread).link.training = false) ∧
    -- a message of one slot, one of five of which the first has come, and an undefined header
    (let whole := headerSlot 0 0 0 0 5 100
     let part := headerSlot 3 0 0 0 5 0
     let s := demo demoThread
     s.link.rx = [] ∧ headerDefined whole.toNat = true ∧ slotCount whole.toNat = 1 ∧ (∃ u, s.deliver whole.toNat [] = .next u ∧ u.link.rx = []) ∧
       headerDefined part.toNat = true ∧ 1 < slotCount part.toNat ∧ headerDefined (2 ^ 128 - 1) = false) ∧
    State.reset.link.training = true ∧
    2 ^ 24 ≤ ((0x1000000 : DWord) - 0).toNat ∧ ¬2 ^ 24 ≤ ((0xFFFFFF : DWord) - 0).toNat ∧
    8 ≤ popCount (0x00FF : BitVec 16).toNat 16 ∧ popCount (0x007F : BitVec 16).toNat 16 < 8 := by
  refine ⟨by decide +kernel, by decide +kernel, by decide +kernel, by decide +kernel, rfl, by unfold MemoryCanonical; decide +kernel, rfl, by decide +kernel, rfl, rfl, rfl,
    by decide +kernel, by decide +kernel, by decide +kernel, by decide +kernel, by decide +kernel, by decide +kernel, ⟨rfl, rfl⟩, by decide, by decide,
    by decide +kernel, by decide +kernel, by decide +kernel, ⟨rfl, by decide +kernel, by decide +kernel, ⟨_, rfl, rfl⟩, by decide +kernel, by decide +kernel, by decide +kernel⟩,
    by decide, by decide, by decide, by decide, by decide⟩

/-- Each state of the Gaffer; a phase that is left and one that is not; the two thresholds. -/
theorem witness_Power : (demo demoThread).gaffer.state = .on ∧ State.reset.gaffer.state = .off ∧ State.reset.gaffer.phases = 0xFFF ∧
    (let s := { State.reset with gaffer := { state := .draining } }
     s.gaffer.state = .draining ∧ s.link.reqs = [] ∧ (∀ e ∈ s.ensembles, e.occupies = false) ∧ (∀ r ∈ s.rigger, r.live = false) ∧
       ((upFrom 0 s.queues.length).foldlM State.unmapQueue s).toOption = some s) ∧
    (List.replicate 24 1).length = 24 ∧ (∀ c ∈ List.replicate 24 1, 1 ≤ c ∧ c ≤ 16) ∧ 1000000 ≤ 2900000 ∧
    ({ state := .verify, floor := 3 } : Gaffer).floor.toNat ≤ (3 : Word).toNat ∧ (2 : Word).toNat < ({ state := .verify, floor := 3 } : Gaffer).floor.toNat ∧
    (let s := { State.reset with gaffer := { state := .bringup }, link := { up := true, training := false } }
     s.gaffer.state = .bringup ∧ s.linkUp = true ∧ (30 : Nat) < 31 ∧ State.reset.linkUp = false) ∧
    8 ≤ popCount State.reset.gaffer.phases.toNat 12 ∧ 0 < (demo demoThread).contexts.length ∧ ((demo demoThread).ctx 0).live = true ∧
    (demo demoThread).residentCtx 0 = true ∧
    (demo demoThread).gaffer.ceiling < (demo demoThread).gaffer.ceiling + 1 ∧ (demo demoThread).gaffer.phases.getLsbD 11 = true ∧
    popCount (0xFFF &&& ~~~(BitVec.ofNat 12 (2 ^ 11))).toNat 12 = 11 ∧ popCount ((0x0FF : BitVec 12) &&& ~~~(BitVec.ofNat 12 (2 ^ 0))).toNat 12 = 7 ∧
    (1680 : BitVec 16).toInt ≤ 1680 ∧ 1680 < (1681 : BitVec 16).toInt ∧ (1760 : BitVec 16).toInt ≤ 1760 ∧ 1760 < (1761 : BitVec 16).toInt := by
  refine ⟨rfl, rfl, rfl, ⟨rfl, rfl, by simp [State.reset], by simp [State.reset], rfl⟩, rfl, by decide, by decide, by decide, by decide, ⟨rfl, rfl, by decide, rfl⟩, by decide, by decide, rfl, by decide, Nat.lt_succ_self _, by decide, by decide, by decide, by decide, by decide,
    by decide, by decide⟩

/-! ### Hypotheses that are met: the whole machine -/

/-- A step from a canonical memory that is taken: a tick of the clock that an event of no effect brings. -/
theorem witness_MemoryStaysCanonical : (let s := { demo demoThread with schedule := [{ act := .event (.cmdNoAction 0) }] }
    MemoryCanonical s ∧ ∃ t, step s = .next t) := by
  refine ⟨by unfold MemoryCanonical; decide +kernel, _, rfl⟩

theorem witness_RoundTrip : Instr.wellFormed (.iadd 127 0 64 7) = true ∧ encode (.iadd 127 0 64 7) = some 0x1BF8081C ∧
    (0x1BF8081C : Nat) < 2 ^ 32 ∧ decodeWord 0x1BF8081C = .ok (.iadd 127 0 64 7) := by
  decide +kernel

/-- A schedule that names an event; one that issues a thread at an IADD in the last word of its clause, at a header, or at a hint; and one that issues a
thread that waits at an instruction. -/
theorem witness_StepRunsDecoded : ({ demo demoThread with schedule := [{ act := .event .drainDone, dt := 3 }] } : State).nextTurn.1 = { act := .event .drainDone, dt := 3 } ∧
    isEvent .drainDone = true ∧ pkCompat demoEns.packet = false ∧ demoEns.grid.on = false ∧
    (∀ x ∈ [(1, 0x1808109C), (0, 0x0000BFC0), (2, 0x05000060)],
     let t := { demoThread with pc := 0x1000, clause := { header := 0x0FFC, len := x.1, pos := 0, fa := 0, fb := 1 } }
     let s := { demo t with mem := cellsOf 0x1000 8 (x.2 + 0x5050B19C * 2 ^ 32), schedule := [{ act := .issue 0, dt := 1 }] }
     let s1 := s.nextTurn.2.passTime s.nextTurn.1
     let s2 := (s1.takeSlot (who t) (s1.issueSlot (who t))).updThread 0 fun t => { t with leaving := false, ahead := if t.status = .ready then [] else t.ahead }
     s.nextTurn.1.act = .issue 0 ∧ s1.whoOf 0 = some (who t) ∧ s1.mayIssue (who t) = true ∧ t.regroup = none ∧ t.status = .ready ∧
       s1.slotFree (who t) (s1.issueSlot (who t)) = true ∧ (decodeWord x.2).toOption.isSome = true ∧ ((who t).breakpoint t.pc).isNone = true ∧
       (s2.unitAt (who t)).toOption.any (fun r => r.2.head? == some (t.pc, x.2) &&
         (if t.clause.left = 0 then (headerCause t.pc r.2).isNone else (unitCause t.hints t.pc t.clause.fa t.clause.fb t.clause.left r.2).isNone)) = true) ∧
    (let t := { demoThread with status := .parked .drain 0, issued := some (.cpyc 3 7) }
     let s := { demo t with schedule := [{ act := .issue 0, dt := 1 }] }
     let s1 := s.nextTurn.2.passTime s.nextTurn.1
     s1.whoOf 0 = some (who t) ∧ s1.mayIssue (who t) = true ∧ t.waitsAt = true ∧ t.issued.isSome = true ∧ s1.slotFree (who t) (s1.issueSlot (who t)) = true) := by
  refine ⟨rfl, by decide, by decide +kernel, rfl, ?_, rfl, by decide +kernel⟩
  intro x hx
  simp only [List.mem_cons, List.not_mem_nil, or_false] at hx
  rcases hx with rfl | rfl | rfl <;> exact ⟨rfl, rfl, by decide +kernel⟩

/-- Registers that exist and are aligned, and not; a value that has expired; a clash of tags under strict tags; a conversion of 0.5 to B32, whose flag is
enabled, or not. -/
theorem witness_OperandsRead : (∀ g ∈ ([wr4 124] : List Grp), g.base + g.len ≤ demoThread.regs.length ∧ g.base % g.align = 0) ∧
    (¬∀ g ∈ ([wr2 127] : List Grp), g.base + g.len ≤ demoThread.regs.length ∧ g.base % g.align = 0) ∧
    (let t := { demoThread with regs := updateAt demoRegs 2 fun r => { r with life := .expired } }
     ∃ g ∈ ([⟨2, 1, 1⟩] : List Grp), ∃ n < g.len, (t.reg (g.base + n)).life = .expired) ∧
    (let t := { demoThread with fmode := 1 }
     ∃ x ∈ [rd1 64 [.b32]], ∃ p ∈ x.ports t, p.isMismatch = true) ∧
    (let t (m : Word) : Thread := { demoThread with regs := updateAt demoRegs 64 fun _ => { val := 0x3F000000, tag := .f32 }, fmode := m }
     let x := rd1 64 [.b32]
     let on (m : Word) : Nat := orAll ((x.ports (t m)).flatMap Port.flags) &&& slice m.toNat 8 5
     (t 0x1F00).regs.length = 128 ∧ ((x.ports (t 0x1F00)).all fun p => !p.isMismatch) = true ∧ ((t 0x1F00).reg 64).life ≠ .expired ∧
       ((x.ports (t 0)).all fun p => !p.isMismatch) = true ∧ on 0x1F00 ≠ 0 ∧ on 0 = 0) ∧ Answers (demoThread.fetch [wr4 124] [rd1 2 [.b32]]) fun _ => true := by
  refine ⟨by decide +kernel, by decide +kernel, ⟨⟨2, 1, 1⟩, List.mem_singleton_self _, 0, by decide, by decide +kernel⟩,
    ⟨rd1 64 [.b32], List.mem_singleton_self _, ?_⟩, ⟨by decide +kernel, by decide +kernel, by decide +kernel, by decide +kernel, by decide +kernel, by decide +kernel⟩,
    answers (by decide +kernel)⟩
  have h : ((rd1 64 [.b32]).ports { demoThread with fmode := 1 }).any Port.isMismatch = true := by decide +kernel
  simpa using h

theorem witness_TrapTaken : (let w := demoWho demoThread demoTroupe demoEns handlerCtx
     (demoOf demoThread demoTroupe demoEns handlerCtx).whoOf 0 = some w ∧ w.c.handler ≠ 0 ∧ w.t.inHandler = false ∧ (∀ f ∈ w.t.flags, f = 0) ∧ w.c.halt = none) ∧
    (let t := { demoThread with flags := 1 :: List.replicate 11 0 }
     (demoOf t demoTroupe demoEns handlerCtx).whoOf 0 = some (demoWho t demoTroupe demoEns handlerCtx) ∧ ∃ f ∈ t.flags, f ≠ 0) ∧
    ((demo demoThread).whoOf 0 = some (who demoThread) ∧ (who demoThread).c.handler = 0 ∧ (who demoThread).c.halt = none) :=
  ⟨⟨rfl, by decide +kernel, rfl, by decide, rfl⟩, ⟨rfl, by decide⟩, ⟨rfl, by decide +kernel, rfl⟩⟩

/-- A true guard and a false one. -/
theorem witness_ThreadWordFrame : (demo demoThread).whoOf (demo demoThread).cur = some (who demoThread) ∧ demoThread.guard 7 = true ∧ demoThread.guard 0 = false ∧
    (exec (.iadd 1 2 3 7) (demo demoThread) matches .next _) ∧ (exec (.iadd 1 2 3 0) (demo demoThread) matches .next _) :=
  ⟨rfl, by decide, by decide, by decide +kernel, by decide +kernel⟩

/-- The greatest finite pattern of each format and the least subnormal one. -/
theorem witness_FloatEncodingExact : (fF32.decode 0x7F7FFFFF).finite = true ∧ (fF16.decode 0x7BFF).finite = true ∧ (fBF16.decode 0x7F7F).finite = true ∧
    (fE4M3.decode 0x7E).finite = true ∧ (fE5M2.decode 0x7B).finite = true ∧ (fE2M1.decode 7).finite = true ∧ (fF32.decode 1).finite = true := by
  decide +kernel

/-! ### Words written out from the encoding tables -/

/-- Every word of a list decodes to the instruction beside it. -/
def decodes (l : List (Nat × Instr)) : Bool := l.all fun x => match decodeWord x.1 with
  | .ok i => i == x.2
  | .error _ => false

theorem test_decode_control_and_sums : decodes
    [(0x0241448C, .clause 0x905 1 2 3 0), (0x04ABCDEF, .hintImm 0xabcdef), (0x05A03040, .hintMod 0x50182), (0x06070000, .hintC 3 1 0),
     (0x07C98000, .hintSched 1 1 0 0 9 1), (0x0BC00005, .bra 7 0x400005), (0x0FC00005, .call 7 0x400005), (0x1000001C, .nop 7),
     (0x1028A03C, .brx 5 10 7), (0x1028A05C, .callx 5 10 7), (0x1000007C, .ret 7), (0x1028A09C, .split 5 10 7), (0x1000A0BC, .join 10 7),
     (0x100000DC, .exit 7), (0x102000FC, .exitS 4 7), (0x1000011C, .yield 7), (0x1000A13C, .sleep 10 7), (0x1020015C, .bkpt 4 7),
     (0x1020017C, .trap 4 7), (0x1000019C, .eret 7), (0x100001BC, .halt 7), (0x1200A1DC, .elect 4 10 7), (0x142802AF, .movi 5 85 7),
     (0x1828A27C, .iadd 5 10 19 7), (0x1828A27D, .isub 5 10 19 7), (0x1828A27E, .imul 5 10 19 7), (0x1828A27F, .imulh 5 10 19 7),
     (0x1C28A27C, .imad 5 10 19 7), (0x1C28A27D, .imadw 5 10 19 7), (0x1C28A27E, .iadc 5 10 19 7), (0x1C28A27F, .lea 5 10 19 7),
     (0x2028A27C, .imin 5 10 19 7), (0x2028A27D, .iminN 5 10 19 7), (0x2028A27E, .imax 5 10 19 7), (0x2028A27F, .imaxN 5 10 19 7),
     (0x2428A27C, .and 5 10 19 7), (0x2428A27D, .or 5 10 19 7), (0x2428A27E, .xor 5 10 19 7), (0x2428A27F, .andn 5 10 19 7),
     (0x2828A27C, .shl 5 10 19 7), (0x2828A27D, .shr 5 10 19 7), (0x2828A27E, .sar 5 10 19 7)] = true := by
  decide +kernel

theorem test_decode_integers : decodes
    [(0x2828A27F, .rot 5 10 19 7), (0x2C28A27C, .bfx 5 10 19 7), (0x2C28A27D, .bfxS 5 10 19 7), (0x2C28A27E, .bfi 5 10 19 7),
     (0x2C28A27F, .sel 5 10 19 7), (0x3218A27C, .icmp 4 3 10 19 7), (0x3218A27D, .icmpN 4 3 10 19 7), (0x3218A27E, .icmpAnd 4 3 10 19 7),
     (0x3218A27F, .icmpOr 4 3 10 19 7), (0x3428A01C, .mov 5 10 7), (0x3428A03C, .iabs 5 10 7), (0x3428A05C, .ineg 5 10 7),
     (0x3428A07C, .not 5 10 7), (0x3428A09C, .popc 5 10 7), (0x3428A0BC, .clz 5 10 7), (0x3428A0DC, .brev 5 10 7),
     (0x3828A27C, .idot4 5 10 19 7), (0x3828A27D, .idot4N 5 10 19 7), (0x3828A27E, .idot2 5 10 19 7), (0x3828A27F, .idot4Sn 5 10 19 7),
     (0x3E35401C, .pset 4 6 5 2 7), (0x3C28003C, .ptox 5 7), (0x3C00A05C, .xtop 10 7), (0x4028A2AF, .iaddi 5 10 85 7),
     (0x4428A04F, .shiftiShl 5 10 9 7), (0x4428A44F, .shiftiShr 5 10 9 7), (0x4428A84F, .shiftiSar 5 10 9 7),
     (0x4428AC4F, .shiftiRot 5 10 9 7), (0x4828A2AF, .andi 5 10 85 7), (0x4C28A2AF, .ori 5 10 85 7), (0x5028A27C, .fadd 5 10 19 7),
     (0x5028A27D, .fsub 5 10 19 7), (0x5028A27E, .fmul 5 10 19 7), (0x5028A27F, .ffma 5 10 19 7), (0x5428A27C, .fmin 5 10 19 7),
     (0x5428A27D, .fmax 5 10 19 7), (0x5428A27E, .fscl 5 10 19 7), (0x5428A27F, .fdot2 5 10 19 7), (0x5A18A27C, .fcmp 4 3 10 19 7),
     (0x5A18A27D, .fcmpAnd 4 3 10 19 7), (0x5A18A27E, .fcmpOr 4 3 10 19 7), (0x5A00A27F, .fcls 4 10 19 7)] = true := by
  decide +kernel

theorem test_decode_floats_and_formats : decodes
    [(0x5C28A01C, .frnd 5 10 7), (0x5C28A03C, .ffrc 5 10 7), (0x5C28A05C, .frcp 5 10 7), (0x5C28A07C, .frsq 5 10 7),
     (0x5C28A09C, .fsqrt 5 10 7), (0x5C28A0BC, .fex2 5 10 7), (0x5C28A0DC, .flg2 5 10 7), (0x5C28A0FC, .fsin 5 10 7),
     (0x5C28A11C, .fcos 5 10 7), (0x6028A27C, .hadd2 5 10 19 7), (0x6028A27D, .hmul2 5 10 19 7), (0x6028A27E, .hfma2 5 10 19 7),
     (0x6028A27F, .hsub2 5 10 19 7), (0x6428A27C, .hmin2 5 10 19 7), (0x6428A27D, .hmax2 5 10 19 7), (0x6618A27E, .hcmp2 4 3 10 19 7),
     (0x6828A67C, .cvt 5 10 6 3 7), (0x6828A67D, .cvtHi 5 10 6 3 7), (0x6828A67E, .cvtN 5 10 6 3 7), (0x6C28A27C, .pack16 5 10 19 7),
     (0x6C28A27D, .pack8 5 10 19 7), (0x6C28A01E, .unpk16 5 10 7), (0x6C28A01F, .unpk8 5 10 7), (0x7028A0DC, .tag 5 10 6 7),
     (0x7028A21C, .tagq 5 10 7), (0x7428A01C, .spcH 5 10 7), (0x7428A01D, .spcB 5 10 7), (0x7428A27E, .spx 5 10 19 7),
     (0x7828A27C, .shflPick 5 10 19 7), (0x7828A27D, .shflRotl 5 10 19 7), (0x7828A27E, .shflRotr 5 10 19 7),
     (0x7828A27F, .shflSwap 5 10 19 7), (0x7E00227C, .voteAll 4 2 19 7), (0x7E00227D, .voteAny 4 2 19 7), (0x7C28227E, .voteBallot 5 2 19 7),
     (0x7C28A27F, .voteMatch 5 10 19 7), (0x8028A27C, .reduxAdd 5 10 19 7), (0x8028A27D, .reduxMin 5 10 19 7),
     (0x8028A27E, .reduxMax 5 10 19 7), (0x8028A27F, .reduxOr 5 10 19 7), (0x8428C6AF, .ld 5 12 6 21 7), (0x8828C6AF, .ldw 5 12 6 21 7)] = true := by
  decide +kernel

theorem test_decode_formats_and_memory : decodes
    [(0x8C28C6AF, .ldq 5 12 6 21 7), (0x9028C6AF, .st 5 12 6 21 7), (0x9428C6AF, .stw 5 12 6 21 7), (0x9828C6AF, .stq 5 12 6 21 7),
     (0x9C28C6AF, .lds 5 12 6 21 7), (0xA028C6AF, .sts 5 12 6 21 7), (0xA428C6AF, .ldsq 5 12 6 21 7), (0xA828C6AF, .stsq 5 12 6 21 7),
     (0xAC28C0AF, .ldfeK 5 12 21 7), (0xAC28C1AF, .ldfeC 5 12 21 7), (0xB028C0AF, .stfe 5 12 21 7), (0xB428C6AF, .ldmx 5 12 6 21 7),
     (0xB828C6AF, .stmx 5 12 6 21 7), (0xBC00A01D, .pref 10 7 1), (0xBC00003C, .cctlInv 7), (0xBC00A05C, .cctlCln 10 7),
     (0xBC00A07C, .cctlFlush 10 7), (0xBC28A09D, .cctlRange 5 10 7 1), (0xC028C6AF, .ldc 5 12 6 21 7), (0xC428C0AF, .atomAdd 5 12 21 7),
     (0xC428C1AF, .atomMin 5 12 21 7), (0xC428C2AF, .atomMax 5 12 21 7), (0xC428C3AF, .atomMinN 5 12 21 7), (0xC428C4AF, .atomMaxN 5 12 21 7),
     (0xC428C5AF, .atomAnd 5 12 21 7), (0xC428C6AF, .atomOr 5 12 21 7), (0xC428C7AF, .atomXor 5 12 21 7), (0xC428C8AF, .atomExch 5 12 21 7),
     (0xC428C9AF, .atomInc 5 12 21 7), (0xC428CAAF, .atomDec 5 12 21 7), (0xC428CBAF, .atomFadd 5 12 21 7), (0xC428CCAF, .atomHadd2 5 12 21 7),
     (0xC828C0AF, .redAdd 5 12 21 7), (0xC828C1AF, .redMin 5 12 21 7), (0xC828C2AF, .redMax 5 12 21 7), (0xC828C3AF, .redMinN 5 12 21 7),
     (0xC828C4AF, .redMaxN 5 12 21 7), (0xC828C5AF, .redAnd 5 12 21 7), (0xC828C6AF, .redOr 5 12 21 7), (0xC828C7AF, .redXor 5 12 21 7),
     (0xC828C8AF, .redExch 5 12 21 7), (0xC828C9AF, .redInc 5 12 21 7)] = true := by
  decide +kernel

theorem test_decode_atomics_and_copies : decodes
    [(0xC828CAAF, .redDec 5 12 21 7), (0xC828CBAF, .redFadd 5 12 21 7), (0xC828CCAF, .redHadd2 5 12 21 7), (0xCC28C0AF, .atomc 5 12 21 7),
     (0xCC28C1AF, .atomc64 5 12 21 7), (0xD028C0AF, .atomq 5 12 21 7), (0xD400039C, .fence 3 4 7), (0xD828A31C, .cpyLd 5 10 3 7 0),
     (0xD828A33C, .cpySt 5 10 3 7 0), (0xD828A35C, .cpygG 5 10 3 7 0), (0xD828A37C, .cpygS 5 10 3 7 0), (0xD800A39C, .cwait 10 3 7),
     (0xD828A3BC, .ctest 5 10 3 7 0), (0xD828A3DC, .cpyCb 5 10 3 7 0), (0xD80003FC, .cpyc 3 7), (0xDC00A31E, .cbinit 10 3 7 2),
     (0xDC28033E, .cbacq 5 3 7 2), (0xDC00A35E, .cbcmt 10 3 7 2), (0xDC28037E, .cbwait 5 3 7 2), (0xDC00A39E, .cbrel 10 3 7 2),
     (0xE000001C, .bar 7), (0xE000003C, .ebar 7), (0xE028005C, .arrive 5 7), (0xE000A07C, .await 10 7), (0xE400A51C, .qpush 10 5 7),
     (0xE428053C, .qpop 5 5 7), (0xE428055C, .qpeek 5 5 7), (0xE400A57C, .qcfg 10 5 7), (0xE828A27C, .mma 5 10 19 7),
     (0xE828A27D, .mmas 5 10 19 7), (0xE828A27E, .tld 5 10 19 7), (0xE828A27F, .tst 5 10 19 7), (0xEC00001C, .gridOn 7),
     (0xEC00003C, .gridOff 7), (0xEC00A05C, .gang 10 7), (0xEC00007C, .opfence 7), (0xEC28A09C, .gmma 5 10 7), (0xEC28A0BC, .gmmat 5 10 7),
     (0xEC28A0DC, .gtld 5 10 7), (0xEC28A0FC, .gtst 5 10 7), (0xEC00A11C, .gwait 10 7), (0xEC28A13C, .rboxG 5 10 7)] = true := by
  decide +kernel

theorem test_decode_barriers_and_graphics : decodes
    [(0xF028A01C, .tpay 5 10 7), (0xF000A03C, .tdisp 10 7), (0xF028A05C, .mvtx 5 10 7), (0xF028A07C, .mprim 5 10 7), (0xF000A09C, .mcnt 10 7),
     (0xF02800BD, .visrd 5 7 1), (0xF028A0DC, .attr 5 10 7), (0xF028A0FD, .deriv 5 10 7 1), (0xF028A11C, .imld 5 10 7),
     (0xF028A13C, .imst 5 10 7), (0xF028A15D, .tex 5 10 7 1), (0xF028A17C, .tldi 5 10 7), (0xF428A01C, .rbox 5 10 7 0),
     (0xF428A03C, .rtri 5 10 7 0), (0xF428A05C, .rnode 5 10 7 0), (0xF428A07E, .rpin 5 10 7 1 0), (0xF400009E, .runpin 7 1 0),
     (0xF42800BC, .rgen 5 7 0), (0xF400A0DC, .bld 10 7), (0xF428A0FC, .bldq 5 10 7), (0xF400A11C, .bldw 10 7), (0xF828A01C, .syscallB 5 10 7),
     (0xF800A01D, .syscallN 10 7), (0xF828003C, .syswait 5 7), (0xF828A05C, .alloc 5 10 7), (0xF800A07C, .free 10 7),
     (0xF828909C, .rdsr 5 9 7), (0xF848A0BC, .wrsr 9 10 7), (0xF828A0DC, .launch 5 10 7), (0xF800A0FC, .lwait 10 7),
     (0xF800A11C, .mapHint 10 7), (0xF800A13C, .mapOff 10 7)] = true := by
  decide +kernel

/-- Words that the reference prints, with what it says they are. -/
theorem test_decode_printed : decodes
    [(0x0002448C, .clause 9 1 2 3 0), (0x0000BFC0, .clause 2 15 15 0 0), (0x05080000, .hintMod 0x4000), (0x09FFFFF0, .bra 3 0x7FFFF0),
     (0x6840441C, .cvt 8 4 4 0 7), (0x7018903C, .tag 3 9 1 7), (0x1830209C, .iadd 6 2 4 7), (0x1C3830BE, .iadc 7 3 5 7), (0x1C60A0FF, .lea 12 10 7 7),
     (0x5050B19C, .fadd 10 11 12 7), (0x5910309C, .fcmp 2 2 3 4 7), (0x502050BF, .ffma 4 5 5 7), (0x503050BE, .fmul 6 5 5 7), (0x5C40905C, .frcp 8 9 7),
     (0x0F800028, .call 7 40), (0x1020409C, .split 4 4 7), (0x100040BC, .join 4 7), (0x100000DC, .exit 7), (0x101000FC, .exitS 2 7), (0x108041DC, .elect 1 4 7),
     (0x7850B19F, .shflSwap 10 11 12 7), (0x803880DC, .reduxAdd 7 8 6 7), (0xE400531C, .qpush 5 3 7), (0xE430033C, .qpop 6 3 7), (0xE438005C, .qpeek 7 0 7),
     (0xE400237C, .qcfg 2 3 7), (0xF800411C, .mapHint 4 7), (0xF800413C, .mapOff 4 7), (0x8440A087, .ld 8 10 0 16 7), (0xB020A007, .stfe 4 10 0 7),
     (0xBC00605C, .cctlCln 6 7), (0xC4202007, .atomAdd 4 2 0 7), (0xC4202907, .atomInc 4 2 0 7), (0xC828200F, .redAdd 5 2 1 7), (0xCC402107, .atomc64 8 2 0 7),
     (0xD0402007, .atomq 8 2 0 7), (0xD400039C, .fence 3 4 7), (0xD400027C, .fence 2 3 7), (0xD820201C, .cpyLd 4 2 0 7 0), (0xD800809C, .cwait 8 0 7),
     (0xD84882BC, .ctest 9 8 2 7 0), (0xD82021DC, .cpyCb 4 2 1 7 0), (0xD80000FC, .cpyc 0 7), (0xDC00211C, .cbinit 2 1 7 0), (0xDC40013C, .cbacq 8 1 7 0),
     (0xDC00815C, .cbcmt 8 1 7 0), (0xDC40017D, .cbwait 8 1 7 1), (0xDC00819C, .cbrel 8 1 7 0), (0xE900011C, .mma 32 0 8 7), (0xE900011D, .mmas 32 0 8 7),
     (0xE80020DE, .tld 0 2 6 7), (0xE90020DF, .tst 32 2 6 7), (0xEC00001C, .gridOn 7), (0xEC00405C, .gang 4 7), (0xEC48809C, .gmma 9 8 7),
     (0xEC48A0FC, .gtst 9 10 7), (0xEC61013C, .rboxG 12 16 7), (0xE000003C, .ebar 7), (0xE028005C, .arrive 5 7), (0xF82020DC, .launch 4 2 7),
     (0xF80080FC, .lwait 8 7), (0xF020801C, .tpay 4 8 7), (0xF04000BD, .visrd 8 7 1), (0xF06140DC, .attr 12 20 7), (0xF03050FC, .deriv 6 5 7 0),
     (0xF080815C, .tex 16 8 7 0), (0xF480801C, .rbox 16 8 7 0), (0xF460405C, .rnode 12 4 7 0), (0xF428007D, .rpin 5 0 7 0 1), (0xF400009F, .runpin 7 1 1),
     (0xF44000BC, .rgen 8 7 0), (0xF48020FC, .bldq 16 2 7), (0x1028017C, .trap 5 7), (0xF808009C, .rdsr 1 0 7), (0xF84830BC, .wrsr 9 3 7),
     (0xF840C01C, .syscallB 8 12 7), (0xF800C01D, .syscallN 12 7), (0xF820605C, .alloc 4 6 7), (0x9028210F, .st 5 2 1 1 7), (0x30A2A7BC, .icmp 1 4 42 61 7)]
    = true := by
  decide +kernel

/-- Reserved values and words with no operation are refused, each by its cause. -/
theorem test_decode_refuses : decodeWord 0x10000001 = .error .reservedField ∧ decodeWord 0xFC000000 = .error .illegalOpcode ∧
    decodeWord 0x00000001 = .error .reservedField := by
  decide +kernel

/-! ### Ill-formed terms that the check refuses -/

theorem test_wellFormed_refuses : ([.clause 0 12 15 0 0, .clause 0 15 14 0 0, .hintMod (6 * 2 ^ 7), .hintMod 6, .icmp 0 12 0 0 7, .icmpN 0 15 0 0 7, .icmpAnd 0 12 0 0 7,
    .icmpOr 0 12 0 0 7, .fcmp 0 14 0 0 7, .fcmpAnd 0 15 0 0 7, .fcmpOr 0 14 0 0 7, .hcmp2 1 0 0 0 7, .hcmp2 0 14 0 0 7, .cvt 0 0 0 5 7, .cvtHi 0 0 0 7 7,
    .cvtN 0 0 0 5 7, .pref 0 7 3, .cctlRange 0 0 7 3, .fence 0 5 7, .tex 0 0 7 3, .rpin 0 1 7 0 0, .cmdNoAction 1, .cmdNoAction 2] : List Instr).all
      (fun i => !i.wellFormed) = true := by
  decide

theorem test_wellFormed_admits : ([.clause 0 11 15 0 0, .hintMod (5 * 2 ^ 7 + 5), .icmp 0 11 0 0 7, .fcmp 0 13 0 0 7, .hcmp2 6 13 0 0 7, .cvt 0 0 0 4 7, .pref 0 7 2,
    .fence 0 4 7, .tex 0 0 7 2, .rpin 0 1 7 1 0, .rpin 0 0 7 0 0, .cmdNoAction 3] : List Instr).all Instr.wellFormed = true := by
  decide

/-! ### Single steps -/

/-- The state an outcome goes on with, and its thread 0. -/
def following (o : Outcome) : State :=
  match o with
  | .next t => t
  | _ => State.reset
def after (o : Outcome) : Thread :=
  (following o).thread 0
/-- The thread of the tests with registers set. -/
def withRegs (l : List (Nat × Word × Tag)) : Thread := { demoThread with regs := l.foldl (fun r x => updateAt r x.1 fun _ => { val := x.2.1, tag := x.2.2 }) demoRegs }
def run (i : Instr) (l : List (Nat × Word × Tag)) : Thread := after (exec i (demo (withRegs l)))

/-- The 64-bit sum that 04_integer.md works out: its low half, -16 + 32, sets C and not V. -/
theorem test_iadd_carries : (let t := run (.iadd 6 2 4 7) [(2, 0xFFFFFFF0, .b32), (4, 0x20, .b32)]
    ((t.reg 6).val, t.carry) = (0x10, 1)) := by decide +kernel
/-- And its high half, 1 + 0 + C. -/
theorem test_iadc_takes_carry : (let t := after (exec (.iadc 7 3 5 7) (demo { withRegs [(3, 1, .b32), (5, 0, .b32)] with carry := 1 }))
    ((t.reg 7).val, t.carry) = (2, 0)) := by decide +kernel
/-- The same place's LEA: element 2 of 8 bytes stands 16 bytes on. -/
theorem test_lea_scales : (let t := after (exec (.lea 12 10 7 7) (demo { withRegs [(7, 2, .b32), (10, 0xFFFFFFF8, .b32), (11, 1, .b32)] with hints := { mod := some 0x300 } }))
    ((t.reg 12).val, (t.reg 13).val) = (8, 2)) := by decide +kernel
/-- 18_programs_matrix_graphics.md: 11 × 0x55555556 has the high half 3. -/
theorem test_imulh : ((run (.imulh 6 2 4 7) [(2, 11, .b32), (4, 0x55555556, .b32)]).reg 6).val = 3 := by decide +kernel

/-- 05_float.md's fused product and its separate steps: 2^-24 exactly, and a product rounded to the even neighbour with NX. -/
theorem test_ffma_is_fused : (let t := run (.ffma 4 5 5 7) [(5, 0x3F800800, .f32), (4, 0xBF801000, .f32)]
    ((t.reg 4).val, t.fflags) = (0x33800000, 0)) := by decide +kernel
theorem test_fmul_rounds_to_even : (let t := run (.fmul 6 5 5 7) [(5, 0x3F800800, .f32)]
    ((t.reg 6).val, t.fflags) = (0x3F801000, 0x10)) := by decide +kernel
/-- Exact cancellation is +0 under RNE and -0 under RDN. -/
theorem test_fadd_cancels : ((run (.fadd 6 6 7 7) [(6, 0x3F801000, .f32), (7, 0xBF801000, .f32)]).reg 6).val = 0 ∧
    ((after (exec (.fadd 6 6 7 7) (demo { withRegs [(6, 0x3F801000, .f32), (7, 0xBF801000, .f32)] with hints := { mod := some (3 * 2 ^ 5) } }))).reg 6).val = 0x80000000 := by
  decide +kernel
/-- FFRC of -2^-30 rounds down below 1; its register is owed to the flag of "a". -/
theorem test_ffrc_below_one : (run (.ffrc 6 5 7) [(5, 0xB0800000, .f32)]).owed = [{ flag := 0, writes := [(6, 0x3F7FFFFF, .f32)] }] := by decide +kernel

/-- The conversion of 03_formats.md: 1.0, -3.3, 500 and 0.001 to E4M3, and 500 clamped under .SAT. -/
theorem test_cvt_e4m3 : (let l : List (Nat × Word × Tag) := [(4, 0x3F800000, .f32), (5, 0xC0533333, .f32), (6, 0x43FA0000, .f32), (7, 0x3A83126F, .f32)]
    (run (.cvt 8 4 4 0 7) l).reg 8 = { val := 0x017FC538, tag := .e4m3x4 } ∧
      (after (exec (.cvt 8 4 4 0 7) (demo { withRegs l with hints := { mod := some 0x40000 } }))).reg 8 = { val := 0x017EC538, tag := .e4m3x4 }) := by
  decide +kernel
/-- The sparse example: a NaN ranks highest, and of the two of one magnitude the lower index is kept. -/
theorem test_spc_keeps : (let t := run (.spcH 4 2 7) [(2, 0x7E018000, .f16x2), (3, 0x3C00BC00, .f16x2)]
    ((t.reg 4).val, (t.reg 5).val) = (0xBC007E01, 9)) := by decide +kernel
/-- PACK8 moves the old high half down. -/
theorem test_pack8_moves_down : ((run (.pack8 4 2 3 7) [(2, 0xAA, .b32), (3, 0xBB, .b32), (4, 0x12345678, .b32)]).reg 4).val = 0xBBAA1234 := by decide +kernel

/-- A load of two steps, its register written when its obligation is met; memory lies little-endian (R2). -/
theorem test_ld_reads_memory : (let s := { demo demoThread with mem := [(0x1004, 0x78), (0x1005, 0x56), (0x1006, 0x34), (0x1007, 0x12)] }
    ((after (exec (.obligationMet 0 0 false) (following (exec (.ld 8 16 0 1 7) s)))).reg 8).val = 0x12345678 ∧
      ((following (exec (.ld 8 16 0 1 7) s)).thread 0).flag 0 = 1) := by decide +kernel
/-- A store changes memory at its visibility point, and not before. -/
theorem test_st_shows_later : (let t := following (exec (.st 1 16 0 31 7) (demo demoThread))
    t.mem = [] ∧ (following (exec (.visibilityPoint 0 0) t)).mem = [(0xFFC, 1)]) := by decide +kernel
/-- TRAP 5 saves its own address, its cause 17 and its number, and goes to the handler. -/
theorem test_trap_enters : (let t := after (exec (.trap 5 7) (demoOf demoThread demoTroupe demoEns handlerCtx))
    (t.pc, t.hpc, t.hcause, t.hinfo, t.inHandler) = (0x8000, 4, 17, 5, true)) := by decide +kernel
/-- A CALL at the last 8 bytes above sr.rsl moves sr.rsp to it; one byte less overflows (cause 10). -/
theorem test_call_stack_limit : (after (exec (.call 7 40) (demo { demoThread with rsl := 0x1FF8 }))).rsp = 0x1FF8 ∧
    (after (exec (.call 7 40) (demoOf { demoThread with rsl := 0x1FF9 } demoTroupe demoEns handlerCtx))).hcause = 10 := by decide +kernel
/-- The word placed where the next step fetches runs as the first instruction after reset: MOVI x1, 0x1FFF. -/
theorem test_step_runs_placed_word : ((after (step (State.reset.withFetchWord 32 0x1408FFFF))).reg 1).val = 0x1FFF := by decide +kernel

end Sys2Proof.Tests
end

/-! ## Memory stays in canonical form (O51, O52; 01_machine.md R19, R20)

`Ends` says of an operation that may stop what holds of its results and of its stops, so that a stop which holds a state is asked for canonical memory too.
For each operation there is one rule: `…_mem` where it leaves memory as it is, `wf_…` where it writes canonical memory from canonical memory,
`ends_…` and `stops_…` where it may stop, and `nextCanonical_…` for a word or an event. The headings follow the model's files. -/

namespace Sys2Proof.Machine

/-! ### Reading the memory off a state that was built by cases or by a fold -/

@[simp] theorem memoryCanonical_iff (s : State) : MemoryCanonical s ↔ Memory.wf s.mem = true := Iff.rfl

@[simp] theorem mem_ite (c : Prop) [Decidable c] (s t : State) : (if c then s else t).mem = if c then s.mem else t.mem := apply_ite State.mem c s t

@[simp] theorem wf_ite (c : Prop) [Decidable c] (l m : List Host.Cell) : Memory.wf (if c then l else m) = if c then Memory.wf l else Memory.wf m :=
  apply_ite Memory.wf c l m

/-- A fold of steps that each leave the memory alone leaves it alone. -/
@[simp] theorem foldl_mem {α : Type} {f : State → α → State} (hf : ∀ s x, (f s x).mem = s.mem) (l : List α) (s : State) :
    (l.foldl f s).mem = s.mem :=
  List.foldlRecOn (motive := fun t : State => t.mem = s.mem) l f rfl fun t ht x _ => (hf t x).trans ht

/-! ### Answers of partial operations -/

/-- The state that a stop holds, where it holds one, has its memory in canonical form. -/
def Stop.Canonical : Stop → Prop
  | .trapIn s _ _ _ => MemoryCanonical s
  | .hold s _ => MemoryCanonical s
  | .trap _ _ _ _ => True
  | .park _ => True

@[simp] theorem Stop.canonical_trap (c : Cause) (a i : DWord) (f : Nat) : (Stop.trap c a i f).Canonical := trivial
@[simp] theorem Stop.canonical_park (y : Wait) : (Stop.park y).Canonical := trivial
@[simp] theorem Stop.canonical_hold (s : State) (st : Status) : (Stop.hold s st).Canonical ↔ Memory.wf s.mem = true := Iff.rfl
@[simp] theorem Stop.canonical_trapIn (s : State) (c : Cause) (a i : DWord) : (Stop.trapIn s c a i).Canonical ↔ Memory.wf s.mem = true := Iff.rfl

/-- An operation ends in a result with P or in a stop with Q. -/
def Ends {ε α : Type} (Q : ε → Prop) (P : α → Prop) : Except ε α → Prop
  | .ok a => P a
  | .error e => Q e

/-- Every stop of an operation has Q, whatever its results are. -/
def Stops {ε α : Type} (Q : ε → Prop) (x : Except ε α) : Prop := ∀ e, x = .error e → Q e

section
variable {ε α β : Type} {Q : ε → Prop} {P : α → Prop}

@[simp] theorem ends_ok (a : α) : Ends Q P (.ok a) ↔ P a := Iff.rfl
@[simp] theorem ends_pure (a : α) : Ends Q P (pure a) ↔ P a := Iff.rfl
@[simp] theorem ends_error (e : ε) : Ends Q P (.error e) ↔ Q e := Iff.rfl
@[simp] theorem ends_bind (x : Except ε β) (f : β → Except ε α) : Ends Q P (x >>= f) ↔ Ends Q (fun b => Ends Q P (f b)) x := by
  cases x <;> rfl
@[simp] theorem ends_map (x : Except ε β) (f : β → α) : Ends Q P (x.map f) ↔ Ends Q (fun b => P (f b)) x := by
  cases x <;> rfl
@[simp] theorem ends_ite (c : Prop) [Decidable c] (x y : Except ε α) : Ends Q P (if c then x else y) ↔ if c then Ends Q P x else Ends Q P y := by
  split <;> rfl

theorem Ends.mono {P' : α → Prop} {x : Except ε α} (h : Ends Q P x) (hp : ∀ a, P a → P' a) : Ends Q P' x := by
  cases x with
  | ok a => exact hp a h
  | error e => exact h

theorem Ends.ok {x : Except ε α} (h : Ends Q P x) {a : α} (hx : x = .ok a) : P a := by
  subst hx
  exact h

theorem Ends.error {x : Except ε α} (h : Ends Q P x) {e : ε} (hx : x = .error e) : Q e := by
  subst hx
  exact h

theorem stops_iff {x : Except ε α} : Stops Q x ↔ Ends Q (fun _ => True) x := by
  cases x <;> simp [Stops]

theorem Ends.stops {x : Except ε α} (h : Ends Q P x) : Stops Q x := stops_iff.2 (h.mono fun _ _ => trivial)


/-- Of an operation whose stops are known only the results are left to judge. -/
@[simp] theorem ends_of_stops {x : Except ε α} (h : Stops Q x) : Ends Q P x ↔ ∀ a, x = .ok a → P a := by
  cases x with
  | ok a => simp
  | error e => simp [h e rfl]

theorem Ends.bind {R : β → Prop} {x : Except ε β} {f : β → Except ε α} (h : Ends Q R x) (hf : ∀ b, R b → Ends Q P (f b)) : Ends Q P (x >>= f) :=
  (ends_bind x f).2 (h.mono hf)

theorem Stops.bind {x : Except ε β} {f : β → Except ε α} (h : Stops Q x) (hf : ∀ b, Ends Q P (f b)) : Ends Q P (x >>= f) :=
  (stops_iff.1 h).bind fun b _ => hf b

theorem Stops.map {x : Except ε β} (h : Stops Q x) (f : β → α) : Stops Q (x.map f) :=
  stops_iff.2 ((ends_map x f).2 (stops_iff.1 h))

theorem ends_mapM {f : β → Except ε α} (l : List β) (h : ∀ b ∈ l, Ends Q P (f b)) : Ends Q (fun as => ∀ a ∈ as, P a) (l.mapM f) := by
  induction l with
  | nil => simp
  | cons b l ih =>
    rw [List.mapM_cons, ends_bind]
    refine (h b List.mem_cons_self).mono fun a ha => ?_
    rw [ends_bind]
    exact (ih fun c hc => h c (List.mem_cons_of_mem b hc)).mono fun as has => by simpa using ⟨ha, has⟩

@[simp] theorem stops_mapM {f : β → Except ε α} {l : List β} (h : ∀ b, Stops Q (f b)) : Stops Q (l.mapM f) :=
  (ends_mapM (P := fun _ => True) l fun b _ => stops_iff.1 (h b)).stops

theorem ends_foldlM {f : α → β → Except ε α} (hf : ∀ a b, P a → Ends Q P (f a b)) (l : List β) {a : α} (ha : P a) :
    Ends Q P (l.foldlM f a) := by
  induction l generalizing a with
  | nil => simpa using ha
  | cons b l ih =>
    rw [List.foldlM_cons, ends_bind]
    exact (hf a b ha).mono fun c hc => ih hc

end

section
variable {α : Type} {P : α → Prop}

@[simp] theorem ends_fail (c : Cause) : Ends Stop.Canonical P (fail c) := trivial
@[simp] theorem ends_failAt (c : Cause) (a : Nat) : Ends Stop.Canonical P (failAt c a) := trivial
@[simp] theorem ends_descriptorFault (n : Nat) : Ends Stop.Canonical P (descriptorFault n) := trivial
@[simp] theorem ends_boundsTrap (w : Who) (n : Nat) : Ends Stop.Canonical P (w.boundsTrap n) := trivial
@[simp] theorem ends_slotFault (n : Nat) : Ends Stop.Canonical P (slotFault n) := trivial

end

@[simp] theorem stops_require (ok : Bool) (c : Cause) : Stops Stop.Canonical (require ok c) := by
  rw [stops_iff]
  simp [require]

/-! ### Operations of one thread, whose stops hold no state -/

@[simp] theorem stops_fetch (t : Thread) (dsts : List Grp) (srcs : List Src) : Stops Stop.Canonical (t.fetch dsts srcs) := by
  rw [stops_iff]
  unfold Thread.fetch
  dsimp only
  split_ifs
  · simp
  · simp
  · simp
  · split <;> simp

@[simp] theorem stops_fetchQuiet (t : Thread) (dsts : List Grp) (srcs : List Src) : Stops Stop.Canonical (t.fetchQuiet dsts srcs) := by
  rw [stops_iff]
  simp [Thread.fetchQuiet]

@[simp] theorem stops_arith (x : Fetched) (fl : Nat) (elems : List Nat) : Stops Stop.Canonical (x.arith fl elems) := by
  rw [stops_iff]
  simp [Fetched.arith]

@[simp] theorem stops_checkTarget (a : DWord) : Stops Stop.Canonical (checkTarget a) := by
  rw [stops_iff]
  simp [checkTarget]

@[simp] theorem stops_raiseFlags (t : Thread) (fs : List Nat) : Stops Stop.Canonical (t.raiseFlags fs) := by
  rw [stops_iff]
  simp [Thread.raiseFlags]

@[simp] theorem stops_owe (t : Thread) (o : Obligation) : Stops Stop.Canonical (t.owe o) := by
  rw [stops_iff]
  simp [Thread.owe]

@[simp] theorem stops_oweRegs (t : Thread) (d : Nat) (vs : List Word) (g : Tag) : Stops Stop.Canonical (t.oweRegs d vs g) :=
  stops_owe t _

@[simp] theorem stops_checkForm (a : DWord) (len align : Nat) (mis : Cause) : Stops Stop.Canonical (checkForm a len align mis) := by
  rw [stops_iff]
  unfold checkForm
  split
  · simp
  · simp

@[simp] theorem stops_watchAll (w : Who) (parts : List (Nat × Nat)) (ld st : Bool) : Stops Stop.Canonical (w.watchAll parts ld st) := by
  rw [stops_iff]
  unfold Who.watchAll
  split
  · simp
  · dsimp only
    split <;> simp

@[simp] theorem stops_watch (w : Who) (a len : Nat) (ld st : Bool) : Stops Stop.Canonical (w.watch a len ld st) := stops_watchAll w _ ld st

@[simp] theorem stops_headOperand (t : Thread) (a : RegField) : Stops Stop.Canonical (headOperand t a) := by
  rw [stops_iff]
  simp [headOperand]

@[simp] theorem stops_checked (t : Thread) (dsts : List Grp) (srcs : List Src) : Stops Stop.Canonical (t.checked dsts srcs) := by
  rw [stops_iff]
  simp [Thread.checked]

@[simp] theorem stops_atomFetch (t : Thread) (op : Nat) (writes : List Grp) (reads : List Src) : Stops Stop.Canonical (t.atomFetch op writes reads) := by
  rw [stops_iff]
  simp [Thread.atomFetch]

@[simp] theorem stops_checkScratch (s : State) (w : Who) (a len align : Nat) : Stops Stop.Canonical (s.checkScratch w a len align) := by
  rw [stops_iff]
  unfold State.checkScratch
  dsimp only
  split
  · simp
  · split
    · simp
    · split <;> simp

@[simp] theorem stops_rangePlace (s : State) (w : Who) (a len : Nat) : Stops Stop.Canonical (s.rangePlace w a len) := by
  rw [stops_iff]
  simp [State.rangePlace]

@[simp] theorem stops_carouselOf (s : State) (w : Who) (c : BitVec 3) (v : BitVec 2) : Stops Stop.Canonical (s.carouselOf w c v) := by
  rw [stops_iff, State.carouselOf]
  split <;> simp

@[simp] theorem stops_checkImage (p : ImageDesc) (a : DWord) (raw : Bool) : Stops Stop.Canonical (checkImage p a raw) := by
  rw [stops_iff]
  simp [checkImage]

@[simp] theorem stops_checkGeometry (s : State) (w : Who) (ws : List Word) : Stops Stop.Canonical (s.checkGeometry w ws) := by
  rw [stops_iff]
  simp [State.checkGeometry]

@[simp] theorem stops_readMetadata (s : State) (w : Who) : Stops Stop.Canonical (s.readMetadata w) := by
  rw [stops_iff]
  simp [State.readMetadata]

@[simp] theorem stops_mmaCheck (sparse : Bool) (d a b : RegField) (w : Who) : Stops Stop.Canonical (mmaCheck sparse d a b w) := by
  rw [stops_iff]
  simp [mmaCheck]
  intro _ _
  split <;> simp

@[simp] theorem stops_fragCheck (store : Bool) (d a b : RegField) (w : Who) : Stops Stop.Canonical (fragCheck store d a b w) := by
  rw [stops_iff]
  simp [fragCheck]

@[simp] theorem stops_checkOp (s : State) (kind : GridKind) (addr : Nat) (ks : List Nat) (w : Who) : Stops Stop.Canonical (s.checkOp kind addr ks w) := by
  rw [stops_iff]
  simp [State.checkOp]
  intro _ _ _ _
  split <;> simp

/-! ### Ops -/

@[simp] theorem haltAll_mem (s : State) (index : Nat) (cause : Cause) : (s.haltAll index cause).mem = s.mem := by
  simp [State.haltAll]

/-! ### Outcomes -/

@[simp] theorem trapHalts_mem (s : State) (w : Who) (cause : Cause) (pc addr : DWord) : (s.trapHalts w cause pc addr).mem = s.mem := by rfl

theorem wf_stopped {s : State} (h : Memory.wf s.mem = true) (w : Who) {e : Stop} (he : e.Canonical) : Memory.wf (s.stopped w e).mem = true := by
  cases e with
  | trap c a i fl => simpa [State.stopped] using h
  | trapIn s' c a i => simpa [State.stopped] using he
  | park y => simpa [State.stopped] using h
  | hold s' st => simpa [State.stopped] using he

/-- The state that an outcome goes on to, where it goes on, has its memory in canonical form. -/
def NextCanonical : Outcome → Prop
  | .next t => MemoryCanonical t
  | _ => True

@[simp] theorem nextCanonical_next (s : State) : NextCanonical (.next s) ↔ Memory.wf s.mem = true := Iff.rfl
@[simp] theorem nextCanonical_fault (f : Fault) : NextCanonical (.fault f) := trivial
@[simp] theorem nextCanonical_ite (c : Prop) [Decidable c] (x y : Outcome) :
    NextCanonical (if c then x else y) ↔ if c then NextCanonical x else NextCanonical y := by
  split <;> rfl

/-- A word's meaning by the results and stops of its body. -/
theorem nextCanonical_runWord {s : State} (h : Memory.wf s.mem = true) (g : PredField) {body : Who → Except Stop State}
    (hb : ∀ w, Ends Stop.Canonical MemoryCanonical (body w)) : NextCanonical (runWord s g body) := by
  unfold runWord
  split
  · trivial
  next w _ =>
    split
    · split
      next hx => simpa using (hb w).ok hx
      next hx => exact wf_stopped h w ((hb w).error hx)
    · simpa using h

theorem nextCanonical_runJump {s : State} (h : Memory.wf s.mem = true) (g : PredField) {body : Who → Except Stop State}
    (hb : ∀ w, Ends Stop.Canonical MemoryCanonical (body w)) : NextCanonical (runJump s g body) := by
  unfold runJump
  split
  · trivial
  next w _ =>
    split
    · split
      next hx => simpa using (hb w).ok hx
      next hx => exact wf_stopped h w ((hb w).error hx)
    · simpa using h

theorem nextCanonical_runThread {s : State} (h : Memory.wf s.mem = true) (g : PredField) {body : Thread → Except Stop Thread}
    (hb : ∀ t, Ends Stop.Canonical (fun _ => True) (body t)) : NextCanonical (runThread s g body) :=
  nextCanonical_runWord h g fun w => by
    rw [ends_map]
    exact (hb w.t).mono fun t _ => by simpa using h

/-! ### Coherence -/

@[simp] theorem setDir_mem (s : State) (d : Directory) : (s.setDir d).mem = s.mem := by rfl

@[simp] theorem fillL1_mem (s : State) (core : Nat) (pas : List Nat) : (s.fillL1 core pas).mem = s.mem := by rfl

@[simp] theorem say_mem (s : State) (m : OutMsg) : (s.say m).mem = s.mem := by rfl

@[simp] theorem endReq_mem (s : State) (r : LinkReq) : (s.endReq r).mem = s.mem := by
  unfold State.endReq
  split <;> rfl

@[simp] theorem acquireUnit_mem (s : State) (unit : Nat) (write : Bool) (b : Behalf) : (s.acquireUnit unit write b).mem = s.mem := by
  simp only [State.acquireUnit, mem_ite, send_mem, ite_self]

@[simp] theorem acquireAll_mem (s : State) (pas : List Nat) (write : Bool) (b : Behalf) : (s.acquireAll pas write b).mem = s.mem := by
  simp [State.acquireAll]

@[simp] theorem setLine_mem (s : State) (unit : Nat) (st : Moesi) : (s.setLine unit st).mem = s.mem := by rfl

theorem wf_writeBack {s : State} (h : Memory.wf s.mem = true) (l : L2Line) (ctx : Option Nat) (keep : Bool) :
    Memory.wf (s.writeBack l ctx keep).mem = true := by
  unfold State.writeBack
  split
  · simpa using h
  · simpa using wf_setMemUnit s _ _ _ h

@[simp] theorem loseSight_mem (s : State) (unit : Nat) : (s.loseSight unit).mem = s.mem := by rfl

theorem wf_remember {s : State} (h : Memory.wf s.mem = true) (unit : Nat) : Memory.wf (s.remember unit).mem = true := by
  unfold State.remember
  split
  · split
    · exact wf_setMemUnit s _ _ _ h
    · exact h
  · exact h

theorem wf_evictUnit {s : State} (h : Memory.wf s.mem = true) (unit : Nat) (ctx : Option Nat) (keep : Bool) :
    Memory.wf (s.evictUnit unit ctx keep).mem = true := by
  unfold State.evictUnit
  split
  · exact h
  next l _ =>
    rw [loseSight_mem, dropLine_mem]
    refine wf_remember ?_ unit
    split
    · exact wf_writeBack h l ctx keep
    · exact h

@[simp] theorem slcFill_mem (s : State) (unit : Nat) : (s.slcFill unit).mem = s.mem := by
  simp [State.slcFill]

@[simp] theorem slcDrop_mem (s : State) (unit : Nat) : (s.slcDrop unit).mem = s.mem := by rfl

theorem wf_addLine {s : State} (h : Memory.wf s.mem = true) (l : L2Line) : Memory.wf (s.addLine l).mem = true := by
  unfold State.addLine
  dsimp only
  split
  · split
    · exact h
    · exact wf_evictUnit h _ _ _
  · exact h

theorem wf_allocateUnit {s : State} (h : Memory.wf s.mem = true) (unit : Nat) : Memory.wf (s.allocateUnit unit).mem = true := by
  unfold State.allocateUnit
  dsimp only
  split
  · rw [setDir_mem]
    exact wf_addLine (by simpa using h) _
  · exact h

@[simp] theorem askUncached_mem (s : State) (b : Behalf) (k seq unit : Nat) : (s.askUncached b k seq unit).mem = s.mem := by
  simp only [State.askUncached, mem_ite, send_mem, ite_self]

@[simp] theorem gather_mem (s : State) (k : Nat) (t : Thread) (seq : Nat) (locs : List Loc) (got : List (Nat × Unit64)) (fromL1 apart : Bool) :
    (s.gather k t seq locs got fromL1 apart).1.mem = s.mem := by
  simp only [State.gather]
  split
  · simp
  · split <;> simp

theorem mem_of_gather {s t : State} {k : Nat} {th : Thread} {seq : Nat} {locs : List Loc} {got : List (Nat × Unit64)} {fromL1 apart : Bool}
    {b : Option (List Byte)} (hs : s.gather k th seq locs got fromL1 apart = (t, b)) : t.mem = s.mem := by
  rw [← gather_mem s k th seq locs got fromL1 apart, hs]

@[simp] theorem dataCheck_mem (s : State) (k : Nat) (ls : List Loc) : (s.dataCheck k ls).mem = s.mem := by
  unfold State.dataCheck
  split <;> rfl

/-- A read at once stops or leaves the memory alone. -/
theorem ends_readNow {s : State} (h : Memory.wf s.mem = true) (w : Who) (ls : List Loc) :
    Ends Stop.Canonical (fun r => Memory.wf r.1.mem = true) (s.readNow w ls) := by
  unfold State.readNow
  split
  · simp
  · split
    next hs => simp [mem_of_gather hs, h]
    next hs => simp [mem_of_gather hs, h]

theorem wf_pastAsk {s : State} (h : Memory.wf s.mem = true) (read write : Bool) (b : Behalf) (unit : Nat) :
    Memory.wf (s.pastAsk read write b unit).mem = true := by
  unfold State.pastAsk
  split
  · exact h
  · split
    · exact wf_evictUnit h _ _ _
    · split <;> simpa using h

/-! ### Mem -/

@[simp] theorem requestPage_mem (s : State) (asid : BitVec 16) (page aux : Nat) (pass : DWord) (wt : Waiter) : (s.requestPage asid page aux pass wt).mem = s.mem := by
  unfold State.requestPage
  split <;> rfl

@[simp] theorem requestXl_mem (s : State) (asid : BitVec 16) (core va kind : Nat) (wt : Waiter) : (s.requestXl asid core va kind wt).mem = s.mem := by
  unfold State.requestXl
  dsimp only
  split
  · rfl
  · split
    · rfl
    · split <;> rfl

@[simp] theorem canonical_pageStop {s : State} (h : Memory.wf s.mem = true) (w : Who) (a : Nat) (u : Use) (p : PageStop) :
    (s.pageStop w a u p).Canonical := by
  cases p <;> simp [State.pageStop, h]

@[simp] theorem stops_translate {s : State} (h : Memory.wf s.mem = true) (w : Who) (va len : Nat) (u : Use) (track : Bool) :
    Stops Stop.Canonical (s.translate w va len u track) := by
  rw [stops_iff]
  simp only [State.translate, ends_bind]
  refine (ends_of_stops (stops_mapM fun a => ?_)).2 fun _ _ => trivial
  rw [stops_iff]
  split
  · trivial
  · exact canonical_pageStop h ..

@[simp] theorem stops_checkGlobal {s : State} (h : Memory.wf s.mem = true) (w : Who) (a : DWord) (len align : Nat) (u : Use) (watched : Bool)
    (mis : Cause) : Stops Stop.Canonical (s.checkGlobal w a len align u watched mis) := by
  rw [stops_iff]
  simp [State.checkGlobal, h]

@[simp] theorem strikeHeap_mem (s : State) (cI : Nat) (vas : List Nat) : (s.strikeHeap cI vas).mem = s.mem := by rfl

@[simp] theorem addStore_mem (s : State) (w : Who) (t : Thread) (p : PendingStore) : (s.addStore w t p).mem = s.mem := by rfl

theorem wf_engineAsk {s : State} (h : Memory.wf s.mem = true) (pas past : List Nat) (u : Use) (b : Behalf) :
    Memory.wf (s.engineAsk pas past u b).mem = true := by
  refine wf_foldl _ (fun t x ht => ?_) _ s h
  split
  · exact ht
  · split
    · exact wf_pastAsk ht ..
    · simpa using ht

/-! ### Mapper -/

@[simp] theorem leave_mem (s : State) (ks : List Nat) : (s.leave ks).mem = s.mem := foldl_mem (by simp) ks s

@[simp] theorem dropConfigs_mem (s : State) (p : Nat → MapConfig → Bool) : (s.dropConfigs p).mem = s.mem := by
  simp [State.dropConfigs]

@[simp] theorem forgetBacks_mem (s : State) (p : Nat → DWord → Bool) : (s.forgetBacks p).mem = s.mem := by
  simp [State.forgetBacks]

@[simp] theorem codeWritten_mem (s : State) (pas : List Nat) : (s.codeWritten pas).mem = s.mem := by
  simp [State.codeWritten]

@[simp] theorem dropOn_mem (s : State) (ctx core : Nat) : (s.dropOn ctx core).mem = s.mem := by
  simp [State.dropOn]

@[simp] theorem dropAll_mem (s : State) (ctx : Nat) : (s.dropAll ctx).mem = s.mem := by
  simp [State.dropAll]

@[simp] theorem chill_mem (s : State) (ctx : Nat) (p : DWord → Bool) : (s.chill ctx p).mem = s.mem := by rfl

@[simp] theorem noteBack_mem (s : State) (core ctx : Nat) (head back : DWord) : (s.noteBack core ctx head back).mem = s.mem := by
  simp [State.noteBack]

@[simp] theorem heatUp_mem (s : State) (w : Who) (head from_ : DWord) : (s.heatUp w head from_).mem = s.mem := by
  simp [State.heatUp]

@[simp] theorem enterConfig_mem (s : State) (w : Who) : (s.enterConfig w).mem = s.mem := by
  unfold State.enterConfig
  split <;> simp

@[simp] theorem configTurn_mem (s : State) (w : Who) : (s.configTurn w).mem = s.mem := by
  unfold State.configTurn
  split <;> simp

/-! ### Rendezvous -/

@[simp] theorem failAtPc_mem (s : State) (crew : List (Nat × Nat)) (pc : DWord) (lane : Nat) : (s.failAtPc crew pc lane).mem = s.mem := by
  refine foldl_mem (fun t x => ?_) _ s
  dsimp only
  split
  · simp
  · rfl

theorem wf_meet {s : State} (h : Memory.wf s.mem = true) (w : Who) (i : Instr) (m : DWord) {done : List (Nat × Nat) → State → State}
    (hd : ∀ arr t, Memory.wf t.mem = true → Memory.wf (done arr t).mem = true) : Memory.wf (s.meet w i m done).mem = true := by
  simp [State.meet, h, hd]

theorem wf_arrive {s : State} (h : Memory.wf s.mem = true) (w : Who) (i : Instr) (m : Word) {done : List (Nat × Nat) → State → State}
    (hd : ∀ arr t, (done arr t).mem = t.mem) : Memory.wf (s.arrive w i m done).mem = true :=
  wf_meet h w i _ fun arr t ht => by simpa [hd] using ht

@[simp] theorem passBy_mem (s : State) (w : Who) : (s.passBy w).mem = s.mem := by
  simp [State.passBy]

theorem nextCanonical_runRendezvous {s : State} (h : Memory.wf s.mem = true) (i : Instr) (g : PredField) (mask : RegField)
    {check : Thread → Except Stop Unit} (hc : ∀ t, Stops Stop.Canonical (check t)) {done : List (Nat × Nat) → State → State}
    (hd : ∀ arr t, (done arr t).mem = t.mem) : NextCanonical (runRendezvous s i g mask check done) := by
  unfold runRendezvous
  split
  · trivial
  next w _ =>
    split
    · split
      · exact wf_arrive h w i _ hd
      next hx => exact wf_stopped h w (hc _ _ hx)
    · simpa using h

@[simp] theorem writeEach_mem (arr : List (Nat × Nat)) (f : Nat × Nat → Thread → Thread) (s : State) : (writeEach arr f s).mem = s.mem :=
  foldl_mem (by simp) arr s

/-! ### Control -/

theorem ends_push {s : State} (h : Memory.wf s.mem = true) (w : Who) (v : DWord) : Ends Stop.Canonical MemoryCanonical (s.push w v) := by
  simp [State.push, h]

theorem ends_pop {s : State} (h : Memory.wf s.mem = true) (w : Who) : Ends Stop.Canonical (fun r => Memory.wf r.1.mem = true) (s.pop w) := by
  simp [State.pop, h, ends_readNow h]

theorem nextCanonical_bra {s : State} (h : Memory.wf s.mem = true) (g : PredField) (o : BitVec 23) : NextCanonical (execBra g o s) :=
  nextCanonical_runJump h g fun w => by simp [h]

theorem nextCanonical_call {s : State} (h : Memory.wf s.mem = true) (g : PredField) (o : BitVec 23) : NextCanonical (execCall g o s) :=
  nextCanonical_runJump h g fun w => by
    simp
    intros
    exact (ends_push h w _).mono fun t ht => by simpa using ht

theorem nextCanonical_ret {s : State} (h : Memory.wf s.mem = true) (g : PredField) : NextCanonical (execRet g s) :=
  nextCanonical_runJump h g fun w => by
    simp only [ends_bind]
    exact (ends_pop h w).mono fun r hr => by simp [hr]

theorem ends_readTable {s : State} (h : Memory.wf s.mem = true) (w : Who) (a : DWord) (n : Nat) :
    Ends Stop.Canonical (fun r => Memory.wf r.1.mem = true) (s.readTable w a n) := by
  simp [State.readTable, h, ends_readNow h]

theorem ends_searchTable (w : Who) (tgt : DWord) (all : Bool) (n : Nat) {s : State} (h : Memory.wf s.mem = true) (a : DWord) (x : TableSearch) :
    Ends Stop.Canonical (fun r => Memory.wf r.1.mem = true) (State.searchTable w tgt all n s a x) := by
  induction n generalizing s a x with
  | zero => exact h
  | succ n ih =>
    simp only [State.searchTable, ends_bind]
    refine (ends_readTable h w a 8).mono fun r hr => ?_
    rw [ends_ite]
    split
    · exact hr
    · exact ih hr _ _

theorem ends_tableTarget {s : State} (h : Memory.wf s.mem = true) (w : Who) (d a : RegField) :
    Ends Stop.Canonical (fun r => Memory.wf r.s.mem = true) (s.tableTarget w d a) := by
  simp [State.tableTarget]
  intros
  refine (ends_readTable h w _ 16).mono fun hdr hh => ?_
  intros
  exact (ends_searchTable w _ _ _ hh _ _).mono fun r hr => by simp [hr]

theorem nextCanonical_brx {s : State} (h : Memory.wf s.mem = true) (d a : RegField) (g : PredField) : NextCanonical (execBrx d a g s) :=
  nextCanonical_runJump h g fun w => by
    simp only [ends_bind]
    exact (ends_tableTarget h w d a).mono fun r hr => by simp [hr]

theorem nextCanonical_callx {s : State} (h : Memory.wf s.mem = true) (d a : RegField) (g : PredField) : NextCanonical (execCallx d a g s) :=
  nextCanonical_runJump h g fun w => by
    simp only [ends_bind]
    refine (ends_tableTarget h w d a).mono fun r hr => ?_
    exact (ends_push (by simpa using hr) _ _).mono fun t ht => by simpa using ht

@[simp] theorem splitDone_mem (d a : RegField) (arr : List (Nat × Nat)) (s : State) : (splitDone d a arr s).mem = s.mem := by
  cases arr <;> simp [splitDone]

@[simp] theorem shuffleDone_mem (mode : Nat) (d a b : RegField) (arr : List (Nat × Nat)) (s : State) : (shuffleDone mode d a b arr s).mem = s.mem := by
  simp [shuffleDone]

theorem nextCanonical_runShuffle {s : State} (h : Memory.wf s.mem = true) (mode : Nat) (i : Instr) (d a b : RegField) (g : PredField) :
    NextCanonical (runShuffle mode i d a b g s) :=
  nextCanonical_runRendezvous h i g b (by simp) (by simp)

theorem nextCanonical_runRedux {s : State} (h : Memory.wf s.mem = true) (i : Instr) (want : List Tag) (f : HintLatch → List Word → Word)
    (d a b : RegField) (g : PredField) : NextCanonical (runRedux i want f d a b g s) :=
  nextCanonical_runRendezvous h i g b (by simp) (by simp)

@[simp] theorem yieldNext_mem (s : State) (w : Who) : (s.yieldNext w).mem = s.mem := by
  simp [State.yieldNext]

theorem nextCanonical_yield {s : State} (h : Memory.wf s.mem = true) (g : PredField) : NextCanonical (execYield g s) := by
  unfold execYield
  split
  · trivial
  · simp [h]

theorem nextCanonical_sleep {s : State} (h : Memory.wf s.mem = true) (a : RegField) (g : PredField) : NextCanonical (execSleep a g s) := by
  unfold execSleep
  split
  · trivial
  next w _ =>
    split
    · have hf := stops_fetch w.t [] [rd1 a [.b32]]
      split
      · simp [h]
      next e he => exact wf_stopped h w (hf e he)
    · simpa using h

/-! ### Loads -/

theorem ends_issueLoad {s : State} (h : Memory.wf s.mem = true) (w : Who) (t : Thread) (p : Placed) (form : LoadForm) (sc : Scope) (const : Bool) :
    Ends Stop.Canonical MemoryCanonical (s.issueLoad w t p form sc const) := by
  simp [State.issueLoad, h]

theorem ends_issueStore {s : State} (h : Memory.wf s.mem = true) (w : Who) (t : Thread) (p : PendingStore) :
    Ends Stop.Canonical MemoryCanonical (s.issueStore w t p) := by
  simp [State.issueStore, h]

theorem ends_loadGlobal {s : State} (h : Memory.wf s.mem = true) (n : Nat) (d b : RegField) (ty : BitVec 4) (o : BitVec 5) (w : Who) :
    Ends Stop.Canonical MemoryCanonical (loadGlobal n d b ty o s w) := by
  simp [loadGlobal, h, ends_issueLoad h]

theorem ends_storeGlobal {s : State} (h : Memory.wf s.mem = true) (n : Nat) (d b : RegField) (ty : BitVec 4) (o : BitVec 5) (w : Who) :
    Ends Stop.Canonical MemoryCanonical (storeGlobal n d b ty o s w) := by
  simp [storeGlobal, h, ends_issueStore h]

theorem ends_loadScratch {s : State} (h : Memory.wf s.mem = true) (n : Nat) (d b : RegField) (ty : BitVec 4) (o : BitVec 5) (w : Who) :
    Ends Stop.Canonical MemoryCanonical (loadScratch n d b ty o s w) := by
  simp [loadScratch, ends_issueLoad h]

theorem ends_storeScratch {s : State} (h : Memory.wf s.mem = true) (n : Nat) (d b : RegField) (ty : BitVec 4) (o : BitVec 5) (w : Who) :
    Ends Stop.Canonical MemoryCanonical (storeScratch n d b ty o s w) := by
  simp [storeScratch, ends_issueStore h]

theorem ends_loadFullEmpty {s : State} (h : Memory.wf s.mem = true) (clear : Bool) (d b : RegField) (o : BitVec 5) (w : Who) :
    Ends Stop.Canonical MemoryCanonical (loadFullEmpty clear d b o s w) := by
  simp [loadFullEmpty]
  intros
  exact (ends_readNow h ..).mono fun r hr => by simp [hr]

theorem wf_cleanUnit {s : State} (h : Memory.wf s.mem = true) (unit : Nat) (ctx : Option Nat) (keep : Bool) :
    Memory.wf (s.cleanUnit unit ctx keep).mem = true := by
  unfold State.cleanUnit
  split
  · exact h
  · split
    · exact h
    · split
      · exact wf_evictUnit h ..
      · exact wf_setMemUnit s _ _ _ h

@[simp] theorem invL1_mem (s : State) (core unit : Nat) : (s.invL1 core unit).mem = s.mem := by rfl

theorem wf_flushUnit {s : State} (h : Memory.wf s.mem = true) (core unit : Nat) (ctx : Option Nat) :
    Memory.wf (s.flushUnit core unit ctx).mem = true := by
  unfold State.flushUnit
  rw [slcDrop_mem]
  refine wf_evictUnit ?_ ..
  rw [invL1_mem]
  exact wf_cleanUnit h ..

theorem wf_unitOp {s : State} (h : Memory.wf s.mem = true) (op core unit : Nat) (ctx : Option Nat) :
    Memory.wf (s.unitOp op core unit ctx).mem = true := by
  unfold State.unitOp
  split
  · simpa using h
  · exact wf_cleanUnit h ..
  · exact wf_flushUnit h ..

theorem ends_maintain {s : State} (h : Memory.wf s.mem = true) (op : Nat) (ranges : List (DWord × Nat)) (t : Thread) (w : Who) :
    Ends Stop.Canonical MemoryCanonical (maintain op ranges t s w) := by
  have hr : ∀ r : DWord × Nat, Stops Stop.Canonical (do
      let p ← s.checkGlobal w r.1 r.2 1 { read := true } false
      .ok p.locs) := fun r => by
    rw [stops_iff]
    simp [h]
  simp [maintain, hr]
  intros
  exact wf_foldl _ (fun t u ht => wf_unitOp ht ..) _ _ (by simpa using h)

theorem ends_maintainOne {s : State} (h : Memory.wf s.mem = true) (op : Nat) (a : RegField) (w : Who) :
    Ends Stop.Canonical MemoryCanonical (maintainOne op a s w) := by
  simp [maintainOne, ends_maintain h]

/-! ### Integer -/

@[simp] theorem stops_intBinary (d a b : RegField) (f : HintLatch → Word → Word → Word) (t : Thread) : Stops Stop.Canonical (intBinary d a b f t) := by
  rw [stops_iff]
  simp [intBinary]

@[simp] theorem stops_addBody (d : RegField) (srcB : Src) (a : RegField) (f : Nat → Nat → Int → Int → Int × Int × Bool) (t : Thread) :
    Stops Stop.Canonical (addBody d srcB a f t) := by
  rw [stops_iff]
  simp [addBody]

@[simp] theorem stops_rawBinary (d a b : RegField) (keepTag : Bool) (f : Word → Word → Word) (t : Thread) :
    Stops Stop.Canonical (rawBinary d a b keepTag f t) := by
  rw [stops_iff]
  simp [rawBinary]

@[simp] theorem stops_rawUnary (d a : RegField) (keepTag : Bool) (f : Word → Word) (t : Thread) : Stops Stop.Canonical (rawUnary d a keepTag f t) := by
  rw [stops_iff]
  simp [rawUnary]

@[simp] theorem stops_intCompare (k : PredField) (c : BitVec 4) (a b : RegField) (uns : Bool) (m : PredMode) (t : Thread) :
    Stops Stop.Canonical (intCompare k c a b uns m t) := by
  rw [stops_iff]
  simp [intCompare]

@[simp] theorem stops_dotBody (d a b : RegField) (wantA wantB : List Tag) (w n : Nat) (sa sb unsAcc : Bool) (t : Thread) :
    Stops Stop.Canonical (dotBody d a b wantA wantB w n sa sb unsAcc t) := by
  rw [stops_iff]
  simp [dotBody]

@[simp] theorem stops_absNegBody (d a : RegField) (f : Int → Int) (t : Thread) : Stops Stop.Canonical (absNegBody d a f t) := by
  rw [stops_iff]
  simp [absNegBody]

/-! ### Float -/

@[simp] theorem stops_f32Binary (op : FOp) (d a b : RegField) (t : Thread) : Stops Stop.Canonical (f32Binary op d a b t) := by
  rw [stops_iff]
  simp [f32Binary]

@[simp] theorem stops_packedBody (op : FOp) (d a b : RegField) (t : Thread) : Stops Stop.Canonical (packedBody op d a b t) := by
  rw [stops_iff]
  simp [packedBody]

@[simp] theorem stops_f32MinMax (isMax : Bool) (d a b : RegField) (t : Thread) : Stops Stop.Canonical (f32MinMax isMax d a b t) := by
  rw [stops_iff]
  simp [f32MinMax]

@[simp] theorem stops_packedMinMax (isMax : Bool) (d a b : RegField) (t : Thread) : Stops Stop.Canonical (packedMinMax isMax d a b t) := by
  rw [stops_iff]
  simp [packedMinMax]

@[simp] theorem stops_f32Compare (k : PredField) (c : BitVec 4) (a b : RegField) (m : PredMode) (t : Thread) :
    Stops Stop.Canonical (f32Compare k c a b m t) := by
  rw [stops_iff]
  simp [f32Compare]

@[simp] theorem stops_funaryBody (d a : RegField) (inf : Bool → Nat × Nat) (fin : Thread → Word → Bool → Nat → Int → Nat × Nat) (t : Thread) :
    Stops Stop.Canonical (funaryBody d a inf fin t) := by
  rw [stops_iff]
  simp [funaryBody]

/-! ### AtomicOps -/

@[simp] theorem passOn_mem (s : State) (k : Nat) : (s.passOn k).mem = s.mem := by rfl

@[simp] theorem noteRelease_mem (s : State) (ctx : Nat) : (s.noteRelease ctx).mem = s.mem := by rfl

@[simp] theorem passRelease_mem (s : State) (k : Nat) (p : PendingStore) : (s.passRelease k p).mem = s.mem := by
  simp [State.passRelease]

/-! ### Tile -/

@[simp] theorem wroteLocal_mem (s : State) (eI : Nat) (space : Space) (offs : List Nat) : (s.wroteLocal eI space offs).mem = s.mem := by
  simp [State.wroteLocal]

@[simp] theorem wroteBytes_mem (s : State) (pas : List Nat) (by_ : Option Nat) : (s.wroteBytes pas by_).mem = s.mem := by
  simp [State.wroteBytes]

@[simp] theorem spoil_mem (s : State) (x : Struct) (place : Nat) : (s.spoil x place).mem = s.mem := by rfl

@[simp] theorem entriesWritten_mem (s : State) (pas : List Nat) : (s.entriesWritten pas).mem = s.mem := by
  refine foldl_mem (fun t _ => ?_) _ s
  split
  · rfl
  · split
    · rfl
    · simp

@[simp] theorem wroteGlobal_mem (s : State) (pas : List Nat) (by_ : Option Nat) : (s.wroteGlobal pas by_).mem = s.mem := by
  simp [State.wroteGlobal]

theorem wf_islandStore {s : State} (h : Memory.wf s.mem = true) (pas : List Nat) (bs : List Byte) : Memory.wf (s.islandStore pas bs).mem = true := by
  unfold State.islandStore
  split
  · rw [wroteGlobal_mem]
    exact wf_foldl _ (fun t _ ht => wf_setMemByte t _ _ ht) _ s h
  · exact h

theorem wf_hostStore {s : State} (h : Memory.wf s.mem = true) (pas : List Nat) (bs : List Byte) : Memory.wf (s.hostStore pas bs).mem = true := by
  unfold State.hostStore
  split
  · exact wf_islandStore h ..
  · exact h

@[simp] theorem wroteScratch_mem (s : State) (tr : Nat) (offs : List Nat) : (s.wroteScratch tr offs).mem = s.mem := by
  simp [State.wroteScratch]

/-! ### Link -/

@[simp] theorem setMbox_mem (s : State) (i : Nat) : (s.setMbox i).mem = s.mem := by
  simp [State.setMbox]

@[simp] theorem daily_mem (s : State) (event data : Nat) (bits : Nat) : (s.daily event data bits).mem = s.mem := by
  simp [State.daily]

@[simp] theorem linkFailed_mem (s : State) : (s.linkFailed).mem = s.mem := by
  simp [State.linkFailed]

@[simp] theorem unexpected_mem (s : State) : (s.unexpected).mem = s.mem := by
  simp [State.unexpected]

theorem wf_learn {s : State} (h : Memory.wf s.mem = true) (unit : Nat) (data : Unit64) : Memory.wf (s.learn unit data).mem = true := by
  unfold State.learn
  dsimp only
  split
  · rw [wroteBytes_mem]
    exact wf_setMemUnit s _ _ _ h
  · exact h

@[simp] theorem takenAway_mem (s : State) (unit : Nat) : (s.takenAway unit).mem = s.mem := by
  simp [State.takenAway]

theorem wf_granted {s : State} (h : Memory.wf s.mem = true) (r : LinkReq) (st : Moesi) (data : Unit64) (stored : BitVec 4) :
    Memory.wf (s.granted r st data stored).mem = true := by
  have hl : Memory.wf ((s.learn r.unit data).addLine { unit := r.unit, state := st, data := data, stored := stored, past := r.past }).mem = true :=
    wf_addLine (wf_learn h ..) _
  unfold State.granted
  dsimp only
  split <;> simpa using hl

theorem nextCanonical_runGrant {s : State} (h : Memory.wf s.mem = true) (tag opc : Nat) (st : Moesi) (data : Unit64) :
    NextCanonical (runGrant s tag opc st data) := by
  unfold runGrant
  split
  · simpa using h
  · split
    · rw [nextCanonical_next]
      split
      · exact wf_granted h ..
      · exact h
    · simpa using h

@[simp] theorem respond_mem (s : State) (opc tag unit aux : Nat) : (s.respond opc tag unit aux).mem = s.mem := by
  simp [State.respond]

@[simp] theorem rspI_mem (s : State) (unit tag : Nat) : (s.rspI unit tag).mem = s.mem := by
  simp [State.rspI]

theorem wf_mergeUnit {s : State} (h : Memory.wf s.mem = true) (unit : Nat) (places : List Nat) (data : Unit64) :
    Memory.wf (s.mergeUnit unit places data).mem = true := by
  unfold State.mergeUnit
  rw [wroteGlobal_mem]
  exact wf_setMemUnit s _ _ _ h

@[simp] theorem homeSays_mem (s : State) (q : HomeReq) (unit opc : Nat) (data : Unit64) : (s.homeSays q unit opc data).mem = s.mem := by
  simp [State.homeSays]

@[simp] theorem grantedAway_mem (s : State) (q : HomeReq) (unit : Nat) : (s.grantedAway q unit).mem = s.mem := by
  simp [State.grantedAway]

@[simp] theorem grantFrom_mem (s : State) (d : Directory) (q : HomeReq) (withData joined : Bool) : (s.grantFrom d q withData joined).mem = s.mem := by
  unfold State.grantFrom
  split <;> simp

theorem wf_mergeBack {s : State} (h : Memory.wf s.mem = true) (unit : Nat) (q : HomeReq) : Memory.wf (s.mergeBack unit q).mem = true := by
  unfold State.mergeBack
  dsimp only
  split
  · exact wf_setMemUnit s _ _ _ h
  · exact wf_mergeUnit h ..

/-- An atomic's result, written byte by byte where it has one. -/
theorem wf_setMemBytes {s : State} (h : Memory.wf s.mem = true) (l : List (Nat × Byte)) :
    Memory.wf (l.foldl (fun (s : State) x => s.setMemByte x.1 x.2) s).mem = true :=
  wf_foldl _ (fun t _ ht => wf_setMemByte t _ _ ht) l s h

theorem wf_homeEffect {s : State} (h : Memory.wf s.mem = true) (unit : Nat) (q : HomeReq) : Memory.wf (s.homeEffect unit q).mem = true := by
  have hs : Memory.wf (if q.opc = 3 || q.opc = 4 then s else s.settlePast unit).mem = true := by
    split
    · exact h
    · exact wf_settlePast s unit h
  unfold State.homeEffect
  dsimp only
  split
  · rw [homeSays_mem]
    exact wf_mergeBack hs ..
  · simpa using hs
  · rw [homeSays_mem]
    split
    · rw [wroteGlobal_mem]
      exact wf_setMemBytes hs _
    · exact hs
  · rw [homeSays_mem]
    exact wf_mergeUnit hs ..

theorem wf_homeServe {s : State} (h : Memory.wf s.mem = true) (d : Directory) (q0 : HomeReq) : Memory.wf (s.homeServe d q0).mem = true := by
  have he : ∀ q, Memory.wf (s.homeEffect d.unit q).mem = true := wf_homeEffect h d.unit
  unfold State.homeServe
  dsimp only
  split
  · split <;> simp only [setDir_mem, mem_ite, say_mem, ite_self, h]
  · split <;> simp only [setDir_mem, mem_ite, say_mem, ite_self, h]
  · split
    · simp only [setDir_mem, foldl_mem, mem_ite, say_mem, ite_self, implies_true, h]
    · split <;> simp only [setDir_mem, mem_ite, say_mem, ite_self, h]
  · split <;> simp only [grantFrom_mem, setDir_mem, foldl_mem, mem_ite, say_mem, ite_self, implies_true, h]
  · simp only [setDir_mem, he]
  · split <;> simp only [setDir_mem, foldl_mem, mem_ite, say_mem, ite_self, implies_true, h, he]

theorem wf_joinFirst {s t : State} (h : Memory.wf s.mem = true) {unit : Nat} {q : HomeReq} (ht : s.joinFirst unit q = some t) :
    Memory.wf t.mem = true := by
  have hm := wf_mergeBack h unit q
  unfold State.joinFirst at ht
  dsimp only at ht
  split at ht
  · split at ht
    · simp only [Option.some.injEq] at ht
      simpa [← ht] using hm
    · cases ht
  · split at ht
    · simp only [Option.some.injEq] at ht
      simpa [← ht] using hm
    · cases ht
  · cases ht

theorem wf_joinWaiting {s : State} (h : Memory.wf s.mem = true) (unit : Nat) : Memory.wf (s.joinWaiting unit).mem = true := by
  refine wf_foldl _ (fun t q ht => ?_) _ s h
  split
  next s' hs =>
    split at hs
    · simpa using wf_joinFirst ht hs
    · cases hs
  · exact ht

theorem wf_homeNext {s : State} (h : Memory.wf s.mem = true) (unit n : Nat) : Memory.wf (s.homeNext unit n).mem = true := by
  induction n generalizing s with
  | zero => exact h
  | succ n ih =>
    unfold State.homeNext
    dsimp only
    split
    · exact ih (wf_joinWaiting (wf_homeServe (by simpa using h) _ _) unit)
    · exact h

theorem wf_homeClose {s : State} (h : Memory.wf s.mem = true) (unit : Nat) : Memory.wf (s.homeClose unit).mem = true :=
  wf_homeNext (by simpa using h) unit _

theorem wf_homeArrive {s : State} (h : Memory.wf s.mem = true) (unit : Nat) (q : HomeReq) : Memory.wf (s.homeArrive unit q).mem = true := by
  unfold State.homeArrive
  dsimp only
  split
  · simpa using h
  · exact wf_homeServe h ..

@[simp] theorem taken_mem (s : State) (agent : Nat) : (s.taken agent).mem = s.mem := by
  simp [State.taken]

theorem nextCanonical_homeTakes {s : State} (h : Memory.wf s.mem = true) (unit : Nat) (q : HomeReq) : NextCanonical (s.homeTakes unit q) := by
  unfold State.homeTakes
  rw [nextCanonical_next]
  split
  · rw [taken_mem]
    exact wf_homeArrive h ..
  · exact h

theorem wf_invalidated {s : State} (h : Memory.wf s.mem = true) (unit : Nat) : Memory.wf (s.invalidated unit).mem = true := by
  unfold State.invalidated
  dsimp only
  split
  · split
    · exact h
    · split
      · simpa using h
      · simpa using h
      · exact wf_homeClose (wf_homeEffect h ..) unit
  · exact h

theorem wf_grantOrSupply {s : State} (h : Memory.wf s.mem = true) (d : Directory) (q : HomeReq) : Memory.wf (s.grantOrSupply d q).mem = true := by
  unfold State.grantOrSupply
  split
  · exact wf_homeClose (by simpa using wf_homeEffect h ..) d.unit
  · simpa using h

@[simp] theorem haltAsid_mem (s : State) (asid : BitVec 16) (cause : Cause) : (s.haltAsid asid cause).mem = s.mem := by
  simp [State.haltAsid]

@[simp] theorem fillTlb_mem (s : State) (r : XlReq) (e : TlbEntry) : (s.fillTlb r e).mem = s.mem := by rfl

/-! ### Order -/

@[simp] theorem loadedAt_mem (s : State) (ls : List Loc) : (s.loadedAt ls).mem = s.mem := by
  refine foldl_mem (fun t l => ?_) ls s
  split
  · simp
  · rfl

theorem wf_prefetch {s : State} (h : Memory.wf s.mem = true) (k : Nat) (t : Thread) (l : PendingLoad) (level : Nat) :
    Memory.wf (s.prefetch k t l level).mem = true := by
  unfold State.prefetch
  dsimp only
  split
  · simpa using h
  · rw [State.updThread_mem]
    split
    · simpa using h
    · split
      · exact wf_foldl _ (fun t u ht => wf_allocateUnit ht u) _ s h
      · simpa using h

@[simp] theorem readTexels_mem (s : State) (k index mask : Nat) : (s.readTexels k index mask).mem = s.mem := by
  unfold State.readTexels
  dsimp only
  split
  · rfl
  next l _ =>
    split
    · rfl
    · refine foldl_mem (fun t i => ?_) _ s
      split
      · rfl
      · split
        next hs => exact mem_of_gather hs
        next hs => simp [mem_of_gather hs]

theorem wf_bindLoad {s : State} (h : Memory.wf s.mem = true) (k : Nat) (t : Thread) (l : PendingLoad) (fromL1 : Bool) (mask : Option Nat) :
    Memory.wf (s.bindLoad k t l fromL1 mask).mem = true := by
  unfold State.bindLoad
  split
  · exact wf_prefetch h ..
  · split
    · exact h
    · split
      next hs => simp [mem_of_gather hs, h]
      next hs => simp [mem_of_gather hs, h]

theorem wf_landSome {s : State} (h : Memory.wf s.mem = true) (k index mask : Nat) : Memory.wf (s.landSome k index mask).mem = true := by
  unfold State.landSome
  split
  · exact h
  · split
    · exact wf_bindLoad h ..
    · split <;> simp [h]

theorem wf_performStore {s : State} (h : Memory.wf s.mem = true) (core : Nat) (bytes : List StoreByte) (setFull : Bool) :
    Memory.wf (s.performStore core bytes setFull).mem = true := by
  have hp : Memory.wf (bytes.foldl (fun s b => s.putLoc b.loc (b.over (s.getLoc b.loc))) s).mem = true :=
    wf_foldl _ (fun t b ht => wf_putLoc t _ _ ht) _ s h
  unfold State.performStore
  dsimp only
  split
  · exact hp
  next b rest =>
    split
    · simpa using hp
    · simpa using hp

theorem wf_writeHome {s : State} (h : Memory.wf s.mem = true) (bs : List StoreByte) : Memory.wf (s.writeHome bs).mem = true := by
  unfold State.writeHome
  rw [wroteGlobal_mem]
  exact wf_foldl _ (fun t b ht => wf_setMemByte t _ _ ht) _ _ (wf_foldl _ (fun t u ht => wf_settlePast t u ht) _ s h)

theorem wf_sendHome {s : State} (h : Memory.wf s.mem = true) (k : Nat) (t : Thread) (p : PendingStore) :
    Memory.wf (s.sendHome k t p).mem = true := by
  unfold State.sendHome
  dsimp only
  split
  · exact h
  · simpa using wf_foldl _ (fun t u ht => wf_writeHome ht _) _ s h

theorem wf_atomAtHome {s : State} (h : Memory.wf s.mem = true) (k : Nat) (t : Thread) (p : PendingStore) (o : AtomicOp) :
    Memory.wf (s.atomAtHome k t p o).mem = true := by
  have hs := wf_settlePast s (p.pas.headD 0 / 64) h
  unfold State.atomAtHome
  dsimp only
  split
  · split
    · exact h
    · exact wf_evictUnit h ..
  · split
    · exact h
    · split
      · rw [State.updThread_mem, passRelease_mem, State.updCore_mem]
        split
        · rw [wroteGlobal_mem]
          exact wf_setMemBytes hs _
        · exact hs
      · split
        · exact h
        · simpa using hs

theorem wf_showStore {s : State} (h : Memory.wf s.mem = true) (k : Nat) (t : Thread) (p : PendingStore) :
    Memory.wf (s.showStore k t p).mem = true := by
  unfold State.showStore
  dsimp only
  split
  · exact h
  · split
    · split
      · simpa using h
      · split
        · exact wf_atomAtHome h ..
        · split
          · simpa using h
          · rw [State.updThread_mem, passRelease_mem, State.updCore_mem]
            split
            · exact wf_performStore h ..
            · exact h
    · split
      · exact wf_sendHome h ..
      · split
        · simpa using h
        · simpa using wf_performStore h ..

@[simp] theorem readSource_mem (s : State) (k index j : Nat) : (s.readSource k index j).mem = s.mem := by
  unfold State.readSource
  split
  · rfl
  · split
    · rfl
    · split
      · rfl
      · simp

/-! ### Atomic -/

@[simp] theorem stops_checkAtomic {s : State} (h : Memory.wf s.mem = true) (w : Who) (n : Nat) (o : BitVec 5) (len : Nat) (ret : Bool) :
    Stops Stop.Canonical (s.checkAtomic w n o len ret) := by
  rw [stops_iff]
  simp [State.checkAtomic, h]

theorem ends_issueAtomic {s : State} (h : Memory.wf s.mem = true) (w : Who) (t : Thread) (p : PendingStore) :
    Ends Stop.Canonical MemoryCanonical (s.issueAtomic w t p) := by
  simp [State.issueAtomic, h]

theorem ends_atomBody {s : State} (h : Memory.wf s.mem = true) (op : Nat) (d b : RegField) (o : BitVec 5) (w : Who) :
    Ends Stop.Canonical MemoryCanonical (atomBody op d b o s w) := by
  simp [atomBody, h, ends_issueAtomic h]

theorem ends_redBody {s : State} (h : Memory.wf s.mem = true) (op : Nat) (d b : RegField) (o : BitVec 5) (w : Who) :
    Ends Stop.Canonical MemoryCanonical (redBody op d b o s w) := by
  simp [redBody, h, ends_issueStore h]

theorem ends_casBody {s : State} (h : Memory.wf s.mem = true) (n : Nat) (regs : List Src) (pick : Fetched → Nat × Nat) (d b : RegField)
    (o : BitVec 5) (new : Nat) (w : Who) : Ends Stop.Canonical MemoryCanonical (casBody n regs pick d b o new s w) := by
  simp [casBody, h, ends_issueAtomic h]

/-! ### Convert -/

@[simp] theorem stops_cvtBody (form : CvtForm) (d a : RegField) (dcode : BitVec 4) (rnd : BitVec 3) (t : Thread) :
    Stops Stop.Canonical (cvtBody form d a dcode rnd t) := by
  rw [stops_iff]
  simp [cvtBody]

@[simp] theorem stops_unpackBody (w n : Nat) (d a : RegField) (t : Thread) : Stops Stop.Canonical (unpackBody w n d a t) := by
  rw [stops_iff]
  simp [unpackBody]

/-! ### Queue -/

@[simp] theorem updRelay_mem (s : State) (tr q : Nat) (f : RelayQueue → RelayQueue) : (s.updRelay tr q f).mem = s.mem := by rfl

theorem ends_takeRank {s : State} (h : Memory.wf s.mem = true) (w : Who) (q group : Nat) :
    Ends Stop.Canonical MemoryCanonical (s.takeRank w q group) := by
  unfold State.takeRank
  split <;> simp [h]

@[simp] theorem pushWord_mem (s : State) (tr q : Nat) (x : Word × Tag) : (s.pushWord tr q x).mem = s.mem := by
  unfold State.pushWord
  split <;> simp

@[simp] theorem servePushes_mem (s : State) (tr q n : Nat) : (s.servePushes tr q n).mem = s.mem := by
  induction n generalizing s with
  | zero => rfl
  | succ n ih =>
    unfold State.servePushes
    dsimp only
    split
    · split
      · simp [ih]
      · rfl
    · rfl

@[simp] theorem popWord_mem (s : State) (tr q k dst : Nat) (v : Word × Tag) (vs : List (Word × Tag)) : (s.popWord tr q k dst v vs).mem = s.mem := by rfl

@[simp] theorem servePops_mem (s : State) (tr q n : Nat) : (s.servePops tr q n).mem = s.mem := by
  induction n generalizing s with
  | zero => rfl
  | succ n ih =>
    unfold State.servePops
    dsimp only
    split
    · simp [ih]
    · rfl

@[simp] theorem queueTick_mem (s : State) (qs : List (Nat × Nat)) : (s.queueTick qs).mem = s.mem := by
  simp [State.queueTick]

@[simp] theorem queueTicks_mem (s : State) (qs : List (Nat × Nat)) (n : Nat) : (s.queueTicks qs n).mem = s.mem := by
  induction n generalizing s with
  | zero => rfl
  | succ n ih => simp [State.queueTicks, ih]

@[simp] theorem passQueues_mem (s : State) (dt : Nat) : (s.passQueues dt).mem = s.mem := by
  unfold State.passQueues
  dsimp only
  split
  · rfl
  · simp

@[simp] theorem unbind_mem (s : State) (tr q : Nat) : (s.unbind tr q).mem = s.mem := by
  unfold State.unbind
  split <;> rfl

@[simp] theorem evictWaiters_mem (s : State) (tr q : Nat) : (s.evictWaiters tr q).mem = s.mem := by
  simp [State.evictWaiters]

/-! ### Ensembles -/

@[simp] theorem populate_mem (s : State) (eI n : Nat) (cores : List Nat) (old : List Troupe) : (s.populate eI n cores old).mem = s.mem := by
  simp [State.populate]

@[simp] theorem queueEnsemble_mem (s : State) (e : Ensemble) : (s.queueEnsemble e).mem = s.mem := by rfl

/-! ### Copy -/

@[simp] theorem updMap_mem (s : State) (tr map : Nat) (f : CompletionMap → CompletionMap) : (s.updMap tr map f).mem = s.mem := by rfl

@[simp] theorem updCarousel_mem (s : State) (tr i : Nat) (f : Carousel → Carousel) : (s.updCarousel tr i f).mem = s.mem := by rfl

theorem ends_readDescriptor {s : State} (h : Memory.wf s.mem = true) (w : Who) (scratch : Bool) (a : Nat) :
    Ends Stop.Canonical (fun r => Memory.wf r.1.mem = true) (s.readDescriptor w scratch a) := by
  have hl : ∀ ls : List Loc, Ends Stop.Canonical (fun r => Memory.wf r.1.mem = true) (s.readNow w ls) := ends_readNow h w
  cases scratch <;> simp [State.readDescriptor, h, hl]

theorem ends_issueCopy {s : State} (h : Memory.wf s.mem = true) (kind : CopyKind) (d a : RegField) (map : Nat) (ds : Bool) (w : Who) :
    Ends Stop.Canonical MemoryCanonical (issueCopy kind d a map ds s w) := by
  unfold issueCopy
  refine Stops.bind (by simp) fun x => ?_
  extract_lets ws xd tile origin car m
  refine (ends_readDescriptor h ..).bind fun r hr => ?_
  refine Stops.bind (by simp) fun _ => ?_
  extract_lets n gs placed aligned owned described
  have hplaced : ∀ y, Ends Stop.Canonical MemoryCanonical (placed y) := fun y => by
    simp [placed, hr]
    intro _
    split <;> simp [hr]
  have haligned : ∀ y, Ends Stop.Canonical MemoryCanonical (aligned y) := fun y => by
    refine Stops.bind ?_ fun _ => ?_
    · rw [stops_iff]
      split <;> simp
    · simp [hplaced]
  have howned : ∀ y, Ends Stop.Canonical MemoryCanonical (owned y) := fun y => by
    simp [owned, haligned]
  have hdescribed : ∀ y, Ends Stop.Canonical MemoryCanonical (described y) := fun y => by
    simp [described, howned]
  split <;> simp [hdescribed]

@[simp] theorem stopCopy_mem (s : State) (i : Nat) (c : Copy) (cause : Cause) (addr : DWord) : (s.stopCopy i c cause addr).mem = s.mem := by
  simp [State.stopCopy]

@[simp] theorem granuleLanded_mem (s : State) (i g : Nat) (c : Copy) : (s.granuleLanded i g c).mem = s.mem := by
  simp [State.granuleLanded]

@[simp] theorem copyBad_mem (s : State) (c : Copy) (a : Nat) : (s.copyBad c a).mem = s.mem := by rfl

@[simp] theorem copyStoreBad_mem (s : State) (i g : Nat) : (s.copyStoreBad i g).mem = s.mem := by
  unfold State.copyStoreBad
  split <;> simp

theorem wf_storeGranule {s : State} (h : Memory.wf s.mem = true) (i g : Nat) (c : Copy) (out : List (Nat × Byte)) (past : List Nat) :
    Memory.wf (s.storeGranule i g c out past).mem = true := by
  have hp := wf_writePhys s (out.map (·.1)) (out.map (·.2)) (s.copyFor c) h
  unfold State.storeGranule
  dsimp only
  split <;> simpa using hp

theorem wf_moveGranule {s : State} (h : Memory.wf s.mem = true) (i g : Nat) (c : Copy) : Memory.wf (s.moveGranule i g c).mem = true := by
  simp only [State.moveGranule]
  generalize (if c.kind = .gS then [] else c.addrs [g]) = as
  split
  · simpa using h
  · split
    · exact wf_engineAsk h ..
    · split
      · exact wf_storeGranule h ..
      · simpa using h
      · simpa using h
      · simpa using h

@[simp] theorem leaveCarousel_mem (s : State) (tr i k : Nat) : (s.leaveCarousel tr i k).mem = s.mem := by rfl

theorem ends_stageRelease {s : State} (h : Memory.wf s.mem = true) (a : RegField) (c : BitVec 3) (v : BitVec 2) (old new : Stage) (w : Who) :
    Ends Stop.Canonical MemoryCanonical (stageRelease a c v old new s w) := by
  simp [stageRelease]
  intros
  split <;> simp [h]

/-! ### Matrix -/

@[simp] theorem mmaDone_mem (sparse : Bool) (d a b : RegField) (m : DWord) (arr : List (Nat × Nat)) (s : State) : (mmaDone sparse d a b m arr s).mem = s.mem := by
  unfold mmaDone
  split <;> simp

@[simp] theorem readProduct_mem (s : State) (k key n : Nat) : (s.readProduct k key n).mem = s.mem := by
  unfold State.readProduct
  dsimp only
  split
  · rfl
  · rw [foldl_mem (by simp), State.updTroupe_mem]

@[simp] theorem stops_fragPlaces {s : State} (h : Memory.wf s.mem = true) (w : Who) (c : FragCtl) (a : RegField) (store : Bool) (m : DWord) :
    Stops Stop.Canonical (fragPlaces s w c a store m) := by
  have hp : ∀ (x z : Nat), Stops Stop.Canonical (if c.scratch then (s.checkScratch w x z z).map fun l => scratchLocs l.1 l.2 z
      else (s.checkGlobal w (w64 x) z z { read := !store, write := store } false).map (·.locs)) := fun x z => by
    rw [stops_iff]
    simp [h]
  rw [stops_iff]
  simp [fragPlaces, hp]

theorem ends_tldOne {s : State} (h : Memory.wf s.mem = true) (d a b : RegField) (m : DWord) (w : Who) :
    Ends Stop.Canonical MemoryCanonical (tldOne d a b m w s) := by
  simp [tldOne, h]

theorem ends_nibbleStores {s : State} (h : Memory.wf s.mem = true) (w : Who) (l : List StoreByte) :
    Ends Stop.Canonical (fun r => Memory.wf r.1.mem = true) (nibbleStores s w l) := by
  simp only [nibbleStores, ends_bind, ends_ok]
  exact ends_readNow h ..

theorem ends_tstOne {s : State} (h : Memory.wf s.mem = true) (d a b : RegField) (m : DWord) (w : Who) :
    Ends Stop.Canonical MemoryCanonical (tstOne d a b m w s) := by
  simp [tstOne, h]
  intro ps _ _
  exact (ends_nibbleStores h ..).mono fun r hr => by simp [hr]

/-- A lane's part of a fragment's move, whatever the lane's own end. -/
theorem wf_fragOne {one : DWord → Who → State → Except Stop State} (m : DWord) (k : Nat) {s : State} (h : Memory.wf s.mem = true)
    (ho : ∀ w, Ends Stop.Canonical MemoryCanonical (one m w s)) : Memory.wf (fragOne one m k s).mem = true := by
  unfold fragOne
  split
  · exact h
  next w _ =>
    split
    next hs => simpa using (ho w).ok hs
    next hs =>
      dsimp only
      split <;> simpa using wf_stopped h w ((ho w).error hs)

/-! ### Grid -/

@[simp] theorem updGrid_mem (s : State) (eI : Nat) (f : Grid → Grid) : (s.updGrid eI f).mem = s.mem := by rfl

@[simp] theorem gangMismatch_mem (s : State) (eI : Nat) : (s.gangMismatch eI).mem = s.mem := by
  simp [State.gangMismatch]

theorem ends_accept {s : State} (h : Memory.wf s.mem = true) (kind : GridKind) (addr : Nat) (ks : List (Nat × RegField)) :
    Ends Stop.Canonical MemoryCanonical (s.accept kind addr ks) := by
  unfold State.accept
  split
  · exact h
  · split
    · exact h
    · simp [h]

theorem wf_tryLatch {s : State} (h : Memory.wf s.mem = true) (eI : Nat) : Memory.wf (s.tryLatch eI).mem = true := by
  unfold State.tryLatch
  dsimp only
  split
  · exact h
  · split
    · split
      · split
        next hs => exact (ends_accept h ..).ok hs
        · simpa using h
        · exact h
      · exact h
    · exact h

@[simp] theorem gridBad_mem (s : State) (e : Ensemble) (a : Nat) : (s.gridBad e a).mem = s.mem := by rfl

/-- The state that a grid operation's stop holds, where it holds one, has its memory in canonical form. -/
def GridStop.Canonical : GridStop → Prop
  | .wait s => MemoryCanonical s
  | .latch _ _ => True

@[simp] theorem GridStop.canonical_wait (s : State) : (GridStop.wait s).Canonical ↔ Memory.wf s.mem = true := Iff.rfl
@[simp] theorem GridStop.canonical_latch (c : Cause) (a : Nat) : (GridStop.latch c a).Canonical := trivial

theorem stops_gridPhys {s : State} (h : Memory.wf s.mem = true) (eI : Nat) (e : Ensemble) (ps : List (Space × Nat)) (u : Use) :
    Stops GridStop.Canonical (s.gridPhys eI e ps u) := by
  rw [stops_iff]
  unfold State.gridPhys
  dsimp only
  split
  · split <;> simp [h]
  · split
    · simp [h]
    · simp [wf_engineAsk h]

@[simp] theorem endRbox_mem (s : State) (op : GridOp) (count : Word) : (s.endRbox op count).mem = s.mem := by rfl

@[simp] theorem finishOp_mem (s : State) (eI : Nat) (op : GridOp) : (s.finishOp eI op).mem = s.mem := by
  simp [State.finishOp]

@[simp] theorem gridFault_mem (s : State) (eI : Nat) (op : GridOp) (cause : Cause) (addr : Nat) : (s.gridFault eI op cause addr).mem = s.mem := by
  simp [State.gridFault]

theorem wf_matrixStep {s : State} (h : Memory.wf s.mem = true) (eI : Nat) (e : Ensemble) (op : GridOp) :
    Memory.wf (s.matrixStep eI e op).mem = true := by
  unfold State.matrixStep
  dsimp only
  split
  · simpa using h
  · split
    · simpa using h
    next hs => exact stops_gridPhys h _ _ _ _ _ hs
    · split <;> simpa using h

@[simp] theorem powerBands_mem (s : State) (e : Ensemble) : (s.powerBands e).mem = s.mem := by rfl

@[simp] theorem gridStoreBad_mem (s : State) (eI : Nat) : (s.gridStoreBad eI).mem = s.mem := by
  simp only [State.gridStoreBad]
  split <;> simp

@[simp] theorem endStore_mem (s : State) (eI : Nat) (op : GridOp) (past : List Nat) : (s.endStore eI op past).mem = s.mem := by
  simp [State.endStore]

theorem wf_gridMoveOp {s : State} (h : Memory.wf s.mem = true) (eI : Nat) (e : Ensemble) (op : GridOp) :
    Memory.wf (s.gridMoveOp eI e op).mem = true := by
  unfold State.gridMoveOp
  dsimp only
  split
  · split
    · exact h
    · simpa using h
  · split
    · simpa using h
    next hs => exact stops_gridPhys h _ _ _ _ _ hs
    · split
      · rw [endStore_mem, strikeHeap_mem, wroteGlobal_mem, foldl_mem (by simp)]
        refine wf_writePhys _ _ _ _ ?_
        rw [foldl_mem fun t x => by split <;> simp, updGrid_mem]
        exact h
      · simpa using h

@[simp] theorem gridBoxes_mem (s : State) (eI : Nat) (e : Ensemble) (op : GridOp) : (s.gridBoxes eI e op).mem = s.mem := by
  unfold State.gridBoxes
  rw [endRbox_mem, finishOp_mem]
  refine foldl_mem (fun t x => foldl_mem (fun u y => ?_) _ _) _ _
  split <;> simp

/-! ### Structs -/

@[simp] theorem stops_engineReady {s : State} (h : Memory.wf s.mem = true) (cI index : Nat) (pas : List Nat) (u : Use) (past : List Nat) (va : Nat) :
    Stops MemoryCanonical (s.engineReady cI index pas u past va) := by
  rw [stops_iff]
  unfold State.engineReady
  split
  · simpa using h
  · simp [wf_engineAsk h]

@[simp] theorem stops_engineAccess {s : State} (h : Memory.wf s.mem = true) (cI index core : Nat) (wt : Waiter) (a : DWord) (len : Nat) (u : Use) :
    Stops MemoryCanonical (s.engineAccess cI index core wt a len u) := by
  rw [stops_iff]
  unfold State.engineAccess
  dsimp only
  split
  · simpa using h
  · split <;> simp [h]

theorem wf_engineWrite {s : State} (h : Memory.wf s.mem = true) (cI : Nat) (pas : List Nat) (bs : List Byte) :
    Memory.wf (s.engineWrite cI pas bs).mem = true := by
  unfold State.engineWrite
  rw [wroteGlobal_mem]
  exact wf_writePhys s pas bs _ h

theorem wf_putEntry {s : State} (h : Memory.wf s.mem = true) (ctx : Nat) (pas : List Nat) (off n v : Nat) :
    Memory.wf (s.putEntry ctx pas off n v).mem = true := by
  unfold State.putEntry
  rw [wroteBytes_mem]
  exact wf_writePhys s _ _ _ h

theorem wf_putPrivate {s : State} (h : Memory.wf s.mem = true) (ctx : Nat) (pas : List Nat) : Memory.wf (s.putPrivate ctx pas).mem = true :=
  wf_putEntry h ..

@[simp] theorem stops_threadEntry {s : State} (h : Memory.wf s.mem = true) (w : Who) (i : Nat) (write : Bool) :
    Stops Stop.Canonical (s.threadEntry w i write) := by
  rw [stops_iff]
  simp [State.threadEntry, h, wf_engineAsk h]

@[simp] theorem updStruct_mem (s : State) (ctx entry : Nat) (f : Struct → Struct) : (s.updStruct ctx entry f).mem = s.mem := by
  unfold State.updStruct
  split <;> rfl

@[simp] theorem noteEntry_mem (s : State) (ctx entry : Nat) (pas : List Nat) (e : Entry) : (s.noteEntry ctx entry pas e).mem = s.mem := by
  simp only [State.noteEntry]
  split <;> simp

theorem wf_pinUp {s : State} (h : Memory.wf s.mem = true) (ctx entry : Nat) (pas : List Nat) (g : Word) :
    Memory.wf (s.pinUp ctx entry pas g).mem = true := by
  unfold State.pinUp
  dsimp only
  split
  · exact wf_putEntry (by simpa using h) ..
  · exact h

theorem wf_pinDown {s : State} (h : Memory.wf s.mem = true) (ctx entry : Nat) (pas : List Nat) (g : Word) :
    Memory.wf (s.pinDown ctx entry pas g).mem = true := by
  unfold State.pinDown
  dsimp only
  split
  · split
    · rw [updStruct_mem]
      exact wf_putEntry h ..
    · exact wf_putEntry h ..
  · exact h

theorem ends_releaseOwn {s : State} (h : Memory.wf s.mem = true) (w : Who) (slot : Nat) :
    Ends Stop.Canonical MemoryCanonical (s.releaseOwn w slot) := by
  unfold State.releaseOwn
  dsimp only
  split
  · split
    · simp [h, wf_pinDown h]
    · exact h
  · exact h

/-! ### Mesh -/

@[simp] theorem readMesh_mem (s : State) (k index j : Nat) : (s.readMesh k index j).mem = s.mem := by
  simp only [State.readMesh]
  split <;> simp

theorem ends_loadRecord {s : State} (h : Memory.wf s.mem = true) (w : Who) (a : DWord) (n align : Nat) :
    Ends Stop.Canonical (fun r => Memory.wf r.1.mem = true) (s.loadRecord w a n align) := by
  simp [State.loadRecord, h, ends_readNow h]

theorem ends_successorEntry {s : State} (h : Memory.wf s.mem = true) (w : Who) (k : Nat) :
    Ends Stop.Canonical (fun r => Memory.wf r.1.mem = true) (s.successorEntry w k) := by
  unfold State.successorEntry
  split
  · exact h
  · exact (ends_loadRecord h ..).bind fun r hr => by simpa using hr

theorem ends_readPass {s : State} (h : Memory.wf s.mem = true) (w : Who) (a : DWord) :
    Ends Stop.Canonical (fun r => Memory.wf r.1.mem = true) (s.readPass w a) := by
  unfold State.readPass
  refine (ends_loadRecord h ..).bind fun ⟨s1, v⟩ h1 => ?_
  simp
  split
  · refine (ends_loadRecord h1 ..).mono fun r hr => ?_
    split
    · exact ends_loadRecord hr ..
    · exact hr
  · split
    · exact ends_loadRecord h1 ..
    · exact h1

@[simp] theorem leaveRing_mem (s : State) (eI : Nat) : (s.leaveRing eI).mem = s.mem := by
  simp only [State.leaveRing]
  split <;> simp

theorem ends_rescanBins {s : State} (h : Memory.wf s.mem = true) (core i : Nat) : Ends MemoryCanonical MemoryCanonical (s.rescanBins core i) := by
  unfold State.rescanBins
  dsimp only
  split
  · exact h
  · refine Stops.bind (by simp [h]) fun _ => Stops.bind (stops_mapM fun j => ?_) fun _ => by simpa using h
    rw [stops_iff]
    refine Stops.bind (by simp [h]) fun _ => ?_
    simp only [ends_ite, ends_error, ends_ok, memoryCanonical_iff, State.raiseHalt_mem, h, ite_self]

theorem ends_emit {s : State} (h : Memory.wf s.mem = true) (w : Who) : Ends Stop.Canonical MemoryCanonical (s.emit w) := by
  unfold State.emit
  split
  · exact h
  next i _ =>
    split
    next hs => exact (ends_rescanBins h ..).error hs
    next hs =>
      have ht := (ends_rescanBins h ..).ok hs
      rw [memoryCanonical_iff] at ht
      simp only [ends_ite, ends_error, ends_ok, Stop.canonical_hold, memoryCanonical_iff, requestPage_mem, State.updPass_mem, ht, ite_self]

/-! ### Sync -/

@[simp] theorem leaveBarrier_mem (s : State) (arrived : List Nat) (sc : Scope) (rel : Nat) : (s.leaveBarrier arrived sc rel).mem = s.mem := by
  refine foldl_mem (fun t k => ?_) arrived s
  dsimp only
  split
  · simp
  · rfl

@[simp] theorem serveBar_mem (s : State) (trI : Nat) : (s.serveBar trI).mem = s.mem := by
  simp [State.serveBar]

@[simp] theorem serveEbar_mem (s : State) (eI : Nat) : (s.serveEbar eI).mem = s.mem := by
  simp [State.serveEbar]

@[simp] theorem serveSplit_mem (s : State) (eI : Nat) : (s.serveSplit eI).mem = s.mem := by
  simp [State.serveSplit]

@[simp] theorem charge_mem (s : State) (eI : Nat) : (s.charge eI).mem = s.mem := by rfl

@[simp] theorem settle_mem (s : State) (qI : Nat) : (s.settle qI).mem = s.mem := by
  simp [State.settle]

@[simp] theorem retireEns_mem (s : State) (eI : Nat) : (s.retireEns eI).mem = s.mem := by
  simp [State.retireEns]

@[simp] theorem startSuccessor_mem (s : State) (eI : Nat) (p : Packet) : (s.startSuccessor eI p).mem = s.mem := by
  simp [State.startSuccessor]

theorem ends_selectSuccessor {s : State} (h : Memory.wf s.mem = true) (w : Who) (k : Nat) :
    Ends Stop.Canonical (fun r => Memory.wf r.1.mem = true) (s.selectSuccessor w k) := by
  unfold State.selectSuccessor
  split
  · simp [h]
  · refine (ends_successorEntry h ..).bind fun e he => ?_
    split <;> simp [he]

@[simp] theorem exitCrew_mem (s : State) (tr : Troupe) (t : Thread) : (s.exitCrew tr t).mem = s.mem := by
  refine foldl_mem (fun u pc => ?_) _ s
  dsimp only
  split
  · rfl
  · split
    · split
      · simp
      · rfl
    · simp

@[simp] theorem endTroupe_mem (s : State) (trI : Nat) : (s.endTroupe trI).mem = s.mem := by
  simp [State.endTroupe]

@[simp] theorem endEns_mem (s : State) (eI : Nat) : (s.endEns eI).mem = s.mem := by
  unfold State.endEns
  split <;> simp

@[simp] theorem exitDone_mem (s : State) (w : Who) (next : Option (Nat × Packet)) (s3 : State) : (s.exitDone w next s3).mem = s3.mem := by
  simp [State.exitDone]
  split <;> simp

theorem ends_nextOf {s : State} (h : Memory.wf s.mem = true) (w : Who) (sel : Option Nat) :
    Ends Stop.Canonical (fun r => Memory.wf r.1.mem = true) (s.nextOf w sel) := by
  unfold State.nextOf
  split
  · rw [ends_map]
    exact ends_selectSuccessor h ..
  · exact h

theorem ends_exitBody {s : State} (h : Memory.wf s.mem = true) (sel : Option Nat) (w : Who) :
    Ends Stop.Canonical MemoryCanonical (exitBody sel s w) := by
  unfold exitBody
  refine (ends_nextOf h ..).bind fun ⟨s1, next⟩ h1 => ?_
  have hlast : ∀ t : State, Memory.wf t.mem = true → Ends Stop.Canonical MemoryCanonical (do
      let s2 ← t.releaseOwn w 0
      let s3 ← s2.releaseOwn w 1
      .ok (s1.exitDone w next s3)) := fun t ht =>
    (ends_releaseOwn ht w 0).bind fun _ hu => (ends_releaseOwn hu w 1).bind fun _ hv => by simpa using hv
  dsimp only
  split
  · simp
  · rw [ends_bind, ends_ok]
    refine (ends_releaseOwn h1 w 0).bind fun _ _ => (ends_releaseOwn h1 w 1).bind fun _ _ => ?_
    split
    · exact (ends_emit h1 w).bind hlast
    · exact hlast s1 h1

/-! ### Launch -/

@[simp] theorem stops_ringAccess {s : State} (h : Memory.wf s.mem = true) (cI : Nat) (a : DWord) (len : Nat) (u : Use) :
    Stops MemoryCanonical (s.ringAccess cI a len u) :=
  stops_engineAccess h cI ringmaster 0 .engine a len u

@[simp] theorem acceptPacket_mem (s : State) (qI : Nat) (p : Packet) : (s.acceptPacket qI p).mem = s.mem := by rfl

theorem ends_enqueue {s : State} (h : Memory.wf s.mem = true) (qI : Nat) (p : Packet) (status : Nat) :
    Ends MemoryCanonical MemoryCanonical (s.enqueue qI p status) := by
  have ha : Memory.wf (s.acceptPacket qI p).mem = true := by simpa using h
  unfold State.enqueue
  extract_lets q
  split
  · exact ha
  · split
    · exact wf_islandStore ha ..
    · rw [ends_bind, ends_of_stops (by simp [h])]
      intro pas _
      rw [ends_ok]
      exact wf_engineWrite ha ..
  · exact h

theorem ends_unmapQueue {s : State} (h : Memory.wf s.mem = true) (queue : Nat) : Ends MemoryCanonical MemoryCanonical (s.unmapQueue queue) := by
  unfold State.unmapQueue
  dsimp only
  split
  · exact h
  · refine Stops.bind (by simp [h]) fun _ => ?_
    simpa using wf_foldl _ (fun t l ht => wf_engineWrite ht ..) _ s h

theorem wf_checkDep {s : State} (h : Memory.wf s.mem = true) (lI : Nat) : Memory.wf (s.checkDep lI).mem = true := by
  unfold State.checkDep
  dsimp only
  split
  · exact h
  · split
    · simpa using h
    · split
      next hs => exact stops_ringAccess h _ _ _ _ _ hs
      · simp [h]

theorem wf_checkDeps {s : State} (h : Memory.wf s.mem = true) : Memory.wf s.checkDeps.mem = true := by
  refine wf_foldl _ (fun t q ht => ?_) _ s h
  split
  · split
    · exact wf_checkDep ht _
    · exact ht
  · exact ht

@[simp] theorem arbitrate_mem (s : State) (lv n : Nat) : (s.arbitrate lv n).1.mem = s.mem := by
  induction n generalizing s with
  | zero => rfl
  | succ n ih =>
    unfold State.arbitrate
    dsimp only
    split
    · rfl
    · split <;> simp [ih]

@[simp] theorem chooseQueue_mem (s : State) : s.chooseQueue.1.mem = s.mem := by
  unfold State.chooseQueue
  split
  · simp
  · rfl

@[simp] theorem takeDescriptor_mem (s : State) (ctx : Nat) (desc : BitVec 2048) : (s.takeDescriptor ctx desc).mem = s.mem := by
  simp [State.takeDescriptor]

theorem wf_putFree {s : State} (h : Memory.wf s.mem = true) (ctx : Nat) (pas : List Nat) : Memory.wf (s.putFree ctx pas).mem = true :=
  wf_engineWrite h ..

theorem ends_pinLaunch {s : State} (h : Memory.wf s.mem = true) (lI : Nat) : Ends MemoryCanonical MemoryCanonical (s.pinLaunch lI) := by
  unfold State.pinLaunch
  extract_lets l c look pin
  have hlook : ∀ off, Stops MemoryCanonical (look off) := fun off => by
    rw [stops_iff]
    dsimp only [look]
    split
    · trivial
    · refine Stops.bind (by simp [h]) fun _ => ?_
      simp [h]
  have hpin : ∀ {t : State}, Memory.wf t.mem = true → ∀ x, Memory.wf (pin t x).mem = true := fun ht x => by
    cases x with
    | none => exact ht
    | some y => exact wf_pinUp ht ..
  refine Stops.bind (hlook 80) fun a => Stops.bind (hlook 84) fun b => ?_
  simpa using hpin (hpin h a) b

@[simp] theorem divide_mem (s : State) (p : Packet) (n : Nat) (cores : List Nat) : (s.divide p n cores).mem = s.mem := by
  simp [State.divide]

theorem ends_restore {s : State} (h : Memory.wf s.mem = true) (eI n : Nat) (cores : List Nat) :
    Ends MemoryCanonical MemoryCanonical (s.restore eI n cores) := by
  unfold State.restore
  extract_lets e at_
  refine Stops.bind (by simp [h]) fun d => ?_
  extract_lets s0
  have h0 : Memory.wf s0.mem = true := by simpa [s0] using h
  refine Stops.bind (by simp [h0]) fun header => ?_
  extract_lets s1 s2 s3 s4 restored
  have h1 : Memory.wf s1.mem = true := by simpa [s1] using wf_putFree h0 e.ctx header
  have h4 : Memory.wf s4.mem = true := by
    rw [State.updEns_mem, foldl_mem (by simp), foldl_mem (by simp)]
    exact h1
  have hrestored : ∀ y, Ends MemoryCanonical MemoryCanonical (restored y) := fun _ => by simpa [restored] using h4
  split
  · exact ((stops_ringAccess h0 _ _ _ _).map _).bind hrestored
  · exact hrestored ()

theorem wf_placeHead {s : State} (h : Memory.wf s.mem = true) (qI : Nat) (hd : Head) (cores : List Nat) :
    Memory.wf (s.placeHead qI hd cores).mem = true := by
  unfold State.placeHead
  dsimp only
  split
  next e =>
    have hr := ends_restore (s := s.updQueue qI fun q => { q with vacated := q.vacated.drop 1 }) (by simpa using h) e (s.headShape (.saved e)).2 cores
    split
    next hs => exact hr.ok hs
    next hs => simpa using hr.error hs
  · simpa using h
  next l =>
    have hp : Ends MemoryCanonical MemoryCanonical (if (s.launch l).started then .ok s else s.pinLaunch l) := by
      split
      · exact h
      · exact ends_pinLaunch h l
    split
    next hs => exact hp.error hs
    next hs =>
      have ht := hp.ok hs
      rw [memoryCanonical_iff] at ht
      simp [ht]

@[simp] theorem tidyQueues_mem (s : State) : (s.tidyQueues).mem = s.mem := by rfl

theorem ends_completionStep {s : State} (h : Memory.wf s.mem = true) (lI n : Nat) :
    Ends MemoryCanonical MemoryCanonical (s.completionStep lI n) := by
  unfold State.completionStep
  extract_lets l c addr put unpin
  have hput : ∀ a len v, Ends MemoryCanonical MemoryCanonical (put a len v) := fun a len v =>
    Stops.bind (by simp [h]) fun _ => wf_engineWrite h ..
  have hunpin : ∀ off pin, Ends MemoryCanonical MemoryCanonical (unpin off pin) := fun off pin => by
    dsimp only [unpin]
    split
    · exact Stops.bind (by simp [h]) fun _ => wf_pinDown h ..
    · exact h
  split
  · split
    · exact hput ..
    · exact h
  · split
    · exact hput ..
    · exact h
  · split
    · refine Stops.bind (by simp [h]) fun _ => ?_
      simpa using wf_engineWrite h ..
    · exact h
  · split
    · exact h
    · simp [h]
  · exact hunpin ..
  · exact hunpin ..

theorem wf_completeFrom {s : State} (h : Memory.wf s.mem = true) (lI n : Nat) : Memory.wf (s.completeFrom lI n).mem = true := by
  induction n generalizing s with
  | zero => simpa [State.completeFrom] using h
  | succ n ih =>
    unfold State.completeFrom
    split
    next hs => exact (ends_completionStep h ..).error hs
    next hs =>
      have ht := (ends_completionStep h ..).ok hs
      exact ih (by simpa using ht)

@[simp] theorem preempt_mem (s : State) (cores : List Nat) : (s.preempt cores).mem = s.mem :=
  foldl_mem (by simp) _ _

@[simp] theorem dropWaits_mem (s : State) (eI : Nat) : (s.dropWaits eI).mem = s.mem := by rfl

theorem wf_writeImage {s : State} (h : Memory.wf s.mem = true) (eI slot : Nat) (header pas : List Nat) :
    Memory.wf (s.writeImage eI slot header pas).mem = true := by
  have hp : ∀ ctx, Memory.wf ((s.dropWaits eI).putFree ctx (header ++ pas)).mem = true := fun ctx => wf_putFree (by simpa using h) ..
  simp only [State.writeImage, State.updCtx_mem, State.updEns_mem, leaveRing_mem]
  rw [foldl_mem (by simp), foldl_mem (by simp)]
  exact hp _

/-! ### Rigger -/

theorem stops_walkTree {ε : Type} {Q : ε → Prop} {view : Nat → Nat → Except ε Nat} (hv : ∀ a n, Stops Q (view a n)) (fuel : Nat)
    (todo : List (Nat × Nat × List (Node × Nat))) : Stops Q (walkTree view fuel todo) := by
  rw [stops_iff]
  induction fuel generalizing todo with
  | zero => simp [walkTree]
  | succ fuel ih =>
    cases todo with
    | nil => simp [walkTree]
    | cons x todo =>
      obtain ⟨r, level, above⟩ := x
      unfold walkTree
      dsimp only
      split
      · exact (hv _ _).bind fun _ => (ih _).bind fun _ _ => trivial
      · refine Stops.bind (stops_mapM fun i => stops_iff.2 ((hv _ _).bind fun _ => trivial)) fun _ => ?_
        exact (ih _).bind fun _ _ => trivial
      · exact ih _

theorem stops_readTri {ε : Type} {Q : ε → Prop} {view : Nat → Nat → Except ε Nat} (hv : ∀ a n, Stops Q (view a n)) (vtx idx stride nvtx i : Nat) :
    Stops Q (readTri view vtx idx stride nvtx i) := by
  rw [stops_iff]
  refine Stops.bind (stops_mapM fun j => hv _ _) fun ix => ?_
  split
  · exact Stops.bind (stops_mapM fun v => hv _ _) fun _ => trivial
  · trivial

/-- The state that a build's stop holds, where it holds one, has its memory in canonical form. -/
def RigStop.Canonical : RigStop → Prop
  | .wait s => MemoryCanonical s
  | .deny => True

@[simp] theorem RigStop.canonical_wait (s : State) : (RigStop.wait s).Canonical ↔ Memory.wf s.mem = true := Iff.rfl
@[simp] theorem RigStop.canonical_deny : RigStop.deny.Canonical := trivial

theorem stops_rigRead {s : State} (h : Memory.wf s.mem = true) (cI cmd a n : Nat) : Stops RigStop.Canonical (s.rigRead cI cmd a n) := by
  rw [stops_iff]
  unfold State.rigRead
  dsimp only
  split
  · simp
  · split
    · split
      · simp
      next hs => exact stops_engineReady h _ _ _ _ _ _ _ hs
    · simp
    · simp [h]
    · simp [h]

theorem stops_rigPlaces {s : State} (h : Memory.wf s.mem = true) (cI cmd : Nat) (tree : List (Nat × Byte)) :
    Stops RigStop.Canonical (s.rigPlaces cI cmd tree) := by
  rw [stops_iff]
  refine Stops.bind (stops_mapM fun x => ?_) fun pas => ?_
  · rw [stops_iff]
    split <;> simp [h]
  · split
    · simp
    next hs => exact stops_engineReady h _ _ _ _ _ _ _ hs

theorem stops_overlaid {ε : Type} {Q : ε → Prop} {view : Nat → Nat → Except ε Nat} (hv : ∀ a n, Stops Q (view a n)) (tree : List (Nat × Byte))
    (a n : Nat) : Stops Q (overlaid tree view a n) := by
  rw [stops_iff]
  unfold overlaid
  dsimp only
  split
  · trivial
  · exact (hv a n).bind fun _ => trivial

@[simp] theorem stops_rigStatus {s : State} (h : Memory.wf s.mem = true) (cmd : Nat) (c : RigCmd) : Stops MemoryCanonical (s.rigStatus cmd c) :=
  stops_engineAccess h _ _ _ _ _ _ _

@[simp] theorem updRig_mem (s : State) (cmd : Nat) (f : RigCmd → RigCmd) : (s.updRig cmd f).mem = s.mem := by rfl

theorem wf_rigEnd {s : State} (h : Memory.wf s.mem = true) (cmd : Nat) (pas : List Nat) (ws : List Word) :
    Memory.wf (s.rigEnd cmd pas ws).mem = true := by
  unfold State.rigEnd
  rw [updRig_mem]
  exact wf_engineWrite h ..

theorem wf_rigFail {s : State} (h : Memory.wf s.mem = true) (cmd : Nat) (pas : List Nat) (err : Nat) :
    Memory.wf (s.rigFail cmd pas err).mem = true :=
  wf_rigEnd h ..

theorem ends_orInput {α : Type} {s : State} (hs : Memory.wf s.mem = true) {x : Except RigStop α} (hx : Stops RigStop.Canonical x)
    {go : α → Except RigStop State} (hg : ∀ v, Ends RigStop.Canonical MemoryCanonical (go v)) :
    Ends RigStop.Canonical MemoryCanonical (orInput s x go) := by
  unfold orInput
  split
  · exact hg _
  · exact hs
  · exact hx _ rfl

theorem stops_softly {view : Nat → Nat → Except RigStop Nat} (hv : ∀ a n, Stops RigStop.Canonical (view a n)) (a n : Nat) :
    Stops RigStop.Canonical (softly view a n) := by
  unfold softly
  split
  · simp [stops_iff]
  · exact hv a n

theorem stops_liveSpans (e : Entry) (known : List (Word × List (Nat × Nat))) {treeOf : Nat → Except RigStop (List TreeItem)}
    (ht : ∀ r, Stops RigStop.Canonical (treeOf r)) : Stops RigStop.Canonical (e.liveSpans known treeOf) := by
  rw [stops_iff]
  refine Stops.bind (stops_mapM fun r => ?_) fun _ => trivial
  rw [stops_iff]
  split
  · trivial
  · rw [ends_map]
    exact stops_iff.1 (ht _)

theorem ends_rigRun {s : State} (h : Memory.wf s.mem = true) (cmd : Nat) (c : RigCmd) (tree : List (Nat × Byte)) (root : DWord) (memOk : Bool)
    (stats : List Word) : Ends RigStop.Canonical MemoryCanonical (s.rigRun cmd c tree root memOk stats) := by
  unfold State.rigRun
  extract_lets cx b op ntri lift any
  have hlift : ∀ {x}, Stops MemoryCanonical x → Stops RigStop.Canonical (lift x) := fun {x} hx => by
    cases x with
    | ok p => exact stops_iff.2 trivial
    | error t => exact stops_iff.2 (hx t rfl)
  refine Stops.bind (hlift (by simp [h])) fun st => ?_
  split
  · exact wf_rigFail h ..
  next i _ =>
    refine Stops.bind (hlift (by simp [h])) fun pas => ?_
    extract_lets e s0 kept same view unread fuel treeOf
    have h0 : Memory.wf s0.mem = true := by simpa [s0] using h
    have hunread : Memory.wf unread.mem = true := wf_rigFail h0 ..
    have hview : ∀ a n, Stops RigStop.Canonical (view a n) := stops_rigRead h0 c.ctx cmd
    have htree : ∀ {v}, (∀ a n, Stops RigStop.Canonical (v a n)) → ∀ r, Stops RigStop.Canonical (treeOf v r) :=
      fun hv r => stops_walkTree hv fuel _
    split
    · exact wf_rigFail h ..
    split
    · exact wf_rigFail h0 ..
    split
    · exact wf_rigFail h0 ..
    refine ends_orInput hunread ?_ fun input => Stops.bind (stops_liveSpans e _ (htree (stops_softly hview))) fun live =>
      ends_orInput hunread ?_ fun cur => ?_
    · split
      · exact stops_mapM fun j => stops_readTri hview _ _ _ _ _
      · exact stops_iff.2 trivial
    · split
      · split
        · exact stops_iff.2 trivial
        · exact htree hview _
      · exact stops_iff.2 trivial
    split
    · rw [ends_ok]
      split
      · exact wf_rigFail h0 ..
      · exact h
    extract_lets free excluded flat excl
    split
    · exact h
    refine ends_orInput hunread (stops_rigPlaces h0 _ _ _) fun at_ => ends_orInput hunread (htree (stops_overlaid hview tree) _) fun items => ?_
    extract_lets s1 allowed sah base drift leaves depth ws s2
    have h2 : Memory.wf s2.mem = true := wf_rigEnd (wf_engineWrite h0 ..) ..
    split
    · exact h
    split
    · exact wf_rigFail (wf_engineWrite h0 ..) ..
    refine Stops.bind (hlift (by simp [h0])) fun _ => ?_
    extract_lets s3 s4
    have h3 : Memory.wf s3.mem = true := wf_putEntry (wf_putEntry h2 ..) ..
    have h4 : Memory.wf s4.mem = true := by
      dsimp only [s4]
      split
      · split
        · simpa using h3
        · exact h3
      · exact h3
    simpa using wf_putPrivate h4 ..

theorem wf_scramble {s : State} (h : Memory.wf s.mem = true) (ctx entry addr n : Nat) : Memory.wf (s.scramble ctx entry addr n).mem = true := by
  unfold State.scramble
  split
  · exact h
  · split
    · exact h
    · split
      · split
        · rw [wroteBytes_mem]
          exact wf_writePhys s _ _ _ h
        · exact h
      · exact h

/-! ### Events -/

@[simp] theorem haltCore_mem (s : State) (core : Nat) (cause : Cause) : (s.haltCore core cause).mem = s.mem :=
  foldl_mem (by simp) _ s

@[simp] theorem stops_haltPlace {s : State} (h : Memory.wf s.mem = true) (ctx : Nat) (a : DWord) (n : Nat) :
    Stops MemoryCanonical (s.haltPlace ctx a n) := by
  rw [stops_iff]
  unfold State.haltPlace
  dsimp only
  split
  · simp [h]
  · simp [h]
  · simp
  · simp [wf_engineAsk h]

@[simp] theorem stops_stopPlaces {s : State} (h : Memory.wf s.mem = true) (ctx : Nat) (rs : List StopRec) :
    Stops MemoryCanonical (s.stopPlaces ctx rs) :=
  (stops_mapM fun _ => (stops_haltPlace h _ _ _).map _).map _

theorem wf_writeStops {s : State} (h : Memory.wf s.mem = true) (ctx : Nat) (rs : List (StopRec × List Nat)) :
    Memory.wf (s.writeStops ctx rs).mem = true :=
  wf_foldl _ (fun _ _ ht => wf_engineWrite ht ..) rs s h

@[simp] theorem stops_imagePlace {s : State} (h : Memory.wf s.mem = true) (ctx eI slot : Nat) :
    Stops MemoryCanonical (s.imagePlace ctx eI slot) := by
  rw [stops_iff]
  simp [State.imagePlace, h]

theorem ends_haltImage {s s0 : State} (h : Memory.wf s.mem = true) (h0 : Memory.wf s0.mem = true) (ctx eI : Nat) :
    Ends MemoryCanonical MemoryCanonical (s.haltImage s0 ctx eI) := by
  unfold State.haltImage
  extract_lets placed
  have hplaced : ∀ x, Ends MemoryCanonical MemoryCanonical (placed x) := fun x => by
    dsimp only [placed]
    rw [ends_ok]
    split
    · simpa using wf_putFree h ..
    · simpa using h
  split
  · exact ((stops_imagePlace h0 _ _ _).map _).bind hplaced
  · exact hplaced none

theorem ends_haltImages {s : State} (h : Memory.wf s.mem = true) (ctx : Nat) : Ends MemoryCanonical MemoryCanonical (s.haltImages ctx) :=
  ends_foldlM (fun _ _ ht => ends_haltImage ht h ..) _ h

@[simp] theorem noteHalt_mem (s : State) (ctx : Nat) : (s.noteHalt ctx).mem = s.mem := by
  simp [State.noteHalt]

@[simp] theorem leaveRings_mem (s : State) (ctx : Nat) : (s.leaveRings ctx).mem = s.mem := by
  simp [State.leaveRings]

@[simp] theorem stops_readContext {s : State} (h : Memory.wf s.mem = true) (ctx addr : Nat) : Stops MemoryCanonical (s.readContext ctx addr) :=
  (stops_engineReady h _ _ _ _ _ _).map _

/-! ### Flit -/

@[simp] theorem transmit_mem (s : State) (i : Nat) : (s.transmit i).mem = s.mem := by
  unfold State.transmit
  split <;> simp

@[simp] theorem credit_mem (s : State) (cls n : Nat) : (s.credit cls n).mem = s.mem := by
  simp [State.credit]

/-! ### Image -/

theorem ends_readDescriptorOf {s : State} (h : Memory.wf s.mem = true) (w : Who) (a : DWord) (n : Nat) :
    Ends Stop.Canonical (fun r => Memory.wf r.1.mem = true) (readDescriptor s w a n) :=
  ends_loadRecord h ..

theorem ends_imageAt {s : State} (h : Memory.wf s.mem = true) (w : Who) (a : DWord) (raw : Bool) :
    Ends Stop.Canonical (fun r => Memory.wf r.1.mem = true) (imageAt s w a raw) := by
  unfold imageAt
  refine (ends_readDescriptorOf h ..).bind fun ⟨s1, v⟩ h1 => ?_
  exact (stops_checkImage _ _ _).bind fun _ => h1

theorem ends_imageLoad {s : State} (h : Memory.wf s.mem = true) (w : Who) (d a : RegField) (raw : Bool) :
    Ends Stop.Canonical MemoryCanonical (imageLoad s w d a raw) := by
  unfold imageLoad
  refine (stops_fetch _ _ _).bind fun x => (ends_imageAt h ..).bind fun ⟨s1, p⟩ h1 => ?_
  dsimp only at h1 ⊢
  split
  · simp [h1]
  · exact (stops_checkGlobal h1 _ _ _ _ _ _ _).bind fun _ => ends_issueLoad h1 ..

theorem ends_texOne {s : State} (h : Memory.wf s.mem = true) (form : LodForm) (d a : RegField) (w : Who) :
    Ends Stop.Canonical MemoryCanonical (texOne form d a w s) := by
  unfold texOne
  refine (stops_fetch _ _ _).bind fun x => (ends_readDescriptorOf h ..).bind fun ⟨s1, iv⟩ h1 => (ends_readDescriptorOf h1 ..).bind fun r hr => ?_
  split
  next s2 sv =>
  extract_lets p sm c u v rho2 lam layer ts n sampled read
  have hsampled : ∀ y, Ends Stop.Canonical MemoryCanonical (sampled y) := fun _ => by
    refine (stops_checkImage _ _ _).bind fun _ => (stops_mapM fun t => ?_).bind fun ps => (stops_watchAll _ _ _ _).bind fun _ => ends_issueLoad hr ..
    rw [stops_iff]
    split
    · trivial
    · exact (stops_checkGlobal hr _ _ _ _ _ _ _).bind fun _ => trivial
  have hread : ∀ y, Ends Stop.Canonical MemoryCanonical (read y) := fun _ => by
    simp [read, hsampled]
  simp [hread]

/-! ### Power -/

@[simp] theorem updGaffer_mem (s : State) (f : Gaffer → Gaffer) : (s.updGaffer f).mem = s.mem := by rfl

theorem wf_unpowered {s : State} (h : Memory.wf s.mem = true) : Memory.wf s.unpowered.mem = true :=
  wf_foldl _ (fun _ _ ht => wf_evictUnit ht ..) _ s h

@[simp] theorem emergency_mem (s : State) : (s.emergency).mem = s.mem := by
  simp [State.emergency]

@[simp] theorem throttle_mem (s : State) (sensor : Nat) (temp : BitVec 16) : (s.throttle sensor temp).mem = s.mem := by
  simp [State.throttle]

@[simp] theorem sensed_mem (s : State) (sensor : Nat) (temp : BitVec 16) : (s.sensed sensor temp).mem = s.mem := by
  simp [State.sensed]

/-! ### Ray -/

theorem ends_rayItem {s : State} (h : Memory.wf s.mem = true) (w : Who) (slot : Nat) (a : DWord) (len align : Nat) :
    Ends Stop.Canonical (fun r => Memory.wf r.1.mem = true) (rayItem s w slot a len align) := by
  unfold rayItem
  refine (stops_checkGlobal h _ _ _ _ _ _ _).bind fun p => ?_
  split
  · simp
  · exact (ends_readNow h ..).bind fun _ hr => hr

theorem ends_rayNode {s : State} (h : Memory.wf s.mem = true) (w : Who) (slot : Nat) (a : DWord) :
    Ends Stop.Canonical (fun r => Memory.wf r.1.mem = true) (rayNode s w slot a) := by
  unfold rayNode
  refine (ends_rayItem h ..).bind fun x hx => ?_
  dsimp only
  split
  · simp
  · exact hx

theorem ends_readStatus {s : State} (h : Memory.wf s.mem = true) (w : Who) (a : DWord) :
    Ends Stop.Canonical (fun r => Memory.wf r.1.mem = true) (readStatus s w a) :=
  (stops_checkGlobal h _ _ _ _ _ _ _).bind fun _ => (ends_readNow h ..).bind fun _ hr => hr

/-! ### System -/

theorem ends_srWrite {s : State} (h : Memory.wf s.mem = true) (w : Who) (n v : Nat) : Ends Stop.Canonical MemoryCanonical (s.srWrite w n v) := by
  unfold State.srWrite
  dsimp only
  split <;> simp [h]

@[simp] theorem stops_slotPlaces {s : State} (h : Memory.wf s.mem = true) (w : Who) (slot : Nat) (u : Use) :
    Stops Stop.Canonical (s.slotPlaces w slot u) :=
  stops_checkGlobal h _ _ _ _ _ _ _

theorem ends_callWait {s : State} (h : Memory.wf s.mem = true) (w : Who) (c : Call) (d : RegField) :
    Ends Stop.Canonical MemoryCanonical (s.callWait w c d) := by
  unfold State.callWait
  refine (stops_slotPlaces h _ _ _).bind fun p => (ends_readNow (s := { s with viaL1 := false }) h ..).bind fun ⟨s1, b⟩ h1 => ?_
  simp [show Memory.wf s1.mem = true from h1]

theorem ends_syscallBody {s : State} (h : Memory.wf s.mem = true) (d : Option RegField) (a : RegField) (w : Who) :
    Ends Stop.Canonical MemoryCanonical (syscallBody d a s w) := by
  unfold syscallBody
  refine (stops_fetch _ _ _).bind fun x => ?_
  split
  · split
    · exact ends_callWait h ..
    · simp
  · simp [h]
  · split
    · simp
    · refine (stops_slotPlaces h _ _ _).bind fun p => ?_
      simp [h]

theorem wf_callTrapped {s : State} (h : Memory.wf s.mem = true) (w : Who) {e : Stop} (he : e.Canonical) : Memory.wf (s.callTrapped w e).mem = true := by
  unfold State.callTrapped
  split
  · exact wf_stopped (by simpa using h) w he
  · exact wf_stopped h w he

@[simp] theorem stops_heapAccess {s : State} (h : Memory.wf s.mem = true) (w : Who) (a : Nat) : Stops Stop.Canonical (s.heapAccess w a) := by
  unfold State.heapAccess
  have hc := stops_checkGlobal h w (w64 a) 16 16 { read := true, write := true } false .misaligned
  split
  · simp [stops_iff]
  · simp [stops_iff]
  next he => simpa [stops_iff] using hc _ he

/-! ### Words -/

@[simp] theorem decodeTrap_mem (s : State) (w : Who) (c : Cause) (at_ : DWord) (addr : DWord) (run : List (Nat × BitVec 24)) (hint : Bool) : (s.decodeTrap w c at_ addr run hint).mem = s.mem := by
  simp [State.decodeTrap]

/-! ### Issue -/

@[simp] theorem fillCode_mem (s : State) (core : Nat) (pas : List Nat) : (s.fillCode core pas).mem = s.mem := by rfl

/-- The state that a fetch's end holds, where it holds one, has its memory in canonical form. -/
def FetchEnd.Canonical : FetchEnd → Prop
  | .wait s => MemoryCanonical s
  | .page _ _ => True

@[simp] theorem FetchEnd.canonical_wait (s : State) : (FetchEnd.wait s).Canonical ↔ Memory.wf s.mem = true := Iff.rfl

theorem ends_fetchWord {s : State} (h : Memory.wf s.mem = true) (w : Who) (a : DWord) :
    Ends FetchEnd.Canonical (fun r => Memory.wf r.1.mem = true) (s.fetchWord w a) := by
  unfold State.fetchWord
  dsimp only
  split
  · trivial
  · split
    · split
      next hs => simp [mem_of_gather hs, h]
      next hs => simp [mem_of_gather hs, h]
    · split
      · exact h
      · split <;> simp [h]

theorem ends_fetchUnit (w : Who) (n : Nat) {s : State} (h : Memory.wf s.mem = true) (a : DWord) :
    Ends FetchEnd.Canonical (fun r => Memory.wf r.1.mem = true) (s.fetchUnit w n a) := by
  induction n generalizing s a with
  | zero => exact h
  | succ n ih =>
    unfold State.fetchUnit
    refine (ends_fetchWord h ..).bind fun ⟨s1, v⟩ h1 => ?_
    dsimp only
    split
    · exact (ih h1 _).bind fun _ h2 => h2
    · exact h1

theorem ends_unitAt {s : State} (h : Memory.wf s.mem = true) (w : Who) :
    Ends FetchEnd.Canonical (fun r => Memory.wf r.1.mem = true) (s.unitAt w) :=
  ends_fetchUnit w _ h _

theorem wf_fetchStop {s : State} (h : Memory.wf s.mem = true) (w : Who) {e : FetchEnd} (he : e.Canonical) :
    Memory.wf (s.fetchStop w e).mem = true := by
  unfold State.fetchStop
  split
  · simpa using h
  · exact wf_stopped h w (canonical_pageStop h ..)
  · exact he

@[simp] theorem afterIssue_mem (s : State) (w : Who) (i : Option Instr) : (s.afterIssue w i).mem = s.mem := by
  simp [State.afterIssue]

@[simp] theorem takeSlot_mem (s : State) (w : Who) (σ : Slot) : (s.takeSlot w σ).mem = s.mem := by rfl

@[simp] theorem recordBundle_mem (s s0 : State) (word : Nat) (ks0 : List Nat) : (s.recordBundle s0 word ks0).mem = s.mem := by
  unfold State.recordBundle
  dsimp only
  split
  · exact foldl_mem (by simp) _ s
  · rfl

@[simp] theorem splitFragment_mem (s : State) (w : Who) (moved : List (Nat × Nat)) : (s.splitFragment w moved).mem = s.mem := by
  unfold State.splitFragment
  dsimp only
  split
  · rfl
  · exact foldl_mem (by simp) _ s

@[simp] theorem takeFragment_mem (s : State) (w : Who) (members : List (Nat × Nat)) (pend : Word × Word) :
    (s.takeFragment w members pend).mem = s.mem := by
  refine foldl_mem (fun t x => ?_) members s
  dsimp only
  split <;> simp

@[simp] theorem nextTurn_mem (s : State) : s.nextTurn.2.mem = s.mem := by
  unfold State.nextTurn
  split <;> rfl

@[simp] theorem storeCheck_mem (s : State) (thread index : Nat) : (s.storeCheck thread index).mem = s.mem := by
  unfold State.storeCheck
  split <;> simp

@[simp] theorem clearFault_mem (s : State) (troupe part : Nat) : (s.clearFault troupe part).mem = s.mem := by
  unfold State.clearFault
  split <;> simp

@[simp] theorem passTime_mem (s : State) (t : Turn) : (s.passTime t).mem = s.mem := by
  simp [State.passTime]

/-! ### Step -/

/-- A machine whose words and events keep memory in canonical form. -/
def RunCanonical (run : Instr → State → Outcome) : Prop := ∀ i s, Memory.wf s.mem = true → NextCanonical (run i s)

section
variable {run : Instr → State → Outcome} (hr : RunCanonical run)
include hr

theorem nextCanonical_runInstr {s : State} (h : Memory.wf s.mem = true) (w : Who) (i : Instr) : NextCanonical (s.runInstr run w i) := by
  have hi := hr i { s with cur := w.k } h
  unfold State.runInstr
  split
  next hs => simpa [hs] using hi
  · exact hi

theorem nextCanonical_runUnit {s : State} (h : Memory.wf s.mem = true) (w : Who) (words : List (DWord × Nat)) :
    NextCanonical (s.runUnit run w words) := by
  have hi : ∀ i, NextCanonical (s.runInstr run w i) := nextCanonical_runInstr hr h w
  unfold State.runUnit
  extract_lets left pc n hit cause later trap
  have ht : ∀ c a, NextCanonical (trap c a) := fun c a => by simpa [trap] using h
  split
  · simpa using h
  · split
    · split
      · exact hi _
      · exact ht ..
    · exact ht ..
    · exact hi _
    · exact ht ..
    · split
      · exact hi _
      · exact ht ..
    · split
      · exact wf_stopped h w trivial
      · exact hi _

theorem nextCanonical_issueWord {s : State} (h : Memory.wf s.mem = true) (w : Who) : NextCanonical (s.issueWord run w) := by
  unfold State.issueWord
  split
  next he => simpa using wf_fetchStop h w ((ends_unitAt h w).error he)
  next hs => exact nextCanonical_runUnit hr (by simpa using (ends_unitAt h w).ok hs) ..

theorem nextCanonical_issueOne {s : State} (h : Memory.wf s.mem = true) (w : Who) (ahead : List Nat) :
    NextCanonical (s.issueOne run w ahead) := by
  unfold State.issueOne
  extract_lets s1
  have h1 : Memory.wf s1.mem = true := by simpa [s1] using h
  split
  · split
    · exact wf_stopped h1 w trivial
    · exact nextCanonical_runInstr hr h1 ..
  · exact nextCanonical_issueWord hr h1 w

theorem nextCanonical_issueAll {s : State} (h : Memory.wf s.mem = true) (ks ahead : List Nat) : NextCanonical (s.issueAll run ks ahead) := by
  induction ks generalizing s ahead with
  | nil => exact h
  | cons k ks ih =>
    unfold State.issueAll
    split
    · exact ih h ahead
    next w _ =>
      have ho := nextCanonical_issueOne hr h w ahead
      split
      next hs => exact ih (by simpa [hs] using ho) _
      · exact ho

theorem nextCanonical_runFragment {s : State} (h : Memory.wf s.mem = true) (w : Who) (members : List (Nat × Nat)) :
    NextCanonical (s.runFragment run w members) := by
  have ha := nextCanonical_issueAll hr (s := s.takeSlot w (s.issueSlot w)) (by simpa using h) (members.map (·.2)) []
  unfold State.runFragment
  dsimp only
  split
  next hs =>
    rw [hs, nextCanonical_next] at ha
    simp [ha]
  · exact ha

theorem wf_stillWaits {s t : State} (h : Memory.wf s.mem = true) {k : Nat} (ht : s.stillWaits run k = some t) : Memory.wf t.mem = true := by
  have ha := nextCanonical_issueAll hr h [k] []
  unfold State.stillWaits at ht
  split at ht
  next hs =>
    rw [hs, nextCanonical_next] at ha
    split at ht
    · simpa [← Option.some.inj ht] using ha
    · cases ht
  · cases ht

theorem nextCanonical_issueFragment {s : State} (h : Memory.wf s.mem = true) (w : Who) : NextCanonical (s.issueFragment run w) := by
  unfold State.issueFragment
  dsimp only
  split
  · simp [h]
  · split
    · exact h
    · split
      next s' hs =>
        obtain ⟨x, _, hx⟩ := List.mem_filterMap.1 (List.mem_of_head? hs)
        exact wf_stillWaits hr h hx
      · exact nextCanonical_runFragment hr h ..

/-! ### Core -/

theorem nextCanonical_issue {s : State} (h : Memory.wf s.mem = true) (k : Nat) : NextCanonical (s.issue run k) := by
  unfold State.issue
  split
  · exact h
  · split
    · exact h
    · split
      · simpa using h
      · split
        · exact nextCanonical_issueFragment hr h _
        · split
          · exact h
          · exact nextCanonical_issueOne hr (by simpa using h) ..

theorem nextCanonical_issueBundle {s : State} (h : Memory.wf s.mem = true) (ks : List Nat) : NextCanonical (s.issueBundle run ks) := by
  unfold State.issueBundle
  dsimp only
  split
  · exact h
  next w _ =>
    split
    · exact h
    · have ha := nextCanonical_issueAll hr (s := s.takeSlot w (s.issueSlot w)) (by simpa using h) (s.byTid ks) []
      split
      next hs =>
        rw [hs, nextCanonical_next] at ha
        simp [ha]
      · exact ha

theorem nextCanonical_perform {s : State} (h : Memory.wf s.mem = true) (a : Act) : NextCanonical (s.perform run a) := by
  cases a with
  | issue k => exact nextCanonical_issue hr h k
  | bundle ks => exact nextCanonical_issueBundle hr h ks
  | event i =>
    simp only [State.perform]
    split
    · exact hr i s h
    · exact h
  | allocate unit => exact wf_allocateUnit h unit
  | evict unit =>
    simp only [State.perform]
    rw [nextCanonical_next]
    split
    · exact h
    · exact wf_evictUnit h ..
  | land thread index mask => exact wf_landSome h ..
  | bindNow thread index =>
    simp only [State.perform]
    rw [nextCanonical_next]
    split
    · exact wf_bindLoad h ..
    · exact h
  | showNow thread index =>
    simp only [State.perform]
    rw [nextCanonical_next]
    split
    · exact wf_showStore h ..
    · exact h
  | scramble ctx entry addr n => exact wf_scramble h ..
  | readOwed thread index word =>
    simp only [State.perform]
    rw [nextCanonical_next]
    split <;> simpa using h
  | dropL1 | dataCheck | storeCheck | readSource | clearFault | sample | copyCheck | gridCheck | sense | transmit | credit =>
    simpa [State.perform] using h

theorem nextCanonical_takeTurn {s : State} (h : Memory.wf s.mem = true) : NextCanonical (s.takeTurn run) :=
  nextCanonical_perform hr (by simpa using h) _

end

/-! ### How the other groups of words end -/

theorem nextCanonical_runHint {s : State} (h : Memory.wf s.mem = true) (f : HintLatch → HintLatch) : NextCanonical (runHint s f) := by
  unfold runHint
  split
  · trivial
  · simpa using h

theorem nextCanonical_runBarrier {s : State} (h : Memory.wf s.mem = true) (g : PredField) (sc : Scope) {join : Who → State}
    (hj : ∀ w, (join w).mem = s.mem) : NextCanonical (runBarrier s g sc join) := by
  unfold runBarrier
  split
  · trivial
  next w _ =>
    have hp : Memory.wf (s.stopped w (.park .drain)).mem = true := wf_stopped h w trivial
    simp [h, hj, hp]

theorem nextCanonical_runCall {s : State} (h : Memory.wf s.mem = true) (g : PredField) {body : Who → Except Stop State}
    (hb : ∀ w, Ends Stop.Canonical MemoryCanonical (body w)) : NextCanonical (runCall s g body) := by
  unfold runCall
  split
  · trivial
  next w _ =>
    split
    · split
      next hx => simpa using (hb w).ok hx
      next hx => exact wf_callTrapped h w ((hb w).error hx)
    · simpa using h

theorem nextCanonical_runMatrix {s : State} (h : Memory.wf s.mem = true) (i : Instr) (g : PredField) {check : Who → Except Stop Unit}
    (hc : ∀ w, Stops Stop.Canonical (check w)) {done : DWord → List (Nat × Nat) → State → State}
    (hd : ∀ m arr t, Memory.wf t.mem = true → Memory.wf (done m arr t).mem = true) : NextCanonical (runMatrix s i g check done) := by
  unfold runMatrix
  split
  · trivial
  next w _ =>
    split
    · split
      next hx => exact wf_stopped h w (hc w _ hx)
      · refine wf_meet h w i _ fun arr t ht => ?_
        split
        · exact hd _ arr t ht
        · simpa using ht
    · simpa using h

/-- A fragment's move, as one thread's word and as its crew's. -/
theorem nextCanonical_runFragmentMove {s : State} (h : Memory.wf s.mem = true) (store : Bool) (i : Instr) (d a b : RegField) (g : PredField)
    {one : DWord → Who → State → Except Stop State}
    (ho : ∀ m w {t : State}, Memory.wf t.mem = true → Ends Stop.Canonical MemoryCanonical (one m w t)) :
    NextCanonical (runFragment store i d a b g one s) := by
  unfold runFragment
  split
  · trivial
  next w _ =>
    split
    · exact wf_fragOne _ _ h fun w => ho _ w h
    · exact nextCanonical_runMatrix h i g (by simp) fun m arr t ht => wf_foldl _ (fun u x hu => wf_fragOne m x.2 hu fun w => ho m w hu) arr t ht

/-- A grid operation taken into its ensemble's queue by one thread's word. -/
theorem nextCanonical_acceptOne {s : State} (h : Memory.wf s.mem = true) (kind : GridKind) (addr : Nat) (d : RegField) (w : Who) :
    NextCanonical (match s.accept kind addr [(w.k, d)] with
      | .ok s' => .next s'
      | .error e => .next (s.stopped w e)) := by
  split
  next hx => exact (ends_accept h kind addr _).ok hx
  next hx => exact wf_stopped h w ((ends_accept h kind addr _).error hx)

theorem nextCanonical_runMove {s : State} (h : Memory.wf s.mem = true) (kind : GridKind) (d a : RegField) (g : PredField) :
    NextCanonical (runMove kind d a g s) := by
  unfold runMove
  split
  · trivial
  next w _ =>
    split
    · simpa using h
    · split
      next hx => exact wf_stopped h w (stops_fetch _ _ _ _ hx)
      · exact nextCanonical_acceptOne (by simpa using h) ..

theorem nextCanonical_runGang {s : State} (h : Memory.wf s.mem = true) (i : Instr) (kind : GridKind) (d a : RegField) (g : PredField) :
    NextCanonical (runGang i kind d a g s) := by
  unfold runGang
  split
  · trivial
  next w _ =>
    split
    · exact wf_tryLatch h _
    · split
      · simpa using h
      · split
        next hx => exact wf_stopped h w (stops_fetch _ _ _ _ hx)
        · extract_lets addr s1 crew others fits s2
          have h1 : Memory.wf s1.mem = true := by simpa [s1] using h
          have h2 : Memory.wf s2.mem = true := by simpa [s2] using h1
          split
          · exact nextCanonical_acceptOne h1 ..
          · rw [nextCanonical_next]
            split
            · exact wf_tryLatch h2 _
            · simpa using h2

/-! ### Hints and the clause header -/

theorem nextCanonical_clause {s : State} (h : Memory.wf s.mem = true) (wait : BitVec 12) (a b l : BitVec 4) (y : BitVec 1) :
    NextCanonical (execClause wait a b l y s) := by
  unfold execClause
  split
  · trivial
  next w _ =>
    have hp : Memory.wf (s.stopped w (.park .flags)).mem = true := wf_stopped h w trivial
    simp [h, hp]

/-! ### Handlers -/

theorem nextCanonical_eret {s : State} (h : Memory.wf s.mem = true) (g : PredField) : NextCanonical (execEret g s) := by
  unfold execEret
  split
  · trivial
  next w _ =>
    split
    · split
      · exact wf_stopped h w trivial
      · split
        next hx => exact wf_stopped h w (stops_checkTarget _ _ hx)
        · simp [h]
    · simpa using h

/-! ### Loads and stores -/

@[simp] theorem stops_mxPlaces {s : State} (h : Memory.wf s.mem = true) (w : Who) (a b : DWord) (z : Nat) (u : Use) :
    Stops Stop.Canonical (mxPlaces s w a b z u) := by
  rw [stops_iff]
  simp [mxPlaces, h]

theorem nextCanonical_ldmx {s : State} (h : Memory.wf s.mem = true) (d b : RegField) (ty : BitVec 4) (o : BitVec 5) (g : PredField) :
    NextCanonical (execLdmx d b ty o g s) :=
  nextCanonical_runWord h g fun w => by
    split
    · trivial
    · exact Stops.bind (by simp) fun x => Stops.bind (by simp [h]) fun p => ends_issueLoad h ..

theorem nextCanonical_stmx {s : State} (h : Memory.wf s.mem = true) (d b : RegField) (ty : BitVec 4) (o : BitVec 5) (g : PredField) :
    NextCanonical (execStmx d b ty o g s) :=
  nextCanonical_runWord h g fun w => by
    split
    · trivial
    · exact Stops.bind (by simp) fun x => Stops.bind (by simp [h]) fun p => ends_issueStore h ..

theorem nextCanonical_pref {s : State} (h : Memory.wf s.mem = true) (a : RegField) (g : PredField) (m : BitVec 2) :
    NextCanonical (execPref a g m s) :=
  nextCanonical_runWord h g fun w => Stops.bind (by simp) fun x => by
    dsimp only
    split
    · split <;> simp [h]
    · simp [h]

theorem nextCanonical_cctlInv {s : State} (h : Memory.wf s.mem = true) (g : PredField) : NextCanonical (execCctlInv g s) :=
  nextCanonical_runWord h g fun w => by simp [h]

theorem nextCanonical_cctlRange {s : State} (h : Memory.wf s.mem = true) (d a : RegField) (g : PredField) (m : BitVec 2) :
    NextCanonical (execCctlRange d a g m s) :=
  nextCanonical_runWord h g fun w => Stops.bind (by simp) fun x => ends_maintain h ..

/-! ### Words whose bodies read or write one by one -/

theorem nextCanonical_ldc {s : State} (h : Memory.wf s.mem = true) (d b : RegField) (ty : BitVec 4) (o : BitVec 5) (g : PredField) :
    NextCanonical (execLdc d b ty o g s) :=
  nextCanonical_runWord h g fun w => by
    simp [h, ends_issueLoad h]

theorem nextCanonical_stfe {s : State} (h : Memory.wf s.mem = true) (d b : RegField) (o : BitVec 5) (g : PredField) :
    NextCanonical (execStfe d b o g s) :=
  nextCanonical_runWord h g fun w => Stops.bind (by simp) fun x => Stops.bind (by simp) fun l => ends_issueStore h ..

theorem nextCanonical_atomq {s : State} (h : Memory.wf s.mem = true) (d b : RegField) (o : BitVec 5) (g : PredField) :
    NextCanonical (execAtomq d b o g s) :=
  nextCanonical_runWord h g fun _ => ends_casBody h ..

theorem nextCanonical_qpush {s : State} (h : Memory.wf s.mem = true) (a : RegField) (q : BitVec 3) (g : PredField) :
    NextCanonical (execQpush a q g s) :=
  nextCanonical_runWord h g fun w => by
    simp
    intros
    refine (ends_takeRank h ..).mono fun t ht => ?_
    rw [memoryCanonical_iff] at ht
    simp [ht]

theorem nextCanonical_qpop {s : State} (h : Memory.wf s.mem = true) (d : RegField) (q : BitVec 3) (g : PredField) :
    NextCanonical (execQpop d q g s) :=
  nextCanonical_runWord h g fun w => by
    simp
    intros
    refine (ends_takeRank h ..).mono fun t ht => ?_
    rw [memoryCanonical_iff] at ht
    split <;> simp [execQpop.wait, ht]

theorem nextCanonical_qpeek {s : State} (h : Memory.wf s.mem = true) (d : RegField) (q : BitVec 3) (g : PredField) :
    NextCanonical (execQpeek d q g s) :=
  nextCanonical_runWord h g fun w => by
    simp
    intros
    refine (ends_takeRank h ..).mono fun t ht => ?_
    simpa using ht

theorem nextCanonical_qcfg {s : State} (h : Memory.wf s.mem = true) (a : RegField) (q : BitVec 3) (g : PredField) :
    NextCanonical (execQcfg a q g s) :=
  nextCanonical_runWord h g fun w => by
    have hr : Ends Stop.Canonical (fun t => Memory.wf t.mem = true) (s.takeRank w q.toNat 0) := ends_takeRank h ..
    simp
    intros
    split
    · exact fun _ _ _ => hr
    · exact hr

theorem nextCanonical_cwait {s : State} (h : Memory.wf s.mem = true) (a : RegField) (c : BitVec 4) (g : PredField) :
    NextCanonical (execCwait a c g s) :=
  nextCanonical_runWord h g fun w => by
    simp [h]
    intros
    split <;> trivial

theorem nextCanonical_cbwait {s : State} (h : Memory.wf s.mem = true) (d : RegField) (c : BitVec 3) (g : PredField) (v : BitVec 2) :
    NextCanonical (execCbwait d c g v s) :=
  nextCanonical_runWord h g fun w => by
    simp [h]
    intros
    split <;> simp [h]

theorem nextCanonical_bar {s : State} (h : Memory.wf s.mem = true) (g : PredField) : NextCanonical (execBar g s) :=
  nextCanonical_runBarrier h g _ fun w => by simp

theorem nextCanonical_ebar {s : State} (h : Memory.wf s.mem = true) (g : PredField) : NextCanonical (execEbar g s) :=
  nextCanonical_runBarrier h g _ fun w => by simp

theorem nextCanonical_rboxG {s : State} (h : Memory.wf s.mem = true) (d a : RegField) (g : PredField) : NextCanonical (execRboxG d a g s) :=
  nextCanonical_runWord h g fun w => Stops.bind (by simp) fun x => by
    extract_lets ws v n ranges op queue room third second
    refine Stops.bind (by simp) fun _ => ?_
    have hq : ∀ u, Ends Stop.Canonical MemoryCanonical (queue u) := fun _ => Stops.bind (by simp) fun _ => h
    have hr : ∀ u, Ends Stop.Canonical MemoryCanonical (room u) := fun _ => by
      refine Stops.bind (by simp) fun _ => Stops.bind (by simp) fun _ => Stops.bind (by simp) fun _ => ?_
      split
      · trivial
      · exact hq ()
    clear_value room
    simp [third, second, hr]

theorem nextCanonical_gwait {s : State} (h : Memory.wf s.mem = true) (a : RegField) (g : PredField) : NextCanonical (execGwait a g s) :=
  nextCanonical_runWord h g fun w => by
    simp [h]
    intros
    split <;> simp [h]

theorem nextCanonical_tpay {s : State} (h : Memory.wf s.mem = true) (d a : RegField) (g : PredField) : NextCanonical (execTpay d a g s) :=
  nextCanonical_runWord h g fun w => by
    simp [ends_issueStore h]

theorem nextCanonical_tdisp {s : State} (h : Memory.wf s.mem = true) (a : RegField) (g : PredField) : NextCanonical (execTdisp a g s) :=
  nextCanonical_runWord h g fun w => by
    refine Stops.bind (by simp) fun x => ?_
    extract_lets
    refine Stops.bind (by simp) fun _ => ?_
    extract_lets
    refine (ends_successorEntry h ..).bind fun ⟨s1, entry⟩ h1 => ?_
    dsimp -zeta only
    extract_lets l known mesh found
    have hf : ∀ y : State × Option (PassDesc × Option Packet × List DWord), Memory.wf y.1.mem = true →
        Ends Stop.Canonical MemoryCanonical (found y) := by
      intro y hy
      dsimp -zeta only [found]
      extract_lets passI _ begun s2 data place task shade
      have hb : Memory.wf begun.mem = true := by
        dsimp only [begun]
        split <;> exact hy
      have h2 : Memory.wf s2.mem = true := hb
      have hp : ∀ u, Ends Stop.Canonical MemoryCanonical (place u) := by
        intro u
        dsimp only [place]
        split
        · exact h2
        · split
          · exact hy
          · split
            · exact hy
            · split
              · exact hy
              · rw [ends_ok, memoryCanonical_iff, foldl_mem (by simp)]
                exact h2
      have ht : ∀ u, Ends Stop.Canonical MemoryCanonical (task u) := by
        intro u
        dsimp only [task]
        split
        · exact hp ()
        · trivial
      have hs : ∀ u, Ends Stop.Canonical MemoryCanonical (shade u) := by
        intro u
        dsimp only [shade]
        split
        · split
          · trivial
          · split
            · trivial
            · exact ht ()
        · exact ht ()
      split
      · trivial
      · exact hs ()
    split
    · exact hf _ h1
    · rw [ends_bind, ends_map]
      exact (ends_readPass h1 ..).mono fun r hr => hf _ hr

/-! ### Words of shading, textures, rays, builds and system calls -/

theorem nextCanonical_visrd {s : State} (h : Memory.wf s.mem = true) (d : RegField) (g : PredField) (m : BitVec 1) :
    NextCanonical (execVisrd d g m s) :=
  nextCanonical_runWord h g fun w => Stops.bind (by simp) fun x => by
    split
    · trivial
    · split <;> simp [h]

theorem nextCanonical_attr {s : State} (h : Memory.wf s.mem = true) (d a : RegField) (g : PredField) : NextCanonical (execAttr d a g s) :=
  nextCanonical_runWord h g fun w => Stops.bind (by simp) fun x => Stops.bind (by simp) fun _ => by
    split
    · trivial
    · refine Stops.bind (by simp) fun _ => ?_
      split <;> simp [h]

/-- Each thread of a quad has its difference written, from values read before. -/
theorem nextCanonical_deriv {s : State} (h : Memory.wf s.mem = true) (d a : RegField) (g : PredField) (m : BitVec 1) :
    NextCanonical (execDeriv d a g m s) := by
  unfold execDeriv
  split
  · trivial
  next w _ =>
    split
    · simpa using h
    · split
      next hx => exact wf_stopped h w (Ends.error (P := fun _ => True) (by simp) hx)
      · split
        · split
          · simpa using h
          next hx => exact wf_stopped h w (stops_oweRegs _ _ _ _ _ hx)
        · exact wf_arrive h w _ _ fun arr t => foldl_mem (by simp) _ _

theorem nextCanonical_imst {s : State} (h : Memory.wf s.mem = true) (d a : RegField) (g : PredField) : NextCanonical (execImst d a g s) :=
  nextCanonical_runWord h g fun w => by
    refine Stops.bind (by simp) fun x => ?_
    split
    · simp [h]
    · refine (ends_imageAt h ..).bind fun ⟨s1, p⟩ h1 => ?_
      dsimp only at h1 ⊢
      split
      · simp [h1]
      · exact Stops.bind (by simp [h1]) fun l => ends_issueStore h1 ..

/-- A quad's threads sample once their coordinates are exchanged. -/
theorem nextCanonical_tex {s : State} (h : Memory.wf s.mem = true) (d a : RegField) (g : PredField) (m : BitVec 2) :
    NextCanonical (execTex d a g m s) := by
  unfold execTex
  extract_lets form
  split
  · trivial
  next w _ =>
    split
    · exact wf_fragOne _ _ h fun _ => ends_texOne h ..
    · split
      · simp [h]
      · split
        · split
          next hx => exact wf_stopped h w (Ends.error (P := fun _ => True) (by simp) hx)
          · refine wf_meet h w _ _ fun arr t ht => ?_
            refine wf_foldl _ (fun u x hu => wf_fragOne _ _ hu fun _ => ends_texOne hu ..) arr _ ?_
            rw [foldl_mem (by simp)]
            exact ht
        · split
          next hx => simpa using (ends_texOne h ..).ok hx
          next hx => exact wf_stopped h w ((ends_texOne h ..).error hx)

theorem nextCanonical_rbox {s : State} (h : Memory.wf s.mem = true) (d a : RegField) (g : PredField) (sl : BitVec 1) :
    NextCanonical (execRbox d a g sl s) :=
  nextCanonical_runWord h g fun w => Stops.bind (by simp) fun x => (ends_rayNode h ..).bind fun ⟨s1, n⟩ h1 => by
    dsimp only at h1
    simp [h1]

theorem nextCanonical_rtri {s : State} (h : Memory.wf s.mem = true) (d a : RegField) (g : PredField) (sl : BitVec 1) :
    NextCanonical (execRtri d a g sl s) :=
  nextCanonical_runWord h g fun w => Stops.bind (by simp) fun x => (ends_rayItem h ..).bind fun ⟨s1, n⟩ h1 => by
    dsimp only at h1
    simp [h1]

theorem nextCanonical_rnode {s : State} (h : Memory.wf s.mem = true) (d a : RegField) (g : PredField) (sl : BitVec 1) :
    NextCanonical (execRnode d a g sl s) :=
  nextCanonical_runWord h g fun w => Stops.bind (by simp) fun x => (ends_rayNode h ..).bind fun ⟨s1, n⟩ h1 => by
    dsimp only at h1
    simp [h1]

theorem nextCanonical_rgen {s : State} (h : Memory.wf s.mem = true) (d : RegField) (g : PredField) (sl : BitVec 1) :
    NextCanonical (execRgen d g sl s) :=
  nextCanonical_runWord h g fun w => Stops.bind (by simp) fun x => by
    split
    · trivial
    · split <;> simp [h]

theorem nextCanonical_bldq {s : State} (h : Memory.wf s.mem = true) (d a : RegField) (g : PredField) : NextCanonical (execBldq d a g s) :=
  nextCanonical_runWord h g fun w => Stops.bind (by simp) fun x => (ends_readStatus h ..).bind fun ⟨s1, ws⟩ h1 => by
    dsimp only at h1
    simp [h1]

theorem nextCanonical_bldw {s : State} (h : Memory.wf s.mem = true) (a : RegField) (g : PredField) : NextCanonical (execBldw a g s) :=
  nextCanonical_runWord h g fun w => Stops.bind (by simp) fun x => (ends_readStatus h ..).bind fun ⟨s1, ws⟩ h1 => by
    dsimp only at h1
    simp [h1]

theorem nextCanonical_bld {s : State} (h : Memory.wf s.mem = true) (a : RegField) (g : PredField) : NextCanonical (execBld a g s) :=
  nextCanonical_runWord h g fun w => Stops.bind (by simp) fun x => Stops.bind (by simp [h]) fun p => (ends_readNow h ..).bind fun ⟨s1, bs⟩ h1 => by
    dsimp only at h1
    dsimp only
    split
    · trivial
    · simp [h1]

theorem nextCanonical_syswait {s : State} (h : Memory.wf s.mem = true) (d : RegField) (g : PredField) : NextCanonical (execSyswait d g s) :=
  nextCanonical_runCall h g fun w => Stops.bind (by simp) fun x => by
    split
    · trivial
    · exact ends_callWait h ..

theorem nextCanonical_wrsr {s : State} (h : Memory.wf s.mem = true) (n a : RegField) (g : PredField) : NextCanonical (execWrsr n a g s) :=
  nextCanonical_runWord h g fun w => Stops.bind (by simp) fun x => ends_srWrite h ..

theorem nextCanonical_launch {s : State} (h : Memory.wf s.mem = true) (d a : RegField) (g : PredField) : NextCanonical (execLaunch d a g s) :=
  nextCanonical_runWord h g fun w => Stops.bind (by simp) fun x => (ends_loadRecord h ..).bind fun ⟨s1, v⟩ h1 => by
    simp
    intros
    split
    next hx => exact (ends_enqueue h1 ..).error hx
    next hx => simpa using (ends_enqueue h1 ..).ok hx

theorem nextCanonical_lwait {s : State} (h : Memory.wf s.mem = true) (a : RegField) (g : PredField) : NextCanonical (execLwait a g s) :=
  nextCanonical_runWord h g fun w => Stops.bind (by simp) fun x => Ends.bind (ends_loadRecord (by exact h) ..) fun ⟨s1, v⟩ h1 => by
    dsimp only at h1
    simp [h1]

theorem nextCanonical_rpin {s : State} (hs : Memory.wf s.mem = true) (d a : RegField) (g : PredField) (h sl : BitVec 1) :
    NextCanonical (execRpin d a g h sl s) :=
  nextCanonical_runWord hs g fun w => by
    refine Stops.bind (by simp) fun x => ?_
    extract_lets slot old handle pinned
    have hp : ∀ found, Ends Stop.Canonical MemoryCanonical (pinned found) := fun found => by
      refine (ends_releaseOwn hs ..).bind fun _ _ => ?_
      extract_lets s1
      have h1 : Memory.wf s1.mem = true := by
        dsimp only [s1]
        split
        · exact wf_pinUp hs ..
        · exact hs
      exact (ends_releaseOwn h1 ..).bind fun s2 h2 => by
        rw [memoryCanonical_iff] at h2
        simp [h2]
    clear_value pinned
    split
    · exact hp none
    · refine Stops.bind (by simp [hs]) fun e => ?_
      split
      · exact Stops.bind (by simp [hs]) fun e' => hp _
      · exact hp none

theorem nextCanonical_runpin {s : State} (hs : Memory.wf s.mem = true) (g : PredField) (l sl : BitVec 1) :
    NextCanonical (execRunpin g l sl s) :=
  nextCanonical_runWord hs g fun w => by
    extract_lets _ _ _ lower clear fall
    clear_value lower
    have hf : ∀ u, Ends Stop.Canonical MemoryCanonical (fall u) := fun u => by
      refine (ends_releaseOwn hs ..).bind fun s1 h1 => ?_
      split
      · exact Stops.bind (stops_threadEntry h1 w _ true) fun e => by simpa [clear] using wf_pinDown h1 ..
      · exact h1
    split
    · exact Stops.bind (Stops.map (by simp [hs]) _) hf
    · exact hf ()

/-! ### Events of threads, engines, queues and halts -/

theorem nextCanonical_obligationMet {s : State} (h : Memory.wf s.mem = true) (thread index : Nat) (fromL1 : Bool) :
    NextCanonical (execObligationMet thread index fromL1 s) := by
  unfold execObligationMet
  split
  · exact h
  · split
    · exact wf_bindLoad h ..
    · split <;> simp [h]

theorem nextCanonical_visibilityPoint {s : State} (h : Memory.wf s.mem = true) (thread index : Nat) :
    NextCanonical (execVisibilityPoint thread index s) := by
  unfold execVisibilityPoint
  split
  · exact h
  · split
    · exact h
    · exact wf_showStore h ..

theorem nextCanonical_copyGranuleWrite {s : State} (h : Memory.wf s.mem = true) (copy granule : Nat) :
    NextCanonical (execCopyGranuleWrite copy granule s) := by
  unfold execCopyGranuleWrite
  split
  · exact h
  next c _ =>
    have hm : Memory.wf (s.moveGranule copy granule c).mem = true := wf_moveGranule h ..
    extract_lets early _ _ _ fault below
    clear_value fault
    split
    · exact h
    · split
      · simp [h]
      · split
        · exact hm
        · split
          · simpa using h
          · simpa using h
          · simpa using h
          · exact hm

theorem nextCanonical_gridStep {s : State} (h : Memory.wf s.mem = true) (ens : Nat) : NextCanonical (execGridStep ens s) := by
  unfold execGridStep
  split
  · exact h
  · split
    · exact h
    · simp [h, wf_matrixStep h]

theorem nextCanonical_gridMove {s : State} (h : Memory.wf s.mem = true) (ens : Nat) : NextCanonical (execGridMove ens s) := by
  unfold execGridMove
  split
  · exact h
  · split
    · exact h
    · simp [h, wf_gridMoveOp h]

theorem nextCanonical_binRecord {s : State} (h : Memory.wf s.mem = true) (pass record : Nat) : NextCanonical (execBinRecord pass record s) := by
  unfold execBinRecord
  split
  · exact h
  · split
    · exact h
    · simp [h]

theorem nextCanonical_mapperAnalysis {s : State} (h : Memory.wf s.mem = true) (core ctx : Nat) (head : DWord) (place : Nat) :
    NextCanonical (execMapperAnalysis core ctx head place s) := by
  unfold execMapperAnalysis
  dsimp only
  split
  · exact h
  · split
    · exact h
    · split
      · exact h
      · split
        · simpa using h
        · split <;> simp [h]

theorem nextCanonical_submission {s : State} (h : Memory.wf s.mem = true) (page : Nat) (whole sameFc : Bool) (pkt : Packet) :
    NextCanonical (execSubmission page whole sameFc pkt s) := by
  unfold execSubmission
  split
  · exact h
  · extract_lets
    split
    · exact h
    · split
      · simpa using h
      · split
        next hx => exact (ends_enqueue h ..).error hx
        next hx => simpa using (ends_enqueue h ..).ok hx

theorem nextCanonical_queueMap {s : State} (h : Memory.wf s.mem = true) (queue slot : Nat) : NextCanonical (execQueueMap queue slot s) := by
  unfold execQueueMap
  extract_lets
  split
  · exact h
  · split
    · exact h
    · split
      next hx => exact stops_engineReady h _ _ _ _ _ _ _ hx
      · dsimp only
        rw [nextCanonical_next, State.updQueue_mem, foldl_mem (by simp)]
        exact h

theorem nextCanonical_queueUnmap {s : State} (h : Memory.wf s.mem = true) (queue : Nat) : NextCanonical (execQueueUnmap queue s) := by
  unfold execQueueUnmap
  split
  next hx => exact (ends_unmapQueue h queue).ok hx
  next hx => exact (ends_unmapQueue h queue).error hx

theorem nextCanonical_lwaitCounter {s : State} (h : Memory.wf s.mem = true) (thread : Nat) (value : DWord) :
    NextCanonical (execLwaitCounter thread value s) := by
  unfold execLwaitCounter
  split
  · exact h
  · split
    · split
      · exact wf_hostStore h ..
      · exact h
    · exact h

theorem nextCanonical_placementOpportunity {s : State} (h : Memory.wf s.mem = true) (cores : List Nat) :
    NextCanonical (execPlacementOpportunity cores s) := by
  unfold execPlacementOpportunity
  have hc : Memory.wf s.checkDeps.tidyQueues.chooseQueue.1.mem = true := by simpa using wf_checkDeps h
  split
  · exact h
  · dsimp only
    split
    next hq =>
      rw [hq] at hc
      exact hc
    next hq =>
      rw [hq] at hc
      split
      · exact hc
      · split
        · exact wf_placeHead hc ..
        · exact hc

theorem nextCanonical_dependenceWrite {s : State} (h : Memory.wf s.mem = true) (addr : Nat) (value : DWord) :
    NextCanonical (execDependenceWrite addr value s) := by
  unfold execDependenceWrite
  dsimp only
  split
  · exact h
  · split
    · exact wf_checkDeps (wf_hostStore h ..)
    · exact wf_checkDeps h

theorem nextCanonical_launchCompletion {s : State} (h : Memory.wf s.mem = true) (launch : Nat) :
    NextCanonical (execLaunchCompletion launch s) := by
  unfold execLaunchCompletion
  split
  · exact h
  · simp [h, wf_completeFrom h]

theorem nextCanonical_preemptStarvation {s : State} (h : Memory.wf s.mem = true) (queue : Nat) (cores : List Nat) :
    NextCanonical (execPreemptStarvation queue cores s) := by
  unfold execPreemptStarvation
  split
  · exact h
  · split
    · dsimp only
      split
      · exact h
      · split <;> simp [h]
    · exact h

theorem nextCanonical_victimSave {s : State} (h : Memory.wf s.mem = true) (ens : Nat) : NextCanonical (execVictimSave ens s) := by
  unfold execVictimSave
  split
  · exact h
  next e _ =>
    split
    · exact h
    · split
      · simpa using h
      next slot _ =>
        split
        next hx => exact Ends.error (Q := MemoryCanonical) (P := fun _ => True) (by simp [h]) hx
        next at_ _ =>
          extract_lets s1 s2
          have h2 : Memory.wf s2.mem = true := wf_writeImage (s := s1) (by simpa [s1] using h) ens slot _ _
          simpa using h2

theorem nextCanonical_trapEntry {s : State} (h : Memory.wf s.mem = true) (thread : Nat) : NextCanonical (execTrapEntry thread s) := by
  unfold execTrapEntry
  split
  · exact h
  · split
    · simp [h]
    · exact h

theorem nextCanonical_feWaitExpired {s : State} (h : Memory.wf s.mem = true) (thread : Nat) : NextCanonical (execFeWaitExpired thread s) := by
  unfold execFeWaitExpired
  split
  · exact h
  · split
    · simp [h]
    · exact h

theorem ends_stopWrites {s : State} (h : Memory.wf s.mem = true) (ctx : Nat) :
    Ends MemoryCanonical MemoryCanonical (do
      let s1 ← s.haltImages ctx
      let recs ← s.stopPlaces ctx ((s.updCtx ctx fun _ => s1.ctx ctx).stopRecords ctx)
      Except.ok (s1.writeStops ctx recs)) :=
  (ends_haltImages h ctx).bind fun s1 h1 => Stops.bind (by simp [h]) fun recs => wf_writeStops h1 ..

theorem nextCanonical_haltLine {s : State} (h : Memory.wf s.mem = true) (ctx : Nat) : NextCanonical (execHaltLine ctx s) := by
  unfold execHaltLine
  split
  · exact h
  · split
    · exact h
    · split
      · simpa using h
      · split
        next hx => exact (ends_stopWrites h ctx).error hx
        next hx =>
          have h1 := (ends_stopWrites h ctx).ok hx
          extract_lets s2 s3
          have h3 : Memory.wf s3.mem = true := by simpa [s3, s2] using h1
          simpa using h3

theorem nextCanonical_contextCreation {s : State} (h : Memory.wf s.mem = true) (asid : BitVec 16) (desc : BitVec 64) :
    NextCanonical (execContextCreation asid desc s) := by
  unfold execContextCreation
  dsimp only
  split
  · exact h
  · split
    next hx => exact stops_readContext h _ _ _ hx
    · simp [h]

theorem nextCanonical_descriptorUpdate {s : State} (h : Memory.wf s.mem = true) (ctx : Nat) (desc : BitVec 64) :
    NextCanonical (execDescriptorUpdate ctx desc s) := by
  unfold execDescriptorUpdate
  dsimp only
  split
  · exact h
  · split
    next hx => exact stops_readContext h _ _ _ hx
    · simp [h]

theorem nextCanonical_riggerCommand {s : State} (h : Memory.wf s.mem = true) (cmd : Nat) (tree : List (Nat × BitVec 8)) (root : BitVec 64)
    (memOk : Bool) (stats : List (BitVec 32)) : NextCanonical (execRiggerCommand cmd tree root memOk stats s) := by
  unfold execRiggerCommand
  split
  · exact h
  next c _ =>
    extract_lets
    split
    · exact h
    · split
      · split
        · exact h
        · split
          next hx => exact stops_rigStatus h _ _ _ hx
          · simpa using wf_engineWrite h ..
      · have hr := ends_rigRun h cmd c tree root memOk stats
        split
        next hx => exact hr.ok hx
        next hx => exact hr.error hx
        · exact h

theorem nextCanonical_reclamation {s : State} (h : Memory.wf s.mem = true) (ctx entry record : Nat) :
    NextCanonical (execReclamation ctx entry record s) := by
  unfold execReclamation
  split
  · exact h
  · split
    · exact h
    · split
      next hx => exact stops_engineAccess h _ _ _ _ _ _ _ _ hx
      · simpa using wf_putPrivate (wf_putEntry h ..) ..

theorem nextCanonical_syscallDone {s : State} (h : Memory.wf s.mem = true) (thread : Nat) (result : DWord) (status : Word) :
    NextCanonical (execSyscallDone thread result status s) := by
  unfold execSyscallDone
  split
  · exact h
  · split
    · exact h
    · split
      · exact wf_hostStore h ..
      · exact h

theorem nextCanonical_acknowledgementTimeout {s : State} (h : Memory.wf s.mem = true) (tag : Nat) :
    NextCanonical (execAcknowledgementTimeout tag s) := by
  simp only [execAcknowledgementTimeout, nextCanonical_next]
  split
  · split
    · simpa using h
    · exact h
  · exact h

/-! ### Link messages, the drain and the loss of a phase -/

theorem nextCanonical_snpinv {s : State} (h : Memory.wf s.mem = true) (unit tag : Nat) : NextCanonical (execSnpinv unit tag s) := by
  simp [execSnpinv, h, wf_evictUnit h]

theorem nextCanonical_snpfwds {s : State} (h : Memory.wf s.mem = true) (unit tag requester : Nat) :
    NextCanonical (execSnpfwds unit tag requester s) := by
  rw [execSnpfwds, nextCanonical_next]
  split
  · exact h
  · split <;> simpa using h

theorem nextCanonical_snpfwdx {s : State} (h : Memory.wf s.mem = true) (unit tag requester : Nat) :
    NextCanonical (execSnpfwdx unit tag requester s) := by
  rw [execSnpfwdx, nextCanonical_next]
  split
  · exact h
  · split
    · simpa using h
    · simpa using wf_remember h unit

theorem nextCanonical_datu {s : State} (h : Memory.wf s.mem = true) (tag : Nat) (data : Unit64) : NextCanonical (execDatu tag data s) := by
  unfold execDatu
  split
  · simpa using h
  · split
    · simpa using h
    · exact h
    · extract_lets s1 t
      have h1 : Memory.wf s1.mem = true := by simpa [s1] using h
      split
      · simpa using h1
      · split
        · split
          · split
            · extract_lets old s2
              have h2 : Memory.wf s2.mem = true := by
                dsimp only [s2]
                split
                · split
                  · simpa using wf_setMemBytes (wf_settlePast _ _ h1) _
                  · exact h1
                · exact h1
              simpa using h2
            · simpa using h
          · exact h1
        · simpa using h

theorem nextCanonical_cmp {s : State} (h : Memory.wf s.mem = true) (tag : Nat) : NextCanonical (execCmp tag s) := by
  unfold execCmp
  split
  · simpa using h
  next r _ =>
    extract_lets far sent written _
    have hs : Memory.wf sent.mem = true := by simp [sent, h, wf_setMemUnit]
    have hw : Memory.wf written.mem = true := by
      dsimp only [written]
      split
      · simpa using wf_setMemUnit _ _ _ _ (wf_settlePast _ _ h)
      · exact h
    split
    · exact h
    · split
      · rw [nextCanonical_next]
        split
        · exact wf_granted h ..
        · simpa using h
      · rw [nextCanonical_next]
        split
        · simpa using hs
        · exact hs
      · rw [nextCanonical_next, foldl_mem (by simp), endReq_mem]
        exact hw
      · rw [nextCanonical_next, foldl_mem (by simp), endReq_mem]
        exact hw
      · simpa using h

theorem nextCanonical_wbm {s : State} (h : Memory.wf s.mem = true) (agent tag unit : Nat) (granules : BitVec 4) (data : Unit64) :
    NextCanonical (execWbm agent tag unit granules data s) := by
  unfold execWbm
  extract_lets q d done
  have hd : Memory.wf done.mem = true := by simpa [done] using wf_mergeBack h unit q
  have ha : Memory.wf (s.homeArrive unit q).mem = true := wf_homeArrive h ..
  rw [nextCanonical_next]
  split
  · exact h
  · rw [taken_mem]
    split
    next hj => exact wf_joinFirst h hj
    · split
      · exact wf_grantOrSupply hd ..
      · exact ha
    · split
      · exact wf_invalidated (by simpa using hd) _
      · exact ha
    · exact ha

theorem nextCanonical_memoryData {s : State} (h : Memory.wf s.mem = true) (unit : Nat) : NextCanonical (execMemoryData unit s) := by
  unfold execMemoryData
  extract_lets d s1
  have h1 : Memory.wf s1.mem = true := by simpa [s1] using h
  rw [nextCanonical_next]
  split
  · split
    · exact wf_homeClose (wf_homeEffect h1 ..) _
    · simpa using h1
  · exact h

theorem nextCanonical_rspi {s : State} (h : Memory.wf s.mem = true) (sender : Sender) (unit : Nat) (wbp : Bool) :
    NextCanonical (execRspi sender unit wbp s) := by
  unfold execRspi
  extract_lets agent d0 wbp1 d
  rw [nextCanonical_next]
  split
  · exact h
  · split
    · split
      · exact wf_invalidated (by simpa using h) _
      · simpa using h
    · split
      · split <;> simpa using h
      · simpa using h
    · split
      · split
        · exact wf_grantOrSupply (by simpa using h) ..
        · exact wf_grantOrSupply h ..
      · simpa using h
    · simpa using h

theorem nextCanonical_rsps {s : State} (h : Memory.wf s.mem = true) (sender : Sender) (unit : Nat) : NextCanonical (execRsps sender unit s) := by
  unfold execRsps
  extract_lets
  rw [nextCanonical_next]
  split
  · exact h
  · split
    · split <;> simpa using h
    · simpa using h

theorem nextCanonical_rspfwd {s : State} (h : Memory.wf s.mem = true) (sender : Sender) (unit : Nat) (kept : BitVec 3) :
    NextCanonical (execRspfwd sender unit kept s) := by
  unfold execRspfwd
  extract_lets
  rw [nextCanonical_next]
  split
  · exact h
  · split
    next q _ =>
      split
      · extract_lets s1
        have h1 : Memory.wf s1.mem = true := by
          rw [mem_ite, homeSays_mem, ite_self]
          exact h
        split
        · simpa using h1
        · exact wf_homeClose h1 _
        · simpa using h1
      · simpa using h
    · simpa using h

theorem nextCanonical_gntack {s : State} (h : Memory.wf s.mem = true) (sender : Sender) (unit : Nat) :
    NextCanonical (execGntack sender unit s) := by
  simp only [execGntack, nextCanonical_next]
  split
  · exact h
  · split
    · split
      · exact wf_homeClose h _
      · simpa using h
    · split
      · exact h
      · simpa using h

theorem nextCanonical_drainDone {s : State} (h : Memory.wf s.mem = true) : NextCanonical (execDrainDone s) := by
  have hu : Ends MemoryCanonical MemoryCanonical ((upFrom 0 s.queues.length).foldlM State.unmapQueue s) :=
    ends_foldlM (fun _ _ ht => ends_unmapQueue ht _) _ h
  rw [execDrainDone, nextCanonical_next]
  split
  · split
    next hx => simpa using wf_unpowered (hu.ok hx)
    next hx => exact hu.error hx
  · exact h

theorem nextCanonical_phaseLoss {s : State} (h : Memory.wf s.mem = true) (phase : Nat) : NextCanonical (execPhaseLoss phase s) := by
  unfold execPhaseLoss
  split
  · exact h
  · extract_lets s1
    have h1 : Memory.wf s1.mem = true := by simpa [s1] using h
    rw [nextCanonical_next]
    split
    · exact h1
    · split
      · exact h1
      · simpa using wf_unpowered h1
      all_goals simpa using h1

theorem nextCanonical_farCmp {s : State} (h : Memory.wf s.mem = true) (tag : Nat) : NextCanonical (s.farCmp tag) := by
  unfold State.farCmp
  split
  · split
    · exact nextCanonical_cmp h tag
    · simpa using h
  · simpa using h

/-! ### Link slots that come whole, and events of one case -/

theorem nextCanonical_xlrsp {s : State} (h : Memory.wf s.mem = true) (tag : Nat) (present : Bool) (frame : Nat) (size perms : BitVec 3)
    (policy : BitVec 2) (tracked : Bool) : NextCanonical (execXlrsp tag present frame size perms policy tracked s) := by
  unfold execXlrsp
  split <;> simp [h]

theorem nextCanonical_pgrsp {s : State} (h : Memory.wf s.mem = true) (tag : Nat) (halt : Bool) : NextCanonical (execPgrsp tag halt s) := by
  unfold execPgrsp
  split <;> simp [h]

/-- A message of the host die has its instruction's meaning. -/
theorem nextCanonical_deliver {s : State} (h : Memory.wf s.mem = true) (hd : Nat) (ds : List (BitVec 128)) :
    NextCanonical (s.deliver hd ds) := by
  unfold State.deliver
  extract_lets t unit data en d
  split
  · exact nextCanonical_homeTakes h ..
  · exact nextCanonical_homeTakes h ..
  · exact nextCanonical_homeTakes h ..
  · exact nextCanonical_wbm h ..
  · exact nextCanonical_homeTakes h ..
  · exact nextCanonical_homeTakes h ..
  · exact nextCanonical_homeTakes h ..
  · exact nextCanonical_homeTakes h ..
  · split
    · exact h
    · split
      · exact nextCanonical_snpinv h ..
      · exact nextCanonical_snpfwds h ..
      · exact nextCanonical_snpfwdx h ..
  · exact nextCanonical_farCmp h _
  · exact nextCanonical_rspi h ..
  · exact nextCanonical_rsps h ..
  · exact nextCanonical_rspfwd h ..
  · exact nextCanonical_gntack h ..
  · exact nextCanonical_runGrant h ..
  · exact nextCanonical_runGrant h ..
  · exact nextCanonical_runGrant h ..
  · exact nextCanonical_datu h ..
  · exact nextCanonical_xlrsp h ..
  · simpa [execXlinv] using h
  · exact nextCanonical_pgrsp h ..
  · simpa [execPresentcmp] using h
  · exact h

theorem nextCanonical_deliverAll {s : State} (h : Memory.wf s.mem = true) (n : Nat) : NextCanonical (s.deliverAll n) := by
  induction n generalizing s with
  | zero => exact h
  | succ n ih =>
    unfold State.deliverAll
    split
    · exact h
    next hd r _ =>
      extract_lets _ rest
      split
      · simpa using h
      · split
        · exact h
        · have hm : ∀ l ds, NextCanonical ((rest l).deliver hd.toNat ds) := fun l ds => nextCanonical_deliver (s := rest l) h ..
          split
          next ho => exact ih (ho ▸ hm _ _ : NextCanonical (.next _))
          next => exact hm _ _

theorem nextCanonical_flit {s : State} (h : Memory.wf s.mem = true) (crcOk recovered : Bool) (slots : List (BitVec 128)) :
    NextCanonical (execFlit crcOk recovered slots s) := by
  unfold execFlit
  split
  · exact h
  · split
    · simp [h]
    · refine nextCanonical_deliverAll ?_ _
      exact h

theorem nextCanonical_watchdog {s : State} (h : Memory.wf s.mem = true) (launch : Nat) : NextCanonical (execWatchdog launch s) := by
  unfold execWatchdog
  split <;> simp [h]

theorem nextCanonical_preemptTimeout {s : State} (h : Memory.wf s.mem = true) (ctx : Nat) : NextCanonical (execPreemptTimeout ctx s) := by
  unfold execPreemptTimeout
  split <;> simp [h]

theorem nextCanonical_translationLinkTimeout {s : State} (h : Memory.wf s.mem = true) (tag : Nat) :
    NextCanonical (execTranslationLinkTimeout tag s) := by
  unfold execTranslationLinkTimeout
  split <;> simp [h]

theorem nextCanonical_gridDrain {s : State} (h : Memory.wf s.mem = true) (ens : Nat) : NextCanonical (execGridDrain ens s) := by
  unfold execGridDrain
  split <;> simp [h]

theorem nextCanonical_shadeThreadFormation {s : State} (h : Memory.wf s.mem = true) (pass tile : Nat) (order sizes : List Nat) :
    NextCanonical (execShadeThreadFormation pass tile order sizes s) := by
  unfold execShadeThreadFormation
  split <;> simp [h]

theorem nextCanonical_xlinvcmp {s : State} (h : Memory.wf s.mem = true) (tag : Nat) : NextCanonical (execXlinvcmp tag s) := by
  unfold execXlinvcmp
  split <;> simp [h]

theorem nextCanonical_illegalOpcode {s : State} (h : Memory.wf s.mem = true) : NextCanonical (execIllegalOpcode s) := by
  unfold execIllegalOpcode
  split <;> simp [h]

/-! ### Every instruction and every step -/

/-- Case by case over the words and events, each by the rule of its group or by its own. -/
theorem runCanonical_exec : RunCanonical exec := fun i s h => by
  unfold exec
  cases i with
  | imul | imulh | imin | iminN | imax | imaxN | and | or | xor | andn | shl | shr | sar | rot | bfx | bfxS | icmp | icmpN | icmpAnd | icmpOr
  | mov | iabs | ineg | not | popc | clz | brev | idot4 | idot4N | idot2 | idot4Sn | shiftiShl | shiftiShr | shiftiSar | shiftiRot
  | fadd | fsub | fmul | fmin | fmax | fcmp | fcmpAnd | fcmpOr | frnd | ffrc | frcp | frsq | fsqrt | fex2 | flg2 | fsin | fcos
  | hadd2 | hmul2 | hfma2 | hsub2 | hmin2 | hmax2 | cvt | cvtHi | cvtN | unpk16 | unpk8 => exact nextCanonical_runThread h _ fun t => by simp
  | nop | pset => exact nextCanonical_runThread h _ fun _ => trivial
  | movi | iadd | isub | imad | imadw | iadc | lea | bfi | sel | ptox | xtop | iaddi | andi | ori | ffma | fscl | fdot2 | fcls | hcmp2
  | pack16 | pack8 | tag | tagq | spcH | spcB | spx | fence | ctest | cpyc | cbinit | cbacq | arrive | await | gridOn | gridOff | gang | opfence
  | mvtx | mprim | mcnt | alloc | free | rdsr | mapHint | mapOff => exact nextCanonical_runWord h _ fun w => by simp [h]
  | bkpt | trap => exact nextCanonical_runWord h _ fun _ => trivial
  | halt => exact nextCanonical_runWord h _ fun w => by simpa using h
  | clause => exact nextCanonical_clause h ..
  | hintImm | hintMod | hintC | hintSched => exact nextCanonical_runHint h _
  | bra => exact nextCanonical_bra h ..
  | call => exact nextCanonical_call h ..
  | ret => exact nextCanonical_ret h ..
  | brx => exact nextCanonical_brx h ..
  | callx => exact nextCanonical_callx h ..
  | yield => exact nextCanonical_yield h _
  | sleep => exact nextCanonical_sleep h ..
  | eret => exact nextCanonical_eret h _
  | exit | exitS => exact nextCanonical_runWord h _ fun _ => ends_exitBody h ..
  | split | join | elect | voteAll | voteAny | voteBallot | voteMatch => exact nextCanonical_runRendezvous h _ _ _ (by simp) (by simp)
  | shflPick | shflRotl | shflRotr | shflSwap => exact nextCanonical_runShuffle h ..
  | reduxAdd | reduxMin | reduxMax | reduxOr => exact nextCanonical_runRedux h ..
  | ld | ldw | ldq => exact nextCanonical_runWord h _ fun _ => ends_loadGlobal h ..
  | st | stw | stq => exact nextCanonical_runWord h _ fun _ => ends_storeGlobal h ..
  | lds | ldsq => exact nextCanonical_runWord h _ fun _ => ends_loadScratch h ..
  | sts | stsq => exact nextCanonical_runWord h _ fun _ => ends_storeScratch h ..
  | ldfeK | ldfeC => exact nextCanonical_runWord h _ fun _ => ends_loadFullEmpty h ..
  | stfe => exact nextCanonical_stfe h ..
  | ldc => exact nextCanonical_ldc h ..
  | ldmx => exact nextCanonical_ldmx h ..
  | stmx => exact nextCanonical_stmx h ..
  | pref => exact nextCanonical_pref h ..
  | cctlInv => exact nextCanonical_cctlInv h _
  | cctlCln | cctlFlush => exact nextCanonical_runWord h _ fun _ => ends_maintainOne h ..
  | cctlRange => exact nextCanonical_cctlRange h ..
  | atomAdd | atomMin | atomMax | atomMinN | atomMaxN | atomAnd | atomOr | atomXor | atomExch | atomInc | atomDec | atomFadd | atomHadd2 =>
    exact nextCanonical_runWord h _ fun _ => ends_atomBody h ..
  | redAdd | redMin | redMax | redMinN | redMaxN | redAnd | redOr | redXor | redExch | redInc | redDec | redFadd | redHadd2 =>
    exact nextCanonical_runWord h _ fun _ => ends_redBody h ..
  | atomc | atomc64 => exact nextCanonical_runWord h _ fun _ => ends_casBody h ..
  | atomq => exact nextCanonical_atomq h ..
  | cpyLd | cpySt | cpygG | cpygS | cpyCb => exact nextCanonical_runWord h _ fun _ => ends_issueCopy h ..
  | cwait => exact nextCanonical_cwait h ..
  | cbcmt | cbrel => exact nextCanonical_runWord h _ fun _ => ends_stageRelease h ..
  | cbwait => exact nextCanonical_cbwait h ..
  | bar => exact nextCanonical_bar h _
  | ebar => exact nextCanonical_ebar h _
  | qpush => exact nextCanonical_qpush h ..
  | qpop => exact nextCanonical_qpop h ..
  | qpeek => exact nextCanonical_qpeek h ..
  | qcfg => exact nextCanonical_qcfg h ..
  | mma | mmas => exact nextCanonical_runMatrix h _ _ (by simp) fun m arr t ht => by simpa using ht
  | tld => exact nextCanonical_runFragmentMove h _ _ _ _ _ _ fun m w t ht => ends_tldOne ht ..
  | tst => exact nextCanonical_runFragmentMove h _ _ _ _ _ _ fun m w t ht => ends_tstOne ht ..
  | gmma | gmmat => exact nextCanonical_runGang h ..
  | gtld | gtst => exact nextCanonical_runMove h ..
  | rboxG => exact nextCanonical_rboxG h ..
  | gwait => exact nextCanonical_gwait h ..
  | tpay => exact nextCanonical_tpay h ..
  | tdisp => exact nextCanonical_tdisp h ..
  | visrd => exact nextCanonical_visrd h ..
  | attr => exact nextCanonical_attr h ..
  | deriv => exact nextCanonical_deriv h ..
  | imld | tldi => exact nextCanonical_runWord h _ fun _ => ends_imageLoad h ..
  | imst => exact nextCanonical_imst h ..
  | tex => exact nextCanonical_tex h ..
  | rbox => exact nextCanonical_rbox h ..
  | rtri => exact nextCanonical_rtri h ..
  | rnode => exact nextCanonical_rnode h ..
  | rpin => exact nextCanonical_rpin h ..
  | runpin => exact nextCanonical_runpin h ..
  | rgen => exact nextCanonical_rgen h ..
  | bld => exact nextCanonical_bld h ..
  | bldq => exact nextCanonical_bldq h ..
  | bldw => exact nextCanonical_bldw h ..
  | syscallB | syscallN => exact nextCanonical_runCall h _ fun _ => ends_syscallBody h ..
  | syswait => exact nextCanonical_syswait h ..
  | wrsr => exact nextCanonical_wrsr h ..
  | launch => exact nextCanonical_launch h ..
  | lwait => exact nextCanonical_lwait h ..
  | submission => exact nextCanonical_submission h ..
  | queueMap => exact nextCanonical_queueMap h ..
  | queueUnmap => exact nextCanonical_queueUnmap h _
  | placementOpportunity => exact nextCanonical_placementOpportunity h _
  | dependenceWrite => exact nextCanonical_dependenceWrite h ..
  | launchCompletion => exact nextCanonical_launchCompletion h _
  | preemptStarvation => exact nextCanonical_preemptStarvation h ..
  | victimSave => exact nextCanonical_victimSave h _
  | preemptTimeout => exact nextCanonical_preemptTimeout h _
  | trapEntry => exact nextCanonical_trapEntry h _
  | haltLine => exact nextCanonical_haltLine h _
  | contextCreation => exact nextCanonical_contextCreation h ..
  | descriptorUpdate => exact nextCanonical_descriptorUpdate h ..
  | syscallDone => exact nextCanonical_syscallDone h ..
  | lwaitCounter => exact nextCanonical_lwaitCounter h ..
  | feWaitExpired => exact nextCanonical_feWaitExpired h _
  | translationLinkTimeout => exact nextCanonical_translationLinkTimeout h _
  | acknowledgementTimeout => exact nextCanonical_acknowledgementTimeout h _
  | watchdog => exact nextCanonical_watchdog h _
  | mapperAnalysis => exact nextCanonical_mapperAnalysis h ..
  | copyGranuleWrite => exact nextCanonical_copyGranuleWrite h ..
  | gridStep => exact nextCanonical_gridStep h _
  | gridMove => exact nextCanonical_gridMove h _
  | gridDrain => exact nextCanonical_gridDrain h _
  | riggerCommand => exact nextCanonical_riggerCommand h ..
  | reclamation => exact nextCanonical_reclamation h ..
  | binRecord => exact nextCanonical_binRecord h ..
  | shadeThreadFormation => exact nextCanonical_shadeThreadFormation h ..
  | flit => exact nextCanonical_flit h ..
  | rds | rdx | upg | rdu | wru | wrc | atoms => exact nextCanonical_homeTakes h ..
  | wbm => exact nextCanonical_wbm h ..
  | memoryData => exact nextCanonical_memoryData h _
  | snpinv => exact nextCanonical_snpinv h ..
  | snpfwds => exact nextCanonical_snpfwds h ..
  | snpfwdx => exact nextCanonical_snpfwdx h ..
  | cmp => exact nextCanonical_cmp h _
  | rspi => exact nextCanonical_rspi h ..
  | rsps => exact nextCanonical_rsps h ..
  | rspfwd => exact nextCanonical_rspfwd h ..
  | gntack => exact nextCanonical_gntack h ..
  | dats | date | datm => exact nextCanonical_runGrant h ..
  | datu => exact nextCanonical_datu h ..
  | xlrsp => exact nextCanonical_xlrsp h ..
  | pgrsp => exact nextCanonical_pgrsp h ..
  | xlinvcmp => exact nextCanonical_xlinvcmp h _
  | drainDone => exact nextCanonical_drainDone h
  | phaseLoss => exact nextCanonical_phaseLoss h _
  | obligationMet => exact nextCanonical_obligationMet h ..
  | visibilityPoint => exact nextCanonical_visibilityPoint h ..
  | illegalOpcode => exact nextCanonical_illegalOpcode h
  | registerClear => simpa [execRegisterClear] using h
  | preemptionRequest => simpa [execPreemptionRequest] using h
  | linkTraining => simpa [execLinkTraining] using h
  | retrainTimeout => simpa [execRetrainTimeout] using h
  | xlinv => simpa [execXlinv] using h
  | presentcmp => simpa [execPresentcmp] using h
  | powerOff => simpa [execPowerOff] using h
  | powerOn => simpa [execPowerOn] using h
  | firmwareVerify => simpa [execFirmwareVerify] using h
  | functionReady => simpa [execFunctionReady] using h
  | mctrClear => simpa [execMctrClear] using h
  | powerArbitration => simpa [execPowerArbitration] using h
  | replayRateAdjust => simpa [execReplayRateAdjust] using h
  | timingError => simpa [execTimingError] using h
  | thermalThrottle => simpa [execThermalThrottle] using h
  | thermalEmergency => simpa [execThermalEmergency] using h
  | sramUncorrectable => simpa [execSramUncorrectable] using h
  | queueCreation => simpa [execQueueCreation] using h
  | contextDestruction => simpa [execContextDestruction] using h
  | present => simpa [execPresent] using h
  | haltRequest | debugHalt | sleepExpiry | issueGapExpiry | regroupHoldExpiry | heatEntryClear | refusalExpiry | cmdNoAction | mboxClear
  | gafferRegisterWrite | queueDisable | memoryIslandPowerUp => exact h

/-- Settles O51: reset memory is the empty list of cells. -/
theorem resetCanonical : Obligations.ResetCanonical := wf_reset

/-- Settles O52: a step takes its turn with the meaning of each instruction, which ends in canonical memory. -/
theorem memoryStaysCanonical : Obligations.MemoryStaysCanonical := by
  unfold Obligations.MemoryStaysCanonical Kept
  intro s t h hs
  have ht : NextCanonical (step s) := nextCanonical_takeTurn runCanonical_exec h
  rw [hs] at ht
  exact ht

end Sys2Proof.Machine

/-! ## Decoding and encoding agree (O54; 02_encoding.md R27 to R32)

A field of a word is a number, `fld w lo n`. A field that splits into two is the higher part times a power of two plus the lower part (`fld_append`,
`fld_parts`); a word below 2^32 is its form with its own fields, and a form has the fields that it is made of, for each form of R27. Encoding first: the
fields of an instruction's word select its decoder and its operands (`encodes`). Decoding first: what a decoder accepts encodes to the word's own fields
(`encoded_decodeWord`). -/

namespace Sys2Proof.Machine

/-! ### Fields -/

theorem toNat_bits (w lo n : Nat) : (bits w lo n).toNat = fld w lo n := BitVec.toNat_ofNat ..

theorem bits_of_fld {w lo n : Nat} {x : BitVec n} (h : fld w lo n = x.toNat) : bits w lo n = x :=
  BitVec.eq_of_toNat_eq ((toNat_bits w lo n).trans h)

theorem fld_lt (w lo n : Nat) : fld w lo n < 2 ^ n := Nat.mod_lt _ (Nat.two_pow_pos n)

/-- A field of a field is a field of the word. -/
theorem fld_fld (w lo k m : Nat) {n : Nat} (h : k + m ≤ n) : fld (fld w lo n) k m = fld w (lo + k) m := by
  obtain ⟨r, rfl⟩ := Nat.exists_eq_add_of_le h
  simp only [fld, pow_add, ← Nat.div_div_eq_div_mul, mul_assoc]
  rw [Nat.mod_mul_right_div_self, Nat.mod_mul_right_mod]

/-- A field is its higher part over its lower part. -/
theorem fld_append (w lo m n : Nat) : fld w lo (m + n) = fld w (lo + m) n * 2 ^ m + fld w lo m := by
  simp only [fld, pow_add, ← Nat.div_div_eq_div_mul]
  rw [Nat.mod_mul, Nat.mul_comm, Nat.add_comm]

/-- The parts of a field of k bits, of which the lower one has m, are those of its value. -/
theorem fld_parts {w x y : Nat} (lo k m : Nat) (h : fld w lo k = x * 2 ^ m + y) (hy : y < 2 ^ m) (hm : m ≤ k := by decide) :
    fld w (lo + m) (k - m) = x ∧ fld w lo m = y := by
  obtain ⟨n, rfl⟩ := Nat.exists_eq_add_of_le hm
  rw [Nat.add_sub_cancel_left]
  rw [fld_append] at h
  have hl := fld_lt w lo m
  generalize 2 ^ m = p at *
  have hlow : fld w lo m = y := by
    simpa [Nat.mul_add_mod_self_right, Nat.mod_eq_of_lt hl, Nat.mod_eq_of_lt hy] using congrArg (· % p) h
  have hhigh : fld w (lo + m) n * p = x * p := by omega
  exact ⟨Nat.eq_of_mul_eq_mul_right (by omega) hhigh, hlow⟩

theorem fld_one (w lo : Nat) : fld w lo 1 = 0 ∨ fld w lo 1 = 1 := by
  have := fld_lt w lo 1
  omega

theorem fld_two (w lo : Nat) : fld w lo 2 = 0 ∨ fld w lo 2 = 1 ∨ fld w lo 2 = 2 ∨ fld w lo 2 = 3 := by
  have := fld_lt w lo 2
  omega

/-! The parts that the form tables give a field, by the field's name; reserved bits across two fields. -/

theorem fld_d_compare (w : Nat) : fld w 19 7 = fld w 23 3 * 16 + fld w 19 4 := fld_append w 19 4 3
theorem fld_d_exit (w : Nat) : fld w 19 7 = fld w 22 4 * 8 + fld w 19 3 := fld_append w 19 3 4
theorem fld_a_vote (w : Nat) : fld w 12 7 = fld w 15 4 * 8 + fld w 12 3 := fld_append w 12 3 4
theorem fld_a_pset (w : Nat) : fld w 12 7 = fld w 16 3 * 16 + (fld w 13 3 * 2 + fld w 12 1) :=
  (fld_append w 12 4 3).trans (congrArg _ (fld_append w 12 1 3))
theorem fld_b_copy (w : Nat) : fld w 5 7 = fld w 8 4 * 8 + fld w 5 3 := fld_append w 5 3 4
theorem fld_b_tag (w : Nat) : fld w 5 7 = fld w 9 3 * 16 + fld w 5 4 := fld_append w 5 4 3
theorem fld_b_fence (w : Nat) : fld w 5 7 = fld w 10 2 * 32 + (fld w 8 2 * 8 + fld w 5 3) :=
  (fld_append w 5 5 2).trans (congrArg _ (fld_append w 5 3 2))
theorem fld_c_carousel (w : Nat) : fld w 8 4 = fld w 11 1 * 8 + fld w 8 3 := fld_append w 8 3 1
theorem fld_t_ldfe (w : Nat) : fld w 8 4 = fld w 9 3 * 2 + fld w 8 1 := fld_append w 8 1 3
theorem fld_m_bits (w : Nat) : fld w 0 2 = fld w 1 1 * 2 + fld w 0 1 := fld_append w 0 1 1
theorem fld_i_shift (w : Nat) : fld w 3 9 = fld w 10 2 * 128 + (fld w 8 2 * 32 + fld w 3 5) :=
  (fld_append w 3 7 2).trans (congrArg _ (fld_append w 3 5 2))
theorem fld_p_mod (w : Nat) : fld w 0 24 = fld w 5 19 * 32 + fld w 0 5 := fld_append w 0 5 19
theorem fld_p_c (w : Nat) : fld w 0 24 = fld w 17 7 * 131072 + (fld w 16 1 * 65536 + (fld w 15 1 * 32768 + fld w 0 15)) :=
  (fld_append w 0 17 7).trans (congrArg _ ((fld_append w 0 16 1).trans (congrArg _ (fld_append w 0 15 1))))
theorem fld_p_sched (w : Nat) : fld w 0 24 = fld w 23 1 * 8388608 + (fld w 22 1 * 4194304 + (fld w 21 1 * 2097152 + (fld w 20 1 * 1048576 +
    (fld w 16 4 * 65536 + (fld w 15 1 * 32768 + fld w 0 15))))) :=
  (fld_append w 0 23 1).trans (congrArg _ ((fld_append w 0 22 1).trans (congrArg _ ((fld_append w 0 21 1).trans (congrArg _
    ((fld_append w 0 20 1).trans (congrArg _ ((fld_append w 0 16 4).trans (congrArg _ (fld_append w 0 15 1))))))))))

theorem fld_da_zero (w : Nat) : fld w 12 14 = 0 ↔ fld w 19 7 = 0 ∧ fld w 12 7 = 0 := by
  have : fld w 12 14 = fld w 19 7 * 128 + fld w 12 7 := fld_append w 12 7 7
  omega

theorem fld_dab_zero (w : Nat) : fld w 10 16 = 0 ↔ fld w 12 14 = 0 ∧ fld w 10 2 = 0 := by
  have : fld w 10 16 = fld w 12 14 * 4 + fld w 10 2 := fld_append w 10 2 14
  omega

theorem fld_vote_zero (w : Nat) : fld w 15 8 = 0 ↔ fld w 19 4 = 0 ∧ fld w 15 4 = 0 := by
  have : fld w 15 8 = fld w 19 4 * 16 + fld w 15 4 := fld_append w 15 4 4
  omega

theorem fld_ab_zero (w : Nat) : fld w 11 8 = 0 ↔ fld w 12 7 = 0 ∧ fld w 11 1 = 0 := by
  have : fld w 11 8 = fld w 12 7 * 2 + fld w 11 1 := fld_append w 11 1 7
  omega

/-- The codes of fa and fb that the decoder takes are the well-formed ones (R40). -/
theorem flagCode_toNat (a : BitVec 4) : flagCode a.toNat = Instr.flagFieldOk a := by
  have : (a.toNat = 15) = (a = 15#4) := propext (BitVec.toNat_inj (y := 15#4))
  simp only [flagCode, Instr.flagFieldOk, beq_eq_decide, this]

/-! ### From an instruction to its word -/

/-- The decoders in the order of the majors that select them (R48). -/
def majors : List (Nat → Except DecodeError Instr) :=
  [decodeClause, decodeHint, decodeBra, decodeCall, decodeCtrl, decodeMovi, decodeIarith, decodeImadd, decodeIminmax, decodeLogic,
   decodeShift, decodeBitf, decodeIcmp, decodeIunary, decodeIdot, decodePred, decodeIaddi, decodeShifti, decodeAndi, decodeOri,
   decodeFarith, decodeFminmax, decodeFcmp, decodeFunary, decodeHarith, decodeHmisc, decodeCvt, decodePackops, decodeTagops, decodeSparse,
   decodeShfl, decodeVote, decodeRedux, decodeLd, decodeLdw, decodeLdq, decodeSt, decodeStw, decodeStq, decodeLds, decodeSts, decodeLdsq,
   decodeStsq, decodeLdfe, decodeStfe, decodeLdmx, decodeStmx, decodeMemx, decodeLdc, decodeAtom, decodeRed, decodeAtomc, decodeAtomq,
   decodeFence, decodeCopy, decodeCarousel, decodeSync, decodeQueue, decodeMatrix, decodeGrid, decodeGfx, decodeRay, decodeSys]

theorem decodeWord_eq_majors (w : Nat) : decodeWord w = match majors[fld w 26 6]? with
    | some f => f w
    | none => .error .illegalOpcode := by
  unfold decodeWord
  split
  case h_64 =>
    have hw := fld_lt w 26 6
    simp only [imp_false] at *
    rw [show fld w 26 6 = 63 by omega]
    rfl
  all_goals simp [majors, *]

/-- The word of an instruction, where it has one, is one of 32 bits and decodes to it. -/
def Encodes (i : Instr) : Prop := ∀ n, encode i = some n → n < 2 ^ 32 ∧ decodeWord n = .ok i

/-- The major of an instruction's word selects the decoder that answers the instruction. -/
theorem encodes_of_fields {i : Instr} {n op : Nat} {f : Nat → Except DecodeError Instr} (he : encode i = some n) (hf : majors[op]? = some f)
    (hn : n < 2 ^ 32) (hop : fld n 26 6 = op) (hdec : f n = .ok i) : Encodes i := by
  rintro m hm
  obtain rfl : n = m := Option.some.inj (he.symm.trans hm)
  exact ⟨hn, by simp [decodeWord_eq_majors, hop, hf, hdec]⟩

theorem encodes_formA {i : Instr} {op d a b g m : Nat} {f : Nat → Except DecodeError Instr} (he : encode i = some (formA op d a b g m))
    (hf : majors[op]? = some f) (hlt : op < 64 ∧ d < 128 ∧ a < 128 ∧ b < 128 ∧ g < 8 ∧ m < 4)
    (hdec : ∀ w, fld w 19 7 = d ∧ fld w 12 7 = a ∧ fld w 5 7 = b ∧ fld w 2 3 = g ∧ fld w 0 2 = m → f w = .ok i) : Encodes i := by
  refine encodes_of_fields he hf ?_ ?_ (hdec _ ⟨?_, ?_, ?_, ?_, ?_⟩) <;> simp only [formA, fld] <;> omega

theorem encodes_formI {i : Instr} {op d a k g : Nat} {f : Nat → Except DecodeError Instr} (he : encode i = some (formI op d a k g))
    (hf : majors[op]? = some f) (hlt : op < 64 ∧ d < 128 ∧ a < 128 ∧ k < 512 ∧ g < 8)
    (hdec : ∀ w, fld w 19 7 = d ∧ fld w 12 7 = a ∧ fld w 3 9 = k ∧ fld w 0 3 = g → f w = .ok i) : Encodes i := by
  refine encodes_of_fields he hf ?_ ?_ (hdec _ ⟨?_, ?_, ?_, ?_⟩) <;> simp only [formI, fld] <;> omega

theorem encodes_formV {i : Instr} {op d k g : Nat} {f : Nat → Except DecodeError Instr} (he : encode i = some (formV op d k g))
    (hf : majors[op]? = some f) (hlt : op < 64 ∧ d < 128 ∧ k < 65536 ∧ g < 8)
    (hdec : ∀ w, fld w 19 7 = d ∧ fld w 3 16 = k ∧ fld w 0 3 = g → f w = .ok i) : Encodes i := by
  refine encodes_of_fields he hf ?_ ?_ (hdec _ ⟨?_, ?_, ?_⟩) <;> simp only [formV, fld] <;> omega

theorem encodes_formM {i : Instr} {op d a t o g : Nat} {f : Nat → Except DecodeError Instr} (he : encode i = some (formM op d a t o g))
    (hf : majors[op]? = some f) (hlt : op < 64 ∧ d < 128 ∧ a < 128 ∧ t < 16 ∧ o < 32 ∧ g < 8)
    (hdec : ∀ w, fld w 19 7 = d ∧ fld w 12 7 = a ∧ fld w 8 4 = t ∧ fld w 3 5 = o ∧ fld w 0 3 = g → f w = .ok i) : Encodes i := by
  refine encodes_of_fields he hf ?_ ?_ (hdec _ ⟨?_, ?_, ?_, ?_, ?_⟩) <;> simp only [formM, fld] <;> omega

theorem encodes_formB {i : Instr} {op g o : Nat} {f : Nat → Except DecodeError Instr} (he : encode i = some (formB op g o))
    (hf : majors[op]? = some f) (hlt : op < 64 ∧ g < 8 ∧ o < 2 ^ 23)
    (hdec : ∀ w, fld w 23 3 = g ∧ fld w 0 23 = o → f w = .ok i) : Encodes i := by
  refine encodes_of_fields he hf ?_ ?_ (hdec _ ⟨?_, ?_⟩) <;> simp only [formB, fld] <;> omega

theorem encodes_formC {i : Instr} {op v a b l y : Nat} {f : Nat → Except DecodeError Instr} (he : encode i = some (formC op v a b l y))
    (hf : majors[op]? = some f) (hlt : op < 64 ∧ v < 4096 ∧ a < 16 ∧ b < 16 ∧ l < 16 ∧ y < 4)
    (hdec : ∀ w, fld w 14 12 = v ∧ fld w 10 4 = a ∧ fld w 6 4 = b ∧ fld w 2 4 = l ∧ fld w 0 2 = y → f w = .ok i) : Encodes i := by
  refine encodes_of_fields he hf ?_ ?_ (hdec _ ⟨?_, ?_, ?_, ?_, ?_⟩) <;> simp only [formC, fld] <;> omega

theorem encodes_formH {i : Instr} {op k p : Nat} {f : Nat → Except DecodeError Instr} (he : encode i = some (formH op k p))
    (hf : majors[op]? = some f) (hlt : op < 64 ∧ k < 4 ∧ p < 2 ^ 24)
    (hdec : ∀ w, fld w 24 2 = k ∧ fld w 0 24 = p → f w = .ok i) : Encodes i := by
  refine encodes_of_fields he hf ?_ ?_ (hdec _ ⟨?_, ?_⟩) <;> simp only [formH, fld] <;> omega

/-- Every well-formed instruction that has a word is what its word decodes to, by the fields of its form. -/
theorem encodes (i : Instr) (hwf : i.wellFormed = true) : Encodes i := by
  cases i with
  | iadd d a b g | isub d a b g | imul d a b g | imulh d a b g | imad d a b g | imadw d a b g | iadc d a b g | lea d a b g | imin d a b g
  | iminN d a b g | imax d a b g | imaxN d a b g | and d a b g | or d a b g | xor d a b g | andn d a b g | shl d a b g | shr d a b g | sar d a b g
  | rot d a b g | bfx d a b g | bfxS d a b g | bfi d a b g | sel d a b g | idot4 d a b g | idot4N d a b g | idot2 d a b g | idot4Sn d a b g
  | fadd d a b g | fsub d a b g | fmul d a b g | ffma d a b g | fmin d a b g | fmax d a b g | fscl d a b g | fdot2 d a b g | hadd2 d a b g
  | hmul2 d a b g | hfma2 d a b g | hsub2 d a b g | hmin2 d a b g | hmax2 d a b g | pack16 d a b g | pack8 d a b g | spx d a b g | shflPick d a b g
  | shflRotl d a b g | shflRotr d a b g | shflSwap d a b g | voteMatch d a b g | reduxAdd d a b g | reduxMin d a b g | reduxMax d a b g
  | reduxOr d a b g | mma d a b g | mmas d a b g | tld d a b g | tst d a b g =>
    exact encodes_formA rfl rfl (by omega) fun w ⟨hd, ha, hb, hg, hm⟩ => by
      simp [decodeIarith, decodeImadd, decodeIminmax, decodeLogic, decodeShift, decodeBitf, decodeIdot, decodeFarith, decodeFminmax, decodeHarith,
        decodeHmisc, decodePackops, decodeSparse, decodeShfl, decodeVote, decodeRedux, decodeMatrix, hm, bits_of_fld hd, bits_of_fld ha,
        bits_of_fld hb, bits_of_fld hg]
  | brx d a g | callx d a g | split d a g | mov d a g | iabs d a g | ineg d a g | not d a g | popc d a g | clz d a g | brev d a g | frnd d a g
  | ffrc d a g | frcp d a g | frsq d a g | fsqrt d a g | fex2 d a g | flg2 d a g | fsin d a g | fcos d a g | unpk16 d a g | unpk8 d a g | spcH d a g
  | spcB d a g | gmma d a g | gmmat d a g | gtld d a g | gtst d a g | rboxG d a g | tpay d a g | mvtx d a g | mprim d a g | attr d a g | imld d a g
  | imst d a g | tldi d a g | bldq d a g | syscallB d a g | alloc d a g | launch d a g | rdsr d a g | wrsr d a g =>
    exact encodes_formA rfl rfl (by omega) fun w ⟨hd, ha, hb, hg, hm⟩ => by
      simp [decodeCtrl, decodeIunary, decodeFunary, decodePackops, decodeSparse, decodeGrid, decodeGfx, decodeRay, decodeSys, reserve, hb, hm,
        bits_of_fld hd, bits_of_fld ha, bits_of_fld hg]
  | join a g | sleep a g | xtop a g | cctlCln a g | cctlFlush a g | await a g | gang a g | gwait a g | tdisp a g | mcnt a g | bld a g | bldw a g
  | syscallN a g | free a g | lwait a g | mapHint a g | mapOff a g =>
    exact encodes_formA rfl rfl (by omega) fun w ⟨hd, ha, hb, hg, hm⟩ => by
      simp [decodeCtrl, decodePred, decodeMemx, decodeSync, decodeGrid, decodeGfx, decodeRay, decodeSys, reserve, hd, hb, hm, bits_of_fld ha,
        bits_of_fld hg]
  | ptox d g | arrive d g | syswait d g | bkpt d g | trap d g =>
    exact encodes_formA rfl rfl (by omega) fun w ⟨hd, ha, hb, hg, hm⟩ => by
      simp [decodeCtrl, decodePred, decodeSync, decodeSys, reserve, ha, hb, hm, bits_of_fld hd, bits_of_fld hg]
  | nop g | ret g | exit g | yield g | eret g | halt g | cctlInv g | bar g | ebar g | gridOn g | gridOff g | opfence g =>
    exact encodes_formA rfl rfl (by omega) fun w ⟨hd, ha, hb, hg, hm⟩ => by
      simp [decodeCtrl, decodeMemx, decodeSync, decodeGrid, reserve, fld_da_zero, hd, ha, hb, hm, bits_of_fld hg]
  | tagq d a g =>
    exact encodes_formA rfl rfl (by omega) fun w ⟨hd, ha, hb, hg, hm⟩ => by
      obtain ⟨hs, h0⟩ : fld w 9 3 = 1 ∧ fld w 5 4 = 0 := fld_parts 5 7 4 hb (by decide)
      simp [decodeTagops, reserve, hs, h0, hm, bits_of_fld hd, bits_of_fld ha, bits_of_fld hg]
  | tag d a t g =>
    exact encodes_formA rfl rfl (by omega) fun w ⟨hd, ha, hb, hg, hm⟩ => by
      obtain ⟨hs, ht⟩ : fld w 9 3 = 0 ∧ fld w 5 4 = t.toNat := fld_parts 5 7 4 (by omega) t.isLt
      simp [decodeTagops, reserve, hs, hm, bits_of_fld hd, bits_of_fld ha, bits_of_fld ht, bits_of_fld hg]
  | exitS k g =>
    exact encodes_formA rfl rfl (by omega) fun w ⟨hd, ha, hb, hg, hm⟩ => by
      obtain ⟨h0, hk⟩ : fld w 22 4 = 0 ∧ fld w 19 3 = k.toNat := fld_parts 19 7 3 (by omega) k.isLt
      simp [decodeCtrl, reserve, h0, ha, hb, hm, bits_of_fld hk, bits_of_fld hg]
  | elect k a g =>
    exact encodes_formA rfl rfl (by omega) fun w ⟨hd, ha, hb, hg, hm⟩ => by
      obtain ⟨hk, h0⟩ : fld w 23 3 = k.toNat ∧ fld w 19 4 = 0 := fld_parts 19 7 4 hd (by decide)
      simp [decodeCtrl, reserve, h0, hb, hm, bits_of_fld hk, bits_of_fld ha, bits_of_fld hg]
  | icmp k c a b g | icmpN k c a b g | icmpAnd k c a b g | icmpOr k c a b g | fcmp k c a b g | fcmpAnd k c a b g | fcmpOr k c a b g
  | hcmp2 k c a b g =>
    exact encodes_formA rfl rfl (by omega) fun w ⟨hd, ha, hb, hg, hm⟩ => by
      obtain ⟨hk, hc⟩ : fld w 23 3 = k.toNat ∧ fld w 19 4 = c.toNat := fld_parts 19 7 4 hd c.isLt
      simp_all [Instr.wellFormed, decodeIcmp, decodeFcmp, decodeHmisc, reserve, bits_of_fld hk, bits_of_fld hc, bits_of_fld ha, bits_of_fld hb,
        bits_of_fld hg]
  | fcls k a b g =>
    exact encodes_formA rfl rfl (by omega) fun w ⟨hd, ha, hb, hg, hm⟩ => by
      obtain ⟨hk, h0⟩ : fld w 23 3 = k.toNat ∧ fld w 19 4 = 0 := fld_parts 19 7 4 hd (by decide)
      simp [decodeFcmp, reserve, h0, hm, bits_of_fld hk, bits_of_fld ha, bits_of_fld hb, bits_of_fld hg]
  | pset k t i j g =>
    exact encodes_formA rfl rfl (by omega) fun w ⟨hd, ha, hb, hg, hm⟩ => by
      obtain ⟨hk, ht⟩ : fld w 23 3 = k.toNat ∧ fld w 19 4 = t.toNat := fld_parts 19 7 4 hd t.isLt
      obtain ⟨hi, hj⟩ : fld w 16 3 = i.toNat ∧ fld w 12 4 = j.toNat * 2 := fld_parts 12 7 4 ha (by omega)
      obtain ⟨hj, h0⟩ : fld w 13 3 = j.toNat ∧ fld w 12 1 = 0 := fld_parts 12 4 1 hj (by decide)
      simp [decodePred, reserve, h0, hb, hm, bits_of_fld hk, bits_of_fld ht, bits_of_fld hi, bits_of_fld hj, bits_of_fld hg]
  | voteAll k j b g | voteAny k j b g =>
    exact encodes_formA rfl rfl (by omega) fun w ⟨hd, ha, hb, hg, hm⟩ => by
      obtain ⟨hk, h0⟩ : fld w 23 3 = k.toNat ∧ fld w 19 4 = 0 := fld_parts 19 7 4 hd (by decide)
      obtain ⟨h1, hj⟩ : fld w 15 4 = 0 ∧ fld w 12 3 = j.toNat := fld_parts 12 7 3 (by omega) j.isLt
      simp [decodeVote, reserve, fld_vote_zero, h0, h1, hm, bits_of_fld hk, bits_of_fld hj, bits_of_fld hb, bits_of_fld hg]
  | voteBallot d j b g =>
    exact encodes_formA rfl rfl (by omega) fun w ⟨hd, ha, hb, hg, hm⟩ => by
      obtain ⟨h0, hj⟩ : fld w 15 4 = 0 ∧ fld w 12 3 = j.toNat := fld_parts 12 7 3 (by omega) j.isLt
      simp [decodeVote, reserve, h0, hm, bits_of_fld hd, bits_of_fld hj, bits_of_fld hb, bits_of_fld hg]
  | cvt d a t r g | cvtHi d a t r g | cvtN d a t r g =>
    exact encodes_formA rfl rfl (by omega) fun w ⟨hd, ha, hb, hg, hm⟩ => by
      obtain ⟨ht, hr⟩ : fld w 8 4 = t.toNat ∧ fld w 5 3 = r.toNat := fld_parts 5 7 3 hb r.isLt
      simp_all [Instr.wellFormed, decodeCvt, reserve, bits_of_fld hd, bits_of_fld ha, bits_of_fld ht, bits_of_fld hr, bits_of_fld hg]
  | pref a g m =>
    exact encodes_formA rfl rfl (by omega) fun w ⟨hd, ha, hb, hg, hm⟩ => by
      simp_all [Instr.wellFormed, decodeMemx, reserve, bits_of_fld ha, bits_of_fld hg, bits_of_fld hm]
  | cctlRange d a g m | tex d a g m =>
    exact encodes_formA rfl rfl (by omega) fun w ⟨hd, ha, hb, hg, hm⟩ => by
      simp_all [Instr.wellFormed, decodeMemx, decodeGfx, reserve, bits_of_fld hd, bits_of_fld ha, bits_of_fld hg, bits_of_fld hm]
  | deriv d a g s | rbox d a g s | rtri d a g s | rnode d a g s =>
    exact encodes_formA rfl rfl (by omega) fun w ⟨hd, ha, hb, hg, hm⟩ => by
      obtain ⟨h0, hs⟩ : fld w 1 1 = 0 ∧ fld w 0 1 = s.toNat := fld_parts 0 2 1 (by omega) s.isLt
      simp [decodeGfx, decodeRay, reserve, h0, hb, bits_of_fld hd, bits_of_fld ha, bits_of_fld hs, bits_of_fld hg]
  | visrd d g s | rgen d g s =>
    exact encodes_formA rfl rfl (by omega) fun w ⟨hd, ha, hb, hg, hm⟩ => by
      obtain ⟨h0, hs⟩ : fld w 1 1 = 0 ∧ fld w 0 1 = s.toNat := fld_parts 0 2 1 (by omega) s.isLt
      simp [decodeGfx, decodeRay, reserve, h0, ha, hb, bits_of_fld hd, bits_of_fld hs, bits_of_fld hg]
  | rpin d a g h s =>
    exact encodes_formA rfl rfl (by omega) fun w ⟨hd, ha, hb, hg, hm⟩ => by
      obtain ⟨hh, hs⟩ : fld w 1 1 = h.toNat ∧ fld w 0 1 = s.toNat := fld_parts 0 2 1 hm s.isLt
      simp_all [Instr.wellFormed, decodeRay, reserve, bits_of_fld hd, bits_of_fld ha, bits_of_fld hh, bits_of_fld hs, bits_of_fld hg,
        ← BitVec.toNat_inj]
  | runpin g l s =>
    exact encodes_formA rfl rfl (by omega) fun w ⟨hd, ha, hb, hg, hm⟩ => by
      obtain ⟨hl, hs⟩ : fld w 1 1 = l.toNat ∧ fld w 0 1 = s.toNat := fld_parts 0 2 1 hm s.isLt
      simp [decodeRay, reserve, fld_da_zero, hd, ha, hb, bits_of_fld hl, bits_of_fld hs, bits_of_fld hg]
  | fence r p g =>
    exact encodes_formA rfl rfl (by omega) fun w ⟨hd, ha, hb, hg, hm⟩ => by
      obtain ⟨h0, hrp⟩ : fld w 10 2 = 0 ∧ fld w 5 5 = r.toNat * 8 + p.toNat := fld_parts 5 7 5 (by omega) (by omega)
      obtain ⟨hr, hp⟩ : fld w 8 2 = r.toNat ∧ fld w 5 3 = p.toNat := fld_parts 5 5 3 hrp p.isLt
      simp_all [Instr.wellFormed, decodeFence, reserve, fld_dab_zero, fld_da_zero, bits_of_fld hr, bits_of_fld hp, bits_of_fld hg]
  | cpyLd d a c g s =>
    exact encodes_formA rfl rfl (by omega) fun w ⟨hd, ha, hb, hg, hm⟩ => by
      obtain ⟨hc, hk⟩ : fld w 8 4 = c.toNat ∧ fld w 5 3 = 0 := fld_parts 5 7 3 hb (by decide)
      obtain ⟨h0, hs⟩ : fld w 1 1 = 0 ∧ fld w 0 1 = s.toNat := fld_parts 0 2 1 (by omega) s.isLt
      simp [decodeCopy, reserve, h0, hk, bits_of_fld hd, bits_of_fld ha, bits_of_fld hc, bits_of_fld hs, bits_of_fld hg]
  | cpySt d a c g s | cpygG d a c g s | cpygS d a c g s | ctest d a c g s =>
    exact encodes_formA rfl rfl (by omega) fun w ⟨hd, ha, hb, hg, hm⟩ => by
      obtain ⟨hc, hk⟩ : fld w 8 4 = c.toNat ∧ fld w 5 3 = _ := fld_parts 5 7 3 (hb.trans (Nat.add_comm ..)) (by decide)
      obtain ⟨h0, hs⟩ : fld w 1 1 = 0 ∧ fld w 0 1 = s.toNat := fld_parts 0 2 1 (by omega) s.isLt
      simp [decodeCopy, reserve, h0, hk, bits_of_fld hd, bits_of_fld ha, bits_of_fld hc, bits_of_fld hs, bits_of_fld hg]
  | cpyCb d a c g s =>
    exact encodes_formA rfl rfl (by omega) fun w ⟨hd, ha, hb, hg, hm⟩ => by
      obtain ⟨hc, hk⟩ : fld w 8 4 = c.toNat ∧ fld w 5 3 = 6 := fld_parts 5 7 3 (hb.trans (Nat.add_comm ..)) (by decide)
      obtain ⟨h1, hc⟩ : fld w 11 1 = 0 ∧ fld w 8 3 = c.toNat := fld_parts 8 4 3 (by omega) c.isLt
      obtain ⟨h0, hs⟩ : fld w 1 1 = 0 ∧ fld w 0 1 = s.toNat := fld_parts 0 2 1 (by omega) s.isLt
      simp [decodeCopy, reserve, h0, h1, hk, bits_of_fld hd, bits_of_fld ha, bits_of_fld hc, bits_of_fld hs, bits_of_fld hg]
  | cwait a c g =>
    exact encodes_formA rfl rfl (by omega) fun w ⟨hd, ha, hb, hg, hm⟩ => by
      obtain ⟨hc, hk⟩ : fld w 8 4 = c.toNat ∧ fld w 5 3 = 4 := fld_parts 5 7 3 (hb.trans (Nat.add_comm ..)) (by decide)
      simp [decodeCopy, reserve, hd, hk, hm, bits_of_fld ha, bits_of_fld hc, bits_of_fld hg]
  | cpyc c g =>
    exact encodes_formA rfl rfl (by omega) fun w ⟨hd, ha, hb, hg, hm⟩ => by
      obtain ⟨hc, hk⟩ : fld w 8 4 = c.toNat ∧ fld w 5 3 = 7 := fld_parts 5 7 3 (hb.trans (Nat.add_comm ..)) (by decide)
      simp [decodeCopy, reserve, fld_da_zero, hd, ha, hk, hm, bits_of_fld hc, bits_of_fld hg]
  | cbinit a c g v =>
    exact encodes_formA rfl rfl (by omega) fun w ⟨hd, ha, hb, hg, hm⟩ => by
      obtain ⟨hc, hk⟩ : fld w 8 4 = c.toNat ∧ fld w 5 3 = 0 := fld_parts 5 7 3 hb (by decide)
      obtain ⟨h0, hc⟩ : fld w 11 1 = 0 ∧ fld w 8 3 = c.toNat := fld_parts 8 4 3 (by omega) c.isLt
      simp [decodeCarousel, reserve, hd, h0, hk, bits_of_fld ha, bits_of_fld hc, bits_of_fld hm, bits_of_fld hg]
  | cbcmt a c g v | cbrel a c g v =>
    exact encodes_formA rfl rfl (by omega) fun w ⟨hd, ha, hb, hg, hm⟩ => by
      obtain ⟨hc, hk⟩ : fld w 8 4 = c.toNat ∧ fld w 5 3 = _ := fld_parts 5 7 3 (hb.trans (Nat.add_comm ..)) (by decide)
      obtain ⟨h0, hc⟩ : fld w 11 1 = 0 ∧ fld w 8 3 = c.toNat := fld_parts 8 4 3 (by omega) c.isLt
      simp [decodeCarousel, reserve, hd, h0, hk, bits_of_fld ha, bits_of_fld hc, bits_of_fld hm, bits_of_fld hg]
  | cbacq d c g v | cbwait d c g v =>
    exact encodes_formA rfl rfl (by omega) fun w ⟨hd, ha, hb, hg, hm⟩ => by
      obtain ⟨hc, hk⟩ : fld w 8 4 = c.toNat ∧ fld w 5 3 = _ := fld_parts 5 7 3 (hb.trans (Nat.add_comm ..)) (by decide)
      obtain ⟨h0, hc⟩ : fld w 11 1 = 0 ∧ fld w 8 3 = c.toNat := fld_parts 8 4 3 (by omega) c.isLt
      simp [decodeCarousel, reserve, fld_ab_zero, ha, h0, hk, bits_of_fld hd, bits_of_fld hc, bits_of_fld hm, bits_of_fld hg]
  | qpush a c g =>
    exact encodes_formA rfl rfl (by omega) fun w ⟨hd, ha, hb, hg, hm⟩ => by
      obtain ⟨hc, hk⟩ : fld w 8 4 = c.toNat ∧ fld w 5 3 = 0 := fld_parts 5 7 3 hb (by decide)
      obtain ⟨h0, hc⟩ : fld w 11 1 = 0 ∧ fld w 8 3 = c.toNat := fld_parts 8 4 3 (by omega) c.isLt
      simp [decodeQueue, reserve, hd, h0, hk, hm, bits_of_fld ha, bits_of_fld hc, bits_of_fld hg]
  | qcfg a c g =>
    exact encodes_formA rfl rfl (by omega) fun w ⟨hd, ha, hb, hg, hm⟩ => by
      obtain ⟨hc, hk⟩ : fld w 8 4 = c.toNat ∧ fld w 5 3 = _ := fld_parts 5 7 3 (hb.trans (Nat.add_comm ..)) (by decide)
      obtain ⟨h0, hc⟩ : fld w 11 1 = 0 ∧ fld w 8 3 = c.toNat := fld_parts 8 4 3 (by omega) c.isLt
      simp [decodeQueue, reserve, hd, h0, hk, hm, bits_of_fld ha, bits_of_fld hc, bits_of_fld hg]
  | qpop d c g | qpeek d c g =>
    exact encodes_formA rfl rfl (by omega) fun w ⟨hd, ha, hb, hg, hm⟩ => by
      obtain ⟨hc, hk⟩ : fld w 8 4 = c.toNat ∧ fld w 5 3 = _ := fld_parts 5 7 3 (hb.trans (Nat.add_comm ..)) (by decide)
      obtain ⟨h0, hc⟩ : fld w 11 1 = 0 ∧ fld w 8 3 = c.toNat := fld_parts 8 4 3 (by omega) c.isLt
      simp [decodeQueue, reserve, fld_ab_zero, ha, h0, hk, hm, bits_of_fld hd, bits_of_fld hc, bits_of_fld hg]
  | ld d a t o g | ldw d a t o g | ldq d a t o g | st d a t o g | stw d a t o g | stq d a t o g | lds d a t o g | sts d a t o g
  | ldsq d a t o g | stsq d a t o g | ldmx d a t o g | stmx d a t o g | ldc d a t o g =>
    exact encodes_formM rfl rfl (by omega) fun w ⟨hd, ha, ht, ho, hg⟩ => by
      simp [decodeLd, decodeLdw, decodeLdq, decodeSt, decodeStw, decodeStq, decodeLds, decodeSts, decodeLdsq, decodeStsq, decodeLdmx,
        decodeStmx, decodeLdc, bits_of_fld hd, bits_of_fld ha, bits_of_fld ht, bits_of_fld ho, bits_of_fld hg]
  | ldfeK d a o g | ldfeC d a o g =>
    exact encodes_formM rfl rfl (by omega) fun w ⟨hd, ha, ht, ho, hg⟩ => by
      obtain ⟨h0, hk⟩ : fld w 9 3 = 0 ∧ fld w 8 1 = _ := fld_parts 8 4 1 (ht.trans (Nat.zero_add _).symm) (by decide)
      simp [decodeLdfe, reserve, h0, hk, bits_of_fld hd, bits_of_fld ha, bits_of_fld ho, bits_of_fld hg]
  | stfe d a o g | atomAdd d a o g | atomMin d a o g | atomMax d a o g | atomMinN d a o g | atomMaxN d a o g | atomAnd d a o g | atomOr d a o g
  | atomXor d a o g | atomExch d a o g | atomInc d a o g | atomDec d a o g | atomFadd d a o g | atomHadd2 d a o g | redAdd d a o g | redMin d a o g
  | redMax d a o g | redMinN d a o g | redMaxN d a o g | redAnd d a o g | redOr d a o g | redXor d a o g | redExch d a o g | redInc d a o g
  | redDec d a o g | redFadd d a o g | redHadd2 d a o g | atomc d a o g | atomc64 d a o g | atomq d a o g =>
    exact encodes_formM rfl rfl (by omega) fun w ⟨hd, ha, ht, ho, hg⟩ => by
      simp [decodeStfe, decodeAtom, decodeRed, decodeAtomc, decodeAtomq, reserve, ht, bits_of_fld hd, bits_of_fld ha, bits_of_fld ho, bits_of_fld hg]
  | iaddi d a i g | andi d a i g | ori d a i g =>
    exact encodes_formI rfl rfl (by omega) fun w ⟨hd, ha, hi, hg⟩ => by
      simp [decodeIaddi, decodeAndi, decodeOri, bits_of_fld hd, bits_of_fld ha, bits_of_fld hi, bits_of_fld hg]
  | shiftiShl d a n g =>
    exact encodes_formI rfl rfl (by omega) fun w ⟨hd, ha, hi, hg⟩ => by
      obtain ⟨hk, hn⟩ : fld w 10 2 = 0 ∧ fld w 3 7 = n.toNat := fld_parts 3 9 7 (by omega) (by omega)
      obtain ⟨h0, hn⟩ : fld w 8 2 = 0 ∧ fld w 3 5 = n.toNat := fld_parts 3 7 5 (by omega) n.isLt
      simp [decodeShifti, reserve, hk, h0, bits_of_fld hd, bits_of_fld ha, bits_of_fld hn, bits_of_fld hg]
  | shiftiShr d a n g =>
    exact encodes_formI rfl rfl (by omega) fun w ⟨hd, ha, hi, hg⟩ => by
      obtain ⟨hk, hn⟩ : fld w 10 2 = 1 ∧ fld w 3 7 = n.toNat := fld_parts 3 9 7 (by omega) (by omega)
      obtain ⟨h0, hn⟩ : fld w 8 2 = 0 ∧ fld w 3 5 = n.toNat := fld_parts 3 7 5 (by omega) n.isLt
      simp [decodeShifti, reserve, hk, h0, bits_of_fld hd, bits_of_fld ha, bits_of_fld hn, bits_of_fld hg]
  | shiftiSar d a n g =>
    exact encodes_formI rfl rfl (by omega) fun w ⟨hd, ha, hi, hg⟩ => by
      obtain ⟨hk, hn⟩ : fld w 10 2 = 2 ∧ fld w 3 7 = n.toNat := fld_parts 3 9 7 (by omega) (by omega)
      obtain ⟨h0, hn⟩ : fld w 8 2 = 0 ∧ fld w 3 5 = n.toNat := fld_parts 3 7 5 (by omega) n.isLt
      simp [decodeShifti, reserve, hk, h0, bits_of_fld hd, bits_of_fld ha, bits_of_fld hn, bits_of_fld hg]
  | shiftiRot d a n g =>
    exact encodes_formI rfl rfl (by omega) fun w ⟨hd, ha, hi, hg⟩ => by
      obtain ⟨hk, hn⟩ : fld w 10 2 = 3 ∧ fld w 3 7 = n.toNat := fld_parts 3 9 7 (by omega) (by omega)
      obtain ⟨h0, hn⟩ : fld w 8 2 = 0 ∧ fld w 3 5 = n.toNat := fld_parts 3 7 5 (by omega) n.isLt
      simp [decodeShifti, reserve, hk, h0, bits_of_fld hd, bits_of_fld ha, bits_of_fld hn, bits_of_fld hg]
  | movi d i g =>
    exact encodes_formV rfl rfl (by omega) fun w ⟨hd, hi, hg⟩ => by
      simp [decodeMovi, bits_of_fld hd, bits_of_fld hi, bits_of_fld hg]
  | bra g o | call g o =>
    exact encodes_formB rfl rfl (by omega) fun w ⟨hg, ho⟩ => by
      simp [decodeBra, decodeCall, bits_of_fld hg, bits_of_fld ho]
  | clause v a b l y =>
    simp only [Instr.wellFormed, Bool.and_eq_true, ← flagCode_toNat] at hwf
    exact encodes_formC rfl rfl (by omega) fun w ⟨hv, ha, hb, hl, hy⟩ => by
      obtain ⟨hy, h0⟩ : fld w 1 1 = y.toNat ∧ fld w 0 1 = 0 := fld_parts 0 2 1 hy (by decide)
      simp [decodeClause, reserve, hwf, ha, hb, h0, bits_of_fld hv, bits_of_fld ha, bits_of_fld hb, bits_of_fld hl, bits_of_fld hy]
  | hintImm p =>
    exact encodes_formH rfl rfl (by omega) fun w ⟨hk, hp⟩ => by
      simp [decodeHint, hk, bits_of_fld hp]
  | hintMod p =>
    exact encodes_formH rfl rfl (by omega) fun w ⟨hk, hp⟩ => by
      obtain ⟨hp, h0⟩ : fld w 5 19 = p.toNat ∧ fld w 0 5 = 0 := fld_parts 0 24 5 hp (by decide)
      have hscp : fld w 12 3 = fld p.toNat 7 3 := hp ▸ (fld_fld w 5 7 3 (n := 19) (by decide)).symm
      have hrnd : fld w 5 3 = fld p.toNat 0 3 := hp ▸ (fld_fld w 5 0 3 (n := 19) (by decide)).symm
      have hlt : fld p.toNat 7 3 < 6 ∧ fld p.toNat 0 3 < 6 := by simpa [Instr.wellFormed, fld] using hwf
      simp [decodeHint, reserve, hk, h0, hscp, hrnd, hlt, bits_of_fld hp]
  | hintC c n a =>
    exact encodes_formH rfl rfl (by omega) fun w ⟨hk, hp⟩ => by
      have hp : fld w 0 24 = c.toNat * 2 ^ 17 + (n.toNat * 2 ^ 16 + (a.toNat * 2 ^ 15 + 0)) := by rw [hp]; ring
      obtain ⟨hc, hp⟩ : fld w 17 7 = c.toNat ∧ _ := fld_parts 0 24 17 hp (by norm_num; omega)
      obtain ⟨hn, hp⟩ : fld w 16 1 = n.toNat ∧ _ := fld_parts 0 17 16 hp (by norm_num; omega)
      obtain ⟨ha, h0⟩ : fld w 15 1 = a.toNat ∧ _ := fld_parts 0 16 15 hp (by norm_num)
      simp [decodeHint, reserve, hk, h0, bits_of_fld hc, bits_of_fld hn, bits_of_fld ha]
  | hintSched x y z t g f =>
    exact encodes_formH rfl rfl (by omega) fun w ⟨hk, hp⟩ => by
      have hp : fld w 0 24 = x.toNat * 2 ^ 23 + (y.toNat * 2 ^ 22 + (z.toNat * 2 ^ 21 + (t.toNat * 2 ^ 20 + (g.toNat * 2 ^ 16 +
        (f.toNat * 2 ^ 15 + 0))))) := by rw [hp]; ring
      obtain ⟨hx, hp⟩ : fld w 23 1 = x.toNat ∧ _ := fld_parts 0 24 23 hp (by norm_num; omega)
      obtain ⟨hy, hp⟩ : fld w 22 1 = y.toNat ∧ _ := fld_parts 0 23 22 hp (by norm_num; omega)
      obtain ⟨hz, hp⟩ : fld w 21 1 = z.toNat ∧ _ := fld_parts 0 22 21 hp (by norm_num; omega)
      obtain ⟨ht, hp⟩ : fld w 20 1 = t.toNat ∧ _ := fld_parts 0 21 20 hp (by norm_num; omega)
      obtain ⟨hg, hp⟩ : fld w 16 4 = g.toNat ∧ _ := fld_parts 0 20 16 hp (by norm_num; omega)
      obtain ⟨hf, h0⟩ : fld w 15 1 = f.toNat ∧ _ := fld_parts 0 16 15 hp (by norm_num)
      simp [decodeHint, reserve, hk, h0, bits_of_fld hx, bits_of_fld hy, bits_of_fld hz, bits_of_fld ht, bits_of_fld hg, bits_of_fld hf]
  | _ => exact nofun

/-! ### From a word to what it decodes to -/

/-- An answer of the decoder that is an instruction is a well-formed one, and its word is n. -/
def Encoded (n : Nat) (r : Except DecodeError Instr) : Prop := ∀ i, r = .ok i → i.wellFormed = true ∧ encode i = some n

theorem Encoded.error {n : Nat} {e : DecodeError} : Encoded n (.error e) := by
  intro i h
  cases h

theorem Encoded.ok {n m : Nat} {i : Instr} (hwf : i.wellFormed = true) (he : encode i = some m) (h : m = n) : Encoded n (.ok i) := by
  rintro j ⟨⟩
  exact ⟨hwf, h ▸ he⟩

theorem Encoded.reserve {n m : Nat} {i : Instr} {c : Bool} (hwf : c = true → i.wellFormed = true) (he : encode i = some m)
    (h : c = true → m = n) : Encoded n (reserve c i) := by
  unfold Sys2Proof.reserve
  split
  case isTrue hc => exact .ok (hwf hc) he (h hc)
  case isFalse => exact .error

theorem formA_fields {w : Nat} (hw : w < 2 ^ 32) : formA (fld w 26 6) (fld w 19 7) (fld w 12 7) (fld w 5 7) (fld w 2 3) (fld w 0 2) = w := by
  simp only [formA, fld]
  omega

theorem encoded_formA {w op : Nat} {r : Except DecodeError Instr} (hw : w < 2 ^ 32) (hop : fld w 26 6 = op)
    (h : Encoded (formA op (fld w 19 7) (fld w 12 7) (fld w 5 7) (fld w 2 3) (fld w 0 2)) r) : Encoded w r := by
  rwa [← hop, formA_fields hw] at h

theorem formI_fields {w : Nat} (hw : w < 2 ^ 32) : formI (fld w 26 6) (fld w 19 7) (fld w 12 7) (fld w 3 9) (fld w 0 3) = w := by
  simp only [formI, fld]
  omega

theorem encoded_formI {w op : Nat} {r : Except DecodeError Instr} (hw : w < 2 ^ 32) (hop : fld w 26 6 = op)
    (h : Encoded (formI op (fld w 19 7) (fld w 12 7) (fld w 3 9) (fld w 0 3)) r) : Encoded w r := by
  rwa [← hop, formI_fields hw] at h

theorem formV_fields {w : Nat} (hw : w < 2 ^ 32) : formV (fld w 26 6) (fld w 19 7) (fld w 3 16) (fld w 0 3) = w := by
  simp only [formV, fld]
  omega

theorem encoded_formV {w op : Nat} {r : Except DecodeError Instr} (hw : w < 2 ^ 32) (hop : fld w 26 6 = op)
    (h : Encoded (formV op (fld w 19 7) (fld w 3 16) (fld w 0 3)) r) : Encoded w r := by
  rwa [← hop, formV_fields hw] at h

theorem formM_fields {w : Nat} (hw : w < 2 ^ 32) : formM (fld w 26 6) (fld w 19 7) (fld w 12 7) (fld w 8 4) (fld w 3 5) (fld w 0 3) = w := by
  simp only [formM, fld]
  omega

theorem encoded_formM {w op : Nat} {r : Except DecodeError Instr} (hw : w < 2 ^ 32) (hop : fld w 26 6 = op)
    (h : Encoded (formM op (fld w 19 7) (fld w 12 7) (fld w 8 4) (fld w 3 5) (fld w 0 3)) r) : Encoded w r := by
  rwa [← hop, formM_fields hw] at h

theorem formB_fields {w : Nat} (hw : w < 2 ^ 32) : formB (fld w 26 6) (fld w 23 3) (fld w 0 23) = w := by
  simp only [formB, fld]
  omega

theorem encoded_formB {w op : Nat} {r : Except DecodeError Instr} (hw : w < 2 ^ 32) (hop : fld w 26 6 = op)
    (h : Encoded (formB op (fld w 23 3) (fld w 0 23)) r) : Encoded w r := by
  rwa [← hop, formB_fields hw] at h

theorem formC_fields {w : Nat} (hw : w < 2 ^ 32) : formC (fld w 26 6) (fld w 14 12) (fld w 10 4) (fld w 6 4) (fld w 2 4) (fld w 0 2) = w := by
  simp only [formC, fld]
  omega

theorem encoded_formC {w op : Nat} {r : Except DecodeError Instr} (hw : w < 2 ^ 32) (hop : fld w 26 6 = op)
    (h : Encoded (formC op (fld w 14 12) (fld w 10 4) (fld w 6 4) (fld w 2 4) (fld w 0 2)) r) : Encoded w r := by
  rwa [← hop, formC_fields hw] at h

theorem formH_fields {w : Nat} (hw : w < 2 ^ 32) : formH (fld w 26 6) (fld w 24 2) (fld w 0 24) = w := by
  simp only [formH, fld]
  omega

theorem encoded_formH {w op : Nat} {r : Except DecodeError Instr} (hw : w < 2 ^ 32) (hop : fld w 26 6 = op)
    (h : Encoded (formH op (fld w 24 2) (fld w 0 24)) r) : Encoded w r := by
  rwa [← hop, formH_fields hw] at h

theorem encoded_icmp {w : Nat} (hw : w < 2 ^ 32) (hop : fld w 26 6 = 12) : Encoded w (decodeIcmp w) := by
  refine encoded_formA hw hop ?_
  rcases fld_two w 0 with hm | hm | hm | hm <;> simp only [decodeIcmp, hm] <;>
    exact .reserve (fun h => by simpa [Instr.wellFormed, toNat_bits] using h) rfl fun _ => by simp only [toNat_bits, ← fld_d_compare]

theorem encoded_fcmp {w : Nat} (hw : w < 2 ^ 32) (hop : fld w 26 6 = 22) : Encoded w (decodeFcmp w) := by
  refine encoded_formA hw hop ?_
  rcases fld_two w 0 with hm | hm | hm | hm <;> simp only [decodeFcmp, hm]
  on_goal 4 => exact .reserve (fun _ => rfl) rfl fun h => by simp_all [toNat_bits, fld_d_compare]
  all_goals exact .reserve (fun h => by simpa [Instr.wellFormed, toNat_bits] using h) rfl fun _ => by simp only [toNat_bits, ← fld_d_compare]

theorem encoded_hmisc {w : Nat} (hw : w < 2 ^ 32) (hop : fld w 26 6 = 25) : Encoded w (decodeHmisc w) := by
  refine encoded_formA hw hop ?_
  rcases fld_two w 0 with hm | hm | hm | hm <;> simp only [decodeHmisc, hm]
  · exact .ok rfl rfl (by simp only [toNat_bits])
  · exact .ok rfl rfl (by simp only [toNat_bits])
  · exact .reserve (fun h => by simpa [Instr.wellFormed, toNat_bits] using h) rfl fun _ => by simp only [toNat_bits, ← fld_d_compare]
  · exact .error

theorem encoded_pred {w : Nat} (hw : w < 2 ^ 32) (hop : fld w 26 6 = 15) : Encoded w (decodePred w) := by
  refine encoded_formA hw hop ?_
  simp only [decodePred]
  split
  · exact .reserve (fun _ => rfl) rfl fun h => by simp_all [toNat_bits, fld_d_compare, fld_a_pset]
  · exact .reserve (fun _ => rfl) rfl fun h => by simp_all [toNat_bits]
  · exact .reserve (fun _ => rfl) rfl fun h => by simp_all [toNat_bits]
  · exact .error

theorem encoded_shifti {w : Nat} (hw : w < 2 ^ 32) (hop : fld w 26 6 = 17) : Encoded w (decodeShifti w) := by
  refine encoded_formI hw hop ?_
  rcases fld_two w 10 with hi | hi | hi | hi <;> simp only [decodeShifti, hi] <;>
    exact .reserve (fun _ => rfl) rfl fun h => by simp_all [toNat_bits, fld_i_shift]

theorem encoded_cvt {w : Nat} (hw : w < 2 ^ 32) (hop : fld w 26 6 = 26) : Encoded w (decodeCvt w) := by
  refine encoded_formA hw hop ?_
  rcases fld_two w 0 with hm | hm | hm | hm <;> simp only [decodeCvt, hm]
  on_goal 4 => exact .error
  all_goals exact .reserve (fun h => by simpa [Instr.wellFormed, toNat_bits] using h) rfl fun _ => by simp only [toNat_bits, ← fld_b_copy]

theorem encoded_packops {w : Nat} (hw : w < 2 ^ 32) (hop : fld w 26 6 = 27) : Encoded w (decodePackops w) := by
  refine encoded_formA hw hop ?_
  rcases fld_two w 0 with hm | hm | hm | hm <;> simp only [decodePackops, hm]
  · exact .ok rfl rfl (by simp only [toNat_bits])
  · exact .ok rfl rfl (by simp only [toNat_bits])
  · exact .reserve (fun _ => rfl) rfl fun h => by simp_all [toNat_bits]
  · exact .reserve (fun _ => rfl) rfl fun h => by simp_all [toNat_bits]

theorem encoded_tagops {w : Nat} (hw : w < 2 ^ 32) (hop : fld w 26 6 = 28) : Encoded w (decodeTagops w) := by
  refine encoded_formA hw hop ?_
  simp only [decodeTagops]
  split
  · exact .reserve (fun _ => rfl) rfl fun h => by simp_all [toNat_bits, fld_b_tag]
  · exact .reserve (fun _ => rfl) rfl fun h => by simp_all [toNat_bits, fld_b_tag]
  · exact .error

theorem encoded_sparse {w : Nat} (hw : w < 2 ^ 32) (hop : fld w 26 6 = 29) : Encoded w (decodeSparse w) := by
  refine encoded_formA hw hop ?_
  rcases fld_two w 0 with hm | hm | hm | hm <;> simp only [decodeSparse, hm]
  · exact .reserve (fun _ => rfl) rfl fun h => by simp_all [toNat_bits]
  · exact .reserve (fun _ => rfl) rfl fun h => by simp_all [toNat_bits]
  · exact .ok rfl rfl (by simp only [toNat_bits])
  · exact .error

theorem encoded_vote {w : Nat} (hw : w < 2 ^ 32) (hop : fld w 26 6 = 31) : Encoded w (decodeVote w) := by
  refine encoded_formA hw hop ?_
  rcases fld_two w 0 with hm | hm | hm | hm <;> simp only [decodeVote, hm]
  · exact .reserve (fun _ => rfl) rfl fun h => by simp_all [toNat_bits, fld_vote_zero, fld_d_compare, fld_a_vote]
  · exact .reserve (fun _ => rfl) rfl fun h => by simp_all [toNat_bits, fld_vote_zero, fld_d_compare, fld_a_vote]
  · exact .reserve (fun _ => rfl) rfl fun h => by simp_all [toNat_bits, fld_a_vote]
  · exact .ok rfl rfl (by simp only [toNat_bits])

theorem encoded_ldfe {w : Nat} (hw : w < 2 ^ 32) (hop : fld w 26 6 = 43) : Encoded w (decodeLdfe w) := by
  refine encoded_formM hw hop ?_
  rcases fld_one w 8 with ht | ht <;> simp only [decodeLdfe, ht] <;>
    exact .reserve (fun _ => rfl) rfl fun h => by simp_all [toNat_bits, fld_t_ldfe]

theorem encoded_memx {w : Nat} (hw : w < 2 ^ 32) (hop : fld w 26 6 = 47) : Encoded w (decodeMemx w) := by
  refine encoded_formA hw hop ?_
  simp only [decodeMemx]
  split
  case h_1 => exact .reserve (fun h => by simp_all [Instr.wellFormed, toNat_bits]) rfl fun h => by simp_all [toNat_bits]
  case h_5 => exact .reserve (fun h => by simp_all [Instr.wellFormed, toNat_bits]) rfl fun h => by simp_all [toNat_bits]
  case h_6 => exact .error
  all_goals exact .reserve (fun _ => rfl) rfl fun h => by simp_all [toNat_bits, fld_da_zero]

theorem encoded_fence {w : Nat} (hw : w < 2 ^ 32) (hop : fld w 26 6 = 53) : Encoded w (decodeFence w) := by
  refine encoded_formA hw hop (.reserve (fun h => ?_) rfl fun h => ?_)
  · simp_all [Instr.wellFormed, toNat_bits]
  · simp_all [toNat_bits, fld_dab_zero, fld_da_zero, fld_b_fence]

theorem encoded_ctrl {w : Nat} (hw : w < 2 ^ 32) (hop : fld w 26 6 = 4) : Encoded w (decodeCtrl w) := by
  refine encoded_formA hw hop ?_
  simp only [decodeCtrl]
  split
  case h_8 => exact .reserve (fun _ => rfl) rfl fun h => by simp_all [toNat_bits, fld_d_exit]
  case h_15 => exact .reserve (fun _ => rfl) rfl fun h => by simp_all [toNat_bits, fld_d_compare]
  case h_16 => exact .error
  all_goals exact .reserve (fun _ => rfl) rfl fun h => by simp_all [toNat_bits, fld_da_zero]

theorem encoded_gfx {w : Nat} (hw : w < 2 ^ 32) (hop : fld w 26 6 = 60) : Encoded w (decodeGfx w) := by
  refine encoded_formA hw hop ?_
  simp only [decodeGfx]
  split
  case h_6 | h_8 => exact .reserve (fun _ => rfl) rfl fun h => by simp_all [toNat_bits, fld_m_bits]
  case h_11 => exact .reserve (fun h => by simpa [Instr.wellFormed, toNat_bits] using h) rfl fun h => by simp_all [toNat_bits]
  case h_13 => exact .error
  all_goals exact .reserve (fun _ => rfl) rfl fun h => by simp_all [toNat_bits]

theorem encoded_ray {w : Nat} (hw : w < 2 ^ 32) (hop : fld w 26 6 = 61) : Encoded w (decodeRay w) := by
  refine encoded_formA hw hop ?_
  simp only [decodeRay]
  split
  case h_4 => exact .reserve (fun h => by simpa [Instr.wellFormed, ← BitVec.toNat_inj, toNat_bits] using h) rfl fun h => by simp_all [toNat_bits,
    fld_m_bits]
  case h_10 => exact .error
  all_goals exact .reserve (fun _ => rfl) rfl fun h => by simp_all [toNat_bits, fld_da_zero, fld_m_bits]

theorem encoded_sys {w : Nat} (hw : w < 2 ^ 32) (hop : fld w 26 6 = 62) : Encoded w (decodeSys w) := by
  refine encoded_formA hw hop ?_
  simp only [decodeSys]
  split
  case h_1 =>
    rcases fld_two w 0 with hm | hm | hm | hm <;> simp only [hm]
    · exact .ok rfl rfl (by simp_all [toNat_bits])
    · exact .reserve (fun _ => rfl) rfl fun h => by simp_all [toNat_bits]
    · exact .error
    · exact .error
  case h_11 => exact .error
  all_goals exact .reserve (fun _ => rfl) rfl fun h => by simp_all [toNat_bits]

theorem encoded_copy {w : Nat} (hw : w < 2 ^ 32) (hop : fld w 26 6 = 54) : Encoded w (decodeCopy w) := by
  refine encoded_formA hw hop ?_
  simp only [decodeCopy]
  split
  case h_7 => exact .reserve (fun _ => rfl) rfl fun h => by simp_all [toNat_bits, fld_m_bits, fld_b_copy, fld_c_carousel, Nat.add_comm]
  case h_8 =>
    have hk : fld w 5 3 = 7 := by
      have := fld_lt w 5 3
      simp only [imp_false] at *
      omega
    exact .reserve (fun _ => rfl) rfl fun h => by simp_all [toNat_bits, fld_da_zero, fld_b_copy, Nat.add_comm]
  all_goals exact .reserve (fun _ => rfl) rfl fun h => by simp_all [toNat_bits, fld_m_bits, fld_b_copy, Nat.add_comm]

theorem encoded_clause {w : Nat} (hw : w < 2 ^ 32) (hop : fld w 26 6 = 0) : Encoded w (decodeClause w) := by
  refine encoded_formC hw hop (.reserve (fun h => ?_) rfl fun h => ?_)
  · simp_all [Instr.wellFormed, ← flagCode_toNat, toNat_bits]
  · simp_all [toNat_bits, fld_m_bits]

theorem encoded_hint {w : Nat} (hw : w < 2 ^ 32) (hop : fld w 26 6 = 1) : Encoded w (decodeHint w) := by
  refine encoded_formH hw hop ?_
  rcases fld_two w 24 with hk | hk | hk | hk <;> simp only [decodeHint, hk]
  · exact .ok rfl rfl (by simp only [toNat_bits])
  · have hscp : fld w 5 19 / 2 ^ 7 % 8 = fld w 12 3 := fld_fld w 5 7 3 (by decide)
    have hrnd : fld w 5 19 % 8 = fld w 5 3 := by
      rw [show fld w 5 19 = fld w 8 16 * 8 + fld w 5 3 from fld_append w 5 3 16, Nat.mul_add_mod_self_right]
      exact Nat.mod_eq_of_lt (fld_lt w 5 3)
    refine .reserve (fun h => ?_) rfl fun h => by simp_all [toNat_bits, fld_p_mod]
    simp only [Instr.wellFormed, toNat_bits, hscp, hrnd]
    simp_all
  · exact .reserve (fun _ => rfl) rfl fun h => by simp_all [toNat_bits, fld_p_c, Nat.add_assoc]
  · exact .reserve (fun _ => rfl) rfl fun h => by simp_all [toNat_bits, fld_p_sched, Nat.add_assoc]

theorem encoded_movi {w : Nat} (hw : w < 2 ^ 32) (hop : fld w 26 6 = 5) : Encoded w (decodeMovi w) := by
  exact encoded_formV hw hop (.ok rfl rfl (by simp only [toNat_bits]))

/-- What a word decodes to is well formed and has that word. The alternative h_n of the decoder is major n - 1. -/
theorem encoded_decodeWord {w : Nat} (hw : w < 2 ^ 32) : Encoded w (decodeWord w) := by
  unfold decodeWord
  split
  case h_7 hop | h_8 hop | h_9 hop | h_10 hop | h_11 hop | h_12 hop | h_15 hop | h_21 hop | h_22 hop | h_25 hop | h_31 hop | h_33 hop | h_59 hop =>
    refine encoded_formA hw hop ?_
    rcases fld_two w 0 with hm | hm | hm | hm <;> simp only [decodeIarith, decodeImadd, decodeIminmax, decodeLogic, decodeShift, decodeBitf,
      decodeIdot, decodeFarith, decodeFminmax, decodeHarith, decodeShfl, decodeRedux, decodeMatrix, hm] <;>
      exact .ok rfl rfl (by simp only [toNat_bits])
  case h_14 hop | h_24 hop | h_60 hop | h_57 hop =>
    refine encoded_formA hw hop ?_
    simp only [decodeIunary, decodeFunary, decodeGrid, decodeSync]
    split
    on_goal -1 => exact .error
    all_goals exact .reserve (fun _ => rfl) rfl fun h => by simp_all [toNat_bits, fld_da_zero]
  case h_13 hop => exact encoded_icmp hw hop
  case h_23 hop => exact encoded_fcmp hw hop
  case h_26 hop => exact encoded_hmisc hw hop
  case h_16 hop => exact encoded_pred hw hop
  case h_17 hop | h_19 hop | h_20 hop =>
    refine encoded_formI hw hop ?_
    exact .ok rfl rfl (by simp only [toNat_bits])
  case h_18 hop => exact encoded_shifti hw hop
  case h_27 hop => exact encoded_cvt hw hop
  case h_28 hop => exact encoded_packops hw hop
  case h_29 hop => exact encoded_tagops hw hop
  case h_30 hop => exact encoded_sparse hw hop
  case h_32 hop => exact encoded_vote hw hop
  case h_34 hop | h_35 hop | h_36 hop | h_37 hop | h_38 hop | h_39 hop | h_40 hop | h_41 hop | h_42 hop | h_43 hop | h_46 hop | h_47 hop | h_49 hop =>
    exact encoded_formM hw hop (.ok rfl rfl (by simp only [toNat_bits]))
  case h_44 hop => exact encoded_ldfe hw hop
  case h_45 hop | h_53 hop =>
    exact encoded_formM hw hop (.reserve (fun _ => rfl) rfl fun h => by simp_all [toNat_bits])
  case h_50 hop | h_51 hop | h_52 hop =>
    refine encoded_formM hw hop ?_
    simp only [decodeAtom, decodeRed, decodeAtomc]
    split
    on_goal -1 => exact .error
    all_goals exact .ok rfl rfl (by simp_all [toNat_bits])
  case h_48 hop => exact encoded_memx hw hop
  case h_54 hop => exact encoded_fence hw hop
  case h_5 hop => exact encoded_ctrl hw hop
  case h_61 hop => exact encoded_gfx hw hop
  case h_62 hop => exact encoded_ray hw hop
  case h_63 hop => exact encoded_sys hw hop
  case h_55 hop => exact encoded_copy hw hop
  case h_56 hop | h_58 hop =>
    refine encoded_formA hw hop ?_
    simp only [decodeCarousel, decodeQueue]
    split
    on_goal -1 => exact .error
    all_goals exact .reserve (fun _ => rfl) rfl fun h => by simp_all [toNat_bits, fld_b_copy, fld_c_carousel, fld_ab_zero, Nat.add_comm]
  case h_1 hop => exact encoded_clause hw hop
  case h_2 hop => exact encoded_hint hw hop
  case h_3 hop | h_4 hop =>
    exact encoded_formB hw hop (.ok rfl rfl (by simp only [toNat_bits]))
  case h_6 hop => exact encoded_movi hw hop
  case h_64 => exact .error

/-- Settles O54: encoding first by the fields of each form, decoding first by the decoder of each major. -/
theorem roundTrip : Obligations.RoundTrip :=
  ⟨fun i n hwf he => encodes i hwf n he, fun i _ hn hd => encoded_decodeWord hn i hd⟩


/-- Settles O55: each word is evaluated. -/
theorem decodeWords : Obligations.DecodeWords := by
  unfold Obligations.DecodeWords
  decide

end Sys2Proof.Machine

namespace Sys2Proof.Machine

/-! ## Clause headers, hint words, NOP, YIELD and SLEEP (O19; 02_encoding.md R36, R41 to R47; 06_control.md R144) -/

/-! ### The payloads of hint words (R43 to R47) -/

theorem toNat_append_add {m n : Nat} (x : BitVec m) (y : BitVec n) : (x ++ y).toNat = x.toNat * 2 ^ n + y.toNat := by
  rw [BitVec.toNat_append, ← Nat.shiftLeft_add_eq_or_of_lt y.isLt, Nat.shiftLeft_eq]

theorem ofNat_of_toNat {n k : Nat} {x : BitVec n} (h : k = x.toNat) : BitVec.ofNat n k = x := by
  rw [h, BitVec.ofNat_toNat, BitVec.setWidth_eq]

theorem modPayload_eq (p : BitVec 19) : BitVec.ofNat 24 (p.toNat * 32) = p ++ 0#5 :=
  ofNat_of_toNat (toNat_append_add p 0#5).symm

theorem cPayload_eq (c : BitVec 7) (n a : BitVec 1) :
    BitVec.ofNat 24 (c.toNat * 2 ^ 17 + n.toNat * 2 ^ 16 + a.toNat * 2 ^ 15) = c ++ n ++ a ++ 0#15 :=
  ofNat_of_toNat <| by
    refine .trans ?_ (toNat_append_add (c ++ n ++ a) 0#15).symm
    rw [toNat_append_add, toNat_append_add, BitVec.toNat_zero]
    ring

theorem schedPayload_eq (x y z t : BitVec 1) (g : BitVec 4) (f : BitVec 1) :
    BitVec.ofNat 24 (x.toNat * 2 ^ 23 + y.toNat * 2 ^ 22 + z.toNat * 2 ^ 21 + t.toNat * 2 ^ 20 + g.toNat * 2 ^ 16 + f.toNat * 2 ^ 15) =
      x ++ y ++ z ++ t ++ g ++ f ++ 0#15 :=
  ofNat_of_toNat <| by
    refine .trans ?_ (toNat_append_add (x ++ y ++ z ++ t ++ g ++ f) 0#15).symm
    simp only [toNat_append_add, BitVec.toNat_zero]
    ring

/-- A hint word of the thread that executes fills its place in the latch (R43). -/
theorem runHint_eq {s : State} {w : Who} (hw : s.whoOf s.cur = some w) (f : HintLatch → HintLatch) :
    runHint s f = .next (s.setThread w.k { w.t.advance with hints := f w.t.hints, status := .ready, resumed := false }) := by
  simp only [runHint, hw]

/-! ### The clause header (R36, R41) -/

theorem execClause_waits {s : State} {w : Who} (hw : s.whoOf s.cur = some w) {wait : BitVec 12} (h : w.t.busyMask &&& wait.toNat ≠ 0)
    (a b l : BitVec 4) (y : BitVec 1) : execClause wait a b l y s = .next (s.stopped w (.park .flags)) := by
  simp [execClause, hw, h]

theorem execClause_enters {s : State} {w : Who} (hw : s.whoOf s.cur = some w) {wait : BitVec 12} (h : w.t.busyMask &&& wait.toNat = 0)
    (ha : w.t.armStep = false) (a b l : BitVec 4) (y : BitVec 1) :
    execClause wait a b l y s = .next ((s.enterConfig w).updThread w.k fun t => { t with
      clause := { header := t.pc, len := l.toNat + 1, pos := 0, fa := a, fb := b }
      pc := nextPc t.pc, status := .ready, gapUntil := none, resumed := false, armStep := false, armSkip := false }) := by
  simp [execClause, hw, h, ha]

/-! ### YIELD and SLEEP (R144) -/

/-- Outside single step the thread of a completed word is ready, in its handler or out of it as it was. -/
theorem retire_setThread {s : State} {w : Who} {k : Nat} (hw : s.whoOf k = some w) (t : Thread) (ha : w.t.armStep = false) :
    ((s.setThread w.k t).retire w.k w.t).thread w.k = t.advance.complete s.clock w.t.hints w.t.inHandler := by
  have hk := s.lt_of_whoOf k w hw
  have hl : w.k < (s.setThread w.k t).threads.length := by simpa using hk
  rw [State.retire_eq _ _ _ ha, State.thread_updThread _ _ _ (by simpa using hk), State.thread_updThread _ _ _ hl, State.thread_setThread _ _ _ hk]
  rfl

theorem execSleep_zero {s : State} {w : Who} {g : PredField} {a : RegField} {x : Fetched} (h : Executes s w g)
    (hx : w.t.fetch [] [rd1 a [.b32]] = .ok x) (h0 : x.v 0 = 0) : execSleep a g s = .next ((s.setThread w.k x.t).yieldNext w) := by
  simp [execSleep, h.1, h.2, hx, h0]

theorem execSleep_sleeps {s : State} {w : Who} {g : PredField} {a : RegField} {x : Fetched} (h : Executes s w g)
    (hx : w.t.fetch [] [rd1 a [.b32]] = .ok x) (h0 : x.v 0 ≠ 0) (ha : w.t.armStep = false) (he : w.t.status ≠ .exited) :
    execSleep a g s = .next (((s.setThread w.k x.t).retire w.k w.t).updThread w.k fun t =>
      { t with status := .sleeping (s.clock + (x.v 0).zeroExtend 64) }) := by
  have hn : (x.v 0).toNat ≠ 0 := fun hz => h0 (BitVec.eq_of_toNat_eq hz)
  have hx' := Thread.fetch_t hx
  have ht := retire_setThread h.1 x.t ha
  have hs : (((s.setThread w.k x.t).retire w.k w.t).thread w.k).status = .ready := by
    rw [ht, hx']
    exact if_neg he
  have hi : (((s.setThread w.k x.t).retire w.k w.t).thread w.k).inHandler = w.t.inHandler := by
    rw [ht, hx']
    rfl
  simp only [execSleep, h.1, h.2, hx, if_true, hn, if_false, hs, hi, bne_self_eq_false, Bool.or_self, Bool.false_eq_true,
    w64, BitVec.ofNat_toNat]

/-- Settles O19, word by word. -/
theorem clausesHintsPauses : Obligations.ClausesHintsPauses := by
  unfold Obligations.ClausesHintsPauses
  refine ⟨fun s w hw => ⟨fun wait a b l y => ⟨?_, ?_⟩, ?_, ?_, ?_, ?_⟩, fun s w g h => ⟨?_, ?_, fun a x hx => ⟨?_, ?_⟩⟩⟩
  · exact fun hb => execClause_waits hw hb a b l y
  · exact fun hb ha => execClause_enters hw hb ha a b l y
  · exact fun p => runHint_eq hw fun h => { h with imm := some p }
  · exact fun p => modPayload_eq p ▸ runHint_eq hw fun h => { h with mod := some (BitVec.ofNat 24 (p.toNat * 32)) }
  · exact fun c n a => cPayload_eq c n a ▸
      runHint_eq hw fun h => { h with c := some (BitVec.ofNat 24 (c.toNat * 2 ^ 17 + n.toNat * 2 ^ 16 + a.toNat * 2 ^ 15)) }
  · exact fun x y z t gap f => schedPayload_eq x y z t gap f ▸
      runHint_eq hw fun h => { h with sched := some (BitVec.ofNat 24 (x.toNat * 2 ^ 23 + y.toNat * 2 ^ 22 + z.toNat * 2 ^ 21 + t.toNat * 2 ^ 20
        + gap.toNat * 2 ^ 16 + f.toNat * 2 ^ 15)) }
  · exact runThread_ok h rfl
  · simp only [exec, execYield, h.1, h.2, if_true]
  · exact execSleep_zero h hx
  · exact execSleep_sleeps h hx

end Sys2Proof.Machine

namespace Sys2Proof.Machine

/-! ## How operands are read (O57; 02_encoding.md R52, R53; 03_formats.md R71, R72; 05_float.md R109; 06_control.md R145; 15_system.md R342)

`Thread.fetch` asks four questions in R342's order. Each is a proposition of its own here, tied to the test that the model makes; `Thread.fetch_eq` is the
chain of the four. -/

/-- Every group that the instruction names stands where it may (R28, R62). -/
def Thread.GroupsLegal (t : Thread) (dsts : List Grp) (srcs : List Src) : Prop :=
  ∀ g ∈ dsts ++ srcs.filterMap Src.grp, g.base + g.len ≤ t.regs.length ∧ g.base % g.align = 0

/-- A register of a source holds a transient value that has expired (R145). -/
def Thread.ReadsExpired (t : Thread) (srcs : List Src) : Prop :=
  ∃ g ∈ srcs.filterMap Src.grp, ∃ n < g.len, (t.reg (g.base + n)).life = .expired

/-- A port cannot convert what a source brings (R71). -/
def Thread.PortsClash (t : Thread) (srcs : List Src) : Prop := ∃ x ∈ srcs, ∃ p ∈ x.ports t, p.isMismatch = true

/-- The flags that a source's conversions raise, element by element (R109). -/
def Thread.portFlags (t : Thread) (x : Src) : List Nat := (x.ports t).flatMap Port.flags

/-- The flags that all the sources' conversions raise. -/
def Thread.allPortFlags (t : Thread) (srcs : List Src) : Nat := orAll (srcs.map fun x => orAll (t.portFlags x))

theorem all_legal_iff (t : Thread) (dsts : List Grp) (srcs : List Src) :
    (dsts ++ srcs.filterMap Src.grp).all (·.legal t.count) = true ↔ t.GroupsLegal dsts srcs := by
  simp only [Thread.GroupsLegal, List.all_eq_true, Grp.legal, Bool.and_eq_true, beq_iff_eq, decide_eq_true_eq]
  exact forall₂_congr fun g _ => and_comm

theorem any_upFrom_iff (p : Nat → Bool) (a n : Nat) : (upFrom a n).any p = true ↔ ∃ j < n, p (a + j) = true := by
  simp only [List.any_eq_true, mem_upFrom]
  constructor
  · rintro ⟨x, ⟨hle, hlt⟩, hx⟩
    exact ⟨x - a, by omega, by rwa [Nat.add_sub_cancel' hle]⟩
  · rintro ⟨j, hj, hx⟩
    exact ⟨a + j, ⟨by omega, by omega⟩, hx⟩

theorem any_expired_iff (t : Thread) (srcs : List Src) :
    ((srcs.filterMap Src.grp).any fun g => (upFrom g.base g.len).any fun n => (t.reg n).life == .expired) = true ↔ t.ReadsExpired srcs := by
  simp only [List.any_eq_true (l := srcs.filterMap Src.grp), any_upFrom_iff, beq_iff_eq, Thread.ReadsExpired]

theorem any_mismatch_iff (t : Thread) (srcs : List Src) :
    ((srcs.map (Src.ports t)).any (·.any Port.isMismatch)) = true ↔ t.PortsClash srcs := by
  simp only [List.any_map, List.any_eq_true, Function.comp, Thread.PortsClash]

/-- The four questions of a fetch, in their order, and its answer. -/
theorem Thread.fetch_eq (t : Thread) (dsts : List Grp) (srcs : List Src) [Decidable (t.GroupsLegal dsts srcs)] [Decidable (t.ReadsExpired srcs)]
    [Decidable (t.PortsClash srcs)] : t.fetch dsts srcs =
      if ¬t.GroupsLegal dsts srcs then .error (.trap .illegalRegister 0 0 0)
      else if t.ReadsExpired srcs then .error (.trap .transientExpired 0 0 0)
      else if t.PortsClash srcs then .error (.trap .tagMismatch 0 0 0)
      else match (srcs.map t.portFlags).find? fun fs => t.enabled (orAll fs) != 0 with
        | some fs => .error (.trap .fpException 0 (t.fpInfo (t.allPortFlags srcs) fs) (t.allPortFlags srcs))
        | none => .ok { t := t.merge (t.allPortFlags srcs), fl := t.allPortFlags srcs, ops := srcs.map fun x => (x.ports t).map Port.get } := by
  have hl : ((!(dsts ++ srcs.filterMap Src.grp).all (·.legal t.count)) = true) = ¬t.GroupsLegal dsts srcs := by
    rw [Bool.not_eq_true', ← Bool.not_eq_true, all_legal_iff]
  simp only [Thread.fetch, fail, hl, any_expired_iff, any_mismatch_iff, List.map_map]
  rfl

section
variable {t : Thread} {dsts : List Grp} {srcs : List Src}

theorem Thread.fetch_illegal (h : ¬t.GroupsLegal dsts srcs) : t.fetch dsts srcs = .error (.trap .illegalRegister 0 0 0) := by
  classical rw [t.fetch_eq, if_pos h]

theorem Thread.fetch_expired (h : t.GroupsLegal dsts srcs) (he : t.ReadsExpired srcs) :
    t.fetch dsts srcs = .error (.trap .transientExpired 0 0 0) := by
  classical rw [t.fetch_eq, if_neg (not_not_intro h), if_pos he]

theorem Thread.fetch_clash (h : t.GroupsLegal dsts srcs) (he : ¬t.ReadsExpired srcs) (hc : t.PortsClash srcs) :
    t.fetch dsts srcs = .error (.trap .tagMismatch 0 0 0) := by
  classical rw [t.fetch_eq, if_neg (not_not_intro h), if_neg he, if_pos hc]

/-- The first operand whose conversions raise an enabled flag is the one that FP_EXCEPTION shows. -/
theorem Thread.fetch_exception {before after : List Src} {x : Src} (h : t.GroupsLegal dsts srcs) (he : ¬t.ReadsExpired srcs)
    (hc : ¬t.PortsClash srcs) (hs : srcs = before ++ x :: after) (hb : ∀ y ∈ before, t.enabled (orAll (t.portFlags y)) = 0)
    (hx : t.enabled (orAll (t.portFlags x)) ≠ 0) :
    t.fetch dsts srcs = .error (.trap .fpException 0 (t.fpInfo (t.allPortFlags srcs) (t.portFlags x)) (t.allPortFlags srcs)) := by
  have hf : ((srcs.map t.portFlags).find? fun fs => t.enabled (orAll fs) != 0) = some (t.portFlags x) := by
    have hnone : ((before.map t.portFlags).find? fun fs => t.enabled (orAll fs) != 0) = none := by
      simpa [List.find?_eq_none] using hb
    rw [hs, List.map_append, List.find?_append, hnone, List.map_cons, List.find?_cons_of_pos (by simpa using hx)]
    rfl
  classical rw [t.fetch_eq, if_neg (not_not_intro h), if_neg he, if_neg hc, hf]

theorem Thread.fetch_reads (h : t.GroupsLegal dsts srcs) (he : ¬t.ReadsExpired srcs) (hc : ¬t.PortsClash srcs)
    (hq : ∀ y ∈ srcs, t.enabled (orAll (t.portFlags y)) = 0) : t.fetch dsts srcs =
      .ok { t := t.merge (t.allPortFlags srcs), fl := t.allPortFlags srcs, ops := srcs.map fun x => (x.ports t).map Port.get } := by
  have hf : ((srcs.map t.portFlags).find? fun fs => t.enabled (orAll fs) != 0) = none := by
    simpa [List.find?_eq_none] using hq
  classical rw [t.fetch_eq, if_neg (not_not_intro h), if_neg he, if_neg hc, hf]

/-- What a fetch that answers has found. -/
theorem Thread.fetch_ok {x : Fetched} (hx : t.fetch dsts srcs = .ok x) : t.GroupsLegal dsts srcs ∧ ¬t.ReadsExpired srcs ∧ ¬t.PortsClash srcs ∧
    x = { t := t.merge (t.allPortFlags srcs), fl := t.allPortFlags srcs, ops := srcs.map fun x => (x.ports t).map Port.get } := by
  classical
  rw [t.fetch_eq] at hx
  split_ifs at hx with h he hc
  split at hx
  · cases hx
  · exact ⟨h, he, hc, (Except.ok.inj hx).symm⟩

end

theorem portRead_of_accepted (strict : Bool) {want : List Tag} {r : Reg} (h : want = [] ∨ r.tag ∈ want) : portRead strict want r = .take r := by
  cases want with
  | nil => rfl
  | cons e es => simp [portRead, h.resolve_left (List.cons_ne_nil e es)]

/-- A port that takes every tag of a group gives the group's registers as they are. -/
theorem ports_get_of_accepted (t : Thread) (b l al : Nat) (want : List Tag) (h : ∀ j < l, want = [] ∨ (t.reg (b + j)).tag ∈ want) :
    ((Src.regs b l al want).ports t).map Port.get = (upFrom b l).map t.reg := by
  simp only [Src.ports, List.map_map]
  refine List.map_congr_left fun n hn => ?_
  obtain ⟨hle, hlt⟩ := (mem_upFrom b l n).mp hn
  have hacc := h (n - b) (by omega)
  rw [Nat.add_sub_cancel' hle] at hacc
  rw [Function.comp, portRead_of_accepted _ hacc]
  rfl

/-- Settles O57: R342's questions in their order, and what the fetch that passes them gives. -/
theorem operandsRead : Obligations.OperandsRead := by
  unfold Obligations.OperandsRead
  intro t dsts srcs
  refine ⟨Thread.fetch_illegal, Thread.fetch_expired, Thread.fetch_clash, ⟨?_, ?_⟩, ?_⟩
  · intro before x after h he hc hs hb hx
    exact Thread.fetch_exception h he hc hs hb hx
  · intro h he hc hq
    exact ⟨_, Thread.fetch_reads h he hc hq, rfl⟩
  · intro x hx
    obtain ⟨h, he, hc, rfl⟩ := Thread.fetch_ok hx
    refine ⟨h, he, hc, rfl, rfl, List.length_map _, fun n b l al want hn hacc => ?_⟩
    rw [List.getElem?_map, hn, Option.map_some, ports_get_of_accepted t b l al want hacc]

end Sys2Proof.Machine

namespace Sys2Proof.Machine

/-! ## What the integer words leave unchanged (O59; 02_encoding.md R29, R53, R54; 04_integer.md R92)

`Thread.Keeps` says what a thread keeps of what it was. Every operation on a thread that such a word goes through keeps it: reading operands, writing the
destination, completing, a trap and what a halt undoes. `State.Beside` says the same of all that stands beside the thread. -/

/-- What u keeps of t: values and tags of all registers but the n from x[d], the predicates, flags, stack, rounding mode, pins and what is outstanding;
sr.carry where `c` asks for it. -/
structure Thread.Keeps (d n : Nat) (c : Prop) (t u : Thread) : Prop where
  reg : ∀ r, r < d ∨ d + n ≤ r → (u.reg r).val = (t.reg r).val ∧ (u.reg r).tag = (t.reg r).tag
  len : u.regs.length = t.regs.length
  carry : c → u.carry = t.carry
  preds : u.preds = t.preds
  flags : u.flags = t.flags
  rsp : u.rsp = t.rsp
  rsl : u.rsl = t.rsl
  fmode : u.fmode = t.fmode
  pin0 : u.pin0 = t.pin0
  pin1 : u.pin1 = t.pin1
  loads : u.loads = t.loads
  stores : u.stores = t.stores
  owed : u.owed = t.owed

section
variable {d n : Nat} {c : Prop} {t u v : Thread}

theorem Thread.Keeps.refl (t : Thread) : t.Keeps d n c t :=
  ⟨fun _ _ => ⟨rfl, rfl⟩, rfl, fun _ => rfl, rfl, rfl, rfl, rfl, rfl, rfl, rfl, rfl, rfl, rfl⟩

theorem Thread.Keeps.trans (h : t.Keeps d n c u) (h' : u.Keeps d n c v) : t.Keeps d n c v where
  reg r hr := ⟨(h'.reg r hr).1.trans (h.reg r hr).1, (h'.reg r hr).2.trans (h.reg r hr).2⟩
  len := h'.len.trans h.len
  carry hc := (h'.carry hc).trans (h.carry hc)
  preds := h'.preds.trans h.preds
  flags := h'.flags.trans h.flags
  rsp := h'.rsp.trans h.rsp
  rsl := h'.rsl.trans h.rsl
  fmode := h'.fmode.trans h.fmode
  pin0 := h'.pin0.trans h.pin0
  pin1 := h'.pin1.trans h.pin1
  loads := h'.loads.trans h.loads
  stores := h'.stores.trans h.stores
  owed := h'.owed.trans h.owed

theorem Thread.keeps_merge (t : Thread) (fl : Nat) : t.Keeps d n c (t.merge fl) :=
  ⟨fun _ _ => ⟨rfl, rfl⟩, rfl, fun _ => rfl, rfl, rfl, rfl, rfl, rfl, rfl, rfl, rfl, rfl, rfl⟩

theorem Thread.keeps_advance (t : Thread) : t.Keeps d n c t.advance :=
  ⟨fun _ _ => ⟨rfl, rfl⟩, rfl, fun _ => rfl, rfl, rfl, rfl, rfl, rfl, rfl, rfl, rfl, rfl, rfl⟩

theorem Thread.keeps_undoEntry (t : Thread) (now : DWord) : t.Keeps d n c (t.undoEntry now) := by
  unfold Thread.undoEntry
  split
  · exact .refl t
  · split
    · exact .refl t
    · exact ⟨fun _ _ => ⟨rfl, rfl⟩, rfl, fun _ => rfl, rfl, rfl, rfl, rfl, rfl, rfl, rfl, rfl, rfl, rfl⟩

/-- The windows of transient results change a register's life alone (R145). -/
theorem Reg.tick_val_tag (b : Bool) (r : Reg) : (r.tick b).val = r.val ∧ (r.tick b).tag = r.tag := by
  unfold Reg.tick
  split
  · exact ⟨rfl, rfl⟩
  · split_ifs <;> exact ⟨rfl, rfl⟩
  · exact ⟨rfl, rfl⟩

theorem Thread.keeps_complete (t : Thread) (now : DWord) (h : HintLatch) (b : Bool) : t.Keeps d n c (t.complete now h b) where
  reg r _ := by
    have hr : (t.complete now h b).reg r = if r < t.regs.length then (t.reg r).tick b else {} := by
      simp only [Thread.reg, Thread.complete, nth, List.getD_eq_getElem?_getD, List.getElem?_map]
      split <;> simp_all
    rw [hr]
    split
    · exact Reg.tick_val_tag b _
    case isFalse hlt => simp [Thread.reg, nth, hlt]
  len := List.length_map _
  carry _ := rfl
  preds := rfl
  flags := rfl
  rsp := rfl
  rsl := rfl
  fmode := rfl
  pin0 := rfl
  pin1 := rfl
  loads := rfl
  stores := rfl
  owed := rfl

/-- A write of a register of the destination. -/
theorem Thread.keeps_setReg (t : Thread) {r : Nat} (hr : d ≤ r) (hn : r < d + n) (v : Word) (g : Tag) : t.Keeps d n c (t.setReg r v g) where
  reg q hq := by
    have hne : (t.setReg r v g).reg q = t.reg q := nth_updateAt_of_ne _ _ _ (by omega)
    rw [hne]
    exact ⟨rfl, rfl⟩
  len := length_updateAt ..
  carry _ := rfl
  preds := rfl
  flags := rfl
  rsp := rfl
  rsl := rfl
  fmode := rfl
  pin0 := rfl
  pin1 := rfl
  loads := rfl
  stores := rfl
  owed := rfl

theorem Thread.keeps_setRegs (vs : List Word) (g : Tag) {r : Nat} (t : Thread) (hr : d ≤ r) (hn : r + vs.length ≤ d + n) :
    t.Keeps d n c (t.setRegs r vs g) := by
  induction vs generalizing t r with
  | nil => exact .refl t
  | cons v vs ih =>
    rw [List.length_cons] at hn
    exact (t.keeps_setReg hr (by omega) v g).trans (ih _ (by omega) (by omega))

theorem length_toWords (v w : Nat) : (toWords v w).length = w := by
  induction w generalizing v with
  | zero => rfl
  | succ w ih => rw [toWords, List.length_cons, ih]

theorem Thread.keeps_setWide (t : Thread) (d w v : Nat) (g : Tag) : t.Keeps d w c (t.setWide d w v g) :=
  t.keeps_setRegs _ g le_rfl (by rw [length_toWords])

/-- A sum writes sr.carry beside its destination. -/
theorem Thread.keeps_carry (t : Thread) (hc : ¬c) (x : Word) : t.Keeps d n c { t with carry := x } :=
  ⟨fun _ _ => ⟨rfl, rfl⟩, rfl, fun h => (hc h).elim, rfl, rfl, rfl, rfl, rfl, rfl, rfl, rfl, rfl, rfl⟩

end

/-! ### Bodies of words -/

/-- A stop that is a trap of the instruction as it began. -/
def Stop.IsTrap : Stop → Prop
  | .trap _ _ _ _ => True
  | _ => False

/-- A body changes its thread as `Thread.Keeps` lets it, and stops by a trap alone. -/
def BodyKeeps (d n : Nat) (c : Prop) (body : Thread → Except Stop Thread) : Prop := ∀ t, Ends Stop.IsTrap (t.Keeps d n c) (body t)

theorem ends_fetch_isTrap {t : Thread} {dsts : List Grp} {srcs : List Src} {P : Fetched → Prop} (h : ∀ x, x.t = t.merge x.fl → P x) :
    Ends Stop.IsTrap P (t.fetch dsts srcs) := by
  have hs : Stops Stop.IsTrap (t.fetch dsts srcs) := by
    rw [stops_iff]
    unfold Thread.fetch
    dsimp only
    split_ifs
    · trivial
    · trivial
    · trivial
    · split <;> trivial
  exact (ends_of_stops hs).2 fun x hx => h x (Thread.fetch_t hx)

theorem keeps_of_fetched {d n : Nat} {c : Prop} {t : Thread} {x : Fetched} (hx : x.t = t.merge x.fl) : t.Keeps d n c x.t :=
  hx ▸ t.keeps_merge x.fl

/-- A body that reads its operands and writes one register. -/
theorem bodyKeeps_setReg {c : Prop} {dsts : Thread → List Grp} {srcs : Thread → List Src} (d : Nat) (v : Thread → Fetched → Word)
    (g : Thread → Fetched → Tag) : BodyKeeps d 1 c fun t => (t.fetch (dsts t) (srcs t)).map fun x => x.t.setReg d (v t x) (g t x) := fun _ =>
  (ends_map ..).2 <| ends_fetch_isTrap fun x hx => (keeps_of_fetched hx).trans (x.t.keeps_setReg le_rfl (by omega) _ _)

/-- A body that reads its operands and writes consecutive registers. -/
theorem bodyKeeps_setWide {c : Prop} {dsts : Thread → List Grp} {srcs : Thread → List Src} (d n : Nat) (v : Thread → Fetched → Nat)
    (g : Tag) : BodyKeeps d n c fun t => (t.fetch (dsts t) (srcs t)).map fun x => x.t.setWide d n (v t x) g := fun _ =>
  (ends_map ..).2 <| ends_fetch_isTrap fun x hx => (keeps_of_fetched hx).trans (x.t.keeps_setWide d n _ g)

/-- A sum of R94, which writes sr.carry too. -/
theorem bodyKeeps_addBody {c : Prop} (hc : ¬c) (d a : RegField) (src : Thread → Src) (f : Thread → Nat → Nat → Int → Int → Int × Int × Bool) :
    BodyKeeps d.toNat 1 c fun t => addBody d (src t) a (f t) t := fun _ =>
  (ends_map ..).2 <| ends_fetch_isTrap fun x hx =>
    (keeps_of_fetched hx).trans ((x.t.keeps_setReg le_rfl (by omega) _ _).trans (Thread.keeps_carry _ hc _))

/-! ### The state of the thread that executes -/

/-- What a word of thread k leaves of the state beside it. -/
structure State.Beside (s t : State) (k : Nat) : Prop where
  threads : ∀ j ≠ k, t.thread j = s.thread j ∨ t.thread j = (s.thread j).undoEntry s.clock
  mem : t.mem = s.mem
  troupes : t.troupes = s.troupes
  ensembles : t.ensembles = s.ensembles
  launches : t.launches = s.launches
  queues : t.queues = s.queues
  cores : t.cores = s.cores
  copies : t.copies = s.copies
  rigger : t.rigger = s.rigger
  structs : t.structs = s.structs
  passes : t.passes = s.passes
  tlb : t.tlb = s.tlb
  link : t.link = s.link
  gaffer : t.gaffer = s.gaffer
  clock : t.clock = s.clock

section
variable {d n : Nat} {c : Prop}

/-- A trap keeps of its own thread what `Thread.Keeps` names. -/
theorem State.keeps_takeTrap (s : State) (k : Nat) (e : Cause) (p a i : DWord) : (s.thread k).Keeps d n c ((s.takeTrap k e p a i).thread k) := by
  cases hw : s.whoOf k with
  | none =>
    have h : s.takeTrap k e p a i = s := by simp only [State.takeTrap, hw]
    rw [h]
    exact .refl _
  | some w =>
    obtain ⟨hk, -⟩ := s.whoOf_eq k w hw
    have ht := s.thread_of_whoOf k w hw
    have hlt := s.lt_of_whoOf k w hw
    rw [hk] at ht hlt
    have same (st : Status) : w.t.Keeps d n c { w.t with armStep := false, armSkip := false, status := st } :=
      ⟨fun _ _ => ⟨rfl, rfl⟩, rfl, fun _ => rfl, rfl, rfl, rfl, rfl, rfl, rfl, rfl, rfl, rfl, rfl⟩
    simp only [State.takeTrap, hw, ht]
    split_ifs
    · rw [State.trapHalts, State.raiseHalt_thread, State.thread_setThread _ _ _ hlt]
      split
      · exact (same _).trans (Thread.keeps_undoEntry _ _)
      · exact same _
    · rw [State.thread_setThread _ _ _ hlt]
      exact ⟨fun _ _ => ⟨rfl, rfl⟩, rfl, fun _ => rfl, rfl, rfl, rfl, rfl, rfl, rfl, rfl, rfl, rfl, rfl⟩
    · rw [State.thread_setThread _ _ _ hlt]
      exact same _

theorem State.keeps_retire (s : State) {k : Nat} (hk : k < s.threads.length) (t0 : Thread) :
    (s.thread k).Keeps d n c ((s.retire k t0).thread k) := by
  have h : (s.thread k).Keeps d n c
      (((s.updThread k Thread.advance).updThread k fun t => t.complete s.clock t0.hints t0.inHandler).thread k) := by
    rw [State.thread_updThread _ _ _ (by simpa using hk), State.thread_updThread _ _ _ hk]
    exact (Thread.keeps_advance _).trans (Thread.keeps_complete _ _ _ _)
  simp only [State.retire, State.finish]
  split
  · exact h.trans (State.keeps_takeTrap _ _ _ _ _ _)
  · exact h

theorem State.beside_retire (s : State) (k : Nat) (t0 : Thread) : s.Beside (s.retire k t0) k := by
  constructor <;> try simp
  exact fun j hj => s.retire_thread_ne t0 (Ne.symm hj)

theorem State.beside_setThread_retire (s : State) (k : Nat) (t t0 : Thread) : s.Beside ((s.setThread k t).retire k t0) k := by
  constructor <;> try simp
  intro j hj
  simpa [s.thread_setThread_ne t (Ne.symm hj)] using (s.setThread k t).retire_thread_ne t0 (Ne.symm hj)

theorem State.beside_updThread_takeTrap (s : State) (k : Nat) (f : Thread → Thread) (e : Cause) (p a i : DWord) :
    s.Beside ((s.updThread k f).takeTrap k e p a i) k := by
  constructor <;> try simp
  intro j hj
  simpa [s.thread_updThread_ne f (Ne.symm hj)] using (s.updThread k f).takeTrap_thread_ne e p a i (Ne.symm hj)

/-- A word of one thread, whether it completes, traps or passes under a false guard. -/
theorem runThread_keeps {s t : State} {w : Who} {g : PredField} {body : Thread → Except Stop Thread} (hb : BodyKeeps d n c body)
    (hw : s.whoOf s.cur = some w) (h : runThread s g body = .next t) : w.t.Keeps d n c (t.thread w.k) ∧ s.Beside t w.k := by
  have ht := s.thread_of_whoOf _ _ hw
  have hk := s.lt_of_whoOf _ _ hw
  cases hg : w.t.guard g with
  | false =>
    obtain rfl : s.retire w.k w.t = t := Host.Outcome.next.inj ((runThread_false hw hg).symm.trans h)
    have hu := s.keeps_retire (d := d) (n := n) (c := c) hk w.t
    exact ⟨by rwa [ht] at hu, s.beside_retire w.k w.t⟩
  | true =>
    have he := hb w.t
    cases hx : body w.t with
    | ok u =>
      obtain rfl : (s.setThread w.k u).retire w.k w.t = t := Host.Outcome.next.inj ((runThread_ok ⟨hw, hg⟩ hx).symm.trans h)
      have hu := State.keeps_retire (d := d) (n := n) (c := c) (s.setThread w.k u) (by simpa using hk) w.t
      rw [State.thread_setThread _ _ _ hk] at hu
      exact ⟨(he.ok hx).trans hu, s.beside_setThread_retire w.k u w.t⟩
    | error e =>
      obtain rfl : s.stopped w e = t := Host.Outcome.next.inj ((runThread_error ⟨hw, hg⟩ hx).symm.trans h)
      have htrap := he.error hx
      cases e with
      | trap cause a i fl =>
        have hu := State.keeps_takeTrap (d := d) (n := n) (c := c) (s.updThread w.k fun t => t.merge fl) w.k cause w.t.pc a i
        rw [State.thread_updThread _ _ _ hk, ht] at hu
        exact ⟨(w.t.keeps_merge fl).trans hu, s.beside_updThread_takeTrap w.k _ cause w.t.pc a i⟩
      | trapIn | park | hold => exact htrap.elim

end

/-! ### The integer words -/

/-- The words of O59, each with the number of registers of its destination. -/
def frameWords (d a b : RegField) (i9 : BitVec 9) (i16 : BitVec 16) (g : PredField) : List (Instr × Nat) :=
  [(.iadd d a b g, 1), (.isub d a b g, 1), (.iadc d a b g, 1), (.iaddi d a i9 g, 1), (.imul d a b g, 1), (.imulh d a b g, 1), (.imad d a b g, 1),
    (.imadw d a b g, 2), (.lea d a b g, 2), (.imin d a b g, 1), (.iminN d a b g, 1), (.imax d a b g, 1), (.imaxN d a b g, 1), (.and d a b g, 1),
    (.or d a b g, 1), (.xor d a b g, 1), (.andn d a b g, 1), (.andi d a i9 g, 1), (.ori d a i9 g, 1), (.shl d a b g, 1), (.shr d a b g, 1),
    (.sar d a b g, 1), (.rot d a b g, 1), (.bfx d a b g, 1), (.bfxS d a b g, 1), (.bfi d a b g, 1), (.sel d a b g, 1), (.movi d i16 g, 1),
    (.mov d a g, 1), (.iabs d a g, 1), (.ineg d a g, 1), (.not d a g, 1), (.popc d a g, 1), (.clz d a g, 1), (.brev d a g, 1), (.ptox d g, 1)]

/-- The words of R92 that write sr.carry. -/
def carryWords (d a b : RegField) (i9 : BitVec 9) (g : PredField) : List Instr :=
  [.iadd d a b g, .isub d a b g, .iadc d a b g, .iaddi d a i9 g]

/-- Each of the words runs a body that keeps all but its destination, and sr.carry unless it is a sum. -/
theorem frameWords_keep {d a b : RegField} {i9 : BitVec 9} {i16 : BitVec 16} {g : PredField} {i : Instr} {n : Nat}
    (hi : (i, n) ∈ frameWords d a b i9 i16 g) :
    ∃ body, (∀ s, exec i s = runThread s g body) ∧ BodyKeeps d.toNat n (i ∉ carryWords d a b i9 g) body := by
  simp only [frameWords, List.mem_cons, Prod.mk.injEq, List.not_mem_nil, or_false] at hi
  rcases hi with ⟨rfl, rfl⟩ | ⟨rfl, rfl⟩ | ⟨rfl, rfl⟩ | ⟨rfl, rfl⟩ | hi
  · exact ⟨_, fun _ => by rw [exec, execIadd], bodyKeeps_addBody (by simp [carryWords]) d a _ _⟩
  · exact ⟨_, fun _ => by rw [exec, execIsub], bodyKeeps_addBody (by simp [carryWords]) d a _ _⟩
  · exact ⟨_, fun _ => by rw [exec, execIadc], bodyKeeps_addBody (by simp [carryWords]) d a _ _⟩
  · exact ⟨_, fun _ => by rw [exec, execIaddi], bodyKeeps_addBody (by simp [carryWords]) d a _ _⟩
  rcases hi with ⟨rfl, rfl⟩ | ⟨rfl, rfl⟩ | ⟨rfl, rfl⟩ | ⟨rfl, rfl⟩ | ⟨rfl, rfl⟩ | hi
  iterate 2 exact ⟨_, fun _ => rfl, bodyKeeps_setReg _ _ _⟩
  · exact ⟨_, fun _ => by rw [exec, execImad], bodyKeeps_setReg _ _ _⟩
  · exact ⟨_, fun _ => by rw [exec, execImadw], bodyKeeps_setWide _ _ _ _⟩
  · exact ⟨_, fun _ => by rw [exec, execLea], bodyKeeps_setWide _ _ _ _⟩
  rcases hi with ⟨rfl, rfl⟩ | ⟨rfl, rfl⟩ | ⟨rfl, rfl⟩ | ⟨rfl, rfl⟩ | ⟨rfl, rfl⟩ | ⟨rfl, rfl⟩ | ⟨rfl, rfl⟩ | ⟨rfl, rfl⟩ | hi
  iterate 8 exact ⟨_, fun _ => rfl, bodyKeeps_setReg _ _ _⟩
  rcases hi with ⟨rfl, rfl⟩ | ⟨rfl, rfl⟩ | hi
  · exact ⟨_, fun _ => by rw [exec, execAndi]; rfl, bodyKeeps_setReg _ _ _⟩
  · exact ⟨_, fun _ => by rw [exec, execOri]; rfl, bodyKeeps_setReg _ _ _⟩
  rcases hi with ⟨rfl, rfl⟩ | ⟨rfl, rfl⟩ | ⟨rfl, rfl⟩ | ⟨rfl, rfl⟩ | ⟨rfl, rfl⟩ | ⟨rfl, rfl⟩ | hi
  iterate 6 exact ⟨_, fun _ => rfl, bodyKeeps_setReg _ _ _⟩
  rcases hi with ⟨rfl, rfl⟩ | ⟨rfl, rfl⟩ | ⟨rfl, rfl⟩ | hi
  · exact ⟨_, fun _ => by rw [exec, execBfi], bodyKeeps_setReg _ _ _⟩
  · exact ⟨_, fun _ => by rw [exec, execSel], bodyKeeps_setReg _ _ _⟩
  · exact ⟨_, fun _ => by rw [exec, execMovi], bodyKeeps_setReg _ _ _⟩
  rcases hi with ⟨rfl, rfl⟩ | ⟨rfl, rfl⟩ | ⟨rfl, rfl⟩ | ⟨rfl, rfl⟩ | ⟨rfl, rfl⟩ | ⟨rfl, rfl⟩ | ⟨rfl, rfl⟩ | ⟨rfl, rfl⟩
  iterate 7 exact ⟨_, fun _ => rfl, bodyKeeps_setReg _ _ _⟩
  · exact ⟨_, fun _ => by rw [exec, execPtox], bodyKeeps_setReg _ _ _⟩

/-- Settles O59: each word runs a body of its thread that keeps all but its destination. -/
theorem threadWordFrame : Obligations.ThreadWordFrame := by
  unfold Obligations.ThreadWordFrame
  intro s w g d a b i9 i16 i n hw hi
  obtain ⟨body, hexec, hbody⟩ := frameWords_keep hi
  rw [hexec]
  refine ⟨runThread_false hw, fun t h => ?_⟩
  obtain ⟨ku, bs⟩ := runThread_keeps hbody hw h
  exact ⟨ku.reg, ku.len, ku.carry, ku.preds, ku.flags, ku.rsp, ku.rsl, ku.fmode, ku.pin0, ku.pin1, ku.loads, ku.stores, ku.owed, bs.threads, bs.mem,
    bs.troupes, bs.ensembles, bs.launches, bs.queues, bs.cores, bs.copies, bs.rigger, bs.structs, bs.passes, bs.tlb, bs.link, bs.gaffer, bs.clock⟩

end Sys2Proof.Machine

/-! ## O56: a step runs the instruction that the word at the PC decodes to (R26, R33, R41) -/

namespace Sys2Proof.Machine

theorem State.thread_of_getElem? {s : State} {k : Nat} {t : Thread} (h : s.threads[k]? = some t) : s.thread k = t := by
  simp [State.thread, nth, List.getD_eq_getElem?_getD, h]

/-- Only what a function does to the thread itself counts. -/
theorem State.updThread_congr {s : State} {k : Nat} {f g : Thread → Thread} (h : f (s.thread k) = g (s.thread k)) : s.updThread k f = s.updThread k g := by
  have hl : updateAt s.threads k f = updateAt s.threads k g := by
    refine List.ext_getElem? fun j => ?_
    rw [getElem?_updateAt, getElem?_updateAt]
    split
    · next hj =>
      subst hj
      cases ht : s.threads[k]? with
      | none => rfl
      | some t =>
        rw [State.thread_of_getElem? ht] at h
        simp [h]
    · rfl
  simp only [State.updThread, hl]

@[simp] theorem State.takeSlot_thread (s : State) (w : Who) (σ : Slot) (k : Nat) : (s.takeSlot w σ).thread k = s.thread k := rfl

theorem State.regroupHolds_of_none {s : State} {k : Nat} {t : Thread} (h : t.regroup = none) : s.regroupHolds k t = false := by
  simp only [State.regroupHolds, h]

/-! ### A turn of the device -/

theorem step_of_turn {s s0 : State} {x : Turn} (h : s.nextTurn = (x, s0)) : step s = (s0.passTime x).perform exec x.act := by
  simp only [step, State.takeTurn, h]

theorem perform_event {i : Instr} (hi : isEvent i = true) (hne : i ≠ .illegalOpcode) (run : Instr → State → Outcome) (s : State) :
    s.perform run (.event i) = run i s := by
  simp [State.perform, hi, hne]

/-- A thread that may issue, stands at no regroup point and is in no fragment issues in its slot. -/
theorem perform_issue {s : State} {k : Nat} {w : Who} (run : Instr → State → Outcome) (hw : s.whoOf k = some w) (hmay : s.mayIssue w = true)
    (hre : w.t.regroup = none) (hpk : pkCompat w.e.packet = false) (hfree : s.slotFree w (s.issueSlot w) = true) :
    s.perform run (.issue k) = (s.takeSlot w (s.issueSlot w)).issueOne run w := by
  simp [State.perform, State.issue, hw, hmay, s.regroupHolds_of_none hre, hpk, hfree]

/-! ### One thread's turn -/

/-- A thread whose turn has begun: it has not left its place, and a ready one is behind no other of a bundle. -/
def Thread.turned (t : Thread) : Thread := { t with leaving := false, ahead := if t.status = .ready then [] else t.ahead }

/-- The begin of a turn at no regroup point. -/
theorem updThread_turned {s : State} {w : Who} {f : Thread → Thread} (ht : s.thread w.k = w.t) (hf : f w.t = w.t.turned) :
    s.updThread w.k f = s.updThread w.k Thread.turned :=
  State.updThread_congr (by rw [ht, hf])

theorem waitsAt_of_ready {t : Thread} (h : t.status = .ready) : t.waitsAt = false := by simp only [Thread.waitsAt, h]

/-- At no regroup point, a ready thread issues its next word. -/
theorem issueOne_ready {s : State} {w : Who} (run : Instr → State → Outcome) (ht : s.thread w.k = w.t) (hre : w.t.regroup = none)
    (hready : w.t.status = .ready) : s.issueOne run w = (s.updThread w.k Thread.turned).issueWord run w := by
  simp only [State.issueOne, waitsAt_of_ready hready]
  rw [updThread_turned ht (by simp only [hre, Thread.turned])]

/-- At no regroup point, a thread executes again the instruction that it waits at, where the grid does not hold it. -/
theorem issueOne_waits {s : State} {w : Who} {i : Instr} (run : Instr → State → Outcome) (ht : s.thread w.k = w.t) (hre : w.t.regroup = none)
    (hwait : w.t.waitsAt = true) (hissued : w.t.issued = some i) (hv : w.e.grid.on = false ∨ (encode i).map slotOf ≠ some .v) :
    s.issueOne run w = (s.updThread w.k Thread.turned).runInstr run w i := by
  have hgo : (w.e.grid.on && (encode i).map slotOf == some .v) = false := by
    rcases hv with h | h <;> simp [h]
  simp only [State.issueOne, hwait, hissued, hgo, Bool.false_eq_true, if_false]
  rw [updThread_turned ht (by simp only [hre, Thread.turned])]

/-- A unit with neither breakpoint, decode cause nor park of slot V against it runs the instruction of its first word. -/
theorem runUnit_runs {s : State} {w : Who} {n : Nat} {more : List (DWord × Nat)} {i : Instr} (run : Instr → State → Outcome) (hdec : decodeWord n = .ok i)
    (hbp : isHint n = true ∨ isHeader n = true ∨ w.breakpoint w.t.pc = none)
    (hcause : if w.t.clause.left = 0 then headerCause w.t.pc ((w.t.pc, n) :: more) = none
      else unitCause w.t.hints w.t.pc w.t.clause.fa w.t.clause.fb w.t.clause.left ((w.t.pc, n) :: more) = none)
    (hv : w.e.grid.on = false ∨ ∀ x ∈ (w.t.pc, n) :: more, isHint x.2 = true ∨ slotOf x.2 ≠ .v) :
    s.runUnit run w ((w.t.pc, n) :: more) = s.runInstr run w i := by
  have hhit : (!isHint n && !isHeader n && (w.breakpoint w.t.pc).isSome) = false := by
    rcases hbp with h | h | h <;> simp [h]
  have hc : (if w.t.clause.left = 0 then headerCause w.t.pc ((w.t.pc, n) :: more)
      else unitCause w.t.hints w.t.pc w.t.clause.fa w.t.clause.fb w.t.clause.left ((w.t.pc, n) :: more)) = none := by
    split_ifs at hcause ⊢ <;> exact hcause
  have hpark : (w.e.grid.on && ((w.t.pc, n) :: more).any fun x => !isHint x.2 && slotOf x.2 == .v) = false := by
    rcases hv with h | h
    · rw [h, Bool.false_and]
    · rw [Bool.and_eq_false_iff, List.any_eq_false]
      exact .inr fun x hx => by rcases h x hx with h | h <;> simp [h]
  simp only [State.runUnit, List.head?_cons, Option.map_some, Option.getD_some, hhit, hc, hdec, hpark, Bool.false_eq_true, if_false]

/-- A thread before the first word of a fetched unit: a hint there discards the latch that an ERET restored. -/
def Thread.freshFor (n : Nat) (t : Thread) : Thread := { t with got := [], hints := if t.resumed = true ∧ isHint n = true then {} else t.hints }

theorem issueWord_fetched {s s3 : State} {w : Who} {n : Nat} {more : List (DWord × Nat)} (run : Instr → State → Outcome)
    (h : s.unitAt w = .ok (s3, (w.t.pc, n) :: more)) :
    s.issueWord run w = (s3.updThread w.k (Thread.freshFor n)).runUnit run { w with t := w.t.freshFor n } ((w.t.pc, n) :: more) := by
  simp only [State.issueWord, h, List.head?_cons, Option.any_some, Bool.and_eq_true]
  rfl

/-- Settles O56: an event's turn is the event; a thread's turn runs the word that its fetch decodes to, or the instruction that it waits at. -/
theorem stepRunsDecoded : Obligations.StepRunsDecoded := by
  unfold Obligations.StepRunsDecoded
  intro s s0 x hx s1
  have hstep : step s = s1.perform exec x.act := step_of_turn hx
  refine ⟨fun i hact hi hne => by rw [hstep, hact, perform_event hi hne], fun k w i hact hw hmay hre hpk hfree => ?_⟩
  obtain ⟨hk, -⟩ := s1.whoOf_eq k w hw
  subst hk
  have ht : (s1.takeSlot w (s1.issueSlot w)).thread w.k = w.t := s1.thread_of_whoOf _ w hw
  rw [hact, perform_issue exec hw hmay hre hpk hfree] at hstep
  refine ⟨fun s3 n more hready hunit hdec hbp hcause hv => ?_, fun hwait hissued hv => ?_⟩
  · rw [hstep, issueOne_ready exec ht hre hready]
    exact (issueWord_fetched exec hunit).trans (runUnit_runs exec hdec hbp hcause hv)
  · rw [hstep]
    exact issueOne_waits exec ht hre hwait hissued hv

end Sys2Proof.Machine

/-! ## O47: obligations that are met, visibility points and copied granules (R37, R184 to R205, R225) -/

namespace Sys2Proof.Machine

/-! ### A byte of a unit -/

theorem testBit_putSlice (v lo n x j : Nat) :
    (putSlice v lo n x).testBit j = if lo ≤ j ∧ j < lo + n then x.testBit (j - lo) else v.testBit j := by
  have hlow : v % 2 ^ lo < 2 ^ lo := Nat.mod_lt _ (by positivity)
  have hmid : 2 ^ lo * (x % 2 ^ n) + v % 2 ^ lo < 2 ^ (lo + n) := by
    have hx : x % 2 ^ n + 1 ≤ 2 ^ n := Nat.mod_lt _ (by positivity)
    calc 2 ^ lo * (x % 2 ^ n) + v % 2 ^ lo < 2 ^ lo * (x % 2 ^ n + 1) := by rw [Nat.mul_succ]; omega
      _ ≤ 2 ^ (lo + n) := by rw [pow_add]; exact Nat.mul_le_mul_left _ hx
  have hput : putSlice v lo n x = 2 ^ (lo + n) * (v / 2 ^ (lo + n)) + (2 ^ lo * (x % 2 ^ n) + v % 2 ^ lo) := by
    rw [putSlice, Nat.mul_comm (v / _), Nat.mul_comm (x % _), Nat.add_assoc]
  rw [hput, Nat.testBit_two_pow_mul_add _ hmid, Nat.testBit_two_pow_mul_add _ hlow, Nat.testBit_div_two_pow, Nat.testBit_mod_two_pow, Nat.testBit_mod_two_pow]
  by_cases hlo : j < lo
  · simp [hlo, show j < lo + n by omega, show ¬(lo ≤ j) by omega]
  · by_cases hhi : j < lo + n
    · simp [hlo, hhi, show lo ≤ j by omega, show j - lo < n by omega]
    · simp [hhi, Nat.sub_add_cancel (not_lt.mp hhi)]

theorem getLsbD_unitByte (u : Unit64) (i k : Nat) (hk : k < 8) : (unitByte u i).getLsbD k = u.getLsbD (8 * i + k) := by
  rw [unitByte, BitVec.getLsbD_ofNat, Nat.testBit_div_two_pow, BitVec.testBit_toNat, Nat.add_comm]
  simp [hk]

/-- A byte written into a unit stands at its own place, and every other byte as before. -/
theorem unitByte_setUnitByte (u : Unit64) (v : Byte) {i j : Nat} (hi : i < 64) (hj : j < 64) :
    unitByte (setUnitByte u i v) j = if j = i then v else unitByte u j := by
  refine BitVec.eq_of_getLsbD_eq fun k hk => ?_
  rw [getLsbD_unitByte _ _ _ hk, setUnitByte, BitVec.getLsbD_ofNat, testBit_putSlice]
  by_cases h : j = i
  · subst h
    have hin : 8 * j ≤ 8 * j + k ∧ 8 * j + k < 8 * j + 8 := by omega
    simp [hin, BitVec.testBit_toNat]
    omega
  · have hout : ¬(8 * i ≤ 8 * j + k ∧ 8 * j + k < 8 * i + 8) := by omega
    rw [if_neg hout, if_neg h, getLsbD_unitByte _ _ _ hk, BitVec.testBit_toNat]
    simp
    omega

/-! ### The coherent view -/

/-- The view reads the L2's lines and memory alone. -/
theorem State.getPhys_congr {s u : State} (hl : u.link.lines = s.link.lines) (hm : u.mem = s.mem) (a : Nat) : u.getPhys a = s.getPhys a := by
  simp only [State.getPhys, State.l2, State.memByte, hl, hm]

/-- What a write of one byte makes of a line of the L2. -/
def L2Line.put (a : Nat) (v : Byte) (l : L2Line) : L2Line :=
  if l.unit == a / 64 && l.state != .i then
    { l with data := setUnitByte l.data (a % 64) v, state := .m, past := false, stored := BitVec.ofNat 4 (putSlice l.stored.toNat (a % 64 / 16) 1 1) }
  else l

theorem L2Line.holds_put (a u : Nat) (v : Byte) (l : L2Line) : ((l.put a v).unit == u && (l.put a v).state != .i) = (l.unit == u && l.state != .i) := by
  unfold L2Line.put
  split
  · next h =>
    rw [Bool.and_eq_true] at h
    simp [h.2]
  · rfl

theorem State.putPhys_of_miss {s : State} {a : Nat} (h : s.l2 (a / 64) = none) (v : Byte) : s.putPhys a v = s.setMemByte a v := by
  simp only [State.putPhys, h]

theorem State.putPhys_of_hit {s : State} {a : Nat} {l : L2Line} (h : s.l2 (a / 64) = some l) (v : Byte) :
    s.putPhys a v = { s with link := { s.link with lines := s.link.lines.map (L2Line.put a v) } } := by
  simp only [State.putPhys, h]
  rfl

/-- The lines after a write of a byte that the L2 holds. -/
theorem State.l2_putPhys_of_hit {s : State} {a : Nat} {l : L2Line} (h : s.l2 (a / 64) = some l) (v : Byte) (u : Nat) :
    (s.putPhys a v).l2 u = (s.l2 u).map (L2Line.put a v) := by
  rw [State.putPhys_of_hit h]
  simp only [State.l2, List.find?_map]
  congr 2
  exact funext fun l => L2Line.holds_put a u v l

theorem L2Line.unitByte_put {a b : Nat} {l : L2Line} (v : Byte) (hu : l.unit = b / 64) (hs : l.state ≠ .i) :
    unitByte (l.put a v).data (b % 64) = if b = a then v else unitByte l.data (b % 64) := by
  unfold L2Line.put
  by_cases h : b / 64 = a / 64
  · have hin : (l.unit == a / 64 && l.state != .i) = true := by simp [hu, h, hs]
    have hb : b % 64 = a % 64 ↔ b = a := by omega
    rw [if_pos hin, unitByte_setUnitByte _ _ (by omega) (by omega), if_congr hb rfl rfl]
  · have hout : ¬(l.unit == a / 64 && l.state != .i) = true := by simp [hu, h]
    rw [if_neg hout, if_neg (by rintro rfl; exact h rfl)]

/-- A read after a write, in the coherent view. -/
theorem State.getPhys_putPhys {s : State} (hm : Memory.wf s.mem = true) (a b : Nat) (v : Byte) :
    (s.putPhys a v).getPhys b = if b = a then v else s.getPhys b := by
  cases ha : s.l2 (a / 64) with
  | none =>
    rw [State.putPhys_of_miss ha]
    have hl : (s.setMemByte a v).l2 (b / 64) = s.l2 (b / 64) := rfl
    simp only [State.getPhys, hl, memByte_setMemByte s a b v hm]
    split
    · next l hb =>
      rw [if_neg]
      rintro rfl
      rw [ha] at hb
      cases hb
    · rfl
  | some l =>
    simp only [State.getPhys, State.l2_putPhys_of_hit ha]
    cases hb : s.l2 (b / 64) with
    | none =>
      have hmem : (s.putPhys a v).memByte b = s.memByte b := by rw [State.putPhys_of_hit ha]; rfl
      rw [if_neg (by rintro rfl; rw [ha] at hb; cases hb)]
      exact hmem
    | some l' =>
      have hl' := List.find?_some hb
      rw [Bool.and_eq_true, beq_iff_eq, bne_iff_ne] at hl'
      exact L2Line.unitByte_put v hl'.1 hl'.2

@[simp] theorem State.putPhys_threads (s : State) (a : Nat) (v : Byte) : (s.putPhys a v).threads = s.threads := by
  unfold State.putPhys
  split <;> rfl

@[simp] theorem State.putPhys_troupes (s : State) (a : Nat) (v : Byte) : (s.putPhys a v).troupes = s.troupes := by
  unfold State.putPhys
  split <;> rfl

/-! ### The bytes of a store -/

/-- A store's bytes written at their places, the first part of `State.performStore`. -/
def State.putBytes (s : State) (bytes : List StoreByte) : State := bytes.foldl (fun s b => s.putLoc b.loc (b.over (s.getLoc b.loc))) s

/-- Places of global memory. -/
def AllGlobal (bytes : List StoreByte) : Prop := ∀ b ∈ bytes, b.loc.scratch = none

theorem State.putBytes_cons {s : State} {b : StoreByte} (h : b.loc.scratch = none) (r : List StoreByte) :
    s.putBytes (b :: r) = (s.putPhys b.loc.addr (b.over (s.getPhys b.loc.addr))).putBytes r := by
  simp only [State.putBytes, List.foldl_cons, State.putLoc, State.getLoc, h]

theorem State.putBytes_threads {s : State} {bytes : List StoreByte} (h : AllGlobal bytes) : (s.putBytes bytes).threads = s.threads := by
  induction bytes generalizing s with
  | nil => rfl
  | cons b r ih => rw [State.putBytes_cons (h b (by simp)), ih fun x hx => h x (by simp [hx]), State.putPhys_threads]

theorem State.putBytes_troupes {s : State} {bytes : List StoreByte} (h : AllGlobal bytes) : (s.putBytes bytes).troupes = s.troupes := by
  induction bytes generalizing s with
  | nil => rfl
  | cons b r ih => rw [State.putBytes_cons (h b (by simp)), ih fun x hx => h x (by simp [hx]), State.putPhys_troupes]

/-- A store writes no byte but its own. -/
theorem State.getPhys_putBytes_of_notMem {s : State} {bytes : List StoreByte} (hg : AllGlobal bytes) (hm : Memory.wf s.mem = true) {a : Nat}
    (ha : ∀ b ∈ bytes, b.loc.addr ≠ a) : (s.putBytes bytes).getPhys a = s.getPhys a := by
  induction bytes generalizing s with
  | nil => rfl
  | cons b r ih =>
    rw [State.putBytes_cons (hg b (by simp)), ih (fun x hx => hg x (by simp [hx])) (wf_putPhys _ _ _ hm) fun x hx => ha x (by simp [hx]),
      State.getPhys_putPhys hm, if_neg (ha b (by simp)).symm]

/-- Where no two of its bytes have one place, each is written over what stood there. -/
theorem State.getPhys_putBytes_of_mem {s : State} {bytes : List StoreByte} (hg : AllGlobal bytes) (hm : Memory.wf s.mem = true)
    (hn : (bytes.map (·.loc.addr)).Nodup) {b : StoreByte} (hb : b ∈ bytes) : (s.putBytes bytes).getPhys b.loc.addr = b.over (s.getPhys b.loc.addr) := by
  induction bytes generalizing s with
  | nil => cases hb
  | cons c r ih =>
    have hr : AllGlobal r := fun x hx => hg x (by simp [hx])
    rw [List.map_cons, List.nodup_cons, List.mem_map] at hn
    obtain ⟨hc, hn⟩ := hn
    rw [State.putBytes_cons (hg c (by simp))]
    rcases List.mem_cons.1 hb with rfl | hb
    · rw [State.getPhys_putBytes_of_notMem hr (wf_putPhys _ _ _ hm) fun x hx h => hc ⟨x, hx, h⟩, State.getPhys_putPhys hm, if_pos rfl]
    · rw [ih hr (wf_putPhys _ _ _ hm) hn hb, State.getPhys_putPhys hm, if_neg fun h => hc ⟨b, hb, h⟩]

/-! ### What a write in global memory reaches beside its bytes (R170, R263, R314) -/

/-- What the reach of a write leaves: memory and the link, the troupes, and of each thread everything but that it leaves its configuration. -/
structure State.Reached (s u : State) : Prop where
  mem : u.mem = s.mem
  link : u.link = s.link
  troupes : u.troupes = s.troupes
  length : u.threads.length = s.threads.length
  thread : ∀ k, ∃ b, u.thread k = { s.thread k with leaving := b }

theorem State.Reached.refl (s : State) : s.Reached s := ⟨rfl, rfl, rfl, rfl, fun k => ⟨(s.thread k).leaving, rfl⟩⟩

theorem State.Reached.trans {s t u : State} (h : s.Reached t) (g : t.Reached u) : s.Reached u where
  mem := g.mem.trans h.mem
  link := g.link.trans h.link
  troupes := g.troupes.trans h.troupes
  length := g.length.trans h.length
  thread k := by
    obtain ⟨b, hb⟩ := g.thread k
    obtain ⟨c, hc⟩ := h.thread k
    exact ⟨b, by rw [hb, hc]⟩

/-- A state that differs beside all this. -/
theorem State.Reached.of_eq {s u : State} (hm : u.mem = s.mem) (hl : u.link = s.link) (ht : u.troupes = s.troupes) (hx : u.threads = s.threads) :
    s.Reached u :=
  ⟨hm, hl, ht, by rw [hx], fun k => ⟨(s.thread k).leaving, by simp only [State.thread, hx]⟩⟩

theorem State.Reached.foldl {α : Type} {f : State → α → State} (hf : ∀ (s : State) x, s.Reached (f s x)) (l : List α) (s : State) : s.Reached (l.foldl f s) :=
  List.foldlRecOn (motive := s.Reached) l f (.refl s) fun t ht x _ => ht.trans (hf t x)

theorem State.reached_leave (s : State) (ks : List Nat) : s.Reached (s.leave ks) := by
  have hone (s : State) (k : Nat) : s.Reached (s.updThread k fun t => { t with leaving := true }) := by
    refine ⟨rfl, rfl, rfl, by simp, fun j => ?_⟩
    simp only [State.thread, State.updThread_threads, nth_updateAt]
    split
    · exact ⟨true, rfl⟩
    · exact ⟨_, rfl⟩
  exact .foldl hone ks s

theorem State.reached_codeWritten (s : State) (pas : List Nat) : s.Reached (s.codeWritten pas) := by
  have hb (s : State) (p : Nat → DWord → Bool) : s.Reached (s.forgetBacks p) := by
    unfold State.forgetBacks
    split <;> exact .of_eq rfl rfl rfl rfl
  have hd (s : State) (p : Nat → MapConfig → Bool) : s.Reached (s.dropConfigs p) := by
    unfold State.dropConfigs
    split
    · exact .refl s
    · refine .trans ?_ (State.reached_leave _ _)
      exact .of_eq rfl rfl rfl rfl
  exact (hb s _).trans (hd _ _)

theorem State.reached_wroteBytes (s : State) (pas : List Nat) (by_ : Option Nat) : s.Reached (s.wroteBytes pas by_) := by
  refine (s.reached_codeWritten pas).trans (.foldl (fun s eI => ?_) _ _)
  dsimp only
  split
  · exact .refl s
  · exact .of_eq rfl rfl rfl rfl

theorem State.reached_entriesWritten (s : State) (pas : List Nat) : s.Reached (s.entriesWritten pas) := by
  refine .foldl (fun s x => ?_) _ _
  split
  · exact .refl s
  · split
    · exact .refl s
    · dsimp only
      split <;> exact .of_eq rfl rfl rfl rfl

theorem State.reached_wroteGlobal (s : State) (pas : List Nat) (by_ : Option Nat) : s.Reached (s.wroteGlobal pas by_) :=
  (s.reached_wroteBytes pas by_).trans (State.reached_entriesWritten _ pas)

/-- A store of global bytes is its bytes and what their write reaches. -/
theorem State.reached_performStore {s : State} {bytes : List StoreByte} (h : AllGlobal bytes) (core : Nat) (setFull : Bool) :
    (s.putBytes bytes).Reached (s.performStore core bytes setFull) := by
  cases bytes with
  | nil => exact .refl s
  | cons b r =>
    have hb := h b (by simp)
    simp only [State.performStore, hb]
    refine .trans ?_ (State.reached_wroteGlobal _ _ _)
    exact .of_eq rfl rfl rfl rfl

/-! ### A release passes on (R200, R207) -/

@[simp] theorem passRelease_threads (s : State) (k : Nat) (p : PendingStore) : (s.passRelease k p).threads = s.threads := by
  unfold State.passRelease
  split_ifs <;> rfl

@[simp] theorem passRelease_link (s : State) (k : Nat) (p : PendingStore) : (s.passRelease k p).link = s.link := by
  unfold State.passRelease
  split_ifs <;> rfl

theorem passRelease_of_not {s : State} {p : PendingStore} (h : p.order.releases = false ∨ p.scope = .th) (k : Nat) : s.passRelease k p = s := by
  rcases h with h | h <;> simp [State.passRelease, h]

theorem passRelease_troupes {s : State} {p : PendingStore} (hr : p.order.releases = true) (hs : p.scope ≠ .th) (k : Nat) :
    (s.passRelease k p).troupes = updateAt s.troupes (s.thread k).troupe fun tr => { tr with relStamp := max tr.relStamp (s.thread k).acqStamp } := by
  unfold State.passRelease
  rw [if_neg (by simp [hr, hs])]
  split_ifs <;> rfl

/-- What a thread has acquired reaches its troupe. -/
theorem acqStamp_le_passRelease {s : State} {p : PendingStore} (hr : p.order.releases = true) (hs : p.scope ≠ .th) {k : Nat}
    (hlt : (s.thread k).troupe < s.troupes.length) : (s.thread k).acqStamp ≤ ((s.passRelease k p).troupe (s.thread k).troupe).relStamp := by
  simp [State.troupe, passRelease_troupes hr hs, nth_updateAt, hlt]

/-! ### Visibility points -/

/-- A store that may not go, or is on its way, stays. -/
theorem showStore_stays {s : State} {k : Nat} {t : Thread} {p : PendingStore}
    (h : s.mayShow t p = false ∨ p.sent ≠ [] ∨ s.mixedBusy k p = true) : s.showStore k t p = s := by
  unfold State.showStore
  rw [if_pos (by rcases h with h | h | h <;> simp [h])]

/-- A plain cached store, whose units can be written, is performed. -/
theorem showStore_shows {s : State} {k : Nat} {t : Thread} {p : PendingStore} (hmay : s.mayShow t p = true) (hsent : p.sent = [])
    (hmix : s.mixedBusy k p = false) (hat : p.atomic = none) (hc : ∀ b ∈ p.bytes, b.loc.cached = true) (hw : s.allWritable p.pas = true) :
    s.showStore k t p = ((s.performStore (s.troupe t.troupe).core p.bytes p.setFull).passRelease k p).updThread k (·.shown p) := by
  have hby : ∀ b ∈ p.bytes, b.loc.bypasses = false := fun b hb => by
    have h := hc b hb
    simp only [Loc.cached, Bool.and_eq_true, beq_iff_eq] at h
    simp [Loc.bypasses, h]
  have hsc : ∀ b ∈ p.bytes, b.loc.scratch.isNone = true := fun b hb => by
    have h := hc b hb
    simp only [Loc.cached, Bool.and_eq_true] at h
    exact h.1
  have hcached : (p.bytes.filter fun b => !b.loc.bypasses) = p.bytes := List.filter_eq_self.2 fun b hb => by simp [hby b hb]
  have hglobal : (p.bytes.filter fun b => b.loc.scratch.isNone) = p.bytes := List.filter_eq_self.2 hsc
  have hleft : p.unitsLeft = [] := by
    have hnone : (p.bytes.filter (·.loc.bypasses)) = [] := List.filter_eq_nil_iff.2 fun b hb => by simp [hby b hb]
    simp [PendingStore.unitsLeft, hnone, unitsOf]
  have hw' : s.allWritable (p.bytes.map (·.loc.addr)) = true := hw
  simp only [State.showStore, hmay, hsent, hmix, hat, hleft, hcached, hglobal, hw', List.isEmpty_nil, Bool.not_true, Bool.or_self, Bool.false_eq_true, if_false]

/-- What a performed store leaves: its bytes alone are written, it leaves its thread, and a release has passed on. -/
theorem shown_effect {s : State} {k core : Nat} {t : Thread} {p : PendingStore} (ht : s.threads[k]? = some t) (hm : Memory.wf s.mem = true)
    (hg : AllGlobal p.bytes) :
    let u := ((s.performStore core p.bytes p.setFull).passRelease k p).updThread k (·.shown p)
    (∀ a, a ∉ p.pas → u.getPhys a = s.getPhys a) ∧
      (p.pas.Nodup → ∀ b ∈ p.bytes, u.getPhys b.loc.addr = b.over (s.getPhys b.loc.addr)) ∧
      (u.thread k).stores = t.stores.filter (fun x => x.seq != p.seq) ∧ (u.thread k).regs = t.regs ∧
      (p.order.releases = false ∨ p.scope = .th → u.troupes = s.troupes) ∧
      (p.order.releases = true → p.scope ≠ .th → t.troupe < s.troupes.length → t.acqStamp ≤ (u.troupe t.troupe).relStamp) := by
  intro u
  have hr : (s.putBytes p.bytes).Reached (s.performStore core p.bytes p.setFull) := State.reached_performStore hg core p.setFull
  have hview (a : Nat) : u.getPhys a = (s.putBytes p.bytes).getPhys a :=
    State.getPhys_congr (by simp [u, hr.link]) (by simp [u, hr.mem]) a
  obtain ⟨hk, -⟩ := List.getElem?_eq_some_iff.1 ht
  obtain ⟨b, hb⟩ : ∃ b, (s.performStore core p.bytes p.setFull).thread k = { t with leaving := b } := by
    obtain ⟨b, hb⟩ := hr.thread k
    have hput : (s.putBytes p.bytes).thread k = t := by rw [← State.thread_of_getElem? ht, State.thread, State.putBytes_threads hg, State.thread]
    exact ⟨b, by rw [hb, hput]⟩
  have htr : (s.performStore core p.bytes p.setFull).troupes = s.troupes := hr.troupes.trans (State.putBytes_troupes hg)
  have hu : u.thread k = ({ t with leaving := b } : Thread).shown p := by
    rw [State.thread_updThread _ _ _ (by simp [hr.length, State.putBytes_threads hg, hk]), State.thread, passRelease_threads, ← hb, State.thread]
  refine ⟨fun a ha => ?_, fun hn x hx => ?_, by rw [hu]; rfl, by rw [hu]; rfl, fun hrel => ?_, fun hrel hsc hlt => ?_⟩
  · rw [hview]
    exact State.getPhys_putBytes_of_notMem hg hm fun x hx h => ha (List.mem_map.2 ⟨x, hx, h⟩)
  · rw [hview]
    exact State.getPhys_putBytes_of_mem hg hm hn hx
  · simp only [u, State.updThread_troupes, passRelease_of_not hrel, htr]
  · have hle := acqStamp_le_passRelease (s := s.performStore core p.bytes p.setFull) (k := k) hrel hsc (by rw [hb, htr]; exact hlt)
    rw [hb] at hle
    exact hle

/-! ### The threads, where the caches alone move (R193) -/

@[simp] theorem fillL1_threads (s : State) (core : Nat) (pas : List Nat) : (s.fillL1 core pas).threads = s.threads := rfl

@[simp] theorem slcFill_threads (s : State) (unit : Nat) : (s.slcFill unit).threads = s.threads := by
  unfold State.slcFill
  split <;> rfl

@[simp] theorem setDir_threads (s : State) (d : Directory) : (s.setDir d).threads = s.threads := rfl

@[simp] theorem setMemUnit_threads (s : State) (unit : Nat) (places : List Nat) (data : Unit64) : (s.setMemUnit unit places data).threads = s.threads :=
  List.foldlRecOn (motive := fun t : State => t.threads = s.threads) places _ rfl fun _ ht _ _ => ht

@[simp] theorem send_threads (s : State) (r : LinkReq) (aux : Nat) : (s.send r aux).threads = s.threads := by
  unfold State.send
  dsimp only
  split_ifs <;> (split <;> rfl)

@[simp] theorem evictUnit_threads (s : State) (unit : Nat) (ctx : Option Nat) (keep : Bool) : (s.evictUnit unit ctx keep).threads = s.threads := by
  have hback (l : L2Line) : (s.writeBack l ctx keep).threads = s.threads := by
    unfold State.writeBack
    split <;> simp
  have hrem (u : State) : (u.remember unit).threads = u.threads := by
    unfold State.remember
    split
    · split <;> simp
    · rfl
  unfold State.evictUnit
  split
  · rfl
  next l _ =>
    have hdrop (u : State) : ((u.dropLine unit).loseSight unit).threads = u.threads := rfl
    rw [hdrop, hrem]
    split
    · exact hback l
    · rfl

@[simp] theorem addLine_threads (s : State) (l : L2Line) : (s.addLine l).threads = s.threads := by
  unfold State.addLine
  dsimp only
  split
  · split <;> simp
  · rfl

@[simp] theorem allocateUnit_threads (s : State) (unit : Nat) : (s.allocateUnit unit).threads = s.threads := by
  unfold State.allocateUnit
  dsimp only
  split <;> simp

theorem foldl_threads {α : Type} {f : State → α → State} (hf : ∀ s x, (f s x).threads = s.threads) (l : List α) (s : State) :
    (l.foldl f s).threads = s.threads :=
  List.foldlRecOn (motive := fun t : State => t.threads = s.threads) l f rfl fun t ht x _ => (hf t x).trans ht

/-- The caches once a prefetch of a level has ended. -/
def State.prefetched (s : State) (core : Nat) (pas : List Nat) (level : Nat) : State :=
  if level = 0 then s.fillL1 core pas else (unitsOf pas).foldl (if level = 1 then State.allocateUnit else State.slcFill) s

@[simp] theorem prefetched_threads (s : State) (core : Nat) (pas : List Nat) (level : Nat) : (s.prefetched core pas level).threads = s.threads := by
  unfold State.prefetched
  split_ifs
  · rfl
  · exact foldl_threads allocateUnit_threads _ _
  · exact foldl_threads slcFill_threads _ _

/-- The thread of a prefetch that has ended. -/
def Thread.prefetched (l : PendingLoad) (t : Thread) : Thread := { t.lowerFlag l.flag with loads := t.loads.filter fun x => x.seq != l.seq }

theorem prefetch_eq {s : State} {l : PendingLoad} (hr : s.allReadable (l.locs.map (·.addr)) = true) (k : Nat) (t : Thread) (level : Nat) :
    s.prefetch k t l level = (s.prefetched (s.troupe t.troupe).core (l.locs.map (·.addr)) level).updThread k (Thread.prefetched l) := by
  simp only [State.prefetch, hr, Bool.not_true, Bool.false_eq_true, if_false]
  rfl

/-- A prefetch whose units can be read ends: its thread lets it go, and no other thread changes. -/
theorem prefetch_ends {s : State} {k : Nat} {t : Thread} {l : PendingLoad} (level : Nat) (ht : s.threads[k]? = some t)
    (hr : s.allReadable (l.locs.map (·.addr)) = true) :
    (s.prefetch k t l level).thread k = t.prefetched l ∧ ∀ j ≠ k, (s.prefetch k t l level).thread j = s.thread j := by
  obtain ⟨hk, -⟩ := List.getElem?_eq_some_iff.1 ht
  rw [prefetch_eq hr]
  refine ⟨?_, fun j hj => ?_⟩
  · rw [State.thread_updThread _ _ _ (by simpa using hk), State.thread, prefetched_threads, ← State.thread, State.thread_of_getElem? ht]
  · rw [State.thread_updThread_ne _ _ hj.symm]
    simp [State.thread]

/-! ### Loads and other obligations -/

/-- A load that may not bind, or is held, stays. -/
theorem bindLoad_stays {s : State} {k : Nat} {t : Thread} {l : PendingLoad} (hl : l.form.level = none) (h : t.mayBind l = false ∨ s.mixedHeld k l = true)
    (fromL1 : Bool) : s.bindLoad k t l fromL1 = s := by
  simp only [State.bindLoad, hl]
  rw [if_pos (by rcases h with h | h <;> simp [h])]

/-- Scratch places lack nothing: a read finds each byte in its slice, the thread's own stores over it. -/
theorem gather_scratch {s : State} {t : Thread} {locs : List Loc} (h : ∀ x ∈ locs, x.scratch.isSome = true) (k seq : Nat) (got : List (Nat × Unit64))
    (fromL1 apart : Bool) :
    s.gather k t seq locs got fromL1 apart = (s, some (locs.map fun x => t.forward seq x (s.getLoc x))) := by
  have hnone (x : Loc) (hx : x ∈ locs) : x.scratch.isNone = false := by simpa using h x hx
  have hcached : locs.filter Loc.cached = [] := List.filter_eq_nil_iff.2 fun x hx => by simp [Loc.cached, hnone x hx]
  have hfar : s.farUnits (locs.filter fun x => !t.covers seq x) got = [] := by
    have hby : (locs.filter fun x => !t.covers seq x).filter Loc.bypasses = [] :=
      List.filter_eq_nil_iff.2 fun x hx => by simp [Loc.bypasses, hnone x (List.mem_filter.1 hx).1]
    simp [State.farUnits, hby, unitsOf]
  have hread : s.allReadable [] = true := rfl
  simp only [State.gather, hcached, hfar, List.map_nil, hread, List.isEmpty_nil, Bool.not_true, Bool.and_false, Bool.or_true, Bool.false_eq_true, if_false,
    if_true, Prod.mk.injEq, Option.some.injEq, true_and]
  refine List.map_congr_left fun x hx => ?_
  simp [Loc.bypasses, Loc.cached, hnone x hx]

/-- A load of scratch binds to what stands there. -/
theorem bindLoad_binds {s : State} {k : Nat} {t : Thread} {l : PendingLoad} (hl : l.form.level = none) (hmay : t.mayBind l = true)
    (hmix : s.mixedHeld k l = false) (hpart : l.part = []) (hsc : ∀ x ∈ l.locs, x.scratch.isSome = true) (fromL1 : Bool) :
    s.bindLoad k t l fromL1 = (s.loadedAt l.locs).setThread k (t.bind l (l.locs.map fun x => t.forward l.seq x (s.getLoc x)) s.stamp (Config.choice s.moves)
      (s.vagueAt l.locs) (s.troupe t.troupe).relStamp) := by
  have hleft : l.left = l.locs := by simp [PendingLoad.left, hpart]
  have hwhole (bs : List Byte) : l.whole bs = bs := by simp [PendingLoad.whole, hpart]
  have hbad : s.badAt l.locs = false := by
    have hnone : (l.locs.filter (·.scratch.isNone)) = [] := List.filter_eq_nil_iff.2 fun x hx => by simpa [Option.isSome_iff_ne_none] using hsc x hx
    simp [State.badAt, hnone, State.badPhys]
  simp only [State.bindLoad, hl, hmay, hmix, hleft, gather_scratch hsc, hwhole, hbad, Bool.not_true, Bool.or_self, Bool.false_eq_true, if_false]

/-- An obligation's end, as the rules say it. -/
theorem obligationEnded_iff (s : State) (o : Obligation) :
    s.obligationEnded o = true ↔ o.hold = none ∧ ∀ u ∈ o.units, ∀ r ∈ s.link.reqs, ¬(r.unit = u ∧ r.opc = 3) := by
  simp [State.obligationEnded, State.asked]

/-! ### Copied granules (R225, R228, R229) -/

/-- Does a store of the copy's thread stand before it? -/
def State.copyEarly (s : State) (c : Copy) : Prop := ∃ x ∈ c.after, ∃ p ∈ (s.thread x.1).stores, p.seq < x.2

theorem any_iff_copyEarly (s : State) (c : Copy) :
    (c.after.any fun x => (s.thread x.1).stores.any fun p => decide (p.seq < x.2)) = true ↔ s.copyEarly c := by
  simp [State.copyEarly]

/-- What stands against a granule of a copy leaves it. -/
theorem copyGranule_stays {s : State} {n g : Nat} {c : Copy} (hc : s.copies[n]? = some c)
    (h : c.live = false ∨ g ∉ c.todo ∨ s.copyEarly c ∨ s.waits (.copy n) = true ∨ s.engineRuns (s.ens (s.troupe c.troupe).ens).ctx 3 = false) :
    execCopyGranuleWrite n g s = .next s := by
  simp only [execCopyGranuleWrite, hc]
  rw [if_pos]
  rw [← any_iff_copyEarly] at h
  rcases h with h | h | h | h | h <;> simp [h]

/-- Nothing stands against granule g of copy n. -/
structure State.CopyGoes (s : State) (n g : Nat) (c : Copy) : Prop where
  copy : s.copies[n]? = some c
  live : c.live = true
  todo : g ∈ c.todo
  early : ¬s.copyEarly c
  waits : s.waits (.copy n) = false
  runs : s.engineRuns (s.ens (s.troupe c.troupe).ens).ctx 3 = true
  sent : ∀ x ∈ c.sent, x.1 ≠ g

theorem State.CopyGoes.free {s : State} {n g : Nat} {c : Copy} (h : s.CopyGoes n g c) :
    (!c.live || !c.todo.contains g || (c.after.any fun x => (s.thread x.1).stores.any fun p => decide (p.seq < x.2)) || s.waits (.copy n)
      || !s.engineRuns (s.ens (s.troupe c.troupe).ens).ctx 3) = false := by
  have hearly := Bool.eq_false_iff.2 fun he => h.early ((any_iff_copyEarly s c).1 he)
  have htodo : c.todo.contains g = true := by simpa using h.todo
  rw [h.live, htodo, hearly, h.waits, h.runs]
  rfl

theorem State.CopyGoes.find?_sent {s : State} {n g : Nat} {c : Copy} (h : s.CopyGoes n g c) : c.sent.find? (·.1 == g) = none :=
  List.find?_eq_none.2 fun x hx => by simpa using h.sent x hx

/-- A granule of the gang's scratch, or one whose pages are at hand, moves. -/
theorem State.CopyGoes.moves {s : State} {n g : Nat} {c : Copy} (h : s.CopyGoes n g c)
    (hp : c.kind = .gS ∨ (s.copyFault c [g] = none ∧ s.copyMiss c (c.addrs [g]) = none)) :
    execCopyGranuleWrite n g s = .next (s.moveGranule n g c) := by
  by_cases hk : c.kind = .gS
  · simp only [execCopyGranuleWrite, h.copy, h.free, h.find?_sent, hk, Bool.false_eq_true, if_false, if_true]
  · obtain ⟨hf, hm⟩ := hp.resolve_left hk
    simp only [execCopyGranuleWrite, h.copy, h.free, h.find?_sent, hk, hf, hm, Option.isSome_none, Bool.false_eq_true, if_false]

/-- A granule that fails stops the copy at its lowest address that fails, once every page below is known. -/
theorem State.CopyGoes.stops {s : State} {n g : Nat} {c : Copy} (h : s.CopyGoes n g c) {f : Cause × Nat} (hk : c.kind ≠ .gS) (hg : s.copyFault c [g] ≠ none)
    (hf : s.copyFault c c.todo = some f) (hm : s.copyMiss c ((c.addrs c.todo).filter fun a => decide (a < f.2)) = none) :
    execCopyGranuleWrite n g s = .next (s.stopCopy n c f.1 (w64 f.2)) := by
  have hsome : (s.copyFault c [g]).isSome = true := Option.isSome_iff_ne_none.2 hg
  simp only [execCopyGranuleWrite, h.copy, h.free, h.find?_sent, hk, hsome, hf, hm, Bool.false_eq_true, if_false, if_true]

/-! ### The obligation -/

/-- Settles O47: each event's cases, by the lemmas on loads, other obligations, stores and copies. -/
theorem completionEvents : Obligations.CompletionEvents := by
  unfold Obligations.CompletionEvents
  refine ⟨fun s k n fromL1 => ⟨fun h => ?_, fun t ht => ⟨fun l hl => ⟨fun hlev => ⟨fun hstay => ?_, fun hmay hmix hpart hsc => ?_⟩, fun level hlev hr => ?_⟩,
    fun o hn ho => ?_, fun p hp => ⟨fun hstay => ?_, fun hm hmay hsent hmix hat hc hw => ?_⟩⟩⟩, fun s n g c hc => ?_⟩
  · simp only [exec, execObligationMet, execVisibilityPoint, h, and_self]
  · simp only [exec, execObligationMet, ht, hl, bindLoad_stays hlev hstay]
  · simp only [exec, execObligationMet, ht, hl, bindLoad_binds hlev hmay hmix hpart hsc]
  · refine ⟨s.prefetch k t l level, ?_, prefetch_ends level ht hr⟩
    simp only [exec, execObligationMet, ht, hl, State.bindLoad, hlev]
  · have hl : t.loads[n]? = none := List.getElem?_eq_none hn
    refine ⟨fun hend => ?_, fun hend => ?_⟩
    · simp only [exec, execObligationMet, ht, hl, ho, (obligationEnded_iff s o).2 hend, if_true]
    · simp only [exec, execObligationMet, ht, hl, ho, if_neg (mt (obligationEnded_iff s o).1 hend)]
  · simp only [exec, execVisibilityPoint, ht, hp, showStore_stays hstay]
  · refine ⟨_, by simp only [exec, execVisibilityPoint, ht, hp, showStore_shows hmay hsent hmix hat hc hw],
      shown_effect (core := (s.troupe t.troupe).core) ht hm fun b hb => ?_⟩
    have h := hc b hb
    simp only [Loc.cached, Bool.and_eq_true, Option.isNone_iff_eq_none] at h
    exact h.1
  · exact ⟨copyGranule_stays hc, fun hlive htodo hearly hwaits hruns => State.CopyGoes.moves ⟨hc, hlive, htodo, hearly, hwaits, hruns.1, hruns.2⟩,
      fun f hlive htodo hearly hwaits hruns => State.CopyGoes.stops ⟨hc, hlive, htodo, hearly, hwaits, hruns.1, hruns.2⟩⟩

end Sys2Proof.Machine

namespace Sys2Proof.Machine

/-! ## Loads and stores as they issue (O23, O24; 03_formats.md R73; 08_memory.md R183, R184; 09_ordering.md R201) -/

theorem require_of_false {ok : Bool} (h : ok = false) (c : Cause) : require ok c = .error (.trap c 0 0 0) := by
  rw [h]; rfl

theorem require_of_true {ok : Bool} (h : ok = true) (c : Cause) : require ok c = .ok () := by
  rw [h]; rfl

/-! ### What a fetch gives of its operands -/

section
variable {t : Thread} {dsts : List Grp} {srcs : List Src} {x : Fetched} {i b l al : Nat} {want : List Tag}

theorem Thread.length_fetch_ws (hx : t.fetch dsts srcs = .ok x) (hs : srcs[i]? = some (.regs b l al want)) : (x.ws i).length = l := by
  obtain ⟨-, -, -, rfl⟩ := Thread.fetch_ok hx
  simp [Fetched.ws, nth, hs, Src.ports]

theorem portRead_tag_mem {strict : Bool} {r : Reg} (hw : want ≠ []) (h : (portRead strict want r).isMismatch = false) :
    (portRead strict want r).get.tag ∈ want := by
  cases want with
  | nil => exact absurd rfl hw
  | cons e es =>
    simp only [portRead] at h ⊢
    split_ifs at h ⊢ with hacc hbad
    · simpa [Port.get] using hacc
    · simp [Port.isMismatch] at h
    · simp [Port.get]

/-- A single register reaches its instruction under a tag that the instruction accepts. -/
theorem Thread.fetch_tag_mem (hx : t.fetch dsts srcs = .ok x) (hs : srcs[i]? = some (.regs b 1 al want)) (hw : want ≠ []) :
    (x.r i).tag ∈ want := by
  obtain ⟨-, -, hclash, rfl⟩ := Thread.fetch_ok hx
  have hport : (portRead (bitAt t.fmode.toNat 0) want (t.reg b)).isMismatch = false :=
    Bool.eq_false_iff.2 fun hm => hclash ⟨_, List.mem_of_getElem? hs, _, List.mem_singleton_self _, hm⟩
  simpa [Fetched.r, nth, hs, Src.ports, upFrom] using portRead_tag_mem hw hport

end

/-! ### Loads -/

/-- The state in which a load of n registers has issued: it is outstanding, and the "a" flag of its clause counts it (R37, R183). -/
def State.loadIssued (s : State) (w : Who) (d : RegField) (ty : BitVec 4) (n : Nat) (x : Fetched) (locs : List Loc) (sc : Scope) : State :=
  s.setThread w.k ((x.t.raised [x.t.fa]).pushLoad
    { seq := 0, locs := locs, order := x.t.hints.order, scope := sc,
      form := { type := ty.toNat, dst := d.toNat, count := n }, flag := x.t.fa, born := s.moves })

theorem issueLoad_ok {s : State} {w : Who} {d : RegField} {ty : BitVec 4} {n : Nat} {x : Fetched} (h : x.t.Room [x.t.fa]) (p : Placed) (sc : Scope) :
    s.issueLoad w x.t p { type := ty.toNat, dst := d.toNat, count := n } sc = .ok (s.loadIssued w d ty n x p.locs sc) := by
  simp only [State.issueLoad, Thread.raiseFlags_ok h, Except.map]
  rfl

section
variable {s : State} {w : Who} {n : Nat} {d b : RegField} {ty : BitVec 4} {o : BitVec 5}

theorem loadGlobal_refuses (h : typeAdmitted ty.toNat n (n == 1) = false) :
    loadGlobal n d b ty o s w = .error (.trap .formatUnsupported 0 0 0) := by
  simp only [loadGlobal, require_of_false h]
  rfl

theorem loadScratch_refuses (h : typeAdmitted ty.toNat n (n == 1) = false) :
    loadScratch n d b ty o s w = .error (.trap .formatUnsupported 0 0 0) := by
  simp only [loadScratch, require_of_false h]
  rfl

theorem loadGlobal_issues (h : typeAdmitted ty.toNat n (n == 1) = true) {x : Fetched} {p : Placed}
    (hx : w.t.fetch [⟨d.toNat, n, n⟩] [rd2 b [.b32]] = .ok x)
    (hp : s.checkGlobal w (globalAddr (x.n 0) (w.t.memOffset o) (typeBytes ty.toNat n)) (typeBytes ty.toNat n) (typeAlign ty.toNat n)
      { read := true } = .ok p)
    (hroom : x.t.Room [x.t.fa]) : loadGlobal n d b ty o s w = .ok (s.loadIssued w d ty n x p.locs w.t.hints.scope) := by
  simp only [loadGlobal, require_of_true h, hx, bind, Except.bind, hp, issueLoad_ok hroom]

theorem loadScratch_issues (h : typeAdmitted ty.toNat n (n == 1) = true) {x : Fetched} {tr off : Nat}
    (hx : w.t.fetch [⟨d.toNat, n, n⟩] [rd1 b [.b32]] = .ok x)
    (hp : s.checkScratch w (scratchAddr (x.n 0) (w.t.memOffset o) (typeBytes ty.toNat n)) (typeBytes ty.toNat n) (typeAlign ty.toNat n) =
      .ok (tr, off))
    (hroom : x.t.Room [x.t.fa]) : loadScratch n d b ty o s w =
      .ok (s.loadIssued w d ty n x (scratchLocs tr off (typeBytes ty.toNat n)) (scratchScope w.t.hints.scope)) := by
  simp only [loadScratch, require_of_true h, hx, bind, Except.bind, hp, issueLoad_ok hroom]

end

/-- The three global loads are one meaning at 1, 2 and 4 registers. -/
theorem exec_globalLoad {d b : RegField} {ty : BitVec 4} {o : BitVec 5} {g : PredField} {n : Nat} {i : Instr}
    (h : (n, i) ∈ [(1, Instr.ld d b ty o g), (2, .ldw d b ty o g), (4, .ldq d b ty o g)]) (s : State) :
    exec i s = runWord s g (loadGlobal n d b ty o s) := by
  simp only [List.mem_cons, Prod.mk.injEq, List.not_mem_nil, or_false] at h
  rcases h with ⟨rfl, rfl⟩ | ⟨rfl, rfl⟩ | ⟨rfl, rfl⟩ <;> rfl

theorem exec_scratchLoad {d b : RegField} {ty : BitVec 4} {o : BitVec 5} {g : PredField} {n : Nat} {i : Instr}
    (h : (n, i) ∈ [(1, Instr.lds d b ty o g), (4, .ldsq d b ty o g)]) (s : State) :
    exec i s = runWord s g (loadScratch n d b ty o s) := by
  simp only [List.mem_cons, Prod.mk.injEq, List.not_mem_nil, or_false] at h
  rcases h with ⟨rfl, rfl⟩ | ⟨rfl, rfl⟩ <;> rfl

/-- Settles O23: the loads of each space are one meaning, which refuses the type or issues the load. -/
theorem loads : Obligations.Loads := by
  unfold Obligations.Loads
  intro s w g d b ty o h
  refine ⟨fun n i hi => ?_, fun n i hi => ?_⟩
  · rw [exec_globalLoad hi]
    exact ⟨fun hty => runWord_error h (loadGlobal_refuses hty),
      fun hty x p hx hp hroom => runWord_ok h (loadGlobal_issues hty hx hp hroom)⟩
  · rw [exec_scratchLoad hi]
    exact ⟨fun hty => runWord_error h (loadScratch_refuses hty),
      fun hty x tr off hx hp hroom => runWord_ok h (loadScratch_issues hty hx hp hroom)⟩

/-! ### Stores -/

/-- The state in which a store of n registers' words has issued: it is pending with its bytes at their places, a "b" obligation waits for it, and its data
registers may be read again (R39, R183, R201). -/
def State.storeIssued (s : State) (w : Who) (d : RegField) (ty : BitVec 4) (n : Nat) (x : Fetched) (locs : List Loc) (sc : Scope) : State :=
  s.addStore w (x.t.owing { flag := x.t.fb, stores := [x.t.seq] })
    { seq := 0, bytes := storeOf locs (storeBytes ty.toNat (x.ws 1)), order := w.t.hints.order, scope := sc,
      src := some { type := ty.toNat, regs := (upFrom d.toNat n).map fun r => (r, storeTags ty.toNat), words := x.ws 1 } }

theorem issueStore_ok {s : State} {w : Who} {t : Thread} (h : t.Room [t.fb]) (p : PendingStore) :
    s.issueStore w t p = .ok (s.addStore w (t.owing { flag := t.fb, stores := [t.seq] }) p) := by
  simp only [State.issueStore, Thread.owe_ok (o := { flag := t.fb, stores := [t.seq] }) h, Except.map]

theorem dataOf_of_length {type base n : Nat} {ws : List Word} (h : ws.length = n) :
    dataOf type base ws = some { type := type, regs := (upFrom base n).map fun r => (r, storeTags type), words := ws } := by
  rw [dataOf, h]

section
variable {s : State} {w : Who} {n : Nat} {d b : RegField} {ty : BitVec 4} {o : BitVec 5}

theorem storeGlobal_refuses (h : typeAdmitted ty.toNat n false = false) :
    storeGlobal n d b ty o s w = .error (.trap .formatUnsupported 0 0 0) := by
  simp only [storeGlobal, require_of_false h]
  rfl

theorem storeScratch_refuses (h : typeAdmitted ty.toNat n false = false) :
    storeScratch n d b ty o s w = .error (.trap .formatUnsupported 0 0 0) := by
  simp only [storeScratch, require_of_false h]
  rfl

theorem storeGlobal_issues (h : typeAdmitted ty.toNat n false = true) {x : Fetched} {p : Placed}
    (hx : w.t.fetch [] [rd2 b [.b32], .regs d.toNat n n (storeTags ty.toNat)] = .ok x)
    (hp : s.checkGlobal w (globalAddr (x.n 0) (w.t.memOffset o) (typeBytes ty.toNat n)) (typeBytes ty.toNat n) (typeAlign ty.toNat n)
      { write := true } = .ok p)
    (hroom : x.t.Room [x.t.fb]) : storeGlobal n d b ty o s w = .ok (s.storeIssued w d ty n x p.locs w.t.hints.scope) := by
  have hlen : (x.ws 1).length = n := Thread.length_fetch_ws hx rfl
  simp only [storeGlobal, require_of_true h, hx, bind, Except.bind, hp, issueStore_ok hroom, dataOf_of_length hlen, State.storeIssued]

theorem storeScratch_issues (h : typeAdmitted ty.toNat n false = true) {x : Fetched} {tr off : Nat}
    (hx : w.t.fetch [] [rd1 b [.b32], .regs d.toNat n n (storeTags ty.toNat)] = .ok x)
    (hp : s.checkScratch w (scratchAddr (x.n 0) (w.t.memOffset o) (typeBytes ty.toNat n)) (typeBytes ty.toNat n) (typeAlign ty.toNat n) =
      .ok (tr, off))
    (hroom : x.t.Room [x.t.fb]) : storeScratch n d b ty o s w =
      .ok (s.storeIssued w d ty n x (scratchLocs tr off (typeBytes ty.toNat n)) (scratchScope w.t.hints.scope)) := by
  have hlen : (x.ws 1).length = n := Thread.length_fetch_ws hx rfl
  simp only [storeScratch, require_of_true h, hx, bind, Except.bind, hp, issueStore_ok hroom, dataOf_of_length hlen, State.storeIssued]

end

theorem exec_globalStore {d b : RegField} {ty : BitVec 4} {o : BitVec 5} {g : PredField} {n : Nat} {i : Instr}
    (h : (n, i) ∈ [(1, Instr.st d b ty o g), (2, .stw d b ty o g), (4, .stq d b ty o g)]) (s : State) :
    exec i s = runWord s g (storeGlobal n d b ty o s) := by
  simp only [List.mem_cons, Prod.mk.injEq, List.not_mem_nil, or_false] at h
  rcases h with ⟨rfl, rfl⟩ | ⟨rfl, rfl⟩ | ⟨rfl, rfl⟩ <;> rfl

theorem exec_scratchStore {d b : RegField} {ty : BitVec 4} {o : BitVec 5} {g : PredField} {n : Nat} {i : Instr}
    (h : (n, i) ∈ [(1, Instr.sts d b ty o g), (4, .stsq d b ty o g)]) (s : State) :
    exec i s = runWord s g (storeScratch n d b ty o s) := by
  simp only [List.mem_cons, Prod.mk.injEq, List.not_mem_nil, or_false] at h
  rcases h with ⟨rfl, rfl⟩ | ⟨rfl, rfl⟩ <;> rfl

/-- Settles O24: the stores of each space are one meaning, which refuses the type or issues the store. -/
theorem stores : Obligations.Stores := by
  unfold Obligations.Stores
  intro s w g d b ty o h
  refine ⟨fun n i hi => ?_, fun n i hi => ?_⟩
  · rw [exec_globalStore hi]
    exact ⟨fun hty => runWord_error h (storeGlobal_refuses hty),
      fun hty x p hx hp hroom => runWord_ok h (storeGlobal_issues hty hx hp hroom)⟩
  · rw [exec_scratchStore hi]
    exact ⟨fun hty => runWord_error h (storeScratch_refuses hty),
      fun hty x tr off hx hp hroom => runWord_ok h (storeScratch_issues hty hx hp hroom)⟩

end Sys2Proof.Machine

namespace Sys2Proof.Machine

/-! ## CVT, packing, unpacking and tags (O14; 03_formats.md R80 to R86) -/

/-! ### CVT -/

section
variable {form : CvtForm} {t : Thread} {d a : RegField} {c : BitVec 4} {rnd : BitVec 3} {x : Fetched} {h : CvtShape} (hshape : cvtShape form t a c = h)
  (hx : t.fetch [⟨d.toNat, h.gd, h.gd⟩] (cvtSrcs form h t d a) = .ok x)
include hshape hx

theorem cvtBody_unsupported (hu : cvtUnsupported h.src h.dst form t.hints.cReg.isSome = true) :
    cvtBody form d a c rnd t = .error (.trap .formatUnsupported 0 0 0) := by
  simp only [cvtBody, hshape, hx, bind, Except.bind, hu, if_true]
  rfl

/-- A supported conversion is arithmetic on what it has read: its elements' flags, and its results written where they belong. -/
theorem cvtBody_supported (hu : cvtUnsupported h.src h.dst form t.hints.cReg.isSome = false) :
    cvtBody form d a c rnd t =
      (x.arith (orAll ((cvtResults form h t x rnd).map (·.2))) ((cvtResults form h t x rnd).map (·.2))).map
        fun t' => cvtWritten form h t' d ((cvtResults form h t x rnd).map (·.1)) := by
  simp only [cvtBody, hshape, hx, bind, Except.bind, hu, Bool.false_eq_true, if_false]
  cases x.arith (orAll ((cvtResults form h t x rnd).map (·.2))) ((cvtResults form h t x rnd).map (·.2)) <;> rfl

end

/-- The three words are one meaning. -/
theorem exec_cvt {d a : RegField} {c : BitVec 4} {rnd : BitVec 3} {g : PredField} (form : CvtForm) (s : State) :
    exec (match form with | .plain => .cvt d a c rnd g | .hi => .cvtHi d a c rnd g | .uns => .cvtN d a c rnd g) s =
      runThread s g (cvtBody form d a c rnd) := by
  cases form <;> rfl

theorem State.arithDone_quiet {s : State} {w : Who} {x : Fetched} {fl : Nat} (h : x.t.enabled fl = 0) (elems : List Nat) (done : Thread → Thread) :
    s.arithDone w x fl elems done = s.threadDone w (done (x.t.merge fl)) := if_pos h

theorem State.arithDone_raised {s : State} {w : Who} {x : Fetched} {fl : Nat} (h : x.t.enabled fl ≠ 0) (elems : List Nat) (done : Thread → Thread) :
    s.arithDone w x fl elems done = .next (s.stopped w (.trap .fpException 0 (x.t.fpInfo (x.fl ||| fl) elems) (x.fl ||| fl))) := if_neg h

/-! ### Elements and words -/

/-- The part of a word from bit lo, m bits wide, is the model's slice of its number. -/
theorem toNat_truncate_shift {n : Nat} (v : BitVec n) (lo m : Nat) : ((v >>> lo).truncate m : BitVec m).toNat = slice v.toNat lo m := by
  rw [BitVec.truncate_eq_setWidth, BitVec.toNat_setWidth, BitVec.toNat_ushiftRight, Nat.shiftRight_eq_div_pow]
  rfl

theorem w32_toNat {m : Nat} (x : BitVec m) : w32 x.toNat = x.zeroExtend 32 := BitVec.ofNat_toNat 32 x

theorem signed_toNat {m : Nat} (x : BitVec m) (hm : 0 < m) : signed x.toNat m = x.toInt := by
  have hhalf : (x.toNat < 2 ^ (m - 1)) ↔ 2 * x.toNat < 2 ^ m := by
    obtain ⟨k, rfl⟩ := Nat.exists_eq_add_of_lt hm
    simp only [Nat.zero_add, Nat.add_sub_cancel, Nat.pow_succ]
    omega
  rw [signed, Nat.mod_eq_of_lt x.isLt, BitVec.toInt_eq_toNat_cond]
  simp only [hhalf]

theorem w32_wrap (v : Int) : w32 (wrap v 32) = BitVec.ofInt 32 v := by
  refine BitVec.eq_of_toNat_eq ?_
  rw [w32, wrap, BitVec.toNat_ofNat, BitVec.toNat_ofInt]
  omega

theorem w32_wrap_signed {m : Nat} (x : BitVec m) (hm : 0 < m) : w32 (wrap (signed x.toNat m) 32) = x.signExtend 32 := by
  rw [signed_toNat x hm, w32_wrap]
  rfl

/-- A word's parts side by side are the sum of their numbers at their places. -/
theorem w32_pack16 (hi lo : Word) :
    w32 (hi.toNat % 65536 * 65536 + lo.toNat % 65536) = (hi.truncate 16 : BitVec 16) ++ (lo.truncate 16 : BitVec 16) :=
  ofNat_of_toNat (toNat_append_add (hi.truncate 16 : BitVec 16) (lo.truncate 16 : BitVec 16)).symm

theorem w32_pack8 (b a old : Word) :
    w32 (b.toNat % 256 * 2 ^ 24 + a.toNat % 256 * 2 ^ 16 + old.toNat / 65536) =
      (b.truncate 8 : BitVec 8) ++ (a.truncate 8 : BitVec 8) ++ ((old >>> 16).truncate 16 : BitVec 16) := by
  refine ofNat_of_toNat ?_
  have hold := old.isLt
  rw [toNat_append_add, toNat_append_add, toNat_truncate_shift, slice, BitVec.truncate_eq_setWidth, BitVec.truncate_eq_setWidth,
    BitVec.toNat_setWidth, BitVec.toNat_setWidth]
  omega

/-! ### PACKOPS -/

/-- UNPK16 and UNPK8 leave each element in a register of its own, extended as .SX says. -/
theorem unpackBody_ok {m n : Nat} (hm : 0 < m) {t : Thread} {d a : RegField} {x : Fetched} (hx : t.fetch [⟨d.toNat, n, n⟩] [rd1 a []] = .ok x) :
    unpackBody m n d a t = .ok (x.t.setRegs d.toNat
      ((upFrom 0 n).map fun i => if t.hints.sx then ((x.v 0 >>> (m * i)).truncate m : BitVec m).signExtend 32
        else ((x.v 0 >>> (m * i)).truncate m : BitVec m).zeroExtend 32)
      (if t.hints.sx then .b32 else keepTag m (x.r 0).tag)) := by
  simp only [unpackBody, hx, Except.map, ← toNat_truncate_shift]
  cases t.hints.sx
  · simp only [Bool.false_eq_true, if_false, List.map_map, Function.comp_def, w32_toNat]
  · simp only [if_true, List.map_map, Function.comp_def, w32_wrap_signed _ hm]

section
variable {s : State} {w : Who} {g : PredField} {d a b : RegField} {x : Fetched} (h : Executes s w g)
include h

theorem execPack16_eq (hx : w.t.fetch [wr1 d] [rd1 a [], w.t.bOperand b []] = .ok x) :
    execPack16 d a b g s =
      s.threadDone w (x.t.setReg d.toNat ((x.v 1).truncate 16 ++ (x.v 0).truncate 16) (keepTag 16 (x.r 0).tag)) := by
  refine runThread_ok h ?_
  rw [hx, ← w32_pack16]
  rfl

theorem execPack8_eq (hx : w.t.fetch [wr1 d] [rd1 a [], w.t.bOperand b [], rd1 d []] = .ok x) :
    execPack8 d a b g s = s.threadDone w (x.t.setReg d.toNat
      (((x.v 1).truncate 8 : BitVec 8) ++ ((x.v 0).truncate 8 : BitVec 8) ++ ((x.v 2 >>> 16).truncate 16 : BitVec 16)) (keepTag 8 (x.r 0).tag)) := by
  refine runThread_ok h ?_
  rw [hx, ← w32_pack8]
  rfl

/-! ### TAGOPS -/

theorem execTag_eq (hx : w.t.fetch [wr1 d] [rd1 a []] = .ok x) {c : BitVec 4} (hc : c ≠ 15) :
    execTag d a c g s = s.threadDone w (x.t.setReg d.toNat (x.v 0) (Tag.ofCode c.toNat)) := by
  have hcode : (c.toNat != 15) = true := bne_iff_ne.2 fun h15 => hc (BitVec.eq_of_toNat_eq h15)
  refine runThread_ok h ?_
  simp only [hx, bind, Except.bind, require_of_true hcode]

/-- ACC is the tag that TAG does not give. -/
theorem execTag_acc (hx : w.t.fetch [wr1 d] [rd1 a []] = .ok x) : execTag d a 15 g s = s.trapped w .formatUnsupported 0 0 := by
  refine runThread_error h ?_
  simp only [hx, bind, Except.bind]
  rfl

theorem execTagq_eq (hx : w.t.fetch [wr1 d] [rd1 a []] = .ok x) :
    execTagq d a g s = s.threadDone w (x.t.setReg d.toNat (w32 (x.r 0).tag.code) .b32) := by
  refine runThread_ok h ?_
  rw [hx]
  rfl

end

/-! ### The obligation -/

/-- Settles O14: CVT is arithmetic on its elements; the others set their registers to the packed or unpacked elements. -/
theorem formatInstructions : Obligations.FormatInstructions := by
  unfold Obligations.FormatInstructions
  intro s w g d a b h
  refine ⟨fun form c rnd x hx => ?_, fun x hx => ?_, fun x hx => ?_, fun x hx => ?_, fun x hx => ?_, fun c x hx => ⟨fun hc => ?_, fun hc => ?_, ?_⟩⟩
  · refine ⟨fun hu => (exec_cvt form s).trans ?_, fun hu hq => (exec_cvt form s).trans ?_, fun hu hr => (exec_cvt form s).trans ?_⟩
    · exact runThread_error h (cvtBody_unsupported rfl hx hu)
    · rw [runThread_arith h (cvtBody_supported rfl hx hu), State.arithDone_quiet hq]
    · rw [runThread_arith h (cvtBody_supported rfl hx hu), State.arithDone_raised hr]
  · exact execPack16_eq h hx
  · exact execPack8_eq h hx
  · exact runThread_ok h (unpackBody_ok (m := 16) (n := 2) (by decide) hx)
  · exact runThread_ok h (unpackBody_ok (m := 8) (n := 4) (by decide) hx)
  · exact execTag_eq h hx hc
  · exact hc ▸ execTag_acc h hx
  · exact execTagq_eq h hx

end Sys2Proof.Machine

namespace Sys2Proof.Machine

/-! ## The sparse instructions (O15; 03_formats.md R87, R88)

`outranks` is a strict linear order on the places of four elements: by the size of the element, NaNs above infinities above numbers, then by the lower place.
Its two best places are the ones that the count of `keepTwo` selects. -/

/-! ### The order of R87 -/

/-- The size of a value: numbers by their magnitudes, infinities above them, NaNs above all. -/
def FVal.size : FVal → Nat ×ₗ ℚ
  | .nan _ => toLex (2, 0)
  | .inf _ => toLex (1, 0)
  | .num _ m e => toLex (0, m * 2 ^ e)

theorem alignTo_lt_iff (ma mb : Nat) (ea eb : Int) :
    alignTo false ma ea (min ea eb) < alignTo false mb eb (min ea eb) ↔ (ma : ℚ) * 2 ^ ea < (mb : ℚ) * 2 ^ eb := by
  have hscale : ∀ (m : Nat) (e q : Int), q ≤ e → (m : ℚ) * 2 ^ e = (alignTo false m e q : ℚ) * 2 ^ q := by
    intro m e q hq
    have hint : (alignTo false m e q : ℚ) = (m : ℚ) * 2 ^ (e - q).toNat := by simp [alignTo]
    rw [hint, mul_assoc, ← zpow_natCast, ← zpow_add₀ two_ne_zero, Int.toNat_of_nonneg (by omega), Int.sub_add_cancel]
  rw [hscale ma ea _ (min_le_left ea eb), hscale mb eb _ (min_le_right ea eb), mul_lt_mul_iff_left₀ (zpow_pos two_pos _), Int.cast_lt]

@[simp] theorem FVal.isNaN_modify (v : FVal) (neg abs : Bool) : (v.modify neg abs).isNaN = v.isNaN := by
  cases v <;> rfl

theorem FVal.size_eq_of_isNaN {u v : FVal} (hu : u.isNaN = true) (hv : v.isNaN = true) : u.size = v.size := by
  cases u <;> cases hu
  cases v <;> cases hv
  rfl

theorem FVal.size_lt_of_isNaN {u v : FVal} (hu : u.isNaN = false) (hv : v.isNaN = true) : u.size < v.size := by
  cases v <;> cases hv
  cases u <;> cases hu <;> simp [FVal.size, Prod.Lex.toLex_lt_toLex]

section
variable {u v : FVal} (hu : u.isNaN = false) (hv : v.isNaN = false)
include hu hv

/-- Without their signs, values that are no NaNs stand in the order of their sizes. -/
theorem FVal.lt_iff_size : (u.modify false true).lt (v.modify false true) = true ↔ u.size < v.size := by
  match u, v with
  | .nan _, _ => cases hu
  | _, .nan _ => cases hv
  | .inf _, .inf _ | .inf _, .num _ _ _ | .num _ _ _, .inf _ => simp [FVal.modify, FVal.lt, FVal.size, Prod.Lex.toLex_lt_toLex]
  | .num _ ma ea, .num _ mb eb => simp [FVal.modify, FVal.lt, FVal.size, Prod.Lex.toLex_lt_toLex, alignTo_lt_iff]

theorem FVal.eq_iff_size : (u.modify false true).eq (v.modify false true) = true ↔ u.size = v.size := by
  simp only [FVal.eq, FVal.isNaN_modify, hu, hv, Bool.not_false, Bool.true_and, Bool.and_eq_true, Bool.not_eq_true', ← Bool.not_eq_true,
    FVal.lt_iff_size hu hv, FVal.lt_iff_size hv hu, not_lt]
  exact antisymm_iff.trans eq_comm

end

/-- The rank of element i: a larger size comes first, and of one size the lower place. -/
def rankKey (k : EKind) (es : List Nat) (i : Nat) : (Nat ×ₗ ℚ)ᵒᵈ ×ₗ Nat :=
  toLex (OrderDual.toDual (elemValue k .unscaled (nth es i 0)).1.size, i)

theorem rankKey_injective (k : EKind) (es : List Nat) : Function.Injective (rankKey k es) :=
  fun _ _ h => (Prod.ext_iff.1 (toLex_inj.1 h)).2

theorem outranks_iff (k : EKind) (es : List Nat) (i j : Nat) : outranks k es i j = true ↔ rankKey k es i < rankKey k es j := by
  rw [rankKey, rankKey, Prod.Lex.toLex_lt_toLex, OrderDual.toDual_lt_toDual, OrderDual.toDual_inj]
  simp only [outranks, FVal.isNaN_modify]
  set u := (elemValue k .unscaled (nth es i 0)).1
  set v := (elemValue k .unscaled (nth es j 0)).1
  cases hu : u.isNaN <;> cases hv : v.isNaN
  · simp [FVal.lt_iff_size hv hu, FVal.eq_iff_size hu hv]
  · have hlt := FVal.size_lt_of_isNaN hu hv
    simp [hlt.not_gt, hlt.ne]
  · simp [FVal.size_lt_of_isNaN hv hu]
  · simp [FVal.size_eq_of_isNaN hu hv]

/-! ### The two best of four -/

/-- The places of four elements that outrank place i, as the count of `keepTwo` takes them. -/
def betterThan (k : EKind) (es : List Nat) (i : Nat) : List Nat := (upFrom 0 4).filter fun j => j != i && outranks k es j i

theorem mem_betterThan {k : EKind} {es : List Nat} {i j : Nat} : j ∈ betterThan k es i ↔ j < 4 ∧ rankKey k es j < rankKey k es i := by
  simp only [betterThan, List.mem_filter, mem_upFrom, Bool.and_eq_true, bne_iff_ne, outranks_iff]
  constructor
  · rintro ⟨⟨-, hj⟩, -, hr⟩
    exact ⟨by omega, hr⟩
  · rintro ⟨hj, hr⟩
    exact ⟨⟨by omega, by omega⟩, fun he => (he ▸ hr).false, hr⟩

theorem nodup_betterThan (k : EKind) (es : List Nat) (i : Nat) : (betterThan k es i).Nodup :=
  List.Nodup.filter _ (by decide)

/-- Two places of four outrank every other. -/
theorem exists_two_best (k : EKind) (es : List Nat) : ∃ i j, i < j ∧ j < 4 ∧
    (∀ n < 4, n ∉ [i, j] → ∀ m ∈ [i, j], rankKey k es m < rankKey k es n) := by
  have hmin : ∀ S : Finset Nat, S.Nonempty → ∃ i ∈ S, ∀ n ∈ S, n ≠ i → rankKey k es i < rankKey k es n := by
    intro S hS
    obtain ⟨i, hi, hle⟩ := S.exists_min_image (rankKey k es) hS
    exact ⟨i, hi, fun n hn hne => (hle n hn).lt_of_ne fun he => hne (rankKey_injective k es he).symm⟩
  obtain ⟨p, hp, hpmin⟩ := hmin (Finset.range 4) (by decide)
  obtain ⟨q, hq, hqmin⟩ := hmin ((Finset.range 4).erase p) (Finset.card_pos.1 (by rw [Finset.card_erase_of_mem hp]; decide))
  rw [Finset.mem_erase, Finset.mem_range] at hq
  have hbest : ∀ n < 4, n ≠ p → n ≠ q → ∀ m, m = p ∨ m = q → rankKey k es m < rankKey k es n := by
    rintro n hn hnp hnq m (rfl | rfl)
    · exact hpmin n (Finset.mem_range.2 hn) hnp
    · exact hqmin n (Finset.mem_erase.2 ⟨hnp, Finset.mem_range.2 hn⟩) hnq
  simp only [List.mem_cons, List.not_mem_nil, or_false, not_or]
  rcases lt_or_gt_of_ne hq.1 with hlt | hlt
  · exact ⟨q, p, hlt, Finset.mem_range.1 hp, fun n hn hne m hm => hbest n hn hne.2 hne.1 m hm.symm⟩
  · exact ⟨p, q, hlt, hq.2, fun n hn hne m hm => hbest n hn hne.1 hne.2 m hm⟩

/-- Of the two best places, nothing but the other outranks one; both of them outrank every other place. -/
theorem length_betterThan_lt_two {k : EKind} {es : List Nat} {i j n : Nat} (hij : i < j) (hj : j < 4) (hn : n < 4)
    (hbest : ∀ n < 4, n ∉ [i, j] → ∀ m ∈ [i, j], rankKey k es m < rankKey k es n) : (betterThan k es n).length < 2 ↔ n ∈ [i, j] := by
  constructor
  · intro hlen
    by_contra hout
    have hsub : [i, j] ⊆ betterThan k es n := fun m hm => mem_betterThan.2
      ⟨by simp only [List.mem_cons, List.not_mem_nil, or_false] at hm; omega, hbest n hn hout m hm⟩
    exact (List.subperm_of_subset (by simpa using hij.ne) hsub).length_le.not_gt hlen
  · intro hin
    have hsub : betterThan k es n ⊆ [i, j].erase n := fun m hm => by
      obtain ⟨hm4, hr⟩ := mem_betterThan.1 hm
      refine (List.mem_erase_of_ne fun he => (he ▸ hr).false).2 ?_
      by_contra hout
      exact lt_asymm hr (hbest m hm4 hout n hin)
    have hle := (List.subperm_of_subset (nodup_betterThan k es n) hsub).length_le
    rw [List.length_erase_of_mem hin] at hle
    exact Nat.lt_succ_of_le hle

theorem keepTwo_eq_pair (k : EKind) (es : List Nat) : ∃ i j, i < j ∧ j < 4 ∧ keepTwo k es = [i, j] ∧
    ∀ n < 4, n ∉ [i, j] → ∀ m ∈ [i, j], outranks k es m n = true := by
  obtain ⟨i, j, hij, hj, hbest⟩ := exists_two_best k es
  refine ⟨i, j, hij, hj, ?_, fun n hn hout m hm => (outranks_iff k es m n).2 (hbest n hn hout m hm)⟩
  have hkept : keepTwo k es = (upFrom 0 4).filter fun n => decide (n ∈ [i, j]) := by
    refine List.filter_congr fun n hn => ?_
    rw [decide_eq_decide]
    exact length_betterThan_lt_two hij hj (by rw [mem_upFrom] at hn; omega) hbest
  rw [hkept]
  interval_cases j <;> interval_cases i <;> rfl

/-! ### SPC -/

theorem Tag.unpack_of_elems_two {tag : Tag} (h : tag.elems = 2) (v : Word) : tag.unpack v = [tag.elem v 0, tag.elem v 1] := by
  rw [Tag.unpack, h]
  rfl

theorem Tag.unpack_of_elems_four {tag : Tag} (h : tag.elems = 4) (v : Word) :
    tag.unpack v = [tag.elem v 0, tag.elem v 1, tag.elem v 2, tag.elem v 3] := by
  rw [Tag.unpack, h]
  rfl

theorem nth_four (e : Nat → Nat) {i : Nat} (h : i < 4) : nth [e 0, e 1, e 2, e 3] i 0 = e i := by
  interval_cases i <;> rfl

section
variable {s : State} {w : Who} {g : PredField} {d a b : RegField} {x : Fetched} (h : Executes s w g)

include h

theorem execSpcH_eq {tag : Tag} (htag : tag = if (w.t.reg a.toNat).tag ∈ [Tag.bf16x2, .i16x2] then (w.t.reg a.toNat).tag else .f16x2)
    (hx : w.t.fetch [wr2 d] [rd2 a [tag]] = .ok x) {e : Nat → Nat} (he : (x.ws 0).flatMap tag.unpack = [e 0, e 1, e 2, e 3])
    {i j : Nat} (hi : i < 4) (hj : j < 4) (hk : keepTwo tag.kind [e 0, e 1, e 2, e 3] = [i, j]) :
    execSpcH d a g s = s.threadDone w ((x.t.setReg d.toNat (tag.pack [e i, e j]) tag).setReg (d.toNat + 1) (w32 (i + 4 * j)) .b32) := by
  have htag' : (if (w.t.reg a.toNat).tag = .bf16x2 || (w.t.reg a.toNat).tag = .i16x2 then (w.t.reg a.toNat).tag else .f16x2) = tag := by
    simp [htag]
  refine runThread_ok h ?_
  simp only [htag', hx, Except.map, he, hk, List.map, nth_four e hi, nth_four e hj]
  rfl

theorem execSpcB_eq (hx : w.t.fetch [wr1 d] [rd1 a [.e4m3x4, .e5m2x4, .i8x4, .n8x4]] = .ok x) {e : Nat → Nat}
    (he : (x.r 0).tag.unpack (x.v 0) = [e 0, e 1, e 2, e 3]) {i j : Nat} (hi : i < 4) (hj : j < 4)
    (hk : keepTwo (x.r 0).tag.kind [e 0, e 1, e 2, e 3] = [i, j]) :
    execSpcB d a g s = s.threadDone w (x.t.setReg d.toNat (w32 (e i + 256 * e j + 65536 * (i + 4 * j))) (x.r 0).tag) := by
  have hfst : nth [i, j] 0 0 = i := rfl
  have hsnd : nth [i, j] 1 0 = j := rfl
  refine runThread_ok h ?_
  simp only [hx, Except.map, he, hk, hfst, hsnd, nth_four e hi, nth_four e hj]

end

/-! ### SPX -/

/-- Four 16-bit elements, element 0 lowest, as two words. -/
theorem toWords_elements16 (e : Nat → BitVec 16) :
    toWords ([(e 0).toNat, (e 1).toNat, (e 2).toNat, (e 3).toNat].foldr (fun e acc => e + 2 ^ 16 * acc) 0) 2 = [e 1 ++ e 0, e 3 ++ e 2] := by
  have h0 := (e 0).isLt
  have h1 := (e 1).isLt
  have hlow : w32 ([(e 0).toNat, (e 1).toNat, (e 2).toNat, (e 3).toNat].foldr (fun e acc => e + 2 ^ 16 * acc) 0) = e 1 ++ e 0 := by
    refine BitVec.eq_of_toNat_eq ?_
    rw [toNat_append_add, w32, BitVec.toNat_ofNat]
    simp only [List.foldr]
    omega
  have hhigh : w32 ([(e 0).toNat, (e 1).toNat, (e 2).toNat, (e 3).toNat].foldr (fun e acc => e + 2 ^ 16 * acc) 0 / 2 ^ 32) = e 3 ++ e 2 := by
    refine ofNat_of_toNat ?_
    rw [toNat_append_add]
    simp only [List.foldr]
    omega
  rw [toWords, toWords, toWords, hlow, hhigh]

/-- Four 8-bit elements, element 0 lowest, as one word. -/
theorem toWords_elements8 (e : Nat → BitVec 8) :
    toWords ([(e 0).toNat, (e 1).toNat, (e 2).toNat, (e 3).toNat].foldr (fun e acc => e + 2 ^ 8 * acc) 0) 1 = [e 3 ++ e 2 ++ e 1 ++ e 0] := by
  have hword : w32 ([(e 0).toNat, (e 1).toNat, (e 2).toNat, (e 3).toNat].foldr (fun e acc => e + 2 ^ 8 * acc) 0) = e 3 ++ e 2 ++ e 1 ++ e 0 := by
    refine ofNat_of_toNat ?_
    rw [toNat_append_add, toNat_append_add, toNat_append_add]
    simp only [List.foldr]
    omega
  rw [toWords, toWords, hword]

/-- Element k of what SPX leaves of a word: the second kept element at j, the first at i, zero elsewhere (R88). -/
def spxElem (m : Nat) (v : Word) (i j k : Nat) : BitVec m := if k = j then (v >>> m).truncate m else if k = i then v.truncate m else 0

theorem toNat_spxElem (m : Nat) (v : Word) (i j k : Nat) :
    (spxElem m v i j k).toNat = if k = j then slice v.toNat m m else if k = i then slice v.toNat 0 m else 0 := by
  have hfirst := toNat_truncate_shift v 0 m
  rw [BitVec.ushiftRight_zero] at hfirst
  rw [spxElem, apply_ite BitVec.toNat, apply_ite BitVec.toNat, toNat_truncate_shift, hfirst]
  rfl

theorem spx_elements (m : Nat) (v : Word) (i j : Nat) :
    ((upFrom 0 4).map fun k => if k = j then slice v.toNat m m else if k = i then slice v.toNat 0 m else 0) =
      [(spxElem m v i j 0).toNat, (spxElem m v i j 1).toNat, (spxElem m v i j 2).toNat, (spxElem m v i j 3).toNat] := by
  simp only [toNat_spxElem]
  rfl

section
variable {s : State} {w : Who} {g : PredField} {d a b : RegField} {x : Fetched} (h : Executes s w g)
  (hx : w.t.fetch [if (w.t.reg a.toNat).tag.elemBits = 16 then wr2 d else wr1 d] [rd1 a [], w.t.bOperand b []] = .ok x)
include h hx

theorem execSpx_unsupported (hm : (w.t.reg a.toNat).tag.elemBits = 0) : execSpx d a b g s = s.trapped w .formatUnsupported 0 0 := by
  rw [hm, if_neg (by decide)] at hx
  refine runThread_error h ?_
  simp only [hm, OfNat.zero_ne_ofNat, if_false, hx, bind, Except.bind, if_true]
  rfl

theorem execSpx_elements16 (hm : (w.t.reg a.toNat).tag.elemBits = 16) :
    let e := spxElem 16 (x.v 0) ((x.v 1).toNat % 4) ((x.v 1).toNat / 4 % 4)
    execSpx d a b g s = s.threadDone w
      ((x.t.setReg d.toNat (e 1 ++ e 0) (w.t.reg a.toNat).tag).setReg (d.toNat + 1) (e 3 ++ e 2) (w.t.reg a.toNat).tag) := by
  have hi : slice (x.v 1).toNat 0 4 % 4 = (x.v 1).toNat % 4 := by simp only [slice]; omega
  have hj : slice (x.v 1).toNat 0 4 / 4 = (x.v 1).toNat / 4 % 4 := by simp only [slice]; omega
  rw [hm, if_pos rfl] at hx
  refine runThread_ok h ?_
  simp only [hm, if_true, hx, bind, Except.bind, OfNat.ofNat_ne_zero, if_false, hi, hj, spx_elements, Thread.setWide, toWords_elements16]
  rfl

theorem execSpx_elements8 (hm : (w.t.reg a.toNat).tag.elemBits = 8) :
    let e := spxElem 8 (x.v 0) ((x.v 1).toNat / 65536 % 4) ((x.v 1).toNat / 262144 % 4)
    execSpx d a b g s = s.threadDone w (x.t.setReg d.toNat (e 3 ++ e 2 ++ e 1 ++ e 0) (w.t.reg a.toNat).tag) := by
  have hi : slice (x.v 1).toNat 16 4 % 4 = (x.v 1).toNat / 65536 % 4 := by simp only [slice]; omega
  have hj : slice (x.v 1).toNat 16 4 / 4 = (x.v 1).toNat / 262144 % 4 := by simp only [slice]; omega
  rw [hm, if_neg (by decide)] at hx
  refine runThread_ok h ?_
  simp only [hm, Nat.reduceEqDiff, if_false, hx, bind, Except.bind, OfNat.ofNat_ne_zero, hi, hj, spx_elements, Thread.setWide, toWords_elements8]
  rfl

end

/-! ### The obligation -/

/-- Settles O15: SPC keeps the two places that outrank the others, and SPX puts two elements back. -/
theorem sparse : Obligations.Sparse := by
  unfold Obligations.Sparse
  intro s w g d a b h
  refine ⟨fun tag x htag hx => ?_, fun x hx => ?_, fun x hx => ⟨?_, ?_, ?_⟩⟩
  · intro e
    have helems : tag.elems = 2 := by
      rw [htag]
      split
      · next hmem => simp only [List.mem_cons, List.not_mem_nil, or_false] at hmem; rcases hmem with heq | heq <;> rw [heq] <;> rfl
      · rfl
    obtain ⟨u, v, huv⟩ := List.length_eq_two.1 (Thread.length_fetch_ws hx (i := 0) rfl)
    have he : (x.ws 0).flatMap tag.unpack = [e 0, e 1, e 2, e 3] := by
      simp [e, huv, Tag.unpack_of_elems_two helems, nth]
    obtain ⟨i, j, hij, hj, hk, hbest⟩ := keepTwo_eq_pair tag.kind [e 0, e 1, e 2, e 3]
    exact ⟨i, j, hij, hj, hbest, execSpcH_eq h htag hx he (hij.trans hj) hj hk⟩
  · intro tag e
    have helems : tag.elems = 4 := by
      have hmem : tag ∈ [Tag.e4m3x4, .e5m2x4, .i8x4, .n8x4] := Thread.fetch_tag_mem hx rfl (by simp)
      simp only [List.mem_cons, List.not_mem_nil, or_false] at hmem
      rcases hmem with heq | heq | heq | heq <;> rw [heq] <;> rfl
    have he : tag.unpack (x.v 0) = [e 0, e 1, e 2, e 3] := Tag.unpack_of_elems_four helems _
    obtain ⟨i, j, hij, hj, hk, hbest⟩ := keepTwo_eq_pair tag.kind [e 0, e 1, e 2, e 3]
    exact ⟨i, j, hij, hj, hbest, execSpcB_eq h hx he (hij.trans hj) hj hk⟩
  · exact execSpx_unsupported h hx
  · exact execSpx_elements16 h hx
  · exact execSpx_elements8 h hx

end Sys2Proof.Machine

namespace Sys2Proof.Machine

/-! ## The integer and address instructions (O1 to O9; 04_integer.md R90 to R105)

Each of these words runs a body of its thread, of one of a few shapes: it reads its operands and writes what a function of them gives. A lemma `…_ok`
for each shape says what thread it leaves; what then remains of an obligation is that the model's function, which computes on numbers, is the operation
on words that the obligation names. -/

/-! ### Integers as words -/

theorem wrap_eq_toNat_ofInt (v : Int) (n : Nat) : wrap v n = (BitVec.ofInt n v).toNat :=
  (BitVec.toNat_ofInt v).symm

theorem w32_toNat_self (v : Word) : w32 v.toNat = v := by
  rw [w32_toNat, BitVec.zeroExtend_eq_setWidth, BitVec.setWidth_eq]

theorem bitAt_eq_testBit (v i : Nat) : bitAt v i = v.testBit i := by
  rw [Nat.testBit_eq_decide_div_mod_eq, bitAt, beq_eq_decide]

theorem ofInt_natCast_toNat {m n : Nat} (x : BitVec m) : BitVec.ofInt n (x.toNat : Int) = x.zeroExtend n := by
  rw [BitVec.ofInt_natCast, BitVec.ofNat_toNat, BitVec.zeroExtend_eq_setWidth]

/-- Modulo 2^32 a word is the same number whether it is read as signed or as unsigned. -/
theorem ofInt_toInt_eq_ofInt_toNat (x : Word) : BitVec.ofInt 32 x.toInt = BitVec.ofInt 32 (x.toNat : Int) := by
  rw [BitVec.ofInt_toInt, BitVec.ofInt_natCast, BitVec.ofNat_toNat, BitVec.setWidth_eq]

theorem clampInt_signed (v : Int) : clampInt v (-2147483648) 2147483647 = max (-2 ^ 31) (min v (2 ^ 31 - 1)) := by
  simp only [clampInt]
  split_ifs <;> omega

theorem clampInt_unsigned (v : Int) : clampInt v 0 4294967295 = max 0 (min v (2 ^ 32 - 1)) := by
  simp only [clampInt]
  split_ifs <;> omega

theorem satInt_eq_clamped (h : HintLatch) (us ss : Int) : satInt h us ss = clamped h us ss := by
  simp only [satInt, clamped, w32_wrap, clampInt_signed, clampInt_unsigned]
  split_ifs <;> rfl

/-- Where nothing is clamped, the result modulo 2^32 may be taken from the signed result as well. -/
theorem clamped_ite_sx {h : HintLatch} {us ss : Int} (hmod : BitVec.ofInt 32 ss = BitVec.ofInt 32 us) :
    clamped h (if h.sx then ss else us) ss = clamped h us ss := by
  simp only [clamped]
  cases h.sx
  · rfl
  · cases h.sat
    · exact hmod
    · rfl

theorem carryWord_eq_carryOf (c : Bool) (ss : Int) : carryWord c ss = carryOf c ss := by
  have hover : overflows ss = true ↔ ss < -2 ^ 31 ∨ 2 ^ 31 ≤ ss := by
    simp only [overflows, Bool.or_eq_true, decide_eq_true_eq]
    omega
  simp only [carryWord, carryOf, hover]
  cases c <;> split_ifs <;> rfl

/-- The upper half of a 64-bit value. -/
theorem w32_wrap_high (v : Int) : w32 (wrap v 64 / 2 ^ 32) = (BitVec.ofInt 64 v >>> 32).truncate 32 := by
  rw [BitVec.truncate_eq_setWidth, ← BitVec.ofNat_toNat, BitVec.toNat_ushiftRight, Nat.shiftRight_eq_div_pow, wrap_eq_toNat_ofInt]
  rfl

/-- A 64-bit value as a pair of registers. -/
theorem setWide_eq_pairSet (t : Thread) (d : RegField) (v : Int) : t.setWide d.toNat 2 (wrap v 64) .b32 = t.pairSet d (BitVec.ofInt 64 v) := by
  have hlow : w32 (wrap v 64) = (BitVec.ofInt 64 v).truncate 32 := by
    rw [wrap_eq_toNat_ofInt, w32_toNat]
  rw [Thread.setWide, toWords, toWords, toWords, hlow, w32_wrap_high]
  rfl

/-! ### The shapes of bodies -/

/-- A thread with a sum's register and sr.carry written: r holds the exact unsigned and signed results and C (R92, R94). -/
def Thread.summed (t : Thread) (h : HintLatch) (d : RegField) (r : Int × Int × Bool) : Thread :=
  { t.setReg d.toNat (clamped h r.1 r.2.1) .b32 with carry := carryOf r.2.2 r.2.1 }

section
variable {t : Thread} {d a b : RegField} {x : Fetched}

/-- A body that makes a thread of its operands leaves that thread once they are read. -/
theorem map_fetch_ok {dsts : List Grp} {srcs : List Src} {f : Fetched → Thread} (hx : t.fetch dsts srcs = .ok x) :
    (t.fetch dsts srcs).map f = .ok (f x) := by
  rw [hx]
  rfl

theorem addBody_ok {src : Src} {f : Nat → Nat → Int → Int → Int × Int × Bool} (hx : t.fetch [wr1 d] [rd1 a [.b32], src] = .ok x) :
    addBody d src a f t = .ok (x.t.summed t.hints d (f (modInt t.hints.na t.hints.aa (x.v 0)).toNat (modInt t.hints.nb t.hints.ab (x.v 1)).toNat
      (modInt t.hints.na t.hints.aa (x.v 0)).toInt (modInt t.hints.nb t.hints.ab (x.v 1)).toInt)) := by
  rw [addBody, hx, Thread.summed, ← satInt_eq_clamped, ← carryWord_eq_carryOf]
  rfl

theorem intBinary_ok {f : HintLatch → Word → Word → Word} (hx : t.fetch [wr1 d] [rd1 a [.b32], t.bOperand b [.b32]] = .ok x) :
    intBinary d a b f t = .ok (x.t.setReg d.toNat
      (f t.hints (modInt t.hints.na t.hints.aa (x.v 0)) (modInt t.hints.nb t.hints.ab (x.v 1))) .b32) :=
  map_fetch_ok hx

theorem rawBinary_ok {keepTag : Bool} {f : Word → Word → Word} (hx : t.fetch [wr1 d] [rd1 a [], t.bOperand b []] = .ok x) :
    rawBinary d a b keepTag f t = .ok (x.t.setReg d.toNat (f (x.v 0) (x.v 1)) (if keepTag then (x.r 0).tag else .b32)) :=
  map_fetch_ok hx

theorem rawUnary_ok {keepTag : Bool} {f : Word → Word} (hx : t.fetch [wr1 d] [rd1 a []] = .ok x) :
    rawUnary d a keepTag f t = .ok (x.t.setReg d.toNat (f (x.v 0)) (if keepTag then (x.r 0).tag else .b32)) :=
  map_fetch_ok hx

theorem absNegBody_ok {f : Int → Int} (hx : t.fetch [wr1 d] [rd1 a [.b32]] = .ok x) :
    absNegBody d a f t = .ok (x.t.setReg d.toNat (BitVec.ofInt 32 (if t.hints.sat then max (-2 ^ 31) (min (f (x.v 0).toInt) (2 ^ 31 - 1))
      else f (x.v 0).toInt)) .b32) := by
  simp only [absNegBody, hx, Except.map, w32_wrap, clampInt_signed]

theorem intCompare_ok {k : PredField} {c : BitVec 4} {uns : Bool} {m : PredMode}
    (hx : t.fetch [] [rd1 a [.b32], t.bOperand b [.b32]] = .ok x) :
    intCompare k c a b uns m t = .ok (x.t.setPred k.toNat (m.apply (t.pred k.toNat)
      (intCond c.toNat uns (modInt t.hints.na t.hints.aa (x.v 0)) (modInt t.hints.nb t.hints.ab (x.v 1))))) :=
  map_fetch_ok hx

end

/-! ### O1: sums -/

/-- Settles O1: each word is a sum of R94. -/
theorem integerSums : Obligations.IntegerSums := by
  unfold Obligations.IntegerSums
  intro s w g d a h
  exact ⟨fun b x hx => ⟨(runThread_ok h (addBody_ok hx) : execIadd d a b g s = _), (runThread_ok h (addBody_ok hx) : execIsub d a b g s = _),
    (runThread_ok h (addBody_ok hx) : execIadc d a b g s = _)⟩, fun i x hx => (runThread_ok h (addBody_ok hx) : execIaddi d a i g s = _)⟩

/-! ### O2: products (R94, R95) -/

/-- The product of two words as R94 and R95 take it, signed under .SX, in n bits. -/
theorem ofInt_product (n : Nat) (sx : Bool) (u v : Word) :
    BitVec.ofInt n (if sx then u.toInt * v.toInt else (u.toNat * v.toNat : Nat)) =
      if sx then u.signExtend n * v.signExtend n else u.zeroExtend n * v.zeroExtend n := by
  cases sx
  · rw [if_neg Bool.false_ne_true, if_neg Bool.false_ne_true, Int.natCast_mul, BitVec.ofInt_mul, ofInt_natCast_toNat, ofInt_natCast_toNat]
  · rw [if_pos rfl, if_pos rfl, BitVec.ofInt_mul]
    rfl

/-- Modulo 2^32 the multiply-accumulate is the same, signed or unsigned. -/
theorem ofInt_mulAdd_signed (u v z : Word) :
    BitVec.ofInt 32 (u.toInt * v.toInt + z.toInt) = BitVec.ofInt 32 ((u.toNat * v.toNat + z.toNat : Nat) : Int) := by
  rw [Int.natCast_add, Int.natCast_mul, BitVec.ofInt_add, BitVec.ofInt_add, BitVec.ofInt_mul, BitVec.ofInt_mul, ofInt_toInt_eq_ofInt_toNat,
    ofInt_toInt_eq_ofInt_toNat, ofInt_toInt_eq_ofInt_toNat]

/-- A scaled offset is its operand shifted. -/
theorem ofInt_scaled (sx : Bool) (v : Word) (k : Nat) :
    BitVec.ofInt 64 ((if sx then v.toInt else (v.toNat : Int)) * (2 ^ k : Nat)) = (if sx then v.signExtend 64 else v.zeroExtend 64) <<< k := by
  have hv : BitVec.ofInt 64 (if sx then v.toInt else (v.toNat : Int)) = if sx then v.signExtend 64 else v.zeroExtend 64 := by
    cases sx
    · exact ofInt_natCast_toNat v
    · rfl
  have hpow : BitVec.ofNat 64 (2 ^ k) = BitVec.twoPow 64 k := BitVec.eq_of_toNat_eq (by rw [BitVec.toNat_ofNat, BitVec.toNat_twoPow])
  rw [BitVec.ofInt_mul, hv, BitVec.ofInt_natCast, BitVec.shiftLeft_eq_mul_twoPow, hpow]

section
variable {s : State} {w : Who} {g : PredField} {d a b : RegField} {x : Fetched} (h : Executes s w g)
include h

theorem execImul_eq (hx : w.t.fetch [wr1 d] [rd1 a [.b32], w.t.bOperand b [.b32]] = .ok x) :
    let ua := modInt w.t.hints.na w.t.hints.aa (x.v 0)
    let ub := modInt w.t.hints.nb w.t.hints.ab (x.v 1)
    execImul d a b g s = s.threadDone w (x.t.setReg d.toNat (clamped w.t.hints (ua.toNat * ub.toNat) (ua.toInt * ub.toInt)) .b32) := by
  intro ua ub
  rw [← satInt_eq_clamped, ← Int.natCast_mul]
  exact runThread_ok h (intBinary_ok hx)

theorem execImulh_eq (hx : w.t.fetch [wr1 d] [rd1 a [.b32], w.t.bOperand b [.b32]] = .ok x) :
    let ua := modInt w.t.hints.na w.t.hints.aa (x.v 0)
    let ub := modInt w.t.hints.nb w.t.hints.ab (x.v 1)
    execImulh d a b g s = s.threadDone w (x.t.setReg d.toNat
      (((if w.t.hints.sx then ua.signExtend 64 * ub.signExtend 64 else ua.zeroExtend 64 * ub.zeroExtend 64) >>> 32).truncate 32) .b32) := by
  intro ua ub
  rw [← ofInt_product, ← w32_wrap_high]
  exact runThread_ok h (intBinary_ok hx)

theorem execImad_eq (hx : w.t.fetch [wr1 d] [rd1 a [.b32], w.t.bOperand b [.b32], rd1 d [.b32]] = .ok x) :
    let ua := modInt w.t.hints.na w.t.hints.aa (x.v 0)
    let ub := modInt w.t.hints.nb w.t.hints.ab (x.v 1)
    execImad d a b g s = s.threadDone w (x.t.setReg d.toNat
      (clamped w.t.hints (ua.toNat * ub.toNat + (x.v 2).toNat) (ua.toInt * ub.toInt + (x.v 2).toInt)) .b32) := by
  intro ua ub
  rw [← Int.natCast_mul, ← Int.natCast_add, ← clamped_ite_sx (ofInt_mulAdd_signed ua ub (x.v 2)), ← satInt_eq_clamped]
  exact runThread_ok h (map_fetch_ok hx)

theorem execImadw_eq (hx : w.t.fetch [wr2 d] [rd1 a [.b32], w.t.bOperand b [.b32], rd2 d [.b32]] = .ok x) :
    let ua := modInt w.t.hints.na w.t.hints.aa (x.v 0)
    let ub := modInt w.t.hints.nb w.t.hints.ab (x.v 1)
    execImadw d a b g s = s.threadDone w (x.t.pairSet d
      ((if w.t.hints.sx then ua.signExtend 64 * ub.signExtend 64 else ua.zeroExtend 64 * ub.zeroExtend 64) + BitVec.ofNat 64 (x.n 2))) := by
  intro ua ub
  rw [← ofInt_product, ← BitVec.ofInt_natCast, ← BitVec.ofInt_add, ← setWide_eq_pairSet]
  exact runThread_ok h (map_fetch_ok hx)

theorem execLea_eq (hx : w.t.fetch [wr2 d] [rd2 a [.b32], w.t.bOperand b [.b32]] = .ok x) :
    let ub := modInt w.t.hints.nb w.t.hints.ab (x.v 1)
    execLea d a b g s = s.threadDone w (x.t.pairSet d
      (BitVec.ofNat 64 (x.n 0) + ((if w.t.hints.sx then ub.signExtend 64 else ub.zeroExtend 64) <<< w.t.hints.shf))) := by
  intro ub
  rw [← ofInt_scaled, ← BitVec.ofInt_natCast, ← BitVec.ofInt_add, ← setWide_eq_pairSet]
  exact runThread_ok h (map_fetch_ok hx)

end

/-- Settles O2: a product modulo a power of two is the product of the extended operands. -/
theorem integerProducts : Obligations.IntegerProducts := by
  unfold Obligations.IntegerProducts
  intro s w g d a b h
  exact ⟨fun x hx => ⟨execImul_eq h hx, execImulh_eq h hx⟩, fun x hx => execImad_eq h hx, fun x hx => execImadw_eq h hx,
    fun x hx => execLea_eq h hx⟩

/-! ### O3: minima and maxima (R96) -/

/-- The choice by a strict comparison is the minimum of a reading f of words that ofReading takes back. -/
theorem ite_lt_eq_min {α : Type} [LinearOrder α] {f : Word → α} {ofReading : α → Word} (hf : ∀ v, ofReading (f v) = v) (u v : Word) :
    (if f v < f u then v else u) = ofReading (min (f u) (f v)) := by
  split_ifs with hlt
  · rw [min_eq_right hlt.le, hf]
  · rw [min_eq_left (not_lt.1 hlt), hf]

theorem ite_lt_eq_max {α : Type} [LinearOrder α] {f : Word → α} {ofReading : α → Word} (hf : ∀ v, ofReading (f v) = v) (u v : Word) :
    (if f u < f v then v else u) = ofReading (max (f u) (f v)) := by
  split_ifs with hlt
  · rw [max_eq_right hlt.le, hf]
  · rw [max_eq_left (not_lt.1 hlt), hf]

/-- Settles O3: each word chooses by the comparison of its operands as integers or as numbers. -/
theorem integerMinMax : Obligations.IntegerMinMax := by
  unfold Obligations.IntegerMinMax
  intro s w g d a b x h hx u v
  have hint : ∀ z : Word, BitVec.ofInt 32 z.toInt = z := fun z => BitVec.ofInt_toInt
  have hnat : ∀ z : Word, BitVec.ofNat 32 z.toNat = z := w32_toNat_self
  rw [← ite_lt_eq_min hint, ← ite_lt_eq_max hint, ← ite_lt_eq_min hnat, ← ite_lt_eq_max hnat]
  simp only [← BitVec.slt_iff_toInt_lt, ← BitVec.ult_iff_toNat_lt]
  exact ⟨runThread_ok h (intBinary_ok hx), runThread_ok h (intBinary_ok hx), runThread_ok h (intBinary_ok hx),
    runThread_ok h (intBinary_ok hx)⟩

/-! ### O4: logic (R97) -/

theorem popCount_eq_countP (v n : Nat) : popCount v n = (List.range n).countP v.testBit := by
  induction n generalizing v with
  | zero => rfl
  | succ n ih =>
    have hhead : v % 2 = if v.testBit 0 then 1 else 0 := by
      rcases Nat.mod_two_eq_zero_or_one v with hbit | hbit <;> simp [hbit]
    have htail : (v.testBit ∘ Nat.succ) = (v / 2).testBit := funext fun i => Nat.testBit_succ v i
    rw [popCount, ih, List.range_succ_eq_map, List.countP_cons, List.countP_map, htail, ← hhead, Nat.add_comm]

theorem w32_log2_eq_clz {v : Word} (hv : v ≠ 0) : w32 (31 - v.toNat.log2) = v.clz := by
  have hclz : v.clz.toNat < 32 := by
    simpa [BitVec.lt_def] using BitVec.clz_lt_iff_ne_zero.2 hv
  have hlog : v.toNat.log2 = 31 - v.clz.toNat := by
    refine (Nat.log2_eq_iff fun h0 => hv (BitVec.eq_of_toNat_eq h0)).2 ⟨BitVec.two_pow_sub_clz_le_toNat_of_ne_zero (by decide) hv, ?_⟩
    rw [show 31 - v.clz.toNat + 1 = 32 - v.clz.toNat by omega]
    exact BitVec.toNat_lt_two_pow_sub_clz
  rw [hlog, show 31 - (31 - v.clz.toNat) = v.clz.toNat by omega, w32_toNat_self]

theorem clz_eq (v : Word) : (if v = 0 then 32 else w32 (31 - v.toNat.log2)) = v.clz := by
  split_ifs with h0
  · rw [h0]
    rfl
  · exact w32_log2_eq_clz h0

theorem bitList_eq_map (v n : Nat) : bitList v n = (List.range n).map v.testBit := by
  induction n generalizing v with
  | zero => rfl
  | succ n ih =>
    have htail : (v.testBit ∘ Nat.succ) = (v / 2).testBit := funext fun i => Nat.testBit_succ v i
    rw [bitList, ih, List.range_succ_eq_map, List.map_cons, List.map_map, htail, Nat.testBit_zero]
    rfl

theorem testBit_ofBits (l : List Bool) (i : Nat) : (ofBits l).testBit i = l.getD i false := by
  induction l generalizing i with
  | nil => simp [ofBits]
  | cons b r ih =>
    have hhalf : ofBits (b :: r) / 2 = ofBits r := by
      rw [ofBits]
      split_ifs <;> omega
    cases i with
    | zero => cases b <;> simp [ofBits, Nat.testBit_zero]
    | succ i => rw [Nat.testBit_succ, hhalf, ih, List.getD_cons_succ]

theorem w32_ofBits_reverse_eq_reverse (v : Word) : w32 (ofBits (bitList v.toNat 32).reverse) = v.reverse := by
  refine BitVec.eq_of_getLsbD_eq fun i hi => ?_
  rw [w32, BitVec.getLsbD_ofNat, testBit_ofBits, BitVec.getLsbD_reverse, BitVec.getMsbD_eq_getLsbD, bitList_eq_map]
  simp [hi, BitVec.testBit_toNat]

/-- Settles O4: the operation of each word is its operation on bit vectors. -/
theorem logic : Obligations.Logic := by
  unfold Obligations.Logic
  intro s w g d a h
  refine ⟨fun b x hx => ⟨runThread_ok h (rawBinary_ok hx), runThread_ok h (rawBinary_ok hx), runThread_ok h (rawBinary_ok hx),
    runThread_ok h (rawBinary_ok hx)⟩, fun x hx => ⟨runThread_ok h (rawUnary_ok hx), ?_, ?_, ?_⟩⟩
  · refine (runThread_ok h (rawUnary_ok hx)).trans ?_
    rw [popCount_eq_countP]
    rfl
  · rw [← clz_eq]
    exact runThread_ok h (rawUnary_ok hx)
  · rw [← w32_ofBits_reverse_eq_reverse]
    exact runThread_ok h (rawUnary_ok hx)

/-! ### O5: shifts (R99) -/

theorem shiftL_eq (v : Word) (n : Nat) : shiftL v n = v <<< n := by
  rw [shiftL]
  split_ifs with hn
  · exact (BitVec.shiftLeft_eq_zero hn).symm
  · refine BitVec.eq_of_toNat_eq ?_
    rw [w32, BitVec.toNat_ofNat, BitVec.toNat_shiftLeft, Nat.shiftLeft_eq]

theorem shiftR_eq (v : Word) (n : Nat) : shiftR v n = v >>> n := by
  rw [shiftR]
  split_ifs with hn
  · exact (BitVec.ushiftRight_eq_zero hn).symm
  · rw [← Nat.shiftRight_eq_div_pow, ← BitVec.toNat_ushiftRight, w32_toNat_self]

/-- Past 32 places nothing but the sign is left, which is what 32 places leave. -/
theorem toInt_ediv_two_pow_min (v : Word) (n : Nat) : v.toInt / (2 ^ min n 32 : Nat) = v.toInt / (2 ^ n : Nat) := by
  rcases Nat.le_total n 32 with hn | hn
  · rw [min_eq_left hn]
  · have hpow : (2 ^ 32 : Int) ≤ (2 ^ n : Nat) := by exact_mod_cast Nat.pow_le_pow_right (by decide) hn
    have hlo : -2 ^ 31 ≤ v.toInt := BitVec.le_toInt v
    have hhi : v.toInt < 2 ^ 31 := BitVec.toInt_lt
    rw [min_eq_right hn]
    rcases lt_or_ge v.toInt 0 with hneg | hpos
    · rw [Int.ediv_eq_neg_one_of_neg_of_le hneg (by omega), Int.ediv_eq_neg_one_of_neg_of_le hneg (by omega)]
    · rw [Int.ediv_eq_zero_of_lt hpos (by omega), Int.ediv_eq_zero_of_lt hpos (by omega)]

theorem shiftA_eq (v : Word) (n : Nat) : shiftA v n = v.sshiftRight n := by
  rw [shiftA, w32_wrap, toInt_ediv_two_pow_min, BitVec.sshiftRight_eq, Int.shiftRight_eq_div_pow]

theorem rotateL_eq (v : Word) (n : Nat) : rotateL v n = v.rotateLeft n := by
  have hmod : n % 32 < 32 := Nat.mod_lt _ (by decide)
  have hleft : w32 (v.toNat * 2 ^ (n % 32)) = v <<< (n % 32) := by
    rw [← shiftL_eq, shiftL, if_neg (by omega)]
  have hright : w32 (v.toNat / 2 ^ (32 - n % 32)) = v >>> (32 - n % 32) := by
    rw [← Nat.shiftRight_eq_div_pow, ← BitVec.toNat_ushiftRight, w32_toNat_self]
  have hdisjoint : v <<< (n % 32) &&& v >>> (32 - n % 32) = 0#32 := by
    refine BitVec.eq_of_getLsbD_eq fun i hi => ?_
    rw [BitVec.getLsbD_and, BitVec.getLsbD_shiftLeft, BitVec.getLsbD_ushiftRight, BitVec.getLsbD_zero]
    rcases Nat.lt_or_ge i (n % 32) with hlt | hge
    · simp [hlt]
    · simp [BitVec.getLsbD_of_ge v (32 - n % 32 + i) (by omega)]
  rw [BitVec.rotateLeft_def, ← BitVec.add_eq_or_of_and_eq_zero _ _ hdisjoint, ← hleft, ← hright, rotateL, w32, w32, w32, BitVec.ofNat_add]

/-- Settles O5: each shift of numbers is that of bit vectors. -/
theorem shifts : Obligations.Shifts := by
  unfold Obligations.Shifts
  intro s w g d a h
  simp only [← shiftL_eq, ← shiftR_eq, ← shiftA_eq, ← rotateL_eq]
  exact ⟨fun b x hx => ⟨runThread_ok h (rawBinary_ok hx), runThread_ok h (rawBinary_ok hx), runThread_ok h (rawBinary_ok hx),
      runThread_ok h (rawBinary_ok hx)⟩,
    fun n x hx => ⟨runThread_ok h (rawUnary_ok hx), runThread_ok h (rawUnary_ok hx), runThread_ok h (rawUnary_ok hx),
      runThread_ok h (rawUnary_ok hx)⟩⟩

/-! ### O6: bit fields and SEL (R100, R101) -/

/-- Where the field that operand b gives begins (R100). -/
def bitFieldPos (v : Word) : Nat := v.toNat % 256

/-- Its width, clipped at bit 31. -/
def bitFieldWid (v : Word) : Nat := min (v.toNat / 256 % 256) (32 - bitFieldPos v)

theorem slice_bitFieldPos (v : Word) : slice v.toNat 0 8 = bitFieldPos v := by
  rw [slice, Nat.pow_zero, Nat.div_one]
  rfl

theorem slice_bitFieldWid (v : Word) : min (slice v.toNat 8 8) (32 - bitFieldPos v) = bitFieldWid v := rfl

/-- R100's case of no field is that of a field clipped to no bits. -/
theorem noField_iff (pos wid : Nat) : (decide (32 ≤ pos) || decide (wid = 0)) = true ↔ min wid (32 - pos) = 0 := by
  simp only [Bool.or_eq_true, decide_eq_true_eq]
  omega

/-- The field, a bit vector of its own width. -/
def bitFieldBits (u v : Word) : BitVec (bitFieldWid v) := (u >>> bitFieldPos v).truncate (bitFieldWid v)

theorem getLsbD_bitFieldBits (u v : Word) (i : Nat) :
    (bitFieldBits u v).getLsbD i = (decide (i < bitFieldWid v) && u.getLsbD (bitFieldPos v + i)) := by
  rw [bitFieldBits, BitVec.truncate_eq_setWidth, BitVec.getLsbD_setWidth, BitVec.getLsbD_ushiftRight]

/-- BFX and BFX.S extend the field. -/
theorem bitField_eq (isSigned : Bool) (u v : Word) :
    bitField isSigned u v = if bitFieldWid v = 0 then 0
      else if isSigned then (bitFieldBits u v).signExtend 32 else (bitFieldBits u v).zeroExtend 32 := by
  have hslice : slice u.toNat (bitFieldPos v) (bitFieldWid v) = (bitFieldBits u v).toNat := (toNat_truncate_shift u _ _).symm
  simp only [bitField, slice_bitFieldPos, slice_bitFieldWid, noField_iff, hslice]
  split_ifs with h0
  · rfl
  · exact w32_wrap_signed _ (Nat.pos_of_ne_zero h0)
  · exact w32_toNat _

theorem getLsbD_bitField_unsigned (u v : Word) {i : Nat} (hi : i < 32) :
    (bitField false u v).getLsbD i = (decide (i < bitFieldWid v) && u.getLsbD (bitFieldPos v + i)) := by
  rw [bitField_eq, if_neg Bool.false_ne_true]
  split_ifs with h0
  · rw [decide_eq_false (by omega), Bool.false_and]
    exact BitVec.getLsbD_zero
  · rw [BitVec.zeroExtend_eq_setWidth, BitVec.getLsbD_setWidth, getLsbD_bitFieldBits, decide_eq_true hi, Bool.true_and]

/-- From the field's topmost bit on, each bit is that bit. -/
theorem getLsbD_bitField_signed (u v : Word) {i : Nat} (hi : i < 32) :
    (bitField true u v).getLsbD i = (decide (0 < bitFieldWid v) && u.getLsbD (bitFieldPos v + min i (bitFieldWid v - 1))) := by
  rw [bitField_eq, if_pos rfl]
  split_ifs with h0
  · rw [decide_eq_false (by omega), Bool.false_and]
    exact BitVec.getLsbD_zero
  · rw [BitVec.getLsbD_signExtend, BitVec.msb_eq_getLsbD_last, getLsbD_bitFieldBits, getLsbD_bitFieldBits, decide_eq_true hi,
      decide_eq_true (by omega : 0 < bitFieldWid v), Bool.true_and, Bool.true_and]
    split_ifs with hin
    · rw [min_eq_left (by omega), decide_eq_true hin, Bool.true_and]
    · rw [min_eq_right (by omega), decide_eq_true (by omega), Bool.true_and]

theorem getLsbD_bitInsert (old u v : Word) {i : Nat} (hi : i < 32) :
    (bitInsert old u v).getLsbD i =
      if bitFieldPos v ≤ i ∧ i < bitFieldPos v + bitFieldWid v then u.getLsbD (i - bitFieldPos v) else old.getLsbD i := by
  simp only [bitInsert, slice_bitFieldPos, slice_bitFieldWid, noField_iff]
  by_cases h0 : bitFieldWid v = 0
  · rw [if_pos h0, if_neg (by omega)]
  · rw [if_neg h0, w32, BitVec.getLsbD_ofNat, testBit_putSlice, decide_eq_true hi, Bool.true_and, BitVec.testBit_toNat, BitVec.testBit_toNat]

section
variable {s : State} {w : Who} {g : PredField} {d a b : RegField} {x : Fetched} (h : Executes s w g)
include h

theorem execBfi_eq (hx : w.t.fetch [wr1 d] [rd1 a [], w.t.bOperand b [], rd1 d []] = .ok x) :
    execBfi d a b g s = s.threadDone w (x.t.setReg d.toNat (bitInsert (x.v 2) (x.v 0) (x.v 1)) .b32) :=
  runThread_ok h (map_fetch_ok hx)

theorem execSel_eq (hx : w.t.fetch [wr1 d] [rd1 a [], w.t.bOperand b [], .regs (w.t.hints.cReg.getD d.toNat) 1 1 []] = .ok x) :
    execSel d a b g s = s.threadDone w (x.t.setReg d.toNat ((x.v 0 &&& x.v 2) ||| (x.v 1 &&& ~~~(x.v 2)))
      (if (x.r 0).tag = (x.r 1).tag then (x.r 0).tag else .b32)) :=
  runThread_ok h (map_fetch_ok hx)

end

/-- Settles O6: the extracted and inserted fields bit by bit, and SEL. -/
theorem bitFields : Obligations.BitFields := by
  unfold Obligations.BitFields
  intro s w g d a b h
  refine ⟨fun x hx => ⟨bitField false (x.v 0) (x.v 1), bitField true (x.v 0) (x.v 1), ?_, ?_, fun i hi => ⟨?_, ?_⟩⟩,
    fun x hx => ⟨bitInsert (x.v 2) (x.v 0) (x.v 1), ?_, fun i hi => ?_⟩, fun x hx => ?_⟩
  · exact runThread_ok h (rawBinary_ok hx)
  · exact runThread_ok h (rawBinary_ok hx)
  · exact getLsbD_bitField_unsigned _ _ hi
  · exact getLsbD_bitField_signed _ _ hi
  · exact execBfi_eq h hx
  · exact getLsbD_bitInsert _ _ _ hi
  · exact execSel_eq h hx

/-! ### O7: compares and predicates (R102 to R104) -/

/-- The condition of each assigned code, LT, LE, GT and GE unsigned where asked (R102). -/
def IntCondHolds (c : BitVec 4) (uns : Bool) (u v : Word) : Prop :=
  (c = 0 → u = v) ∧ (c = 1 → u ≠ v) ∧
  (c = 2 → if uns then u.toNat < v.toNat else u.toInt < v.toInt) ∧ (c = 3 → if uns then u.toNat ≤ v.toNat else u.toInt ≤ v.toInt) ∧
  (c = 4 → if uns then v.toNat < u.toNat else v.toInt < u.toInt) ∧ (c = 5 → if uns then v.toNat ≤ u.toNat else v.toInt ≤ u.toInt) ∧
  (c = 6 → u.toNat < v.toNat) ∧ (c = 7 → u.toNat ≤ v.toNat) ∧ (c = 8 → v.toNat < u.toNat) ∧ (c = 9 → v.toNat ≤ u.toNat) ∧
  (c = 10 → u &&& v ≠ 0) ∧ (c = 11 → u &&& v = 0)

/-- The codes below 12, which are those that have a condition. -/
theorem intCode_cases (c : BitVec 4) :
    c.toNat < 12 → c = 0 ∨ c = 1 ∨ c = 2 ∨ c = 3 ∨ c = 4 ∨ c = 5 ∨ c = 6 ∨ c = 7 ∨ c = 8 ∨ c = 9 ∨ c = 10 ∨ c = 11 := by
  revert c
  decide

/-- The model's conditions compare as the table of R102 says, code by code. -/
theorem intCond_iff {c : BitVec 4} (hc : c.toNat < 12) (uns : Bool) (u v : Word) : intCond c.toNat uns u v = true ↔ IntCondHolds c uns u v := by
  rcases intCode_cases c hc with rfl | rfl | rfl | rfl | rfl | rfl | rfl | rfl | rfl | rfl | rfl | rfl
  all_goals
    cases uns <;>
      simp [intCond, IntCondHolds, BitVec.slt_iff_toInt_lt, BitVec.sle_iff_toInt_le, BitVec.ult_iff_toNat_lt, BitVec.ule_iff_toNat_le]

section
variable {s : State} {w : Who} {g : PredField} {d a : RegField} {x : Fetched} (h : Executes s w g)
include h

theorem execPset_eq (k : PredField) (tt : BitVec 4) (i j : PredField) :
    execPset k tt i j g s = s.threadDone w (w.t.setPred k.toNat
      (tt.getLsbD (2 * (w.t.pred i.toNat).toNat + (w.t.pred j.toNat).toNat))) := by
  refine runThread_ok h ?_
  rw [bitAt_eq_testBit, BitVec.testBit_toNat]
  cases w.t.pred i.toNat <;> cases w.t.pred j.toNat <;> rfl

theorem execPtox_eq (hx : w.t.fetch [wr1 d] [] = .ok x) :
    execPtox d g s = s.threadDone w (x.t.setReg d.toNat ((1#1 ++ w.t.preds).zeroExtend 32) .b32) := by
  have hpreds : w32 (w.t.preds.toNat + 128) = (1#1 ++ w.t.preds).zeroExtend 32 := by
    rw [← w32_toNat, toNat_append_add, Nat.add_comm]
    rfl
  rw [← hpreds]
  exact runThread_ok h (map_fetch_ok hx)

theorem execXtop_eq (hx : w.t.fetch [] [rd1 a []] = .ok x) :
    execXtop a g s = s.threadDone w { x.t with preds := (x.v 0).truncate 7 } :=
  runThread_ok h (map_fetch_ok hx)

end

/-- Settles O7: a compare writes its condition, and PSET, PTOX and XTOP the bits they name. -/
theorem compares : Obligations.Compares := by
  unfold Obligations.Compares
  intro s w g k h
  refine ⟨fun c a b x hc hx => ⟨_, _, intCond_iff hc false _ _, intCond_iff hc true _ _, ?_, ?_, ?_, ?_⟩, fun tt i j => execPset_eq h k tt i j,
    fun d x hx => execPtox_eq h hx, fun a x hx => execXtop_eq h hx⟩
  · exact runThread_ok h (intCompare_ok hx)
  · exact runThread_ok h (intCompare_ok hx)
  · exact runThread_ok h (intCompare_ok hx)
  · exact runThread_ok h (intCompare_ok hx)

/-! ### O8: moves and immediates (R44, R93, R97, R98) -/

theorem imm9_of_some {t : Thread} {p : BitVec 24} (hp : t.hints.imm = some p) (i : BitVec 9) (isSigned : Bool) :
    t.imm9 i isSigned = p ++ (i.truncate 8 : BitVec 8) := by
  simp only [Thread.imm9, hp]
  exact ofNat_of_toNat (toNat_append_add p (i.truncate 8 : BitVec 8)).symm

theorem imm9_of_none {t : Thread} (hn : t.hints.imm = none) (i : BitVec 9) : t.imm9 i false = i.zeroExtend 32 := by
  simp only [Thread.imm9, hn]
  rfl

section
variable {s : State} {w : Who} {g : PredField} {d a : RegField} {x : Fetched} (h : Executes s w g)
include h

theorem execMovi_of_some {p : BitVec 24} (hp : w.t.hints.imm = some p) (i : BitVec 16) (hx : w.t.fetch [wr1 d] [] = .ok x) :
    execMovi d i g s = s.threadDone w (x.t.setReg d.toNat ((p.truncate 16 : BitVec 16) ++ i) .b32) := by
  have himm : w32 (p.toNat % 65536 * 65536 + i.toNat) = (p.truncate 16 : BitVec 16) ++ i :=
    ofNat_of_toNat (toNat_append_add (p.truncate 16 : BitVec 16) i).symm
  refine runThread_ok h ?_
  simp only [hx, Except.map, hp, himm]

theorem execMovi_of_none (hn : w.t.hints.imm = none) (i : BitVec 16) (hx : w.t.fetch [wr1 d] [] = .ok x) :
    execMovi d i g s = s.threadDone w (x.t.setReg d.toNat (i.signExtend 32) .b32) := by
  refine runThread_ok h ?_
  simp only [hx, Except.map, hn]

/-- |v| is at least 0, so that only its upper bound clamps it. -/
theorem execIabs_eq (hx : w.t.fetch [wr1 d] [rd1 a [.b32]] = .ok x) :
    execIabs d a g s = s.threadDone w (x.t.setReg d.toNat (BitVec.ofInt 32
      (if w.t.hints.sat then min |(x.v 0).toInt| (2 ^ 31 - 1) else |(x.v 0).toInt|)) .b32) := by
  have hlow : -2 ^ 31 ≤ min |(x.v 0).toInt| (2 ^ 31 - 1) := le_min (le_trans (by decide) (abs_nonneg _)) (by decide)
  rw [← max_eq_right hlow, Int.abs_eq_natAbs]
  exact runThread_ok h (absNegBody_ok hx)

theorem execIneg_eq (hx : w.t.fetch [wr1 d] [rd1 a [.b32]] = .ok x) :
    execIneg d a g s = s.threadDone w (x.t.setReg d.toNat (BitVec.ofInt 32
      (if w.t.hints.sat then min (-(x.v 0).toInt) (2 ^ 31 - 1) else -(x.v 0).toInt)) .b32) := by
  have hhigh : (x.v 0).toInt < 2 ^ 31 := BitVec.toInt_lt
  have hlow : -2 ^ 31 ≤ min (-(x.v 0).toInt) (2 ^ 31 - 1) := by omega
  rw [← max_eq_right hlow]
  exact runThread_ok h (absNegBody_ok hx)

end

/-- Settles O8: each immediate with and without HINT.IMM; IABS and INEG clamp from above alone. -/
theorem movesAndImmediates : Obligations.MovesAndImmediates := by
  unfold Obligations.MovesAndImmediates
  intro s w g d a h
  refine ⟨fun i x hx => ?_, fun i x hx => ?_, fun x hx => ⟨execIabs_eq h hx, execIneg_eq h hx⟩⟩
  · cases hp : w.t.hints.imm with
    | none => exact execMovi_of_none h hp i hx
    | some p => exact execMovi_of_some h hp i hx
  · intro imm
    have himm : imm = w.t.imm9 i false := by
      cases hp : w.t.hints.imm with
      | none => simp only [imm, hp, imm9_of_none hp]
      | some p => simp only [imm, hp, imm9_of_some hp]
    rw [himm]
    refine ⟨?_, ?_, ?_⟩
    · exact runThread_ok h (rawUnary_ok hx)
    · exact (runThread_ok h (rawUnary_ok hx) : execAndi d a i g s = _)
    · exact (runThread_ok h (rawUnary_ok hx) : execOri d a i g s = _)

/-! ### O9: dot products (R105) -/

/-- Element i of a word in a view of R105, m bits wide, signed or unsigned. -/
def dotElem (m : Nat) (isSigned : Bool) (v : Word) (i : Nat) : Int :=
  if isSigned then ((v >>> (m * i)).truncate m : BitVec m).toInt else ((v >>> (m * i)).truncate m : BitVec m).toNat

theorem view_eq_dotElem {m : Nat} (hm : 0 < m) (isSigned : Bool) (v : Word) (i : Nat) :
    (if isSigned then signed (slice v.toNat (i * m) m) m else (slice v.toNat (i * m) m : Int)) = dotElem m isSigned v i := by
  rw [dotElem, Nat.mul_comm i, ← toNat_truncate_shift, signed_toNat _ hm]

/-- A dot product in the order of its elements. -/
theorem dotBody_ok {t : Thread} {d a b : RegField} {x : Fetched} {wantA wantB : List Tag} {m n : Nat} {sa sb uns : Bool} (hm : 0 < m)
    (hx : t.fetch [wr1 d] [rd1 a wantA, t.bOperand b wantB, rd1 d [.b32]] = .ok x) {e : Int}
    (he : (upFrom 0 n).foldl (fun e i => e + dotElem m sa (x.v 0) i * dotElem m sb (x.v 1) i)
      (if uns then ((x.v 2).toNat : Int) else (x.v 2).toInt) = e) :
    dotBody d a b wantA wantB m n sa sb uns t = .ok (x.t.setReg d.toNat (BitVec.ofInt 32
      (if !t.hints.sat then e else if uns then max 0 (min e (2 ^ 32 - 1)) else max (-2 ^ 31) (min e (2 ^ 31 - 1)))) .b32) := by
  simp only [dotBody, hx, Except.map, view_eq_dotElem hm, he, w32_wrap, clampInt_signed, clampInt_unsigned]
  cases t.hints.sat <;> rfl

/-- Settles O9: each dot product adds its elements' products to the old register in order. -/
theorem dotProducts : Obligations.DotProducts := by
  unfold Obligations.DotProducts
  intro s w g d a b h
  refine ⟨fun x hx => ?_, fun x hx => ?_, fun x hx => ?_, fun x hx => ?_⟩
  · exact (runThread_ok h (dotBody_ok (by decide) hx rfl) : execIdot4 d a b g s = _)
  · exact (runThread_ok h (dotBody_ok (by decide) hx rfl) : execIdot4N d a b g s = _)
  · exact (runThread_ok h (dotBody_ok (by decide) hx rfl) : execIdot4Sn d a b g s = _)
  · exact (runThread_ok h (dotBody_ok (by decide) hx rfl) : execIdot2 d a b g s = _)

end Sys2Proof.Machine

namespace Sys2Proof.Machine

/-! ## Binary floating point (O60; 03_formats.md R63, R64, R77, R78)

A finite pattern of a format stands for mantissa × 2^e with e the weight of its last bit, so that rounding to the format's precision drops nothing. -/

theorem slice_lt (v lo n : Nat) : slice v lo n < 2 ^ n := Nat.mod_lt _ (Nat.two_pow_pos n)

/-! ### Fields -/

/-- The exponent and mantissa fields of a pattern. -/
def FloatFmt.expField (f : FloatFmt) (b : Nat) : Nat := slice b f.mw f.ew
def FloatFmt.manField (f : FloatFmt) (b : Nat) : Nat := slice b 0 f.mw

/-- A pattern is made of its three fields. -/
theorem FloatFmt.pack_fields (f : FloatFmt) {b : Nat} (hb : b < 2 ^ f.width) :
    f.pack (bitAt b (f.ew + f.mw)) (f.expField b) (f.manField b) = b := by
  have hsign : (if bitAt b (f.ew + f.mw) then 2 ^ (f.ew + f.mw) else 0) = b / 2 ^ (f.ew + f.mw) * 2 ^ (f.ew + f.mw) := by
    have hlt : b / 2 ^ (f.ew + f.mw) < 2 := by
      rw [Nat.div_lt_iff_lt_mul (Nat.two_pow_pos _), ← Nat.pow_succ']
      exact hb.trans_eq (congrArg (2 ^ ·) (by rw [FloatFmt.width]; omega))
    rw [bitAt, Nat.mod_eq_of_lt hlt]
    interval_cases b / 2 ^ (f.ew + f.mw) <;> simp
  have hlow : slice b f.mw f.ew * 2 ^ f.mw + slice b 0 f.mw = b % 2 ^ (f.ew + f.mw) := by
    rw [slice, slice, pow_zero, Nat.div_one, Nat.add_comm f.ew, Nat.pow_add, Nat.mod_mul]
    ring
  rw [FloatFmt.pack, FloatFmt.expField, FloatFmt.manField, hsign, Nat.add_assoc, hlow, Nat.div_add_mod']

section
variable {f : FloatFmt} {b : Nat}

/-- A pattern stands for a number unless its fields are those of an infinity or a NaN (R63, R64). -/
theorem FloatFmt.finite_decode_iff : (f.decode b).finite = true ↔
    ¬(f.expField b = 2 ^ f.ew - 1 ∧ f.inf = true) ∧
      ¬(f.nan.isSome = true ∧ f.inf = false ∧ f.expField b = 2 ^ f.ew - 1 ∧ f.manField b = 2 ^ f.mw - 1) := by
  simp only [FloatFmt.decode, FloatFmt.expField, FloatFmt.manField, Bool.and_eq_true, decide_eq_true_eq, Bool.not_eq_true', and_assoc]
  split_ifs <;> simp only [FVal.finite] <;> tauto

/-- The number that a finite pattern stands for: subnormals and zeros have the exponent field 0 (R63). -/
theorem FloatFmt.decode_of_finite (h : (f.decode b).finite = true) :
    f.decode b = if f.expField b = 0 then .num (bitAt b (f.ew + f.mw)) (f.manField b) (1 - (f.bias : Int) - f.mw)
      else .num (bitAt b (f.ew + f.mw)) (2 ^ f.mw + f.manField b) ((f.expField b : Int) - f.bias - f.mw) := by
  obtain ⟨hinf, hnan⟩ := FloatFmt.finite_decode_iff.1 h
  simp only [FloatFmt.decode, Bool.and_eq_true, decide_eq_true_eq, Bool.not_eq_true', and_assoc]
  exact (if_neg hinf).trans (if_neg hnan)

/-- No finite pattern of a format of R63 and R64 lies above its largest finite one. -/
theorem FloatFmt.le_largest_of_finite (hf : f ∈ [fF32, fF16, fBF16, fE4M3, fE5M2, fE2M1]) (h : (f.decode b).finite = true) :
    f.expField b < f.maxE ∨ f.expField b = f.maxE ∧ f.manField b ≤ f.maxM := by
  have hexp : f.expField b < 2 ^ f.ew := slice_lt b f.mw f.ew
  have hman : f.manField b < 2 ^ f.mw := slice_lt b 0 f.mw
  obtain ⟨hinf, hnan⟩ := FloatFmt.finite_decode_iff.1 h
  simp only [List.mem_cons, List.not_mem_nil, or_false] at hf
  rcases hf with rfl | rfl | rfl | rfl | rfl | rfl <;>
    simp [fF32, fF16, fBF16, fE4M3, fE5M2, fE2M1] at hexp hman hinf hnan ⊢ <;> omega

end

/-! ### Rounding what a format holds -/

/-- A multiple of the rounding unit is kept. -/
theorem roundTo_of_le {mode : RMode} {neg : Bool} {m : Nat} {e q : Int} (h : q ≤ e) : roundTo mode neg m e q = (m * 2 ^ (e - q).toNat, true) := if_pos h

/-- A subnormal's magnitude is below the least normal one, and exact. -/
theorem FloatFmt.roundMag_subnormal (f : FloatFmt) (mode : RMode) (neg : Bool) {m : Nat} (h0 : m ≠ 0) (hm : m < 2 ^ f.mw) :
    f.roundMag mode neg m (1 - (f.bias : Int) - f.mw) = ⟨0, m, false, true, false⟩ := by
  have hlog : Nat.log2 m < f.mw := (Nat.log2_lt h0).2 hm
  have hunit : max (1 - (f.bias : Int) - f.mw + (Nat.log2 m : Int)) (1 - (f.bias : Int)) - f.mw = 1 - (f.bias : Int) - f.mw := by omega
  simp only [FloatFmt.roundMag, hunit, roundTo_of_le le_rfl, Int.sub_self, Int.toNat_zero, pow_zero, mul_one, if_pos hm, Bool.not_true]

/-- A normal magnitude has exactly the format's precision. -/
theorem FloatFmt.roundMag_normal (f : FloatFmt) (mode : RMode) (neg : Bool) {x m : Nat} (hx : x ≠ 0) (hm : m < 2 ^ f.mw) :
    f.roundMag mode neg (2 ^ f.mw + m) ((x : Int) - f.bias - f.mw) =
      ⟨x, m, decide (f.maxE < x) || (x == f.maxE && decide (f.maxM < m)), false, false⟩ := by
  have hlog : Nat.log2 (2 ^ f.mw + m) = f.mw := by
    rw [Nat.log2_eq_iff (by positivity), Nat.pow_succ]
    omega
  have hunit : max ((x : Int) - f.bias - f.mw + (f.mw : Int)) (1 - (f.bias : Int)) - f.mw = (x : Int) - f.bias - f.mw := by omega
  have hexp : ((x : Int) - f.bias - f.mw + f.mw + f.bias).toNat = x := by omega
  have hcarry : 2 ^ f.mw + m ≠ 2 ^ (f.mw + 1) := by rw [Nat.pow_succ]; omega
  simp only [FloatFmt.roundMag, hlog, hunit, hexp, roundTo_of_le le_rfl, Int.sub_self, Int.toNat_zero, pow_zero, mul_one,
    if_neg (Nat.not_lt.2 (Nat.le_add_right (2 ^ f.mw) m)), if_neg hcarry, Nat.add_sub_cancel_left, Bool.not_true, gt_iff_lt]

section
variable {f : FloatFmt} (mode : RMode) (sat neg : Bool)

theorem FloatFmt.encode_zero (e : Int) : f.encode mode sat (.num neg 0 e) = (f.pack neg 0 0, 0) := by
  rw [FloatFmt.encode, if_pos rfl]

/-- A number that rounds without loss to fields in the format's range is encoded by those fields. -/
theorem FloatFmt.encode_exact {m x k : Nat} {e : Int} {tiny : Bool} (h0 : m ≠ 0) (hr : f.roundMag mode neg m e = ⟨x, k, false, tiny, false⟩) :
    f.encode mode sat (.num neg m e) = (f.pack neg x k, 0) := by
  simp [FloatFmt.encode, h0, hr]

end

/-- Settles O60: zeros, subnormals and normal numbers each round to their own fields. -/
theorem floatEncodingExact : Obligations.FloatEncodingExact := by
  unfold Obligations.FloatEncodingExact
  intro f mode sat b hf hb hfin
  have hman : f.manField b < 2 ^ f.mw := slice_lt b 0 f.mw
  suffices f.encode mode sat (f.decode b) = (f.pack (bitAt b (f.ew + f.mw)) (f.expField b) (f.manField b), 0) by
    rw [this, f.pack_fields hb]
  rw [FloatFmt.decode_of_finite hfin]
  split
  next hx =>
    rw [hx]
    rcases eq_or_ne (f.manField b) 0 with hm | hm
    · rw [hm, FloatFmt.encode_zero]
    · exact FloatFmt.encode_exact mode sat _ hm (f.roundMag_subnormal mode _ hm hman)
  next hx =>
    have hrange : (decide (f.maxE < f.expField b) || (f.expField b == f.maxE && decide (f.maxM < f.manField b))) = false := by
      have := FloatFmt.le_largest_of_finite hf hfin
      simp only [Bool.or_eq_false_iff, Bool.and_eq_false_imp, decide_eq_false_iff_not, beq_iff_eq]
      omega
    exact FloatFmt.encode_exact mode sat _ (by positivity) (hrange ▸ f.roundMag_normal mode _ hx hman)

end Sys2Proof.Machine

namespace Sys2Proof.Machine

/-! ## The floating-point instructions (O10 to O13; 05_float.md R113 to R124)

Each of these words fetches its operands and ends in arithmetic on them, of one of a few shapes: a lemma `…_arith` for each shape says what flags it raises and
what it writes, as `runThread_arith` takes it. -/

/-! ### The shapes of bodies -/

theorem orAll_pair (u v : Nat) : orAll [u, v] = u ||| v := by
  simp [orAll, orFlags]

/-- The flags of a compare's operands (R117). -/
theorem FVal.nv_or_nv (u v : FVal) : u.nv ||| v.nv = if u.isSNaN || v.isSNaN then flagNV else 0 := by
  simp only [FVal.nv]
  cases u.isSNaN <;> cases v.isSNaN <;> rfl

section
variable {t : Thread} {d a b : RegField} {x : Fetched}

/-- A body that fetches, and then ends in arithmetic on what it has read, is that arithmetic. -/
theorem bind_fetch_arith {dsts : List Grp} {srcs : List Src} (hx : t.fetch dsts srcs = .ok x) (fl : Fetched → Nat) (elems : Fetched → List Nat)
    (done : Fetched → Thread → Thread) :
    (do let x ← t.fetch dsts srcs; let t' ← x.arith (fl x) (elems x); .ok (done x t') : Except Stop Thread) =
      (x.arith (fl x) (elems x)).map (done x) := by
  rw [hx]
  simp only [bind, Except.bind]
  cases x.arith (fl x) (elems x) <;> rfl

theorem f32Binary_arith (op : FOp) (hx : t.fetch [wr1 d] [rd1 a wantF32, t.bOperand b wantF32] = .ok x) :
    let r := op.apply fF32 t.hints (f32Val t.hints.na t.hints.aa (x.v 0)) (f32Val t.hints.nb t.hints.ab (x.v 1)) (.num false 0 0)
    f32Binary op d a b t = (x.arith r.2 []).map fun t' => t'.setReg d.toNat (w32 r.1) .f32 :=
  bind_fetch_arith hx _ _ _

theorem f32MinMax_arith (isMax : Bool) (hx : t.fetch [wr1 d] [rd1 a wantF32, t.bOperand b wantF32] = .ok x) :
    let r := minMax fF32 isMax (fF32.modBits t.hints.na t.hints.aa (x.v 0).toNat) (fF32.modBits t.hints.nb t.hints.ab (x.v 1).toNat)
    f32MinMax isMax d a b t = (x.arith r.2 []).map fun t' => t'.setReg d.toNat (w32 r.1) .f32 :=
  bind_fetch_arith hx _ _ _

theorem f32Compare_arith (k : PredField) (c : BitVec 4) (m : PredMode) (hx : t.fetch [] [rd1 a wantF32, t.bOperand b wantF32] = .ok x) :
    let u := f32Val t.hints.na t.hints.aa (x.v 0)
    let v := f32Val t.hints.nb t.hints.ab (x.v 1)
    f32Compare k c a b m t = (x.arith (if u.isSNaN || v.isSNaN then flagNV else 0) []).map fun t' =>
      t'.setPred k.toNat (m.apply (t.pred k.toNat) (floatCond c.toNat u v)) := by
  intro u v
  rw [← FVal.nv_or_nv]
  exact bind_fetch_arith hx _ _ _

/-- A packed body's flags are those of its two elements, and its word is made of their results. -/
def packedDone (x : Fetched) (d : RegField) (tag : Tag) (r : Nat → Nat × Nat) : Except Stop Thread :=
  (x.arith ((r 0).2 ||| (r 1).2) [(r 0).2, (r 1).2]).map fun t' => t'.setReg d.toNat (tag.pack [(r 0).1, (r 1).1]) tag

theorem packedBody_arith (op : FOp) (hx : t.fetch [wr1 d] ([rd1 a [.f16x2, .bf16x2], t.bOperand b [t.packedTag a]] ++
      if op = .fma then [t.addend d [t.packedTag a]] else []) = .ok x) :
    packedBody op d a b t = packedDone x d (t.packedTag a) fun i => op.apply (packedFmt (t.packedTag a)) t.hints
      (packedVal (t.packedTag a) t.hints.na t.hints.aa (x.v 0) i) (packedVal (t.packedTag a) t.hints.nb t.hints.ab (x.v 1) i)
      (packedVal (t.packedTag a) t.hints.nc t.hints.ac (x.v 2) i) := by
  rw [packedDone, ← orAll_pair]
  exact bind_fetch_arith hx _ _ _

theorem packedMinMax_arith (isMax : Bool) (hx : t.fetch [wr1 d] [rd1 a [.f16x2, .bf16x2], t.bOperand b [t.packedTag a]] = .ok x) :
    packedMinMax isMax d a b t = packedDone x d (t.packedTag a) fun i => minMax (packedFmt (t.packedTag a)) isMax
      ((packedFmt (t.packedTag a)).modBits t.hints.na t.hints.aa ((t.packedTag a).elem (x.v 0) i))
      ((packedFmt (t.packedTag a)).modBits t.hints.nb t.hints.ab ((t.packedTag a).elem (x.v 1) i)) := by
  rw [packedDone, ← orAll_pair]
  exact bind_fetch_arith hx _ _ _

end

/-! ### O10: F32 arithmetic (R113 to R116) -/

/-- Three values added left to right. -/
theorem FVal.sum_three (mode : RMode) (u v c : FVal) :
    FVal.sum mode [u, v, c] = (((u.add mode v).1.add mode c).1, (u.add mode v).2 ||| ((u.add mode v).1.add mode c).2) := by
  simp [FVal.sum, orFlags]

section
variable {s : State} {w : Who} {g : PredField} {d a b : RegField} {x : Fetched} (h : Executes s w g)
include h

theorem execFfma_eq (hx : w.t.fetch [wr1 d] [rd1 a wantF32, w.t.bOperand b wantF32, w.t.addend d wantF32] = .ok x) :
    let r := FOp.fma.apply fF32 w.t.hints (f32Val w.t.hints.na w.t.hints.aa (x.v 0)) (f32Val w.t.hints.nb w.t.hints.ab (x.v 1))
      (f32Val w.t.hints.nc w.t.hints.ac (x.v 2))
    execFfma d a b g s = s.arithDone w x r.2 [] (fun t => t.setReg d.toNat (w32 r.1) .f32) :=
  runThread_arith h (bind_fetch_arith hx _ _ _)

theorem execFscl_eq (hx : w.t.fetch [wr1 d] [rd1 a wantF32, w.t.bOperand b [.b32]] = .ok x) :
    let u := f32Val w.t.hints.na w.t.hints.aa (x.v 0)
    let r := fResult fF32 w.t.hints [u] (u.scale (x.v 1).toInt, 0)
    execFscl d a b g s = s.arithDone w x r.2 [] (fun t => t.setReg d.toNat (w32 r.1) .f32) :=
  runThread_arith h (bind_fetch_arith hx _ _ _)

theorem execFdot2_eq (hx : w.t.fetch [wr1 d] [rd1 a [.f16x2, .bf16x2], w.t.bOperand b [w.t.packedTag a], w.t.addend d wantF32] = .ok x) :
    let u := packedVal (w.t.packedTag a) w.t.hints.na w.t.hints.aa (x.v 0)
    let v := packedVal (w.t.packedTag a) w.t.hints.nb w.t.hints.ab (x.v 1)
    let c := f32Val w.t.hints.nc w.t.hints.ac (x.v 2)
    let p := ((u 0).mul (v 0)).1.add w.t.hints.rmode ((u 1).mul (v 1)).1
    let e := p.1.add w.t.hints.rmode c
    let r := fResult fF32 w.t.hints [u 0, u 1, v 0, v 1, c] (e.1, ((u 0).mul (v 0)).2 ||| ((u 1).mul (v 1)).2 ||| (p.2 ||| e.2))
    execFdot2 d a b g s = s.arithDone w x r.2 [] (fun t => t.setReg d.toNat (w32 r.1) .f32) := by
  intro u v c p e r
  have hr : r = fResult fF32 w.t.hints [u 0, u 1, v 0, v 1, c]
      ((FVal.sum w.t.hints.rmode [((u 0).mul (v 0)).1, ((u 1).mul (v 1)).1, c]).1,
        orAll [((u 0).mul (v 0)).2, ((u 1).mul (v 1)).2] ||| (FVal.sum w.t.hints.rmode [((u 0).mul (v 0)).1, ((u 1).mul (v 1)).1, c]).2) := by
    rw [FVal.sum_three, orAll_pair]
  rw [hr]
  exact (runThread_arith h (bind_fetch_arith hx _ _ _) : execFdot2 d a b g s = _)

end

/-- Settles O10: each word is arithmetic on the operands it has fetched. -/
theorem floatArithmetic : Obligations.FloatArithmetic := by
  unfold Obligations.FloatArithmetic
  intro s w g d a b h
  refine ⟨fun x hx => ⟨?_, ?_, ?_, ?_, ?_⟩, fun x hx => ?_, fun x hx => ?_, fun x hx => ?_⟩
  · exact (runThread_arith h (f32Binary_arith .add hx) : execFadd d a b g s = _)
  · exact (runThread_arith h (f32Binary_arith .sub hx) : execFsub d a b g s = _)
  · exact (runThread_arith h (f32Binary_arith .mul hx) : execFmul d a b g s = _)
  · exact (runThread_arith h (f32MinMax_arith false hx) : execFmin d a b g s = _)
  · exact (runThread_arith h (f32MinMax_arith true hx) : execFmax d a b g s = _)
  · exact execFfma_eq h hx
  · exact execFscl_eq h hx
  · exact execFdot2_eq h hx

/-! ### O11: F32 compares (R117 to R119) -/

/-- Settles O11: the compares differ in what they make of the old predicate, and FCLS raises nothing. -/
theorem floatCompares : Obligations.FloatCompares := by
  unfold Obligations.FloatCompares
  intro s w g k c a b h
  refine ⟨fun x hx => ⟨?_, ?_, ?_⟩, fun x hx => ?_⟩
  · exact (runThread_arith h (f32Compare_arith k c .set hx) : execFcmp k c a b g s = _)
  · exact (runThread_arith h (f32Compare_arith k c .and hx) : execFcmpAnd k c a b g s = _)
  · exact (runThread_arith h (f32Compare_arith k c .or hx) : execFcmpOr k c a b g s = _)
  · exact (runThread_ok h (map_fetch_ok hx) : execFcls k a b g s = _)

/-! ### O12: packed floating point (R120, R121) -/

theorem execHcmp2_eq {s : State} {w : Who} {g k : PredField} {c : BitVec 4} {a b : RegField} {x : Fetched} (h : Executes s w g)
    (hx : w.t.fetch [] [rd1 a [.f16x2, .bf16x2], w.t.bOperand b [w.t.packedTag a]] = .ok x) :
    let u := packedVal (w.t.packedTag a) w.t.hints.na w.t.hints.aa (x.v 0)
    let v := packedVal (w.t.packedTag a) w.t.hints.nb w.t.hints.ab (x.v 1)
    let fl := fun i => (u i).nv ||| (v i).nv
    execHcmp2 k c a b g s = s.arithDone w x (fl 0 ||| fl 1) [fl 0, fl 1]
      (fun t => (t.setPred k.toNat (floatCond c.toNat (u 0) (v 0))).setPred (k.toNat + 1) (floatCond c.toNat (u 1) (v 1))) := by
  intro u v fl
  rw [← orAll_pair]
  exact runThread_arith h (bind_fetch_arith hx _ _ _)

/-- Settles O12: each word is arithmetic on the two elements of its operands. -/
theorem packedFloat : Obligations.PackedFloat := by
  unfold Obligations.PackedFloat
  intro s w g d a b h
  refine ⟨fun x hx => ⟨?_, ?_, ?_, ?_, ?_⟩, fun x hx => ?_, fun k c x hx => ?_⟩
  · exact (runThread_arith h (packedBody_arith .add hx) : execHadd2 d a b g s = _)
  · exact (runThread_arith h (packedBody_arith .sub hx) : execHsub2 d a b g s = _)
  · exact (runThread_arith h (packedBody_arith .mul hx) : execHmul2 d a b g s = _)
  · exact (runThread_arith h (packedMinMax_arith false hx) : execHmin2 d a b g s = _)
  · exact (runThread_arith h (packedMinMax_arith true hx) : execHmax2 d a b g s = _)
  · exact (runThread_arith h (packedBody_arith .fma hx) : execHfma2 d a b g s = _)
  · exact execHcmp2_eq h hx

/-! ### O13: the functions of one operand (R122 to R124) -/

/-- What a function of one operand gives for the pattern of its operand: `inf` at an infinity, `fin` at a number (R123). -/
def funaryResult (inf : Bool → Nat × Nat) (fin : Word → Bool → Nat → Int → Nat × Nat) (bits : Nat) : Nat × Nat :=
  match fF32.decode bits with
  | .nan sg => (nan32, if sg then flagNV else 0)
  | .inf n => inf n
  | .num n m e => fin (w32 bits) n m e

section
variable {inf : Bool → Nat × Nat} {fin : Word → Bool → Nat → Int → Nat × Nat} {bits : Nat}

theorem funaryResult_nan {sg : Bool} (hd : fF32.decode bits = .nan sg) : funaryResult inf fin bits = (nan32, if sg then flagNV else 0) := by
  rw [funaryResult, hd]

theorem funaryResult_inf {n : Bool} (hd : fF32.decode bits = .inf n) : funaryResult inf fin bits = inf n := by
  rw [funaryResult, hd]

theorem funaryResult_num {n : Bool} {m : Nat} {e : Int} (hd : fF32.decode bits = .num n m e) :
    funaryResult inf fin bits = fin (w32 bits) n m e := by
  rw [funaryResult, hd]

end

theorem Thread.Room.merge {t : Thread} {f : Nat} (h : t.Room [f]) (fl : Nat) : (t.merge fl).Room [f] := h

/-- A function of one operand is arithmetic whose result the flag of "a" owes. -/
theorem funaryBody_arith {t : Thread} {d a : RegField} {x : Fetched} {inf : Bool → Nat × Nat} {fin : Thread → Word → Bool → Nat → Int → Nat × Nat}
    {r : Nat × Nat} (hx : t.fetch [wr1 d] [rd1 a wantF32] = .ok x) (hroom : t.Room [t.fa])
    (hr : funaryResult inf (fin t) (fF32.modBits t.hints.na t.hints.aa (x.v 0).toNat) = r) :
    funaryBody d a inf fin t = (x.arith r.2 []).map fun t' => t'.owing (t'.oweA d.toNat [w32 r.1] .f32) := by
  have hbind : funaryBody d a inf fin t = (x.arith r.2 []).bind fun t' => t'.oweRegs d.toNat [w32 r.1] .f32 := by
    rw [← hr, funaryBody, hx]
    rfl
  have howe : (x.t.merge r.2).oweRegs d.toNat [w32 r.1] .f32 = .ok ((x.t.merge r.2).owing ((x.t.merge r.2).oweA d.toNat [w32 r.1] .f32)) := by
    rw [Thread.fetch_t hx]
    exact Thread.oweRegs_ok ((hroom.merge x.fl).merge r.2)
  rw [hbind, Fetched.arith]
  split
  · rfl
  · exact howe

/-! #### The results at infinities and zeros (R123) -/

theorem inf32_eq (n : Bool) : inf32 n = if n then 0xFF800000 else 0x7F800000 := by
  cases n <;> rfl

section
variable (n : Bool) (e : Int) (x : Word)

@[simp] theorem rndFinite_zero (mode : RMode) : rndFinite mode n 0 e = (zero32 n, 0) := by
  cases n <;> rfl
@[simp] theorem frcFinite_zero : frcFinite n 0 e = (0, 0) := by
  rw [frcFinite, if_pos rfl]
@[simp] theorem rcpFinite_zero : rcpFinite x n 0 e = (inf32 n, flagDZ) := by
  rw [rcpFinite, if_pos rfl]
@[simp] theorem rsqFinite_zero : rsqFinite x n 0 e = (inf32 n, flagDZ) := by
  rw [rsqFinite, if_pos rfl]
@[simp] theorem sqrtFinite_zero : sqrtFinite n 0 e = (zero32 n, 0) := by
  rw [sqrtFinite, if_pos rfl]
@[simp] theorem ex2Finite_zero : ex2Finite x n 0 e = (0x3F800000, 0) := by
  simp [ex2Finite]
@[simp] theorem lg2Finite_zero : lg2Finite x n 0 e = (inf32 true, flagDZ) := by
  rw [lg2Finite, if_pos rfl]
@[simp] theorem trigFinite_zero (isCos : Bool) : trigFinite isCos x n 0 e = (if isCos then 0x3F800000 else zero32 n, 0) := by
  rw [trigFinite, if_pos rfl]

end

/-- Settles O13: the result of each function is the table's at the operand's class, and the flag of "a" owes it. -/
theorem functions : Obligations.Functions := by
  unfold Obligations.Functions
  intro s w g d a x h hx hroom bits out
  have howed {i : Instr} {inf fin} {r : Nat × Nat} (hi : exec i s = runThread s g (funaryBody d a inf fin))
      (hr : funaryResult inf (fin w.t) bits = r) : out i r :=
    hi.trans (runThread_arith h (funaryBody_arith hx hroom hr))
  have hnum {n : Bool} {m : Nat} {e : Int} (hd : fF32.decode bits = .num n m e) {i : Instr} {inf fin} {r : Nat × Nat}
      (hi : exec i s = runThread s g (funaryBody d a inf fin)) (hr : fin w.t (w32 bits) n m e = r) : out i r :=
    howed hi ((funaryResult_num hd).trans hr)
  refine ⟨fun sg hd i hi => ?_, fun n hd => ?_, fun n e hd => ?_, fun n m e hd => ?_⟩
  · simp only [List.mem_cons, List.not_mem_nil, or_false] at hi
    rcases hi with rfl | rfl | rfl | rfl | rfl | rfl | rfl | rfl | rfl <;> exact howed rfl (funaryResult_nan hd)
  · have hinf {i : Instr} {inf fin} {r : Nat × Nat} (hi : exec i s = runThread s g (funaryBody d a inf fin)) (hr : inf n = r) : out i r :=
      howed hi ((funaryResult_inf hd).trans hr)
    exact ⟨hinf rfl (congrArg (·, 0) (inf32_eq n)), hinf rfl rfl, hinf rfl rfl, hinf rfl rfl, hinf rfl rfl, hinf rfl (by cases n <;> rfl),
      hinf rfl rfl, hinf rfl rfl, hinf rfl rfl⟩
  · have hinf : (inf32 n, flagDZ) = (if n then 0xFF800000 else 0x7F800000, flagDZ) := congrArg (·, flagDZ) (inf32_eq n)
    exact ⟨hnum hd rfl (rndFinite_zero ..), hnum hd rfl (frcFinite_zero ..), hnum hd rfl ((rcpFinite_zero ..).trans hinf),
      hnum hd rfl ((rsqFinite_zero ..).trans hinf), hnum hd rfl (sqrtFinite_zero ..), hnum hd rfl (ex2Finite_zero ..),
      hnum hd rfl (lg2Finite_zero ..), hnum hd rfl (trigFinite_zero ..), hnum hd rfl (trigFinite_zero ..)⟩
  · exact ⟨hnum hd rfl rfl, hnum hd rfl rfl, hnum hd rfl rfl, hnum hd rfl rfl, hnum hd rfl rfl, hnum hd rfl rfl, hnum hd rfl rfl, hnum hd rfl rfl,
      hnum hd rfl rfl⟩

end Sys2Proof.Machine

namespace Sys2Proof.Machine

/-! ## Transfers and the call stack (O16, O17; 02_encoding.md R26; 06_control.md R127, R135) -/

theorem runJump_error {s : State} {w : Who} {g : PredField} {body : Who → Except Stop State} {e : Stop} (h : Executes s w g)
    (hb : body w = .error e) : runJump s g body = .next (s.stopped w e) := by
  simp only [runJump, h.1, h.2, hb, if_true]

/-! ### Targets (R26, R27) -/

section
variable {a : DWord}

theorem checkTarget_legal (hc : canonical a = true) (h4 : a.toNat % 4 = 0) : checkTarget a = .ok () := by
  simp [checkTarget, hc, h4]

theorem checkTarget_noncanonical (hc : canonical a = false) : checkTarget a = .error (.trap .addressNoncanonical a 0 0) := by
  simp [checkTarget, hc, failAt, w64]

theorem checkTarget_misaligned (hc : canonical a = true) (h4 : a.toNat % 4 ≠ 0) : checkTarget a = .error (.trap .misaligned a 0 0) := by
  simp [checkTarget, hc, h4, failAt, w64]

end

/-- The target of a B-form word is counted modulo 2^64. -/
theorem branchTarget_eq (pc : DWord) (o : BitVec 23) : branchTarget pc o = pc + (o.signExtend 64 <<< 2) := by
  have hmul : o.signExtend 64 <<< 2 = BitVec.ofInt 64 (4 * o.toInt) := by
    rw [BitVec.shiftLeft_eq_mul_twoPow, BitVec.ofInt_mul, BitVec.mul_comm]
    rfl
  rw [branchTarget, w64, wrap_eq_toNat_ofInt, BitVec.ofNat_toNat, BitVec.setWidth_eq, BitVec.ofInt_add, BitVec.ofInt_natCast,
    BitVec.ofNat_toNat, BitVec.setWidth_eq, hmul]

/-! ### The call stack (R127) -/

section
variable {s : State} {w : Who}

theorem State.push_overflow (h : w.t.rsp.toNat < w.t.rsl.toNat + 8) (v : DWord) : s.push w v = .error (.trap .callStackOverflow 0 0 0) := by
  simp only [State.push, if_pos h]
  rfl

theorem State.push_ok {p : Placed} (h : w.t.rsl.toNat + 8 ≤ w.t.rsp.toNat) (hp : s.checkGlobal w (w.t.rsp - 8) 8 8 { write := true } = .ok p)
    (v : DWord) : s.push w v = .ok (s.addStore w { w.t with rsp := w.t.rsp - 8 }
      { seq := 0, bytes := storeOf p.locs (toBytes v.toNat 8), scope := .th }) := by
  simp only [State.push, if_neg (Nat.not_lt.2 h), hp]
  rfl

theorem State.pop_underflow (h : w.t.stackTop.toNat ≤ w.t.rsp.toNat) : s.pop w = .error (.trap .callStackUnderflow 0 0 0) := by
  simp only [State.pop, if_pos h]
  rfl

theorem State.pop_ok {p : Placed} {s1 : State} {b : List Byte} (h : w.t.rsp.toNat < w.t.stackTop.toNat)
    (hp : s.checkGlobal w w.t.rsp 8 8 { read := true } = .ok p) (hr : s.readNow w p.locs = .ok (s1, b)) :
    s.pop w = .ok (s1, w64 (ofBytes b)) := by
  simp only [State.pop, if_neg (Nat.not_le.2 h), hp]
  change (s.readNow w p.locs).bind _ = _
  rw [hr]
  rfl

/-! ### BRA, CALL and RET (R135) -/

variable {g : PredField} {o : BitVec 23} {e : Stop} {tgt : DWord} (h : Executes s w g)
include h

section
variable (htgt : branchTarget w.t.pc o = tgt)
include htgt

theorem execBra_taken (ht : checkTarget tgt = .ok ()) :
    execBra g o s = ((if o.toInt < 0 then s.heatUp w tgt w.t.pc else s).updThread w.k (·.jump tgt)).jumpDone w :=
  runJump_ok h (by simp only [htgt, ht, BitVec.msb_eq_toInt, decide_eq_true_eq]; rfl)

theorem execBra_refused (ht : checkTarget tgt = .error e) : execBra g o s = .next (s.stopped w e) :=
  runJump_error h (by simp only [htgt, ht]; rfl)

theorem execCall_pushed {s' : State} (ht : checkTarget tgt = .ok ()) (hp : s.push w (w.t.pc + 4) = .ok s') :
    execCall g o s = (s'.updThread w.k (·.jump tgt)).jumpDone w :=
  runJump_ok h (by simp only [htgt, ht, hp]; rfl)

theorem execCall_unpushed (ht : checkTarget tgt = .ok ()) (hp : s.push w (w.t.pc + 4) = .error e) :
    execCall g o s = .next (s.stopped w e) :=
  runJump_error h (by simp only [htgt, ht, hp]; rfl)

theorem execCall_refused (ht : checkTarget tgt = .error e) : execCall g o s = .next (s.stopped w e) :=
  runJump_error h (by simp only [htgt, ht]; rfl)

end

theorem execRet_unpopped (hp : s.pop w = .error e) : execRet g s = .next (s.stopped w e) :=
  runJump_error h (by rw [hp]; rfl)

theorem execRet_taken {s1 : State} {v : DWord} (hp : s.pop w = .ok (s1, v)) (ht : checkTarget v = .ok ()) :
    execRet g s = (s1.updThread w.k fun t => { t.jump v with rsp := t.rsp + 8 }).jumpDone w :=
  runJump_ok h (by simp only [hp]; change (checkTarget v).bind _ = _; rw [ht]; rfl)

theorem execRet_refused {s1 : State} {v : DWord} (hp : s.pop w = .ok (s1, v)) (ht : checkTarget v = .error e) :
    execRet g s = .next (s.stopped w e) :=
  runJump_error h (by simp only [hp]; change (checkTarget v).bind _ = _; rw [ht]; rfl)

end

/-- Settles O16: what checkTarget answers decides BRA, and CALL as well but for its push. -/
theorem transfers : Obligations.Transfers := by
  unfold Obligations.Transfers
  intro s w g o h tgt
  have htgt : branchTarget w.t.pc o = tgt := branchTarget_eq w.t.pc o
  refine ⟨fun hc h4 => ?_, fun hc => ?_, fun hc h4 => ?_⟩
  · have ht := checkTarget_legal hc h4
    exact ⟨execBra_taken h htgt ht, fun hfull => execCall_unpushed h htgt ht (State.push_overflow hfull _),
      fun p hroom hp => execCall_pushed h htgt ht (State.push_ok hroom hp _)⟩
  · have ht := checkTarget_noncanonical hc
    exact ⟨execBra_refused h htgt ht, execCall_refused h htgt ht⟩
  · have ht := checkTarget_misaligned hc h4
    exact ⟨execBra_refused h htgt ht, execCall_refused h htgt ht⟩

/-- Settles O17: RET stops where its pop does, and else goes where checkTarget lets it. -/
theorem returns : Obligations.Returns := by
  unfold Obligations.Returns
  intro s w g h
  refine ⟨fun hu => execRet_unpopped h (State.pop_underflow hu), fun p s1 b hroom hp hr => ?_⟩
  have hpop : s.pop w = .ok (s1, w64 (ofBytes b)) := State.pop_ok hroom hp hr
  exact ⟨fun hc h4 => execRet_taken h hpop (checkTarget_legal hc h4), fun hc => execRet_refused h hpop (checkTarget_noncanonical hc),
    fun hc h4 => execRet_refused h hpop (checkTarget_misaligned hc h4)⟩

end Sys2Proof.Machine

namespace Sys2Proof.Machine

/-! ## Rendezvous that complete (O21; 06_control.md R137 to R141) -/

/-! ### The last arrival -/

/-- The mask of an arrival is the low half of its mask register. -/
theorem w64_mod_eq_truncate (v : Word) : w64 (v.toNat % 65536) = (v.truncate 16 : BitVec 16).zeroExtend 64 := by
  rw [BitVec.zeroExtend_eq_setWidth, ← BitVec.ofNat_toNat, BitVec.truncate_eq_setWidth, BitVec.toNat_setWidth]
  rfl

/-- A word whose meaning is a rendezvous, where the last thread arrives at it. -/
theorem exec_gathered {s : State} {w : Who} {i : Instr} {g : PredField} {m : RegField} {dsts : List Grp} {srcs : List Src}
    {done : List (Nat × Nat) → State → State} {done' : State → State} {here : List (Nat × Nat)} (h : Executes s w g)
    (hi : exec i s = runRendezvous s i g m (fun t => t.checked dsts srcs) done) (hdone : done here = done')
    (hx : ∃ x, w.t.fetchQuiet dsts srcs = .ok x)
    (hg : Gathered s w i (((w.t.reg m.toNat).val.truncate 16 : BitVec 16).zeroExtend 64) here) :
    exec i s = s.leaveAll w i (((w.t.reg m.toNat).val.truncate 16 : BitVec 16).zeroExtend 64) here done' := by
  obtain ⟨x, hx⟩ := hx
  have hc : w.t.checked dsts srcs = .ok () := by rw [Thread.checked, hx]; rfl
  rw [← w64_mod_eq_truncate] at hg ⊢
  rw [hi, ← hdone, ← State.arrive_of_gathered hg]
  simp only [runRendezvous, h.1, h.2, hc, if_true]

/-! ### REDUX over the contributors' words -/

section
variable {α : Type} (l : List α) (f : α → Word)

/-- A fold of words that reads on integers as another fold. -/
theorem foldl_eq_ofInt_foldl {op : Word → Word → Word} {opInt : Int → Int → Int} (hop : ∀ u v, (op u v).toInt = opInt u.toInt v.toInt)
    (u : Word) :
    (l.map f).foldl op u = BitVec.ofInt 32 ((l.map fun x => (f x).toInt).foldl opInt u.toInt) := by
  induction l generalizing u with
  | nil => exact BitVec.ofInt_toInt.symm
  | cons x xs ih => rw [List.map_cons, List.map_cons, List.foldl_cons, List.foldl_cons, ih, hop]

theorem foldl_slt_eq_min : (l.map f).foldl (fun m v => if v.slt m then v else m) 0x7FFFFFFF =
    BitVec.ofInt 32 ((l.map fun x => (f x).toInt).foldl min (2 ^ 31 - 1)) :=
  foldl_eq_ofInt_foldl l f (opInt := min) (fun u v => by simp only [BitVec.slt_iff_toInt_lt]; split_ifs <;> omega) 0x7FFFFFFF

theorem foldl_slt_eq_max : (l.map f).foldl (fun m v => if m.slt v then v else m) 0x80000000 =
    BitVec.ofInt 32 ((l.map fun x => (f x).toInt).foldl max (-2 ^ 31)) :=
  foldl_eq_ofInt_foldl l f (opInt := max) (fun u v => by simp only [BitVec.slt_iff_toInt_lt]; split_ifs <;> omega) 0x80000000

theorem satInt'_eq_clamped (h : HintLatch) : execReduxAdd.satInt' h (l.map f) =
    clamped h ((l.map fun x => ((f x).toNat : Int)).sum) ((l.map fun x => (f x).toInt).sum) := by
  rw [← satInt_eq_clamped, List.sum_eq_foldl, List.sum_eq_foldl, List.foldl_map, List.foldl_map, execReduxAdd.satInt', List.foldl_map,
    List.foldl_map]
  rfl

end

/-! ### What holds a thread -/

section
variable {s : State} {w : Who} {k : Nat} (hw : s.whoOf k = some w)
include hw

theorem State.troupe_of_whoOf : s.troupe w.trI = w.tr := by
  obtain ⟨-, -, htr, -⟩ := s.whoOf_eq k w hw
  rw [State.troupe, nth, List.getD_eq_getElem?_getD, htr, Option.getD_some]

theorem State.ens_of_whoOf : s.ens w.eI = w.e := by
  obtain ⟨-, -, -, he, -⟩ := s.whoOf_eq k w hw
  rw [State.ens, nth, List.getD_eq_getElem?_getD, he, Option.getD_some]

end

/-! ### SPLIT (R140) -/

/-- Writes of arrivals agree where they agree on threads with a property that the writes keep. -/
theorem writeEach_congr {P : Thread → Prop} {f f' : Nat × Nat → Thread → Thread} {arr : List (Nat × Nat)} {s : State}
    (hs : ∀ x ∈ arr, P (s.thread x.2)) (hP : ∀ x t, P t → P (f' x t)) (hf : ∀ x t, P t → f x t = f' x t) :
    writeEach arr f s = writeEach arr f' s := by
  induction arr generalizing s with
  | nil => rfl
  | cons x xs ih =>
    have hx : s.updThread x.2 (f x) = s.updThread x.2 (f' x) := State.updThread_congr (hf x _ (hs x List.mem_cons_self))
    change writeEach xs f (s.updThread x.2 (f x)) = writeEach xs f' (s.updThread x.2 (f' x))
    rw [hx]
    refine ih fun y hy => ?_
    have hy := hs y (List.mem_cons_of_mem _ hy)
    simp only [State.thread, State.updThread_threads, nth_updateAt]
    split
    · exact hP x _ hy
    · exact hy

theorem Thread.arrivalKey_eq_some {t : Thread} {m : DWord} : t.arrivalKey = some m ↔ ∃ i, t.status = .arrived i m := by
  simp only [Thread.arrivalKey]
  split <;> simp_all

/-- SPLIT over the arrivals of one crew that named one mask. -/
theorem splitDone_eq {d a : RegField} {m : BitVec 16} {here : List (Nat × Nat)} {s : State} {tr : Troupe} {trI crew : Nat}
    (htr : s.troupe trI = tr) (hcrew : ∀ x ∈ here, (s.thread x.2).troupe = trI ∧ (s.thread x.2).crew = crew)
    (hkey : ∀ x ∈ here, (s.thread x.2).arrivalKey = some (m.zeroExtend 64)) :
    splitDone d a here s = writeEach here (fun _ t => t.setReg d.toNat
      (w32 ((t.reg a.toNat).val.toNat / 65536 * 65536 + ((m.zeroExtend 64 : DWord).toNat &&& s.liveMask (s.crewOf tr crew)))) .b32) s := by
  have hm : (m.zeroExtend 64 : DWord).toNat % 65536 = (m.zeroExtend 64 : DWord).toNat := by
    have := m.isLt
    rw [BitVec.zeroExtend_eq_setWidth, BitVec.toNat_setWidth_of_le (by decide)]
    exact Nat.mod_eq_of_lt this
  cases here with
  | nil => rfl
  | cons x xs =>
    obtain ⟨h1, h2⟩ := hcrew x List.mem_cons_self
    rw [splitDone, h1, h2, htr]
    refine writeEach_congr (P := fun t => ∃ i, t.status = .arrived i (m.zeroExtend 64)) (fun y hy => Thread.arrivalKey_eq_some.1 (hkey y hy))
      (fun _ t ht => ht) ?_
    rintro - t ⟨i, ht⟩
    rw [ht]
    dsimp only
    rw [hm]

/-- What a rendezvous does to its arrivals is taken at the state in which all of them have arrived. -/
theorem State.leaveAll_congr {s : State} {w : Who} {i : Instr} {m : DWord} {here : List (Nat × Nat)} {done done' : State → State}
    (h : done (s.updThread w.k fun t => { t with status := .arrived i m }) = done' (s.updThread w.k fun t => { t with status := .arrived i m })) :
    s.leaveAll w i m here done = s.leaveAll w i m here done' := by
  rw [State.leaveAll, State.leaveAll, h]

/-- An arrival leaves each thread in its troupe and its crew. -/
theorem State.arrived_place {s : State} {k j trI crew : Nat} {st : Status} (h : (s.thread j).troupe = trI ∧ (s.thread j).crew = crew) :
    ((s.updThread k fun t => { t with status := st }).thread j).troupe = trI ∧
      ((s.updThread k fun t => { t with status := st }).thread j).crew = crew := by
  simp only [State.thread, State.updThread_threads, nth_updateAt]
  split <;> exact h

theorem exec_split_gathered {s : State} {w : Who} {g : PredField} {d a : RegField} {here : List (Nat × Nat)} {m : BitVec 16}
    (h : Executes s w g) (hm : (w.t.reg a.toNat).val.truncate 16 = m) (hx : ∃ x, w.t.fetchQuiet [wr1 d] [rd1 a []] = .ok x)
    (hg : Gathered s w (.split d a g) (m.zeroExtend 64) here)
    (hcrew : ∀ x ∈ here, (s.thread x.2).troupe = w.trI ∧ (s.thread x.2).crew = w.t.crew) :
    exec (.split d a g) s = s.leaveAll w (.split d a g) (m.zeroExtend 64) here fun s1 => writeEach here (fun _ t => t.setReg d.toNat
      (w32 ((t.reg a.toNat).val.toNat / 65536 * 65536 + ((m.zeroExtend 64 : DWord).toNat &&& s1.liveMask (s1.crewOf w.tr w.t.crew)))) .b32) s1 := by
  subst hm
  refine (exec_gathered h rfl rfl hx hg).trans (State.leaveAll_congr ?_)
  obtain ⟨-, -, -, -, hkey, -, -⟩ := hg
  have htr : s.troupe w.trI = w.tr := State.troupe_of_whoOf h.1
  exact splitDone_eq htr (fun x hx => State.arrived_place (hcrew x hx)) hkey

/-- Settles O21: each word is a rendezvous, and REDUX's folds of words are those of integers. -/
theorem collectives : Obligations.Collectives := by
  unfold Obligations.Collectives
  intro s w g d a b k j here h mask done shuffle lanes
  refine ⟨fun hx => ?_, fun hx => ?_, exec_gathered h rfl rfl, fun hx => ?_, exec_gathered h rfl rfl, exec_gathered h rfl rfl,
    exec_split_gathered h rfl⟩
  · exact ⟨exec_gathered h rfl rfl hx, exec_gathered h rfl rfl hx, exec_gathered h rfl rfl hx, exec_gathered h rfl rfl hx,
      exec_gathered h rfl rfl hx, exec_gathered h rfl rfl hx⟩
  · exact ⟨exec_gathered h rfl rfl hx, exec_gathered h rfl rfl hx⟩
  · simp only [← satInt'_eq_clamped, ← foldl_slt_eq_min, ← foldl_slt_eq_max]
    exact ⟨exec_gathered h rfl rfl hx, exec_gathered h rfl rfl hx, exec_gathered h rfl rfl hx⟩

end Sys2Proof.Machine

namespace Sys2Proof.Machine

/-! ## EXIT and EXIT.S (O22; 06_control.md R142, R143) -/

/-! ### The body of an exit -/

section
variable {s s0 : State} {w : Who} {sel : Option Nat} {next : Option (Nat × Packet)}

theorem exitBody_pending (hn : s.nextOf w sel = .ok (s0, next)) (hp : s0.exitPending w = true) :
    exitBody sel s w = .error (.trap .exitWithPending 0 0 0) := by
  simp only [exitBody, hn, bind, Except.bind, hp, if_true, fail]

theorem exitBody_done {s1 s2 s3 x y : State} (hn : s.nextOf w sel = .ok (s0, next)) (hp : s0.exitPending w = false)
    (hx : s0.releaseOwn w 0 = .ok x) (hy : s0.releaseOwn w 1 = .ok y)
    (h1 : (if s0.lastOf w w.tr.threads && w.e.isMesh then s0.emit w else .ok s0) = .ok s1) (h2 : s1.releaseOwn w 0 = .ok s2)
    (h3 : s2.releaseOwn w 1 = .ok s3) : exitBody sel s w = .ok (s0.exitDone w next s3) := by
  cases hm : s0.lastOf w w.tr.threads && w.e.isMesh
  · obtain rfl : s0 = s1 := by simpa only [hm, Bool.false_eq_true, if_false, Except.ok.injEq] using h1
    simp only [exitBody, hn, bind, Except.bind, hp, hm, hy, h2, h3, Bool.false_eq_true, if_false]
  · rw [hm, if_pos rfl] at h1
    simp only [exitBody, hn, bind, Except.bind, hp, hm, hx, hy, h1, h2, h3, Bool.false_eq_true, if_false, if_true]

end

/-! ### An exit that nothing waits for -/

theorem State.nextOf_selected {s : State} {w : Who} {sel : Option Nat} (h : ∀ k, sel = some k → ∃ p, w.e.successor = some (k, p)) :
    s.nextOf w sel = .ok (s, w.e.successor) := by
  cases sel with
  | none => rfl
  | some k =>
    obtain ⟨p, hp⟩ := h k rfl
    simp only [State.nextOf, State.selectSuccessor, hp, if_true, Except.map]

theorem State.exitPending_of_others {s : State} {w : Who} (hq : w.t.quiet = true) (hc : w.t.call = none) (htr : s.lastOf w w.tr.threads = false)
    (he : s.lastOf w (s.threadsOf w.e) = false) : s.exitPending w = false := by
  simp [State.exitPending, hq, hc, htr, he]

theorem State.releaseOwn_of_not_own {s : State} {w : Who} {slot : Nat} (h : ∀ n, (w.t.pin slot).claim ≠ .own n) :
    s.releaseOwn w slot = .ok s := by
  unfold State.releaseOwn
  dsimp only
  split
  next g hg => exact absurd hg (h g)
  next => rfl

/-- At a barrier where none has arrived no thread that is left waits. -/
theorem State.completes_nil (s : State) (ks : List Nat) : s.completes ks [] = false := by
  rw [State.completes]
  cases s.alive ks <;> rfl

theorem State.serveBar_nil {s : State} {k : Nat} (h : (s.troupe k).barrier.arrived = []) : s.serveBar k = s := by
  simp only [State.serveBar, h, State.completes_nil, Bool.false_eq_true, if_false]

theorem State.serveEbar_nil {s : State} {k : Nat} (h : (s.ens k).ebar.arrived = []) : s.serveEbar k = s := by
  simp only [State.serveEbar, h, State.completes_nil, Bool.false_eq_true, if_false]

theorem State.serveSplit_nil {s : State} {k : Nat} (h : (s.ens k).sbar.arrived = []) : s.serveSplit k = s := by
  simp only [State.serveSplit, h, State.completes_nil, Bool.false_eq_true, if_false]

/-- In a crew where none is parked at a rendezvous an exit makes none fail. -/
theorem State.exitCrew_of_no_arrivals {s : State} {tr : Troupe} {t : Thread} (h : ∀ x ∈ s.crewOf tr t.crew, (s.thread x.2).arrivalMask = none) :
    s.exitCrew tr t = s := by
  have hnone : s.pcsNaming (s.crewOf tr t.crew) t.lane = [] := by
    rw [State.pcsNaming, List.dedup_eq_nil, List.filterMap_eq_nil_iff]
    intro x hx
    rw [h x hx]
  simp only [State.exitCrew, hnone, List.foldl_nil]

/-- A thread that has exited, its pins' claims gone (R142, R328). -/
def Thread.exited (t : Thread) : Thread :=
  { t with status := .exited, pin0 := { t.pin0 with claim := .none }, pin1 := { t.pin1 with claim := .none } }

/-- The state that the exit of thread w leaves where nothing waits for it, with the successor selected. -/
def State.exited (s : State) (w : Who) (next : Option (Nat × Packet)) : State :=
  (s.updThread w.k Thread.exited).updEns w.eI fun e => { e with successor := next }

section
variable (s : State) (w : Who) (next : Option (Nat × Packet))

@[simp] theorem State.crewOf_exited (tr : Troupe) (crew : Nat) : (s.exited w next).crewOf tr crew = s.crewOf tr crew := by
  simp only [State.crewOf, State.exited, State.updEns_threads, State.updThread_threads, length_updateAt]

@[simp] theorem State.troupe_exited (k : Nat) : (s.exited w next).troupe k = s.troupe k := rfl

theorem State.ens_exited (k : Nat) :
    ((s.exited w next).ens k).ebar = (s.ens k).ebar ∧ ((s.exited w next).ens k).sbar = (s.ens k).sbar := by
  simp only [State.ens, State.exited, State.updEns_ensembles, State.updThread_ensembles, nth_updateAt]
  split <;> exact ⟨rfl, rfl⟩

/-- An exit parks no thread. -/
theorem State.arrivalMask_exited {k : Nat} (h : (s.thread k).arrivalMask = none) : ((s.exited w next).thread k).arrivalMask = none := by
  simp only [State.thread, State.exited, State.updEns_threads, State.updThread_threads, nth_updateAt]
  split
  · rfl
  · exact h

end

theorem State.exitDone_eq_exited {s : State} {w : Who} {k : Nat} (hw : s.whoOf k = some w) (next : Option (Nat × Packet))
    (hslot : w.t.callSlot = none) (htr : s.lastOf w w.tr.threads = false) (he : s.lastOf w (s.threadsOf w.e) = false)
    (hcrew : ∀ x ∈ s.crewOf w.tr w.t.crew, (s.thread x.2).arrivalMask = none) (hbar : w.tr.barrier.arrived = [])
    (hebar : w.e.ebar.arrived = []) (hsbar : w.e.sbar.arrived = []) : s.exitDone w next s = s.exited w next := by
  have hthread : (s.updThread w.k fun t => { t with
      status := .exited, pin0 := { t.pin0 with claim := .none }, pin1 := { t.pin1 with claim := .none }, callSlot := none }) =
        s.updThread w.k Thread.exited := State.updThread_congr (by rw [s.thread_of_whoOf k w hw, Thread.exited, hslot])
  have hexitCrew : (s.exited w next).exitCrew w.tr w.t = s.exited w next :=
    State.exitCrew_of_no_arrivals fun x hx => s.arrivalMask_exited w next (hcrew x (by simpa using hx))
  have hserveBar : (s.exited w next).serveBar w.trI = s.exited w next :=
    State.serveBar_nil (by rw [State.troupe_exited, State.troupe_of_whoOf hw, hbar])
  obtain ⟨hens, hens'⟩ := s.ens_exited w next w.eI
  have hserveEbar : (s.exited w next).serveEbar w.eI = s.exited w next :=
    State.serveEbar_nil (by rw [hens, State.ens_of_whoOf hw, hebar])
  have hserveSplit : (s.exited w next).serveSplit w.eI = s.exited w next :=
    State.serveSplit_nil (by rw [hens', State.ens_of_whoOf hw, hsbar])
  simp only [State.exitDone, hthread, hslot, htr, he, Bool.false_eq_true, if_false]
  rw [← State.exited, hexitCrew, hserveBar, hserveEbar, hserveSplit]

/-- Settles O22: an exit's body ends in exitDone, which for a thread that nothing waits for is its exit alone. -/
theorem exits : Obligations.Exits := by
  unfold Obligations.Exits
  intro s w g k h plain left
  have hplain {sel : Option Nat} (hp : plain) (hsel : ∀ k, sel = some k → ∃ p, w.e.successor = some (k, p)) :
      runWord s g (exitBody sel s) = left w.e.successor := by
    obtain ⟨⟨hq, hcall, hslot, hpin0, hpin1⟩, htr, he, hcrew, hbar, hebar, hsbar⟩ := hp
    have hr0 : s.releaseOwn w 0 = .ok s := State.releaseOwn_of_not_own hpin0
    have hr1 : s.releaseOwn w 1 = .ok s := State.releaseOwn_of_not_own hpin1
    have hbody := exitBody_done (State.nextOf_selected hsel) (State.exitPending_of_others hq hcall htr he) hr0 hr1
      (by rw [htr]; rfl) hr0 hr1
    rw [State.exitDone_eq_exited h.1 _ hslot htr he hcrew hbar hebar hsbar] at hbody
    exact runWord_ok h hbody
  refine ⟨fun hp => hplain (sel := none) hp nofun, fun p hp hs => hplain (sel := some k.toNat) hp ?_, fun sel next s0 hsel hn => ?_⟩
  · rintro _ ⟨⟩
    exact ⟨p, hs⟩
  · intro i
    have hi : exec i s = runWord s g (exitBody sel s) := by rcases hsel with rfl | rfl <;> rfl
    rw [hi]
    refine ⟨fun hp => runWord_error h (exitBody_pending hn hp), ?_⟩
    rintro s1 s2 s3 hp ⟨x, y, hx, hy⟩ h1 h2 h3
    exact runWord_ok h (exitBody_done hn hp hx hy h1 h2 h3)

end Sys2Proof.Machine
namespace Sys2Proof.Machine

/-! ## Relay queues (O33; 07_mapper.md R154 to R161) -/

theorem bitAt_toNat {n : Nat} (v : BitVec n) (i : Nat) : bitAt v.toNat i = v.getLsbD i := by
  rw [bitAt_eq_testBit, BitVec.testBit_toNat]

/-! ### A place in an ac (R159) -/

section
variable {s : State} {w : Who} {q group : Nat}

/-- An operation behind the place has been applied in this ac: the place is lost until the next. -/
theorem State.takeRank_lost (h : ∃ r, (w.tr.queue q).last = some (s.clock, r) ∧ w.queueRank group < r) :
    s.takeRank w q group = .error (.hold s w.t.status) := by
  obtain ⟨r, hlast, hr⟩ := h
  simp [State.takeRank, hlast, hr]

/-- Otherwise the operation takes the place. -/
theorem State.takeRank_taken (h : ¬∃ r, (w.tr.queue q).last = some (s.clock, r) ∧ w.queueRank group < r) :
    s.takeRank w q group = .ok (s.updRelay w.trI q fun c => { c with last := some (s.clock, w.queueRank group) }) := by
  unfold State.takeRank
  split
  case h_1 ac r hlast =>
    refine if_neg fun hr => h ⟨r, ?_, ?_⟩ <;> simp only [Bool.and_eq_true, decide_eq_true_eq] at hr
    · rw [hlast, hr.1]
    · exact hr.2
  case h_2 => rfl

end

/-! ### The region of a queue (R155) -/

theorem meetsRegion_eq_false_iff (off len base : Nat) : meetsRegion off len base = false ↔ base + 512 ≤ off ∨ off + len ≤ base := by
  simp only [meetsRegion, Bool.and_eq_false_iff, decide_eq_false_iff_not, Nat.not_lt]

/-- A region that lies apart from every other bound queue's meets none of them. -/
theorem otherQueues_apart {tr : Troupe} {q base : Nat}
    (h : ∀ i < 8, i ≠ q → ∀ b, (tr.queue i).base = some b → b + 512 ≤ base ∨ base + 512 ≤ b) :
    ((upFrom 0 8).filterMap fun i => if i = q then none else (tr.queue i).base).any (meetsRegion base 512) = false := by
  simp only [List.any_eq_false, List.mem_filterMap, mem_upFrom, Bool.not_eq_true, meetsRegion_eq_false_iff]
  rintro b ⟨i, ⟨-, hi⟩, hb⟩
  obtain ⟨hne, hb⟩ := Option.ite_none_left_eq_some.1 hb
  exact h i (by simpa using hi) hne b hb

/-! ### QPUSH, QPOP and QPEEK (R154, R156, R160) -/

section
variable {s s0 : State} {w : Who} {g : PredField} {a d : RegField} {q : BitVec 3} {x : Fetched} {e : Stop} (h : Executes s w g)
include h

section
variable (hx : w.t.fetch [] [rd1 a []] = .ok x)
include hx

theorem execQpush_unbound (hb : (w.tr.queue q.toNat).base = none) : execQpush a q g s = s.trapped w .queueNotBound 0 0 :=
  runWord_error h (by simp only [hx, hb]; rfl)

variable (hb : (w.tr.queue q.toNat).base ≠ none)
include hb

theorem execQpush_misplaced (ht : s.takeRank w q.toNat 2 = .error e) : execQpush a q g s = .next (s.stopped w e) :=
  runWord_error h (by simp only [hx, if_neg (Option.isNone_iff_eq_none.not.2 hb), ht]; rfl)

variable (ht : s.takeRank w q.toNat 2 = .ok s0)
include ht

theorem execQpush_unreleased (hr : s.released w.t .tr = false) : execQpush a q g s = .next (s.stopped w (.park .drain)) :=
  runWord_error h (by simp only [hx, if_neg (Option.isNone_iff_eq_none.not.2 hb), ht, hr]; rfl)

variable (hr : s.released w.t .tr = true) {s1 : State}
  (hs : s0.servePushes w.trI q.toNat (w.tr.queue q.toNat).pushWait.length = s1)
include hr hs

theorem execQpush_room (hroom : ((s1.troupe w.trI).queue q.toNat).words.length < 64 ∧ ((s1.troupe w.trI).queue q.toNat).pushWait = []) :
    execQpush a q g s = ((s1.pushWord w.trI q.toNat ((x.r 0).val, (x.r 0).tag)).passOn w.k).wordDone w :=
  runWord_ok h (by
    subst hs
    simp only [hx, if_neg (Option.isNone_iff_eq_none.not.2 hb), ht, hr, if_true]
    refine if_pos ?_
    simpa using hroom)

theorem execQpush_full (hfull : ¬(((s1.troupe w.trI).queue q.toNat).words.length < 64 ∧ ((s1.troupe w.trI).queue q.toNat).pushWait = [])) :
    execQpush a q g s = .next (s.stopped w (.hold (s1.updRelay w.trI q.toNat fun c =>
      let y : QueueWait := { thread := w.k, since := s1.clock, tid := w.t.tid, word := (x.r 0).val, tag := (x.r 0).tag }
      { c with pushWait := insertWait y c.pushWait }) (.parked .queue s1.clock))) :=
  runWord_error h (by
    subst hs
    simp only [hx, if_neg (Option.isNone_iff_eq_none.not.2 hb), ht, hr, if_true]
    refine if_neg ?_
    simpa using hfull)

end

section
variable (hx : w.t.fetch [wr1 d] [] = .ok x)
include hx

theorem execQpop_unbound (hb : (w.tr.queue q.toNat).base = none) : execQpop d q g s = s.trapped w .queueNotBound 0 0 :=
  runWord_error h (by simp only [hx, hb]; rfl)

theorem execQpeek_unbound (hb : (w.tr.queue q.toNat).base = none) : execQpeek d q g s = s.trapped w .queueNotBound 0 0 :=
  runWord_error h (by simp only [hx, hb]; rfl)

variable (hb : (w.tr.queue q.toNat).base ≠ none)
include hb

theorem execQpeek_misplaced (ht : s.takeRank w q.toNat 1 = .error e) : execQpeek d q g s = .next (s.stopped w e) :=
  runWord_error h (by simp only [hx, if_neg (Option.isNone_iff_eq_none.not.2 hb), ht]; rfl)

theorem execQpeek_counted (ht : s.takeRank w q.toNat 1 = .ok s0) :
    execQpeek d q g s = (s0.updThread w.k (·.setReg d.toNat (w32 (w.tr.queue q.toNat).words.length) .b32)).wordDone w :=
  runWord_ok h (by simp only [hx, if_neg (Option.isNone_iff_eq_none.not.2 hb), ht]; rfl)

theorem execQpop_behind (ha : w.t.acquirePending w.t.seq = true) : execQpop d q g s = .next (s.stopped w (.park .drain)) :=
  runWord_error h (by simp only [hx, if_neg (Option.isNone_iff_eq_none.not.2 hb), ha]; rfl)

variable (ha : w.t.acquirePending w.t.seq = false)
include ha

theorem execQpop_misplaced (ht : s.takeRank w q.toNat 1 = .error e) : execQpop d q g s = .next (s.stopped w e) :=
  runWord_error h (by simp only [hx, if_neg (Option.isNone_iff_eq_none.not.2 hb), ha, ht]; rfl)

variable (ht : s.takeRank w q.toNat 1 = .ok s0)
include ht

theorem execQpop_taken {v : Word × Tag} {vs : List (Word × Tag)} (hw : (w.tr.queue q.toNat).words = v :: vs)
    (hp : (w.tr.queue q.toNat).popWait = []) : execQpop d q g s = (s0.popWord w.trI q.toNat w.k d.toNat v vs).wordDone w :=
  runWord_ok h (by simp only [hx, if_neg (Option.isNone_iff_eq_none.not.2 hb), ha, ht, hw, hp]; rfl)

theorem execQpop_waits (hn : (w.tr.queue q.toNat).words = [] ∨ (w.tr.queue q.toNat).popWait ≠ []) :
    execQpop d q g s = .next (s.stopped w (execQpop.wait d q s0 w)) :=
  runWord_error h (by
    simp only [hx, if_neg (Option.isNone_iff_eq_none.not.2 hb), ha, ht]
    cases hw : (w.tr.queue q.toNat).words with
    | nil => rfl
    | cons v vs =>
      have hp : (w.tr.queue q.toNat).popWait.isEmpty = false := by simpa [hw] using hn
      simp only [hp]
      rfl)

end

/-! ### QCFG (R155, R157, R158) -/

section
variable (hx : w.t.fetch [] [rd1 a []] = .ok x) (hz : slice (x.v 0).toNat 1 8 = 0)
include hx hz

theorem execQcfg_unbinds (hv : (x.v 0).getLsbD 0 = false) (ht : s.takeRank w q.toNat 0 = .ok s0) :
    execQcfg a q g s = ((s0.evictWaiters w.trI q.toNat).unbind w.trI q.toNat).wordDone w :=
  runWord_ok h (by
    simp only [hx, bind, Except.bind, hz, bitAt_toNat, hv, ht]
    rfl)

theorem execQcfg_binds (hv : (x.v 0).getLsbD 0 = true) (ht : s.takeRank w q.toNat 0 = .ok s0) {base : Nat}
    (hbase : (x.v 0).toNat / 512 * 512 = base) (hin : base + 512 ≤ w.tr.slice)
    (hapart : ∀ i < 8, i ≠ q.toNat → ∀ b, (w.tr.queue i).base = some b → b + 512 ≤ base ∨ base + 512 ≤ b)
    (hcar : s.meetsCarousel w.e w.trI base 512 = false) :
    execQcfg a q g s =
      (((s0.evictWaiters w.trI q.toNat).unbind w.trI q.toNat).updRelay w.trI q.toNat fun c => { c with base := some base }).wordDone w :=
  runWord_ok h (by
    have hslice : decide (w.tr.slice < base + 512) = false := decide_eq_false (Nat.not_lt.2 hin)
    simp only [hx, bind, Except.bind, hz, bitAt_toNat, hv, ht, hbase, hslice, otherQueues_apart hapart, hcar]
    rfl)

end
end

/-- An update of a queue leaves what the troupe's releases have passed on. -/
theorem State.relStamp_updRelay (s : State) (tr q k : Nat) (f : RelayQueue → RelayQueue) :
    ((s.updRelay tr q f).troupe k).relStamp = (s.troupe k).relStamp := by
  simp only [State.troupe, State.updRelay, State.updTroupe_troupes, nth_updateAt]
  split <;> rfl

/-- Settles O33: whether its queue is bound, its place in its ac and what its thread has outstanding decide each operation. -/
theorem relayQueues : Obligations.RelayQueues := by
  unfold Obligations.RelayQueues
  intro s w g a d q h Q place early placed notYet
  have lost {group : Nat} (he : early group) : s.takeRank w q.toNat group = .error (.hold s w.t.status) := State.takeRank_lost he
  have taken {group : Nat} (he : ¬early group) : s.takeRank w q.toNat group = .ok (placed group) := State.takeRank_taken he
  refine ⟨fun x hx => ?_, fun x hx => ?_, fun x hx hz he => ?_⟩
  · exact ⟨execQpush_unbound h hx, fun hb he => execQpush_misplaced h hx hb (lost he),
      fun hb he hr => execQpush_unreleased h hx hb (taken he) hr,
      fun hb he hr => ⟨fun hlt hp => execQpush_room h hx hb (taken he) hr rfl ⟨hlt, hp⟩, execQpush_full h hx hb (taken he) hr rfl⟩⟩
  · refine ⟨fun hb => ⟨execQpop_unbound h hx hb, execQpeek_unbound h hx hb⟩, fun hb ha => execQpop_behind h hx hb ha,
      fun hb he => ⟨fun ha => execQpop_misplaced h hx hb ha (lost he), execQpeek_misplaced h hx hb (lost he)⟩,
      fun hb he => ⟨execQpeek_counted h hx hb (taken he), fun v vs ha hw hp => ?_, fun ha hn => execQpop_waits h hx hb ha (taken he) hn⟩⟩
    have hrel : ((placed 1).troupe w.trI).relStamp = w.tr.relStamp := by
      rw [State.relStamp_updRelay, State.troupe_of_whoOf h.1]
    rw [← hrel]
    exact execQpop_taken h hx hb ha (taken he) hw hp
  · exact ⟨fun hv => execQcfg_unbinds h hx hz hv (taken he), fun hv => execQcfg_binds h hx hz hv (taken he) rfl⟩

end Sys2Proof.Machine

namespace Sys2Proof.Machine

/-! ## The loop mapper (O36; 07_mapper.md R162 to R173) -/

/-! ### The operand of MAP.HINT and MAP.OFF (R172) -/

theorem headOperand_legal {t : Thread} {a : RegField} {x : Fetched} (hx : t.fetch [] [rd2 a [.b32]] = .ok x)
    (hc : canonical (w64 (x.n 0)) = true) (h4 : (w64 (x.n 0)).toNat % 4 = 0) : headOperand t a = .ok (x.t, w64 (x.n 0)) := by
  simp only [headOperand, hx, bind, Except.bind, checkTarget_legal hc h4]

/-! ### MAP.HINT (R172) -/

/-- A context maps a head where its mapping is on, its list is not full and does not name the head. -/
theorem Ctx.mapsHead_iff (c : Ctx) (head : DWord) :
    c.mapsHead head = true ↔ c.mapctl.getLsbD 0 = false ∧ c.mapctl.getLsbD 2 = false ∧ head ∉ c.forbid := by
  simp [Ctx.mapsHead, bitAt_toNat, and_assoc]

theorem Core.holds_iff (c : Core) (ctx : Nat) (head : DWord) : c.holds ctx head = true ↔ ∃ m ∈ c.configs, m.ctx = ctx ∧ m.head = head := by
  simp [Core.holds]

/-- A core on which a head has been hinted: a head that may be mapped and is not installed is marked, once. -/
def Core.hint (co : Core) (c : Ctx) (ctx : Nat) (head : DWord) : Core :=
  let c0 : Core := { co with refused := co.refused.filter fun x => !(x.ctx == ctx && x.head == head) }
  if head ∈ c.forbid ∨ c.mapctl.getLsbD 2 = true ∨ (∃ m ∈ co.configs, m.ctx = ctx ∧ m.head = head) ∨ (ctx, head) ∈ co.hinted then c0
  else { c0 with hinted := co.hinted ++ [(ctx, head)] }

/-- MAP.HINT marks a head just where none of the four reasons against it holds. -/
theorem Core.hint_eq (co : Core) (c : Ctx) (ctx : Nat) (head : DWord) (hon : c.mapctl.getLsbD 0 = false) :
    co.hint c ctx head = { co with
      refused := co.refused.filter fun x => !(x.ctx == ctx && x.head == head)
      hinted := if c.mapsHead head && !co.holds ctx head && !co.hinted.contains (ctx, head) then co.hinted ++ [(ctx, head)]
        else co.hinted } := by
  have marks : (c.mapsHead head && !co.holds ctx head && !co.hinted.contains (ctx, head)) = true ↔
      ¬(head ∈ c.forbid ∨ c.mapctl.getLsbD 2 = true ∨ (∃ m ∈ co.configs, m.ctx = ctx ∧ m.head = head) ∨ (ctx, head) ∈ co.hinted) := by
    rw [← Core.holds_iff, Bool.and_eq_true, Bool.and_eq_true, Ctx.mapsHead_iff]
    simp only [hon, List.contains_iff_mem, Bool.not_eq_true', not_or, true_and, ← Bool.not_eq_true]
    tauto
  simp only [Core.hint, marks, ite_not]
  split <;> rfl

section
variable {s : State} {w : Who} {g : PredField} {a : RegField} {x : Fetched} {head : DWord} (h : Executes s w g)
  (ho : headOperand w.t a = .ok (x.t, head))
include h ho

theorem execMapHint_off (hoff : w.c.mapctl.getLsbD 0 = true ∨ w.c.mapctl.getLsbD 1 = true) :
    execMapHint a g s = (s.setThread w.k x.t).wordDone w :=
  runWord_ok h (by
    simp only [ho, bitAt_toNat, bind, Except.bind]
    rw [if_pos (by simpa using hoff)])

theorem execMapHint_on (hon : w.c.mapctl.getLsbD 0 = false) (hhints : w.c.mapctl.getLsbD 1 = false) :
    execMapHint a g s = ((s.setThread w.k x.t).updCore w.tr.core (·.hint w.c w.cI head)).wordDone w :=
  runWord_ok h (by
    simp only [ho, bitAt_toNat, hon, hhints, bind, Except.bind, Core.hint_eq _ _ _ _ hon]
    rfl)

/-! ### MAP.OFF (R171, R172) -/

theorem execMapOff_zero (hz : head = 0) :
    execMapOff a g s = (((s.setThread w.k x.t).dropConfigs fun _ m => m.ctx == w.cI && w.c.forbid.contains m.head).updCtx w.cI fun c =>
      { c with forbid := [], mapctl := c.mapctl &&& ~~~(4#32) }).wordDone w :=
  runWord_ok h (by
    simp only [ho, bind, Except.bind]
    exact if_pos hz)

variable (hz : head ≠ 0)
include hz

theorem execMapOff_no_loop (hl : s.headsLoop w.cI head = false) : execMapOff a g s = (s.setThread w.k x.t).wordDone w :=
  runWord_ok h (by
    simp only [ho, bind, Except.bind, if_neg hz, hl]
    rfl)

variable (hl : s.headsLoop w.cI head = true)
include hl

theorem execMapOff_forbids (hf : head ∈ w.c.forbid ∨ w.c.forbid.length < 16) :
    execMapOff a g s = ((((s.setThread w.k x.t).dropConfigs fun _ m => m.ctx == w.cI && m.head == head).chill w.cI (· == head)).updCtx
      w.cI fun c => if head ∈ c.forbid then c else { c with forbid := c.forbid ++ [head] }).wordDone w := by
  have hadd : (fun c : Ctx => if head ∈ c.forbid then c else { c with forbid := c.forbid ++ [head] }) =
      fun c => { c with forbid := if c.forbid.contains head then c.forbid else c.forbid ++ [head] } := by
    funext c
    simp only [List.contains_iff_mem]
    split <;> rfl
  refine runWord_ok h ?_
  simp only [ho, bind, Except.bind, if_neg hz, hl, hadd, Bool.not_true, Bool.false_eq_true, if_false]
  refine if_pos ?_
  simpa using hf

theorem execMapOff_full (hf : head ∉ w.c.forbid) (hlen : 16 ≤ w.c.forbid.length) :
    execMapOff a g s = ((((s.setThread w.k x.t).dropAll w.cI).chill w.cI fun _ => true).updCtx w.cI fun c =>
      { c with mapctl := c.mapctl ||| 4#32 }).wordDone w :=
  runWord_ok h (by
    simp only [ho, bind, Except.bind, if_neg hz, hl, Bool.not_true, Bool.false_eq_true, if_false]
    refine if_neg ?_
    simpa using ⟨hf, hlen⟩)

end

/-! ### Timed events and CLEAR (R164, R165, R173) -/

/-- A head's count is cleared where at least 65,536 ac have passed, and counts from the last such instant. -/
theorem execHeatEntryClear_eq (s : State) (core : Nat) (head : DWord) :
    execHeatEntryClear core head s = .next (s.updCore core fun c => { c with heat := c.heat.map fun h =>
      let n := (s.clock - h.since).toNat / 65536
      if h.head = head ∧ 1 ≤ n then { h with count := 0, since := h.since + w64 (65536 * n) } else h }) := by
  have hat (h : Heat) : (if h.head == head then h.at_ s.clock else h) = (let n := (s.clock - h.since).toNat / 65536
      if h.head = head ∧ 1 ≤ n then { h with count := 0, since := h.since + w64 (65536 * n) } else h) := by
    by_cases hh : h.head = head
    · simp only [Heat.at_, hh, beq_self_eq_true, if_true, true_and, Nat.one_le_iff_ne_zero, ite_not]
    · simp only [hh, beq_iff_eq, false_and, if_false]
  simp only [execHeatEntryClear, hat]

theorem execMctrClear_on (s : State) (core : Nat) (hon : s.domainOff = false) :
    execMctrClear core true s = .next (s.updCore core fun c => { c with counters := {} }) := by
  simp only [execMctrClear, hon]
  rfl

/-! ### Analysis of a candidate (R165, R166) -/

/-- The configuration that a candidate becomes, whose body has these words on these pages. -/
def Heat.newConfig (h : Heat) (ctx : Nat) (head : DWord) (b : List (Nat × Nat) × List Nat) : MapConfig :=
  { ctx := ctx, head := head, back := h.back, span := spanOf (b.1.filter fun x => !isHeaderOrHint x.2).length, part := h.part,
    live := maskOf (liveRegs h.tags b.1), pages := (b.2.map (· / 4096)).dedup, vpages := (b.1.map (·.1 % 2 ^ 57 / 4096)).dedup }

section
variable {s : State} {core ctx place : Nat} {head : DWord}

theorem execMapperAnalysis_no_candidate (hf : ((s.core core).heat.find? fun h => h.ctx == ctx && h.head == head && h.candidate) = none) :
    execMapperAnalysis core ctx head place s = .next s := by
  simp only [execMapperAnalysis, hf]

variable {h : Heat} (hf : ((s.core core).heat.find? fun h => h.ctx == ctx && h.head == head && h.candidate) = some h)
include hf

theorem execMapperAnalysis_unmapped (hm : (s.ctx ctx).mapsHead head = false) :
    execMapperAnalysis core ctx head place s =
      .next (s.updCore core fun co => { co with heat := co.heat.filter fun x => !(x.ctx == ctx && x.head == head) }) := by
  simp only [execMapperAnalysis, hf, hm]
  rfl

variable (hm : (s.ctx ctx).mapsHead head = true)
include hm

theorem execMapperAnalysis_no_body (hb : s.bodyOf (s.ctx ctx).asid core head h.back = none) :
    execMapperAnalysis core ctx head place s = .next s := by
  simp only [execMapperAnalysis, hf, hm, hb]
  rfl

variable {b : List (Nat × Nat) × List Nat} (hb : s.bodyOf (s.ctx ctx).asid core head h.back = some b)
include hb

theorem execMapperAnalysis_unread (hr : s.allReadable b.2 = false) :
    execMapperAnalysis core ctx head place s = .next (s.acquireAll b.2 false { ctx := ctx }) := by
  simp only [execMapperAnalysis, hf, hm, hb, hr]
  rfl

variable (hr : s.allReadable b.2 = true)
include hr

theorem execMapperAnalysis_refused {n : Nat} (hc : refusalCode (slice (s.ctx ctx).mapctl.toNat 4 2) head.toNat h.tags b.1 = some n) :
    execMapperAnalysis core ctx head place s = .next (s.updCore core (·.refuse ctx head n s.clock)) := by
  simp only [execMapperAnalysis, hf, hm, hb, hr, hc]
  rfl

/-- A candidate that nothing refuses is installed; the threads of the configurations that it evicts leave them. -/
theorem execMapperAnalysis_installed (hc : refusalCode (slice (s.ctx ctx).mapctl.toNat 4 2) head.toNat h.tags b.1 = none) {gone : List Nat}
    (hgone : (((s.core core).configs.take ((s.core core).configs.length - 3)).flatMap fun m => m.inside.map (·.1)) = gone) :
    execMapperAnalysis core ctx head place s =
      .next ((s.leave gone).updCore core (·.install place (h.newConfig ctx head b))) := by
  simp only [execMapperAnalysis, hf, hm, hb, hr, hc, hgone]
  rfl

end

/-- Settles O36: the operand's checks come first, then each word and event does what its case says. -/
theorem loopMapper : Obligations.LoopMapper := by
  unfold Obligations.LoopMapper
  constructor
  case left =>
    intro s w g a x h hx head hc h4 s1
    have ho : headOperand w.t a = .ok (x.t, head) := headOperand_legal hx hc h4
    exact ⟨execMapHint_off h ho, execMapHint_on h ho, execMapOff_zero h ho, execMapOff_no_loop h ho,
      execMapOff_forbids h ho, execMapOff_full h ho⟩
  case right =>
    intro s core head
    refine ⟨execHeatEntryClear_eq s core head, rfl, execMctrClear_on s core, rfl, ?_⟩
    intro ctx place found c
    refine ⟨execMapperAnalysis_no_candidate, fun h hf => ⟨execMapperAnalysis_unmapped hf, fun hm => ⟨execMapperAnalysis_no_body hf hm, ?_⟩⟩⟩
    intro b hb code
    refine ⟨execMapperAnalysis_unread hf hm hb, fun n hr => execMapperAnalysis_refused hf hm hb hr, fun hr hn => ⟨fun hlen => ?_, ?_⟩⟩
    · refine execMapperAnalysis_installed hf hm hb hr hn (gone := []) ?_
      rw [Nat.sub_eq_zero_of_le (by omega), List.take_zero, List.flatMap_nil]
    · intro old rest hcs hlen
      refine execMapperAnalysis_installed hf hm hb hr hn (gone := old.inside.map (·.1)) ?_
      rw [hcs, List.length_cons, hlen]
      exact List.flatMap_singleton _ _

end Sys2Proof.Machine

namespace Sys2Proof.Machine

/-! ## The checks of a global access (O26; 08_memory.md R179, R187, R188) -/

/-- Two operations one after the other succeed just where both do. -/
theorem bind_eq_ok_iff {ε α β : Type} {x : Except ε α} {f : α → Except ε β} {b : β} : x >>= f = .ok b ↔ ∃ a, x = .ok a ∧ f a = .ok b := by
  cases x <;> simp [bind, Except.bind]

/-- A traversal gives its results just where each step gives its own. -/
theorem mapM_eq_ok_iff {ε α β : Type} {f : α → Except ε β} {l : List α} {bs : List β} :
    l.mapM f = .ok bs ↔ List.Forall₂ (fun a b => f a = .ok b) l bs := by
  induction l generalizing bs with
  | nil => cases bs <;> simp [pure, Except.pure]
  | cons a l ih =>
    simp only [List.mapM_cons, bind_eq_ok_iff, List.forall₂_cons_left_iff, ← ih, pure, Except.pure, Except.ok.injEq, eq_comm (a := bs)]
    tauto

/-! ### Canonical form and alignment (R188, steps 1 and 2) -/

section
variable {a : DWord} {len align i : Nat} {mis : Cause}

theorem checkForm_noncanonical (hi : i < len) (hc : canonical (a + w64 i) = false) (hlt : ∀ j < i, canonical (a + w64 j) = true) :
    checkForm a len align mis = .error (.trap .addressNoncanonical (a + w64 i) 0 0) := by
  have hfind : (upFrom 0 len).find? (fun i => !canonical (a + w64 i)) = some i := by
    rw [upFrom_eq_range, List.find?_range'_eq_some]
    simpa [hc, hi] using hlt
  simp only [checkForm, hfind]

theorem checkForm_canonical (hc : ∀ i < len, canonical (a + w64 i) = true) :
    checkForm a len align mis = if a.toNat % align = 0 then .ok () else .error (.trap mis a 0 0) := by
  have hfind : (upFrom 0 len).find? (fun i => !canonical (a + w64 i)) = none := by
    simpa [List.find?_eq_none, mem_upFrom] using hc
  simp only [checkForm, hfind, bne_iff_ne, ite_not]

theorem checkForm_ok (h : checkForm a len align mis = .ok ()) : (∀ i < len, canonical (a + w64 i) = true) ∧ a.toNat % align = 0 := by
  have hc : ∀ i < len, canonical (a + w64 i) = true := by
    simp only [checkForm] at h
    split at h
    case h_1 => cases h
    case h_2 hnone => simpa [List.find?_eq_none, mem_upFrom] using hnone
  refine ⟨hc, ?_⟩
  by_contra hm
  simp [checkForm_canonical hc, hm] at h

end

/-! ### Translation of every page (R188, steps 3 to 5) -/

/-- A page that passes its checks is translated by the entry found, which permits the use. -/
theorem State.pageCheck_ok {s : State} {asid : BitVec 16} {core va : Nat} {u : Use} {e : TlbEntry} (h : s.pageCheck asid core va u = .ok e) :
    s.tlbFind asid core va = some e ∧ (u.read = true → e.read = true) ∧ (u.write = true → e.write = true ∧ e.tracked = false) ∧
      (u.exec = true → e.exec = true) := by
  simp only [State.pageCheck] at h
  split at h
  · cases h
  · split_ifs at h with hr hw hx ha ht
    cases h
    simp_all

theorem mem_pagesOf {va len a : Nat} (h : a ∈ pagesOf va len) : a = max va (a / 4096 * 4096) := by
  simp only [pagesOf, List.mem_map, mem_upFrom] at h
  omega

/-- Each page of an access holds higher bytes than the pages before it. -/
theorem pairwise_pagesOf (va len : Nat) : (pagesOf va len).Pairwise (· / 4096 < · / 4096) := by
  rw [pagesOf, List.pairwise_map, upFrom_eq_range]
  refine List.Pairwise.imp_of_mem (fun hp hq hlt => ?_) List.pairwise_lt_range'
  rw [List.mem_range'_1] at hp hq
  omega

/-- The bytes of an access, page by page, are its bytes in order. -/
theorem flatMap_pagesOf (va len : Nat) :
    ((pagesOf va len).flatMap fun a => (upFrom va len).filter fun b => b / 4096 == a / 4096) = upFrom va len := by
  have hup : (upFrom va len).Pairwise (· < ·) := by
    rw [upFrom_eq_range]
    exact List.pairwise_lt_range'
  have hlt : ((pagesOf va len).flatMap fun a => (upFrom va len).filter fun b => b / 4096 == a / 4096).Pairwise (· < ·) := by
    refine List.pairwise_flatMap.2 ⟨fun a _ => hup.filter _, (pairwise_pagesOf va len).imp fun hpq x hx y hy => ?_⟩
    simp only [List.mem_filter, beq_iff_eq] at hx hy
    omega
  refine hlt.eq_of_mem_iff hup fun b => ?_
  simp only [pagesOf, List.mem_flatMap, List.mem_map, List.mem_filter, mem_upFrom, beq_iff_eq]
  refine ⟨fun ⟨_, _, hb, _⟩ => hb, fun hb => ⟨_, ⟨b / 4096, ?_, rfl⟩, hb, ?_⟩⟩ <;> omega

/-- The place of byte b of an access, as an entry gives it. -/
def TlbEntry.loc (e : TlbEntry) (b : Nat) : Loc := { addr := e.phys b, policy := e.policy, va := b }

section
variable {s : State} {w : Who} {u : Use}

/-- An access that is translated has its bytes in order, each where the entry of the byte's own page puts it. -/
theorem State.translate_ok {va len : Nat} {ls : List Loc} (h : s.translate w va len u = .ok ls) :
    ls.map (·.va) = upFrom va len ∧
      ∀ l ∈ ls, ∃ e, s.pageCheck w.c.asid w.tr.core (max va (l.va / 4096 * 4096)) u = .ok e ∧ l = e.loc l.va := by
  obtain ⟨es, hes, hls⟩ := bind_eq_ok_iff.1 h
  cases hls
  have hck : ∀ ae ∈ es, s.pageCheck w.c.asid w.tr.core ae.1 u = .ok ae.2 :=
    (ends_mapM (Q := fun _ => True) (pagesOf va len) fun a _ => by split <;> simp [*]).ok hes
  have hfst : pagesOf va len = es.map Prod.fst := by
    rw [← List.forall₂_eq_eq_eq, List.forall₂_map_right_iff]
    refine (mapM_eq_ok_iff.1 hes).imp fun a ae h => ?_
    split at h <;> cases h
    rfl
  constructor
  · rw [← flatMap_pagesOf va len, hfst]
    simp [List.flatMap_map, List.map_flatMap, TlbEntry.places, Function.comp_def]
  · intro l hl
    obtain ⟨ae, hae, hl⟩ := List.mem_flatMap.1 hl
    simp only [TlbEntry.places, List.mem_map, List.mem_filter, beq_iff_eq] at hl
    obtain ⟨b, ⟨-, hb⟩, rfl⟩ := hl
    refine ⟨ae.2, ?_, rfl⟩
    rw [hb, ← mem_pagesOf (hfst ▸ List.mem_map_of_mem hae)]
    exact hck ae hae

theorem State.checkGlobal_of_checkForm_error {a : DWord} {len align : Nat} {watched : Bool} {mis : Cause} {e : Stop}
    (h : checkForm a len align mis = .error e) : s.checkGlobal w a len align u watched mis = .error e := by
  simp only [State.checkGlobal, h]
  rfl

theorem State.checkGlobal_ok {a : DWord} {len align : Nat} {watched : Bool} {mis : Cause} {p : Placed}
    (h : s.checkGlobal w a len align u watched mis = .ok p) :
    checkForm a len align mis = .ok () ∧ s.translate w (va57 a) len u = .ok p.locs := by
  obtain ⟨_, hform, h⟩ := bind_eq_ok_iff.1 h
  obtain ⟨ls, htr, h⟩ := bind_eq_ok_iff.1 h
  refine ⟨hform, ?_⟩
  split at h
  all_goals
    obtain ⟨_, _, h⟩ := bind_eq_ok_iff.1 h
    cases h
    exact htr

end

/-- Settles O26: the form of the address decides the traps, and the translation of every page the places. -/
theorem accessChecks : Obligations.AccessChecks := by
  unfold Obligations.AccessChecks
  intro s w a len align u watched mis _
  refine ⟨fun i hi hc hlt => ?_, fun hc hm => ?_, fun p hp => ?_⟩
  · exact State.checkGlobal_of_checkForm_error (checkForm_noncanonical hi hc hlt)
  · exact State.checkGlobal_of_checkForm_error ((checkForm_canonical hc).trans (if_neg hm))
  · obtain ⟨hform, htr⟩ := State.checkGlobal_ok hp
    obtain ⟨hva, hloc⟩ := State.translate_ok htr
    have hlen : p.locs.length = len := by simpa using congrArg List.length hva
    obtain ⟨hcanon, halign⟩ := checkForm_ok hform
    refine ⟨hcanon, halign, hlen, fun i hi => ?_⟩
    have hi' : i < p.locs.length := by omega
    obtain ⟨e, hck, hl⟩ := hloc _ (List.getElem_mem hi')
    have hb : p.locs[i].va = va57 a + i := by
      have := congrArg (·[i]?) hva
      simpa [upFrom_eq_range, hi, hi'] using this
    rw [hb] at hck hl
    obtain ⟨hfind, hr, hw, hx⟩ := State.pageCheck_ok hck
    exact ⟨e, hfind, by rw [List.getElem?_eq_getElem hi', hl]; rfl, hr, hw, hx⟩

end Sys2Proof.Machine

namespace Sys2Proof.Machine

/-! ## Constant loads, full/empty accesses and MX blocks (O25; 02_encoding.md R39; 03_formats.md R76; 08_memory.md R177, R180, R185, R186) -/

/-- Where the "a" flag has room, a load of any form and space issues. -/
theorem State.issueLoad_of_room {t : Thread} (hroom : t.Room [t.fa]) (s : State) (w : Who) (p : Placed) (form : LoadForm) (sc : Scope)
    (const : Bool) : s.issueLoad w t p form sc const = .ok (s.setThread w.k ((t.raised [t.fa]).pushLoad
      { seq := 0, locs := p.locs, order := if const then .rlx else t.hints.order, scope := sc, form := form, flag := t.fa, const := const,
        born := s.moves })) := by
  simp only [State.issueLoad, Thread.raiseFlags_ok hroom, Except.map]

/-! ### LDC (R177) -/

section
variable {s : State} {w : Who} {g : PredField} {d b : RegField} {ty : BitVec 4} {o : BitVec 5} {x : Fetched} {c : Nat} (h : Executes s w g)
  (hty : typeAdmitted ty.toNat 1 true = true) (hx : w.t.fetch [wr1 d] [if b.toNat = 127 then .imm 0 .b32 else rd1 b [.b32]] = .ok x)
  (hc : scratchAddr (x.n 0) (w.t.memOffset o) (typeBytes ty.toNat 1) = c)
include h hty hx hc

theorem execLdc_misaligned (hal : c % typeAlign ty.toNat 1 ≠ 0) : execLdc d b ty o g s = s.trapped w .misaligned (w64 c) 0 :=
  runWord_error h (by
    simp only [require_of_true hty, hx, hc, bind, Except.bind]
    exact if_pos (bne_iff_ne.2 hal))

variable (hal : c % typeAlign ty.toNat 1 = 0)
include hal

theorem execLdc_outside (hlim : (constRegion w.e.packet c).2 < c % 2 ^ 28 + typeBytes ty.toNat 1) :
    execLdc d b ty o g s = s.trapped w .permissionRead (w64 c) 0 :=
  runWord_error h (by
    simp only [require_of_true hty, hx, hc, hal, bind, Except.bind, bne_self_eq_false, Bool.false_eq_true, if_false]
    exact if_pos hlim)

/-- A constant load issues relaxed, at scope .TH, through the caches whatever its page's policy (R177, R196). -/
theorem execLdc_issued {p : Placed} (hlim : c % 2 ^ 28 + typeBytes ty.toNat 1 ≤ (constRegion w.e.packet c).2)
    (hp : s.checkGlobal w (w64 (constRegion w.e.packet c).1 + w64 (c % 2 ^ 28)) (typeBytes ty.toNat 1) (typeAlign ty.toNat 1) { read := true } =
      .ok p) (hroom : x.t.Room [x.t.fa]) :
    execLdc d b ty o g s = (s.setThread w.k ((x.t.raised [x.t.fa]).pushLoad
      { seq := 0, locs := p.locs.map fun l => { l with policy := .wb }, order := .rlx, scope := .th, const := true,
        form := { type := ty.toNat, dst := d.toNat, count := 1 }, flag := x.t.fa, born := s.moves })).wordDone w :=
  runWord_ok h (by
    simp only [require_of_true hty, hx, hc, hal, bind, Except.bind, bne_self_eq_false, Bool.false_eq_true, if_false, if_neg (Nat.not_lt.2 hlim), hp,
      State.issueLoad_of_room hroom, if_true])

end

/-! ### LDFE and STFE (R185, R186) -/

section
variable {s : State} {w : Who} {d b : RegField} {o : BitVec 5} {x : Fetched} {tr off : Nat}

section
variable (hx : w.t.fetch [wr4 d] [rd1 b [.b32]] = .ok x)
  (hp : s.checkScratch w (scratchAddr (x.n 0) (w.t.memOffset o) 16) 16 16 = .ok (tr, off))
include hx hp

/-- A thread whose granule is empty, or whose turn at it has not come, parks there. -/
theorem loadFullEmpty_parks (clear : Bool)
    (hready : ¬((s.troupe tr).isFull off = true ∧ s.feFirst w (tr * 2 ^ 26 + off / 16) = true)) :
    loadFullEmpty clear d b o s w = .error (.park (.fullEmpty (tr * 2 ^ 26 + off / 16))) := by
  simp only [loadFullEmpty, hx, hp, bind, Except.bind]
  rw [if_pos (by simpa [imp_iff_not_or] using hready)]

/-- The thread that takes a full granule: its "a" flag owes the 16 bytes, and it acquires at .EN (R185, R202). -/
def Fetched.tookGranule (x : Fetched) (d : RegField) (s1 : State) (bytes : List Byte) : Thread :=
  { x.t.owing (x.t.oweA d.toNat (toWords (ofBytes bytes) 4) .b32) with acqStamp := s1.stamp + 1 }

theorem loadFullEmpty_takes (clear : Bool) {s1 : State} {bytes : List Byte}
    (hready : (s.troupe tr).isFull off = true ∧ s.feFirst w (tr * 2 ^ 26 + off / 16) = true)
    (hst : ∀ p ∈ w.t.stores, (p.setFull && p.touches (scratchLocs tr off 16)) = false)
    (hr : s.readNow w (scratchLocs tr off 16) = .ok (s1, bytes)) (hroom : x.t.Room [x.t.fa]) :
    loadFullEmpty clear d b o s w =
      .ok (if clear then (s1.setThread w.k (x.tookGranule d s1 bytes)).updTroupe tr fun r => r.setFullBit off false
        else s1.setThread w.k (x.tookGranule d s1 bytes)) := by
  have hclear : (w.t.stores.any fun p => p.setFull && p.touches (scratchLocs tr off 16)) = false := by
    simpa only [List.any_eq_false, Bool.not_eq_true] using hst
  simp only [loadFullEmpty, hx, hp, hready, hclear, hr, Thread.oweRegs_ok hroom, bind, Except.bind]
  rfl

end

/-- STFE issues a release at .EN of 16 bytes that sets the full bit. -/
theorem execStfe_issued {g : PredField} (h : Executes s w g) (hx : w.t.fetch [] [rd1 b [.b32], rd4 d []] = .ok x)
    (hp : s.checkScratch w (scratchAddr (x.n 0) (w.t.memOffset o) 16) 16 16 = .ok (tr, off)) (hroom : x.t.Room [x.t.fb]) :
    execStfe d b o g s = (s.addStore w (x.t.owing { flag := x.t.fb, stores := [x.t.seq] })
      { seq := 0, bytes := storeOf (scratchLocs tr off 16) (toBytes (x.n 1) 16), order := .rel, scope := .en, setFull := true,
        src := some { regs := (upFrom d.toNat 4).map fun r => (r, storeTags 0), words := x.ws 1 } }).wordDone w :=
  runWord_ok h (by
    have hlen : (x.ws 1).length = 4 := Thread.length_fetch_ws hx rfl
    simp only [hx, hp, bind, Except.bind, issueStore_ok hroom, dataOf_of_length hlen])

end

/-! ### LDMX and STMX (R76, R180) -/

section
variable {s : State} {w : Who} {g : PredField} {d b : RegField} {ty : BitVec 4} {o : BitVec 5} (h : Executes s w g)
include h

theorem execLdmx_refused (hm : mxShape ty.toNat = none) : execLdmx d b ty o g s = s.trapped w .formatUnsupported 0 0 :=
  runWord_error h (by simp only [hm]; rfl)

theorem execStmx_refused (hm : mxShape ty.toNat = none) : execStmx d b ty o g s = s.trapped w .formatUnsupported 0 0 :=
  runWord_error h (by simp only [hm]; rfl)

variable {x : Fetched} {p : Placed} {grp z : Nat} (hm : mxShape ty.toNat = some (grp, z))
include hm

theorem execLdmx_issued
    (hx : w.t.fetch [⟨d.toNat, grp, grp⟩, ⟨d.toNat + grp, 1, 1⟩] [rd2 b [.b32], .regs (w.t.hints.cReg.getD 0) 2 2 [.b32]] = .ok x)
    (hp : mxPlaces s w (globalAddr (x.n 0) (w.t.memOffset o) z) (w64 (x.n 1)) z { read := true } = .ok p) (hroom : x.t.Room [x.t.fa]) :
    execLdmx d b ty o g s = (s.setThread w.k ((x.t.raised [x.t.fa]).pushLoad
      { seq := 0, locs := p.locs, order := x.t.hints.order, scope := w.t.hints.scope,
        form := { type := ty.toNat, dst := d.toNat, count := grp, scale := true }, flag := x.t.fa, born := s.moves })).wordDone w :=
  runWord_ok h (by
    simp only [hm, hx, hp, bind, Except.bind, State.issueLoad_of_room hroom, Bool.false_eq_true, if_false])

theorem execStmx_issued
    (hx : w.t.fetch [] [rd2 b [.b32], .regs (w.t.hints.cReg.getD 0) 2 2 [.b32], .regs d.toNat grp grp [Tag.ofCode ty.toNat],
      .regs (d.toNat + grp) 1 1 [.e8m0x4]] = .ok x)
    (hp : mxPlaces s w (globalAddr (x.n 0) (w.t.memOffset o) z) (w64 (x.n 1)) z { write := true } = .ok p) (hroom : x.t.Room [x.t.fb]) :
    execStmx d b ty o g s = (s.addStore w (x.t.owing { flag := x.t.fb, stores := [x.t.seq] })
      { seq := 0, bytes := storeOf p.locs (toBytes (x.n 2) z ++ toBytes (x.n 3) 1), order := w.t.hints.order, scope := w.t.hints.scope, mx := true,
        src := some { regs := (upFrom d.toNat grp).map (fun r => (r, [Tag.ofCode ty.toNat])) ++ [(d.toNat + grp, [Tag.e8m0x4])],
                      words := x.ws 2 ++ x.ws 3 } }).wordDone w :=
  runWord_ok h (by simp only [hm, hx, hp, bind, Except.bind, issueStore_ok hroom])

end

/-- Settles O25: each word checks its place, then issues its access or, for LDFE, takes the granule or parks. -/
theorem specialAccesses : Obligations.SpecialAccesses := by
  unfold Obligations.SpecialAccesses
  intro s w g d b ty o h ea
  refine ⟨fun x p hty hx => ?_, fun x tr off hx hp => ⟨fun hr => ?_, fun s1 bytes hr hst hrd hroom => ?_⟩,
    fun x tr off hx hp hroom => execStfe_issued h hx hp hroom, fun hm => ⟨execLdmx_refused h hm, execStmx_refused h hm⟩,
    fun grp z hm => ⟨fun x p hx hp hroom => execLdmx_issued h hm hx hp hroom, fun x p hx hp hroom => execStmx_issued h hm hx hp hroom⟩⟩
  · have hb : b = 127 ↔ b.toNat = 127 := BitVec.toNat_inj.symm
    simp only [hb] at hx
    exact ⟨execLdc_misaligned h hty hx rfl, execLdc_outside h hty hx rfl, fun hal hlim hp hroom => execLdc_issued h hty hx rfl hal hlim hp hroom⟩
  · exact ⟨runWord_error h (loadFullEmpty_parks hx hp false hr), runWord_error h (loadFullEmpty_parks hx hp true hr)⟩
  · exact ⟨runWord_ok h (loadFullEmpty_takes hx hp false hr hst hrd hroom), runWord_ok h (loadFullEmpty_takes hx hp true hr hst hrd hroom)⟩

end Sys2Proof.Machine

namespace Sys2Proof.Machine

/-! ## Cache maintenance and the fences (O28; 08_memory.md R193; 09_ordering.md R200, R202, R203, R205, R207, R214) -/

/-- A fetch leaves the flag that "b" names as it was. -/
theorem Thread.fetch_fb {t : Thread} {dsts : List Grp} {srcs : List Src} {x : Fetched} (hx : t.fetch dsts srcs = .ok x) : x.t.fb = t.fb := by
  rw [Thread.fetch_t hx]
  rfl

/-- Where the "b" flag has room, an obligation that waits for the write-backs of some units is owed. -/
theorem Thread.oweB_ok {t : Thread} {units : List Nat} (hroom : t.Room [t.fb]) :
    t.owe { flag := t.fb, units := units } = .ok (t.owing { flag := t.fb, units := units }) :=
  Thread.owe_ok hroom

/-! ### PREF (R193) -/

section
variable {s : State} {w : Who} {g : PredField} {a : RegField} {m : BitVec 2} {x : Fetched} (h : Executes s w g)
  (hx : w.t.fetch [] [rd2 a [.b32]] = .ok x) (hroom : x.t.Room [x.t.fb])
include h hx hroom

/-- A prefetch without a translation of its own owes its "b" and does nothing more. -/
theorem execPref_untranslated (hno : canonical (w64 (x.n 0)) = false ∨
      ∃ e, s.pageCheck w.c.asid w.tr.core (va57 (w64 (x.n 0))) { read := true } = .error e) :
    execPref a g m s = (s.setThread w.k (x.t.owing { flag := x.t.fb })).wordDone w :=
  runWord_ok h (by
    simp only [hx, bind, Except.bind, ← Thread.fetch_fb hx, Thread.oweB_ok hroom]
    rcases hno with hc | ⟨e, he⟩
    · simp only [hc]
      rfl
    · simp only [he]
      cases canonical (w64 (x.n 0)) <;> rfl)

variable {e : TlbEntry} (hc : canonical (w64 (x.n 0)) = true)
  (he : s.pageCheck w.c.asid w.tr.core (va57 (w64 (x.n 0))) { read := true } = .ok e)
include hc he

theorem execPref_uncached (hp : e.policy ≠ .wb) : execPref a g m s = (s.setThread w.k (x.t.owing { flag := x.t.fb })).wordDone w :=
  runWord_ok h (by
    simp only [hx, bind, Except.bind, ← Thread.fetch_fb hx, Thread.oweB_ok hroom, hc, he]
    rw [if_pos (bne_iff_ne.2 hp)]
    rfl)

theorem execPref_fetches (hp : e.policy = .wb) : execPref a g m s = (s.setThread w.k ((x.t.raised [x.t.fb]).pushLoad
    { seq := 0, locs := [{ addr := e.phys (va57 (w64 (x.n 0))), va := va57 (w64 (x.n 0)) }], flag := x.t.fb, const := true, born := s.moves,
      form := { type := 0, dst := 0, count := 0, level := some m.toNat } })).wordDone w :=
  runWord_ok h (by
    simp only [hx, bind, Except.bind, ← Thread.fetch_fb hx, hc, he, hp, Thread.raiseFlags_ok hroom]
    rfl)

end

/-! ### INV, CLN, FLUSH and RANGE (R193) -/

theorem execCctlInv_empties {s : State} {w : Who} {g : PredField} (h : Executes s w g) (hroom : w.t.Room [w.t.fb]) :
    execCctlInv g s = ((s.setThread w.k (w.t.owing { flag := w.t.fb })).updCore w.tr.core fun c => { c with l1 := [] }).wordDone w :=
  runWord_ok h (by simp only [Thread.oweB_ok hroom, Except.map])

/-- The unit that a checked place begins in. -/
def Placed.unit (p : Placed) : Nat := (p.locs.headD {}).addr / 64

/-- Nothing of a unit is on its way: no request of the L2, and at the memory island's home no transaction. -/
def State.UnitQuiet (s : State) (u : Nat) : Prop := s.asked u [0, 1, 2] = false ∧ (hostHomed (u * 64) = true ∨ s.homeOpen u = false)

/-- Maintenance acts on the unit of each range in turn, where the thread has no store outstanding and nothing of the units is on its way. -/
theorem maintain_ok {s : State} {w : Who} {t : Thread} {ranges : List (DWord × Nat)} {pas : List Placed} (op : Nat)
    (hpas : ranges.mapM (fun r => s.checkGlobal w r.1 r.2 1 { read := true } false) = .ok pas) (hst : w.t.stores = [])
    (hq : ∀ u ∈ pas.map Placed.unit, s.UnitQuiet u) (hroom : t.Room [t.fb]) :
    maintain op ranges t s w = .ok ((pas.map Placed.unit).foldl (fun s1 u => s1.unitOp op w.tr.core u (some w.cI))
      (s.setThread w.k (t.owing { flag := t.fb, units := if op = 0 then [] else pas.map Placed.unit }))) := by
  have hlocs : (ranges.mapM fun r => do
      let p ← s.checkGlobal w r.1 r.2 1 { read := true } false
      .ok p.locs) = .ok (pas.map (·.locs)) := by
    rw [mapM_eq_ok_iff, List.forall₂_map_right_iff]
    exact (mapM_eq_ok_iff.1 hpas).imp fun r p hp => by rw [hp]; rfl
  have hunits : ((pas.map (·.locs)).map fun ls => (ls.headD {}).addr / 64) = pas.map Placed.unit := List.map_map
  have hfree : ((pas.map Placed.unit).any fun u => s.asked u [0, 1, 2] || (!hostHomed (u * 64) && s.homeOpen u)) = false := by
    rw [List.any_eq_false]
    intro u hu
    obtain ⟨ha, ho⟩ := hq u hu
    rcases ho with ho | ho <;> simp [ha, ho]
  simp only [maintain, hlocs]
  simp only [hunits, hst, hfree, Thread.oweB_ok hroom, bind, Except.bind,
    List.any_nil, Bool.and_false, Bool.false_eq_true, if_false]

section
variable {s : State} {w : Who} {a : RegField} {x : Fetched} (hst : w.t.stores = [])
include hst

theorem maintainOne_ok {p : Placed} (op : Nat) (hx : w.t.fetch [] [rd2 a [.b32]] = .ok x)
    (hp : s.checkGlobal w (w64 (x.n 0)) 1 1 { read := true } false = .ok p) (hq : s.UnitQuiet p.unit) (hroom : x.t.Room [x.t.fb]) :
    maintainOne op a s w = .ok ((s.setThread w.k (x.t.owing { flag := x.t.fb, units := if op = 0 then [] else [p.unit] })).unitOp op w.tr.core p.unit
      (some w.cI)) := by
  have hpas : [(w64 (x.n 0), 1)].mapM (fun r => s.checkGlobal w r.1 r.2 1 { read := true } false) = .ok [p] :=
    mapM_eq_ok_iff.2 (.cons hp .nil)
  simp only [maintainOne, hx, bind, Except.bind, maintain_ok op hpas hst (by simpa using hq) hroom]
  rfl

theorem execCctlRange_ok {g : PredField} (h : Executes s w g) {d : RegField} {m : BitVec 2} {pas : List Placed}
    (hx : w.t.fetch [] [rd2 a [.b32], rd1 d [.b32]] = .ok x)
    (hpas : (unitRanges (w64 (x.n 0)) (x.n 1 / 64 + 2) (x.n 1)).mapM (fun r => s.checkGlobal w r.1 r.2 1 { read := true } false) = .ok pas)
    (hq : ∀ u ∈ pas.map Placed.unit, s.UnitQuiet u) (hroom : x.t.Room [x.t.fb]) :
    execCctlRange d a g m s = ((pas.map Placed.unit).foldl (fun s1 u => s1.unitOp m.toNat w.tr.core u (some w.cI))
      (s.setThread w.k (x.t.owing { flag := x.t.fb, units := if m = 0 then [] else pas.map Placed.unit }))).wordDone w :=
  runWord_ok h (by
    have hm : m = 0 ↔ m.toNat = 0 := BitVec.toNat_inj.symm
    simp only [hx, bind, Except.bind, maintain_ok m.toNat hpas hst hq hroom, hm])

end

/-! ### FENCE (R214) -/

/-- What a fence of each order waits for, beside the thread's write-combining stores. -/
def State.fenceMet (s : State) (t : Thread) (r : BitVec 2) (sc : Scope) : Bool :=
  match r.toNat with
  | 0 => true
  | 1 => t.allBound
  | 2 => s.released t sc
  | _ => s.released t sc && t.ordered.isEmpty && t.stores.isEmpty

/-- The state in which what a thread has acquired has passed to its troupe, by a release at a scope wider than its own (R207); one at .SY is noted. -/
def State.fencePassed (s : State) (w : Who) (sc : Scope) : State :=
  if sc = .th then s else if sc = .sy then (s.passOn w.k).noteRelease w.cI else s.passOn w.k

/-- The state in which a fence of an order and a scope has passed: a release passes on, then an acquire leaves no older L1 line to be read. -/
def State.fenceDone (s : State) (w : Who) (r : BitVec 2) (sc : Scope) : State :=
  let s1 := if bitAt r.toNat 1 then s.fencePassed w sc else s
  if bitAt r.toNat 0 then s1.updThread w.k fun t => t.acquired sc s.stamp w.tr.relStamp else s1

section
variable {s : State} {w : Who} {g : PredField} {p : BitVec 3} (h : Executes s w g) (r : BitVec 2)
include h

/-- Write-combining stores keep a fence of any order waiting (R205). -/
theorem execFence_combining (hc : w.t.combining = true) : execFence r p g s = .next (s.stopped w (.park .fence)) :=
  runWord_error h (if_pos (by rw [hc]; rfl))

theorem execFence_drained (hc : w.t.combining = false) : execFence r p g s =
    if s.fenceMet w.t r (fenceScope p) then (s.fenceDone w r (fenceScope p)).wordDone w else .next (s.stopped w (.park .fence)) := by
  have hready : (!(!w.t.combining && s.fenceMet w.t r (fenceScope p))) = !s.fenceMet w.t r (fenceScope p) := by rw [hc]; rfl
  cases hm : s.fenceMet w.t r (fenceScope p)
  case false => exact runWord_error h (if_pos (hready.trans (by rw [hm]; rfl)))
  case true =>
    refine runWord_ok h ((if_neg (Bool.eq_false_iff.1 (hready.trans (by rw [hm]; rfl)))).trans (congrArg Except.ok ?_))
    rw [State.fenceDone, State.fencePassed]
    cases fenceScope p <;> cases bitAt r.toNat 1 <;> rfl

end

/-- Settles O28: each word of cache maintenance acts on the units of its address, and a drained fence asks what its order waits for. -/
theorem cacheAndFences : Obligations.CacheAndFences := by
  unfold Obligations.CacheAndFences
  constructor
  · intro s w g a m h
    refine ⟨fun x hx hroom => ⟨execPref_untranslated h hx hroom, fun e hc he => ?_⟩, execCctlInv_empties h,
      fun x p hx hp hst ha ho hroom => ?_, fun d x pas hx hpas hst hq hroom => execCctlRange_ok hst h hx hpas hq hroom⟩
    · by_cases hp : e.policy = .wb
      · exact (execPref_fetches h hx hroom hc he hp).trans (by rw [if_neg (not_not.2 hp)])
      · exact (execPref_uncached h hx hroom hc he hp).trans (by rw [if_pos hp])
    · exact ⟨runWord_ok h (maintainOne_ok hst 1 hx hp ⟨ha, ho⟩ hroom), runWord_ok h (maintainOne_ok hst 2 hx hp ⟨ha, ho⟩ hroom)⟩
  · intro s w g p h
    exact ⟨fun hc r => execFence_combining h r hc, fun hc =>
      ⟨execFence_drained h 0 hc, execFence_drained h 1 hc, execFence_drained h 2 hc, execFence_drained h 3 hc⟩⟩

end Sys2Proof.Machine

namespace Sys2Proof.Machine

/-! ## ATOM, RED and the compare-and-swaps (O27; 02_encoding.md R39; 03_formats.md R72; 09_ordering.md R209 to R213) -/

/-- An atomic with a result has issued: its flags are raised, and "b" owes its store (R210). -/
def Thread.owingBoth (t : Thread) (fa fb : Nat) : Thread := { t.raised [fa, fb] with owed := t.owed ++ [{ flag := fb, stores := [t.seq] }] }

theorem issueAtomic_ok {s : State} {w : Who} {t : Thread} (h : t.Room [w.t.fa, w.t.fb]) (p : PendingStore) :
    s.issueAtomic w t p = .ok (s.addStore w (t.owingBoth w.t.fa w.t.fb) p) := by
  simp only [State.issueAtomic, Thread.raiseFlags_ok h, Except.map]
  rfl

/-- FADD and HADD2 read quietly, the other operations as every word does (R72). -/
theorem Thread.atomFetch_eq (t : Thread) (op : Nat) (writes : List Grp) (reads : List Src) :
    t.atomFetch op writes reads = (if op = 11 ∨ op = 12 then t.fetchQuiet else t.fetch) writes reads := by
  simp only [Thread.atomFetch, Bool.or_eq_true, decide_eq_true_eq]
  split_ifs <;> rfl

/-! ### Issue (R209, R212, R213) -/

section
variable {s : State} {w : Who} {g : PredField} {d b : RegField} {o : BitVec 5} {op : Nat} {i : Instr} {x : Fetched} {p : Placed}

theorem atomBody_issues
    (hx : w.t.atomFetch op [wr1 d] [rd2 b [.b32], .regs (w.t.hints.cReg.getD d.toNat) 1 1
      (atomicWant op (w.t.reg (w.t.hints.cReg.getD d.toNat)).tag)] = .ok x)
    (hp : s.checkAtomic w (x.n 0) o 4 true = .ok p) (hroom : x.t.Room [w.t.fa, w.t.fb]) :
    atomBody op d b o s w = .ok (s.addStore w (x.t.owingBoth w.t.fa w.t.fb) (w.atomicStore p (toBytes (x.v 1).toNat 4)
      { op := op, tag := atomicTag op (w.t.reg (w.t.hints.cReg.getD d.toNat)).tag, value := (x.v 1).toNat, dst := some d.toNat, flag := w.t.fa }
      [(w.t.hints.cReg.getD d.toNat, atomicWant op (w.t.reg (w.t.hints.cReg.getD d.toNat)).tag)] [x.v 1])) := by
  simp only [atomBody, hx, hp, bind, Except.bind, issueAtomic_ok hroom]

theorem redBody_issues (hx : w.t.atomFetch op [] [rd2 b [.b32], rd1 d (atomicWant op (w.t.reg d.toNat).tag)] = .ok x)
    (hp : s.checkAtomic w (x.n 0) o 4 false = .ok p) (hroom : x.t.Room [x.t.fb]) :
    redBody op d b o s w = .ok (s.addStore w (x.t.owing { flag := x.t.fb, stores := [x.t.seq] }) (w.atomicStore p (toBytes (x.v 1).toNat 4)
      { op := op, tag := atomicTag op (w.t.reg d.toNat).tag, value := (x.v 1).toNat, dst := none }
      [(d.toNat, atomicWant op (w.t.reg d.toNat).tag)] [x.v 1])) := by
  simp only [redBody, hx, hp, bind, Except.bind, issueStore_ok hroom]

theorem casBody_issues {n r : Nat} {src : List Src} {pick : Fetched → Nat × Nat} (hx : w.t.fetch [] (rd2 b [.b32] :: src) = .ok x)
    (hp : s.checkAtomic w (x.n 0) o (4 * n) true = .ok p) (hroom : x.t.Room [w.t.fa, w.t.fb]) :
    casBody n src pick d b o r s w = .ok (s.addStore w (x.t.owingBoth w.t.fa w.t.fb) (w.atomicStore p (toBytes (pick x).2 (4 * n))
      { op := 13, tag := .b32, value := (pick x).2, compare := (pick x).1, dst := some d.toNat, flag := w.t.fa }
      ((upFrom d.toNat n ++ upFrom r n).map fun k => (k, [])) (toWords (pick x).1 n ++ toWords (pick x).2 n))) := by
  simp only [casBody, hx, hp, bind, Except.bind, issueAtomic_ok hroom]

/-- The thirteen ATOMs run one body, each with its operation's number in R211. -/
theorem exec_atom : ∀ c ∈ [(0, Instr.atomAdd d b o g), (1, .atomMin d b o g), (2, .atomMax d b o g), (3, .atomMinN d b o g),
      (4, .atomMaxN d b o g), (5, .atomAnd d b o g), (6, .atomOr d b o g), (7, .atomXor d b o g), (8, .atomExch d b o g), (9, .atomInc d b o g),
      (10, .atomDec d b o g), (11, .atomFadd d b o g), (12, .atomHadd2 d b o g)], exec c.2 s = runWord s g (atomBody c.1 d b o s) := by
  simp only [List.forall_mem_cons]
  exact ⟨rfl, rfl, rfl, rfl, rfl, rfl, rfl, rfl, rfl, rfl, rfl, rfl, rfl, List.forall_mem_nil _⟩

theorem exec_red : ∀ c ∈ [(0, Instr.redAdd d b o g), (1, .redMin d b o g), (2, .redMax d b o g), (3, .redMinN d b o g),
      (4, .redMaxN d b o g), (5, .redAnd d b o g), (6, .redOr d b o g), (7, .redXor d b o g), (8, .redExch d b o g), (9, .redInc d b o g),
      (10, .redDec d b o g), (11, .redFadd d b o g), (12, .redHadd2 d b o g)], exec c.2 s = runWord s g (redBody c.1 d b o s) := by
  simp only [List.forall_mem_cons]
  exact ⟨rfl, rfl, rfl, rfl, rfl, rfl, rfl, rfl, rfl, rfl, rfl, rfl, rfl, List.forall_mem_nil _⟩

/-- Each compare-and-swap runs one body, on its count of registers and its own operands. ATOMQ's new operand depends on the thread, by HINT.C. -/
theorem exec_cas (h : Executes s w g) {n r : Nat} {cmp new : Fetched → Nat} {src : List Src} {s' : State}
    (hi : (n, cmp, new, i, src, r) ∈ [(1, (fun x : Fetched => x.n 1 % 2 ^ 32), (fun x : Fetched => x.n 1 / 2 ^ 32),
      Instr.atomc d b o g, [rd2 d []], d.toNat + 1), (2, (fun x => x.n 1 % 2 ^ 64), (fun x => x.n 1 / 2 ^ 64), .atomc64 d b o g, [rd4 d []], d.toNat + 2),
      (4, (fun x => x.n 1), (fun x => x.n 2), .atomq d b o g, [rd4 d [], .regs (w.t.hints.cReg.getD 0) 4 4 []], w.t.hints.cReg.getD 0)])
    (hb : casBody n src (fun x => (cmp x, new x)) d b o r s w = .ok s') : exec i s = s'.wordDone w := by
  simp only [List.mem_cons, Prod.mk.injEq, List.not_mem_nil, or_false] at hi
  rcases hi with ⟨rfl, rfl, rfl, rfl, rfl, rfl⟩ | ⟨rfl, rfl, rfl, rfl, rfl, rfl⟩ | ⟨rfl, rfl, rfl, rfl, rfl, rfl⟩ <;> exact runWord_ok h hb

end

/-! ### Values (R211, R212) -/

section
variable (tag : Tag) (old v : Word)

theorem atomicValue_min : atomicValue 1 tag old.toNat v.toNat = (BitVec.ofInt 32 (min old.toInt v.toInt)).toNat := by
  have hmin := ite_lt_eq_min (fun z : Word => BitVec.ofInt_toInt) old v
  rw [← hmin, apply_ite BitVec.toNat, ← signed_toNat v (by decide), ← signed_toNat old (by decide)]
  rfl

theorem atomicValue_max : atomicValue 2 tag old.toNat v.toNat = (BitVec.ofInt 32 (max old.toInt v.toInt)).toNat := by
  have hmax := ite_lt_eq_max (fun z : Word => BitVec.ofInt_toInt) old v
  rw [← hmax, apply_ite BitVec.toNat, ← signed_toNat v (by decide), ← signed_toNat old (by decide)]
  rfl

theorem atomicValue_dec (old v : Nat) : atomicValue 10 tag old v = if old = 0 ∨ v < old then v else old - 1 := by
  simp only [atomicValue, Bool.or_eq_true, decide_eq_true_eq]

end

/-- An operation of R211 always writes. -/
theorem AtomicOp.newValue_of_ne {o : AtomicOp} (h : o.op ≠ 13) (cur : Nat) : o.newValue cur = some (atomicValue o.op o.tag cur o.value) :=
  if_neg h

/-- A compare-and-swap writes only over the value that it compares with. -/
theorem AtomicOp.newValue_of_eq {o : AtomicOp} (h : o.op = 13) (cur : Nat) :
    o.newValue cur = if cur = o.compare then some o.value else none :=
  if_pos h

/-- Settles O27: ATOM, RED and the compare-and-swaps are one body each, which issues the pending atomic; its value is the operation's. -/
theorem atomics : Obligations.Atomics := by
  unfold Obligations.Atomics
  refine ⟨fun s w g d b o h => ⟨fun op i hi x p hx hp hroom => ?_, fun op i hi x p hx hp hroom => ?_,
    fun n cmp new i src r hi x p hx hp hroom => exec_cas h hi (casBody_issues hx hp hroom)⟩, fun tag old v => ?_⟩
  · exact (exec_atom _ hi).trans (runWord_ok h (atomBody_issues ((w.t.atomFetch_eq op _ _).trans hx) hp hroom))
  · exact (exec_red _ hi).trans (runWord_ok h (redBody_issues ((w.t.atomFetch_eq op _ _).trans hx) hp hroom))
  · exact ⟨(BitVec.toNat_add old v).symm, atomicValue_min tag old v, atomicValue_max tag old v, rfl, rfl, (BitVec.toNat_and ..).symm,
      (BitVec.toNat_or ..).symm, (BitVec.toNat_xor ..).symm, rfl, rfl, atomicValue_dec tag _ _,
      fun op cur => ⟨fun hne => AtomicOp.newValue_of_ne hne cur, fun hop hcur => (AtomicOp.newValue_of_eq hop cur).trans (if_pos hcur),
        fun hop hcur => (AtomicOp.newValue_of_eq hop cur).trans (if_neg hcur)⟩⟩

end Sys2Proof.Machine

namespace Sys2Proof.Machine

/-! ## Asynchronous copies and completion maps (O34; 10_copy.md R217 to R232, R240) -/

theorem bind_of_ok {ε α β : Type} {x : Except ε α} {f : α → Except ε β} {a : α} (h : x = .ok a) : x >>= f = f a := by
  rw [h]; rfl

theorem bind_of_error {ε α β : Type} {x : Except ε α} {f : α → Except ε β} {e : ε} (h : x = .error e) : x >>= f = .error e := by
  rw [h]; rfl

/-! ### The producer (R217) -/

section
variable {w : Who}

theorem requireProducer_ok (hp : w.tr.k = pkProducer w.e.packet) : require (w.tr.k == pkProducer w.e.packet) .copyRights = .ok () :=
  require_of_true (beq_iff_eq.2 hp) _

theorem requireProducer_error (hp : w.tr.k ≠ pkProducer w.e.packet) :
    require (w.tr.k == pkProducer w.e.packet) .copyRights = .error (.trap .copyRights 0 0 0) :=
  require_of_false (beq_eq_false_iff_ne.2 hp) _

end

/-! ### Issue (R224, R225, R240) -/

/-- The five copies run one body, each with its kind and the number of its map or Carousel. -/
theorem exec_copy {s : State} {g : PredField} {d a : RegField} {c : BitVec 4} {c3 : BitVec 3} {ds : BitVec 1} {kind : CopyKind} {i : Instr}
    {map : Nat} (hi : (kind, i, map) ∈ [(.ld, .cpyLd d a c g ds, c.toNat), (.st, .cpySt d a c g ds, c.toNat), (.gG, .cpygG d a c g ds, c.toNat),
      (.gS, .cpygS d a c g ds, c.toNat), (.cb, .cpyCb d a c3 g ds, c3.toNat)]) :
    exec i s = runWord s g (issueCopy kind d a map (ds == 1#1) s) := by
  simp only [List.mem_cons, Prod.mk.injEq, List.not_mem_nil, or_false] at hi
  rcases hi with ⟨rfl, rfl, rfl⟩ | ⟨rfl, rfl, rfl⟩ | ⟨rfl, rfl, rfl⟩ | ⟨rfl, rfl, rfl⟩ | ⟨rfl, rfl, rfl⟩ <;> rfl

/-- The dense-side address in the first register of a copy's quad (R223). -/
def Fetched.denseSide (x : Fetched) : Nat := nth ((x.ws 0).map (·.toNat)) 0 0

/-- The origins of the nine dimensions: the quad's other registers, and 0 beyond them (R220). -/
def Fetched.origin (x : Fetched) : List Int := (upFrom 0 9).map fun j => if j < 3 then (nth (x.ws 0) (j + 1) 0).toInt else 0

/-- What has a copy go to the engine once its descriptor has been read (R224, R225, R240), with the place of its dense side and its Carousel stage. -/
structure State.CopyAdmitted (s : State) (w : Who) (kind : CopyKind) (map xd : Nat) (desc : Tensor) (origin : List Int) (place : Nat × Nat)
    (stage : Nat) : Prop where
  producer : w.tr.k = pkProducer w.e.packet
  valid : tnFailure kind desc = none
  aligned : kind ≠ .cb → xd % 16 = 0
  tile : kind = .gG ∨ kind = .gS →
    tileBytes w.e.packet ≠ 0 ∧ (tnBytes desc = 0 ∨ xd + tnBytes desc ≤ tileBytes w.e.packet) ∧ place = (w.trI, xd)
  scratch : ¬(kind = .gG ∨ kind = .gS) → s.rangePlace w xd (tnBytes desc) = .ok place
  source : ∀ r, kind = .gS → tnExtent desc origin = some r →
    ∃ u v, s.rangePlace w r.1 (tnElem desc) = .ok u ∧ s.rangePlace w r.2 (tnElem desc) = .ok v
  staged : kind = .cb → s.stageAt (nth w.tr.carousels map {}) w.tr.k xd = some stage ∧ (nth w.tr.carousels map {}).stage stage = .acq ∧
    tnBytes desc ≤ (nth w.tr.carousels map {}).size
  unstaged : kind ≠ .cb → stage = 0
  engine : s.engineLoad w.group < 64
  inflight : kind ≠ .cb → (nth w.tr.maps map {}).inflight < 16

/-- A copy as it is given to the engine, every granule of its dense side still to move. -/
def Who.copyInFlight (w : Who) (kind : CopyKind) (map : Nat) (desc : Tensor) (origin : List Int) (place : Nat × Nat) (stage : Nat) : Copy :=
  { troupe := w.trI, kind := kind, map := map, stage := stage, desc := desc, origin := origin, denseTr := place.1, dense := place.2,
    todo := upFrom 0 ((tnBytes desc + 15) / 16), after := [(w.k, w.t.seq)] }

/-- The state in which a copy has issued with t its thread: a copy of nothing is done, and any other is in flight, its stage filling or its chunks
pending (R224, R228, R240). -/
def State.copyIssued (s : State) (w : Who) (t : Thread) (kind : CopyKind) (map : Nat) (desc : Tensor) (origin : List Int) (place : Nat × Nat)
    (stage : Nat) : State :=
  let s1 := s.setThread w.k t
  let c := w.copyInFlight kind map desc origin place stage
  let s2 := { s1 with copies := s1.copies ++ [c] }
  if tnBytes desc = 0 then (if kind = .cb then s1.updCarousel w.trI map (·.setStage stage .full) else s1)
  else if kind = .cb then s2.updCarousel w.trI map (·.setStage stage .filling)
  else s2.updMap w.trI map fun m => { (c.chunks c.todo).foldl CompletionMap.begin m with inflight := m.inflight + 1 }

section
variable {s : State} {w : Who} {kind : CopyKind} {map xd : Nat} {desc : Tensor} {origin : List Int} {place : Nat × Nat} {stage : Nat}
  (hc : s.CopyAdmitted w kind map xd desc origin place stage)
include hc

theorem State.CopyAdmitted.owns_tile : ¬((kind == .gG || kind == .gS) && decide (tileBytes w.e.packet = 0)) = true := by
  simp only [Bool.and_eq_true, Bool.or_eq_true, beq_iff_eq, decide_eq_true_eq]
  exact fun hbad => (hc.tile hbad.1).1 hbad.2

theorem State.CopyAdmitted.is_aligned : ¬(kind != .cb && xd % 16 != 0) = true := by
  simp only [Bool.and_eq_true, bne_iff_ne]
  exact fun hbad => hbad.2 (hc.aligned hbad.1)

theorem State.CopyAdmitted.in_tile (ht : kind = .gG ∨ kind = .gS) :
    ¬(tnBytes desc != 0 && decide (tileBytes w.e.packet < xd + tnBytes desc)) = true := by
  simp only [Bool.and_eq_true, bne_iff_ne, decide_eq_true_eq]
  obtain ⟨-, hin, -⟩ := hc.tile ht
  exact fun hbad => hin.elim hbad.1 (Nat.not_le.2 hbad.2)

theorem State.CopyAdmitted.has_room :
    ¬(decide (64 ≤ s.engineLoad w.group) || kind != .cb && decide (16 ≤ (nth w.tr.maps map {}).inflight)) = true := by
  simp only [Bool.or_eq_true, decide_eq_true_eq, Bool.and_eq_true, bne_iff_ne]
  exact fun hbad => hbad.elim (Nat.not_le.2 hc.engine) fun hm => Nat.not_le.2 (hc.inflight hm.1) hm.2

end

section
variable {s s0 : State} {w : Who} {d a : RegField} {kind : CopyKind} {map : Nat} {ds : Bool} {x : Fetched} {desc : Tensor}
  (hx : w.t.fetch [] [rd4 d [.b32], if ds then rd1 a [.b32] else rd2 a [.b32]] = .ok x) (hd : s.readDescriptor w ds (x.n 1) = .ok (s0, desc))
include hx hd

theorem issueCopy_refused (hp : w.tr.k ≠ pkProducer w.e.packet) : issueCopy kind d a map ds s w = .error (.trap .copyRights 0 0 0) :=
  (bind_of_ok hx).trans ((bind_of_ok hd).trans (bind_of_error (requireProducer_error hp)))

theorem issueCopy_invalid {off : Nat} (hp : w.tr.k = pkProducer w.e.packet) (hv : tnFailure kind desc = some off) :
    issueCopy kind d a map ds s w = .error (.trap .copyDescriptor 0 (w64 off) 0) := by
  refine (bind_of_ok hx).trans ((bind_of_ok hd).trans ((bind_of_ok (requireProducer_ok hp)).trans ?_))
  simp only [hv]
  rfl

/-- An admitted copy passes its checks one after another, in the order of R225, and issues. -/
theorem issueCopy_issues {place : Nat × Nat} {stage : Nat} (hc : s0.CopyAdmitted w kind map x.denseSide desc x.origin place stage)
    (hroom : x.t.Room [w.t.fb]) : issueCopy kind d a map ds s w =
      .ok (s0.copyIssued w (x.t.owing { flag := w.t.fb }) kind map desc x.origin place stage) := by
  unfold issueCopy
  refine (bind_of_ok hx).trans ?_
  extract_lets ws xd tile origin car m
  refine (bind_of_ok hd).trans ((bind_of_ok (requireProducer_ok hc.producer)).trans ?_)
  extract_lets n gs placed aligned owned described
  have htile : tile = true ↔ kind = .gG ∨ kind = .gS := by simp only [tile, Bool.or_eq_true, beq_iff_eq]
  have hdescribed : described () = owned () := if_neg hc.owns_tile
  have howned : owned () = aligned () := if_neg hc.is_aligned
  have haligned : aligned () = placed place := by
    refine (bind_of_ok (a := ()) ?_).trans ?_
    · split
      case h_1 r hr =>
        obtain ⟨hk, hr⟩ := Option.ite_none_right_eq_some.1 hr
        obtain ⟨u, v, hu, hv⟩ := hc.source r hk hr
        exact (bind_of_ok hu).trans (bind_of_ok hv)
      case h_2 => rfl
    · split
      case isTrue ht =>
        obtain ⟨-, -, rfl⟩ := hc.tile (htile.1 ht)
        exact if_neg (hc.in_tile (htile.1 ht))
      case isFalse ht => exact bind_of_ok (hc.scratch fun hk => ht (htile.2 hk))
  have hplaced : placed place = .ok (s0.copyIssued w (x.t.owing { flag := w.t.fb }) kind map desc x.origin place stage) := by
    unfold placed
    extract_lets staged
    have hstaged : staged stage = .ok (s0.copyIssued w (x.t.owing { flag := w.t.fb }) kind map desc x.origin place stage) := by
      refine (if_neg hc.has_room).trans ((bind_of_ok (Thread.owe_ok (o := { flag := w.t.fb }) hroom)).trans ?_)
      by_cases hn : tnBytes desc = 0
      · exact (if_pos hn).trans (congrArg Except.ok (if_pos hn).symm)
      · exact (if_neg hn).trans (congrArg Except.ok (if_neg hn).symm)
    refine Eq.trans ?_ hstaged
    split
    case isTrue hk =>
      obtain ⟨hat, hacq, hfits⟩ := hc.staged hk
      have hcar : s0.stageAt car w.tr.k xd = some stage := hat
      simp only [hcar]
      exact if_pos (by simpa using ⟨hacq, hfits⟩)
    case isFalse hk => rw [hc.unstaged hk]; rfl
  simp only [hc.valid]
  exact hdescribed.trans (howned.trans (haligned.trans hplaced))

end

/-! ### CWAIT (R230) -/

/-- The n chunks from v on are written: their bits are set. -/
def CompletionMap.Written (m : CompletionMap) (v n : Nat) : Prop := ∀ i < n, bitAt m.bits.toNat ((v + i) % 256) = true

theorem CompletionMap.all_set_iff (m : CompletionMap) (v n : Nat) :
    (!(upFrom 0 n).any fun i => !bitAt m.bits.toNat ((v + i) % 256)) = true ↔ m.Written v n := by
  simp [CompletionMap.Written, mem_upFrom]

section
variable {s : State} {w : Who} {g : PredField} {d a : RegField} {c : BitVec 4} {x : Fetched} (h : Executes s w g)
include h

section
variable (hx : w.t.fetch [] [rd1 a []] = .ok x)
include hx

theorem execCwait_reserved (hbad : 256 < slice (x.v 0).toNat 8 9 ∨ slice (x.v 0).toNat 17 15 ≠ 0) :
    execCwait a c g s = s.trapped w .reservedField 0 0 :=
  runWord_error h ((bind_of_ok hx).trans (if_pos (by simpa using hbad)))

variable (hr : ¬(256 < slice (x.v 0).toNat 8 9 ∨ slice (x.v 0).toNat 17 15 ≠ 0))
include hr

theorem execCwait_refused (hp : w.tr.k ≠ pkProducer w.e.packet) : execCwait a c g s = s.trapped w .copyRights 0 0 :=
  runWord_error h ((bind_of_ok hx).trans ((if_neg (by simpa using hr)).trans ((bind_of_ok rfl).trans (bind_of_error (requireProducer_error hp)))))

variable (hp : w.tr.k = pkProducer w.e.packet)
include hp

theorem execCwait_done (hw : (nth w.tr.maps c.toNat {}).Written (x.v 0).toNat (slice (x.v 0).toNat 8 9)) :
    execCwait a c g s = s.wordDone w :=
  runWord_ok h ((bind_of_ok hx).trans ((if_neg (by simpa using hr)).trans ((bind_of_ok (requireProducer_ok hp)).trans
    (if_pos ((CompletionMap.all_set_iff ..).2 hw)))))

variable (hw : ¬(nth w.tr.maps c.toNat {}).Written (x.v 0).toNat (slice (x.v 0).toNat 8 9))
include hw

theorem execCwait_fault {f : Cause × DWord} (hf : (nth w.tr.maps c.toNat {}).latch = some f) :
    execCwait a c g s = s.trapped w f.1 f.2 (w64 (c.toNat + 32)) :=
  runWord_error h ((bind_of_ok hx).trans ((if_neg (by simpa using hr)).trans ((bind_of_ok (requireProducer_ok hp)).trans
    ((if_neg (mt (CompletionMap.all_set_iff ..).1 hw)).trans (by simp only [hf])))))

theorem execCwait_parks (hf : (nth w.tr.maps c.toNat {}).latch = none) :
    execCwait a c g s = .next (s.stopped w (.park .completionMap)) :=
  runWord_error h ((bind_of_ok hx).trans ((if_neg (by simpa using hr)).trans ((bind_of_ok (requireProducer_ok hp)).trans
    ((if_neg (mt (CompletionMap.all_set_iff ..).1 hw)).trans (by simp only [hf])))))

end

/-! ### CTEST (R231) -/

/-- The chunk bits of a map from chunk v on, 32 of them. -/
def CompletionMap.window (m : CompletionMap) (v : Nat) : Nat := ofBits ((upFrom 0 32).map fun i => bitAt m.bits.toNat ((v % 256 + i) % 256))

/-- The status word of a map: the cause that it has latched, and its copies in flight. -/
def CompletionMap.status (m : CompletionMap) : Nat :=
  (match m.latch with
    | some f => f.1.code
    | none => 0) + m.inflight * 256

theorem execCtest_owes {st : BitVec 1} (hx : w.t.fetch [wr1 d] [rd1 a []] = .ok x) (hp : w.tr.k = pkProducer w.e.packet) (hroom : x.t.Room [x.t.fa]) :
    let m := nth w.tr.maps c.toNat {}
    execCtest d a c g st s =
      s.threadDone w (x.t.owing (x.t.oweA d.toNat [w32 (if st = 1#1 then m.status else m.window (x.v 0).toNat)] .b32)) :=
  runWord_ok h ((bind_of_ok hx).trans ((bind_of_ok (requireProducer_ok hp)).trans (bind_of_ok (Thread.oweRegs_ok hroom))))

end

/-! ### CPYC (R232) -/

/-- A copy in flight on a completion map of a troupe. -/
def Copy.OnMap (x : Copy) (tr map : Nat) : Prop := x.live = true ∧ x.troupe = tr ∧ x.kind ≠ .cb ∧ x.map = map

/-- A copy on a map has a granule on its way to a home (R232). -/
def State.MapPasses (s : State) (tr map : Nat) : Prop := ∃ x ∈ s.copies, x.OnMap tr map ∧ ∃ y ∈ x.sent, s.passing y.2 = true

theorem Copy.onMap_iff (x : Copy) (tr map : Nat) : (x.live && x.troupe == tr && x.kind != .cb && x.map == map) = true ↔ x.OnMap tr map := by
  simp only [Copy.OnMap, Bool.and_eq_true, beq_iff_eq, bne_iff_ne, and_assoc]

theorem State.mapPasses_iff (s : State) (tr map : Nat) :
    (s.copies.any fun x => (x.live && x.troupe == tr && x.kind != .cb && x.map == map) && x.sent.any fun y => s.passing y.2) = true ↔
      s.MapPasses tr map := by
  simp only [State.MapPasses, ← Copy.onMap_iff, List.any_eq_true, Bool.and_eq_true]

/-- The copy after its map has been cancelled: one in flight there moves nothing more. -/
def Copy.cancelledOn (tr map : Nat) (x : Copy) : Copy :=
  if x.live ∧ x.troupe = tr ∧ x.kind ≠ .cb ∧ x.map = map then { x with live := false, todo := [], waiting := false } else x

/-- The map after its copies have been cancelled: nothing is pending, and the bits of what was are clear. -/
def CompletionMap.cancelled (m : CompletionMap) : CompletionMap :=
  { (m.pending.foldl (fun (m : CompletionMap) (x : Nat × Nat) => m.setBit x.1 false) m) with pending := [], inflight := 0, latch := none }

section
variable {s : State} {w : Who} {g : PredField} {c : BitVec 4} (h : Executes s w g)
include h

theorem execCpyc_refused (hp : w.tr.k ≠ pkProducer w.e.packet) : execCpyc c g s = s.trapped w .copyRights 0 0 :=
  runWord_error h (bind_of_error (requireProducer_error hp))

variable (hp : w.tr.k = pkProducer w.e.packet)
include hp

theorem execCpyc_parks (hs : s.MapPasses w.trI c.toNat) : execCpyc c g s = .next (s.stopped w (.park .copyCancel)) :=
  runWord_error h ((bind_of_ok (requireProducer_ok hp)).trans (if_pos ((s.mapPasses_iff ..).2 hs)))

theorem execCpyc_cancels (hs : ¬s.MapPasses w.trI c.toNat) :
    execCpyc c g s =
      (({ s with copies := s.copies.map (Copy.cancelledOn w.trI c.toNat) } : State).updMap w.trI c.toNat CompletionMap.cancelled).wordDone w := by
  have hcancel : Copy.cancelledOn w.trI c.toNat =
      fun x => if x.live && x.troupe == w.trI && x.kind != .cb && x.map == c.toNat then { x with live := false, todo := [], waiting := false }
        else x :=
    funext fun x => if_congr (x.onMap_iff w.trI c.toNat).symm rfl rfl
  rw [hcancel]
  exact runWord_ok h ((bind_of_ok (requireProducer_ok hp)).trans (if_neg (mt (s.mapPasses_iff ..).1 hs)))

end

/-- Settles O34: the checks of a copy decide its issue; the map's bits, latch and copies decide the words that wait, test and cancel. -/
theorem copies : Obligations.Copies := by
  unfold Obligations.Copies
  refine ⟨fun s w g d a c c3 ds kind i map h hi x s0 desc hx hd => ?_,
    fun s w g d a c st h => ⟨fun x hx => ?_, fun x hx hp hroom => execCtest_owes h hx hp hroom, execCpyc_refused h,
      fun hp => ⟨execCpyc_parks h hp, execCpyc_cancels h hp⟩⟩⟩
  · rw [exec_copy hi]
    have hx' : w.t.fetch [] [rd4 d [.b32], if ds == 1#1 then rd1 a [.b32] else rd2 a [.b32]] = .ok x := by
      simpa only [beq_iff_eq] using hx
    refine ⟨fun hp => runWord_error h (issueCopy_refused hx' hd hp), fun off hp hv => runWord_error h (issueCopy_invalid hx' hd hp hv), ?_⟩
    intro xd n origin tile car place stage hproducer hvalid haligned htile hscratch hsource hstaged hunstaged hengine hinflight hroom
    have hc : s0.CopyAdmitted w kind map x.denseSide desc x.origin place stage :=
      ⟨hproducer, hvalid, haligned, htile, hscratch, hsource, hstaged, hunstaged, hengine, hinflight⟩
    refine ⟨fun hn => (runWord_ok h (issueCopy_issues hx' hd hc hroom)).trans ?_,
      fun hn => (runWord_ok h (issueCopy_issues hx' hd hc hroom)).trans ?_⟩
    · rw [State.copyIssued, if_pos hn]
    · rw [State.copyIssued, if_neg hn]; rfl
  · have hr (hn : slice (x.v 0).toNat 8 9 ≤ 256) (hz : slice (x.v 0).toNat 17 15 = 0) :
        ¬(256 < slice (x.v 0).toNat 8 9 ∨ slice (x.v 0).toNat 17 15 ≠ 0) := not_or.2 ⟨Nat.not_lt.2 hn, not_not.2 hz⟩
    exact ⟨execCwait_reserved h hx, fun hn hz => ⟨execCwait_refused h hx (hr hn hz), fun hp =>
      ⟨execCwait_done h hx (hr hn hz) hp, fun f hw hf => execCwait_fault h hx (hr hn hz) hp hw hf, execCwait_parks h hx (hr hn hz) hp⟩⟩⟩

end Sys2Proof.Machine

namespace Sys2Proof.Machine

/-! ## Carousels (O35; 10_copy.md R235 to R239) -/

/-- No operation is parked before thread k. -/
theorem firstWaiter_iff {l : List Nat} {k : Nat} : firstWaiter l k = true ↔ ∀ j ∈ l.head?, j = k := by
  cases l <;> simp [firstWaiter]

/-- The Carousel that an instruction reaches is that of the ensemble's troupe of its index (R235). -/
theorem State.carouselOf_ok {s : State} {w : Who} {c : BitVec 3} {v : BitVec 2} {tr : Nat} (h : w.e.troupes[w.tr.k ^^^ v.toNat]? = some tr) :
    s.carouselOf w c v = .ok (tr, nth (s.troupe tr).carousels c.toNat {}) := by
  simp only [State.carouselOf, h]

/-- A trap of a word that made the writes of a state before it is the shared trap in that state (R54). -/
theorem runWord_trapIn {s s' : State} {w : Who} {g : PredField} {body : Who → Except Stop State} {cause : Cause} {addr info : DWord}
    (h : Executes s w g) (hb : body w = .error (.trapIn s' cause addr info)) :
    runWord s g body = .next (s'.takeTrap w.k cause w.t.pc addr info) :=
  runWord_error h hb

/-! ### CBINIT (R237, R239) -/

/-- The bytes of a stage, and the count of stages, in the second word of CBINIT's operand (R237). -/
def Fetched.stageSize (x : Fetched) : Nat := 512 * slice (nth (x.ws 0) 1 0).toNat 0 16
def Fetched.stageCount (x : Fetched) : Nat := slice (nth (x.ws 0) 1 0).toNat 16 4 + 1

/-- The Carousel with its free stages laid out from a place, or with none where a stage has no byte. -/
def Carousel.laidOut (o : Carousel) (place : Nat × Nat) (size count : Nat) : Carousel :=
  if size = 0 then { o with slice := 0, base := 0, size := 0, head := 0, tail := 0, stages := [] }
  else { o with slice := place.1, base := place.2, size := size, head := 0, tail := 0, stages := List.replicate count .free }

/-- The stages of a Carousel lie apart from `len` bytes of a slice from `off`. -/
def Carousel.Apart (o : Carousel) (slice off len : Nat) : Prop :=
  o.stages = [] ∨ o.slice ≠ slice ∨ off + len ≤ o.base ∨ o.base + o.size * o.stages.length ≤ off

theorem Carousel.apart_iff (o : Carousel) (slice off len : Nat) :
    (!o.stages.isEmpty && o.slice == slice && decide (o.base < off + len) && decide (off < o.base + o.size * o.stages.length)) = false ↔
      o.Apart slice off len := by
  simp only [Carousel.Apart, Bool.and_eq_false_iff, Bool.not_eq_false', List.isEmpty_iff, beq_eq_false_iff_ne, decide_eq_false_iff_not, Nat.not_lt,
    or_assoc]

/-- Every Carousel of an ensemble but one lies apart from the bytes of a slice. -/
def State.OthersApart (s : State) (troupes : List Nat) (tr i slice off len : Nat) : Prop :=
  ∀ t ∈ troupes, ∀ j < 8, (t, j) ≠ (tr, i) → (nth (s.troupe t).carousels j {}).Apart slice off len

theorem State.OthersApart.no_clash {s : State} {troupes : List Nat} {tr i slice off len : Nat} (h : s.OthersApart troupes tr i slice off len) :
    (troupes.any fun t => (upFrom 0 8).any fun j =>
      let o := nth (s.troupe t).carousels j {}
      !(t == tr && j == i) && !o.stages.isEmpty && o.slice == slice && decide (o.base < off + len) &&
        decide (off < o.base + o.size * o.stages.length)) = false := by
  simp only [List.any_eq_false, mem_upFrom, Bool.not_eq_true]
  rintro t ht j ⟨-, hj⟩
  by_cases he : (t, j) = (tr, i)
  · cases he
    simp
  · have hclear := (Carousel.apart_iff ..).2 (h t ht j (by omega) he)
    simp only [Bool.and_assoc] at hclear ⊢
    rw [hclear, Bool.and_false]

section
variable {s : State} {w : Who} {g : PredField} {a : RegField} {c : BitVec 3} {v : BitVec 2} {tr : Nat} {o : Carousel} {x : Fetched}
  {place : Nat × Nat}

/-- CBINIT lays its Carousel out where no stage is in use and the bytes lie where they may. -/
theorem execCbinit_laid (h : Executes s w g) (hx : w.t.fetch [] [rd2 a []] = .ok x) (hz : slice (nth (x.ws 0) 1 0).toNat 20 12 = 0)
    (hc : s.carouselOf w c v = .ok (tr, o)) (hfree : ∀ st ∈ o.stages, st ≠ .acq ∧ st ≠ .filling ∧ st ≠ .held)
    (hempty : x.stageSize = 0 → place = (tr, 0))
    (hplace : x.stageSize ≠ 0 → (nth (x.ws 0) 0 0).toNat % 512 = 0 ∧
      s.checkScratch w (nth (x.ws 0) 0 0).toNat (x.stageSize * x.stageCount) 1 = .ok place ∧
      s.OthersApart w.e.troupes tr c.toNat place.1 place.2 (x.stageSize * x.stageCount)) :
    execCbinit a c g v s = (s.updCarousel tr c.toNat (·.laidOut place x.stageSize x.stageCount)).wordDone w := by
  refine runWord_ok h ((bind_of_ok hx).trans ((bind_of_ok hc).trans ?_))
  extract_lets base cfg size count busy placed aligned checked
  have hbusy : busy = false := by
    refine List.any_eq_false.2 fun st hst => ?_
    obtain ⟨hacq, hfilling, hheld⟩ := hfree st hst
    cases st
    case acq => exact absurd rfl hacq
    case filling => exact absurd rfl hfilling
    case held => exact absurd rfl hheld
    all_goals exact Bool.false_ne_true
  have hplaced : placed place = .ok (s.updCarousel tr c.toNat (·.laidOut place x.stageSize x.stageCount)) := by
    refine if_neg (ne_true_of_eq_false (Bool.or_eq_false_iff.2 ⟨hbusy, Bool.and_eq_false_iff.2 ?_⟩))
    by_cases hs : x.stageSize = 0
    · exact .inl (bne_eq_false_iff_eq.2 hs)
    · obtain ⟨-, -, hapart⟩ := hplace hs
      exact .inr hapart.no_clash
  have haligned : aligned () = placed place := by
    by_cases hs : x.stageSize = 0
    · rw [hempty hs]
      exact if_pos hs
    · obtain ⟨-, hcheck, -⟩ := hplace hs
      exact (if_neg hs).trans (bind_of_ok hcheck)
  have hchecked : checked () = aligned () := if_neg fun hbad => by
    obtain ⟨hs, hm⟩ := Bool.and_eq_true_iff.1 hbad
    exact bne_iff_ne.1 hm (hplace (bne_iff_ne.1 hs)).1
  exact (if_neg fun hbad => bne_iff_ne.1 hbad hz).trans (hchecked.trans (haligned.trans hplaced))

end

/-! ### CBACQ and CBWAIT (R238, R239) -/

/-- The state in which a thread has taken stage i: the stage's address for the thread is written, and the thread acquires at .EN. -/
def State.tookStage (s : State) (w : Who) (t : Thread) (d : RegField) (o : Carousel) (i : Nat) : State :=
  s.setThread w.k ((t.setReg d.toNat (w32 (s.stageAddr o w.tr.k i)) .b32).acquired .en s.stamp)

section
variable {s : State} {w : Who} {g : PredField} {d : RegField} {c : BitVec 3} {v : BitVec 2} {tr : Nat} {o : Carousel} {x : Fetched}
  (h : Executes s w g) (hx : w.t.fetch [wr1 d] [] = .ok x) (hc : s.carouselOf w c v = .ok (tr, o))
include h hx hc

theorem execCbacq_uninitialised (ho : o.stages = []) :
    execCbacq d c g v s = .next ((s.leaveCarousel tr c.toNat w.k).takeTrap w.k .carouselProtocol w.t.pc 0 0) :=
  runWord_trapIn h ((bind_of_ok hx).trans ((bind_of_ok hc).trans (if_pos (List.isEmpty_iff.2 ho))))

theorem execCbwait_uninitialised (ho : o.stages = []) :
    execCbwait d c g v s = .next ((s.leaveCarousel tr c.toNat w.k).takeTrap w.k .carouselProtocol w.t.pc 0 0) :=
  runWord_trapIn h ((bind_of_ok hx).trans ((bind_of_ok hc).trans (if_pos (List.isEmpty_iff.2 ho))))

variable (ho : o.stages ≠ [])
include ho

theorem execCbacq_taken (hs : o.stage o.head = .free) (hw : ∀ k ∈ o.acqWait.head?, k = w.k) :
    execCbacq d c g v s = ((s.tookStage w x.t d o o.head).updCarousel tr c.toNat fun o =>
      { o.setStage o.head .acq with head := (o.head + 1) % o.stages.length, acqWait := o.acqWait.filter (· != w.k) }).wordDone w :=
  runWord_ok h ((bind_of_ok hx).trans ((bind_of_ok hc).trans ((if_neg (mt List.isEmpty_iff.1 ho)).trans
    (if_pos (Bool.and_eq_true_iff.2 ⟨decide_eq_true hs, firstWaiter_iff.2 hw⟩)))))

variable (hw : ∀ k ∈ o.popWait.head?, k = w.k)
include hw

theorem execCbwait_taken (hs : o.stage o.tail = .full) :
    execCbwait d c g v s = (((s.tookStage w x.t d o o.tail).leaveCarousel tr c.toNat w.k).updCarousel tr c.toNat fun o =>
      { o.setStage o.tail .held with tail := (o.tail + 1) % o.stages.length }).wordDone w :=
  runWord_ok h ((bind_of_ok hx).trans ((bind_of_ok hc).trans ((if_neg (mt List.isEmpty_iff.1 ho)).trans
    ((if_neg (by simp [firstWaiter_iff.2 hw])).trans (by simp only [hs]; rfl)))))

/-- A stage that a fault took its place traps and stays where it is. -/
theorem execCbwait_fault {cause : Cause} {addr : DWord} (hs : o.stage o.tail = .fault cause addr) :
    execCbwait d c g v s = .next ((s.leaveCarousel tr c.toNat w.k).takeTrap w.k cause w.t.pc addr (w64 (c.toNat + 48))) :=
  runWord_trapIn h ((bind_of_ok hx).trans ((bind_of_ok hc).trans ((if_neg (mt List.isEmpty_iff.1 ho)).trans
    ((if_neg (by simp [firstWaiter_iff.2 hw])).trans (by simp only [hs])))))

end

/-! ### CBCMT and CBREL (R238, R239) -/

section
variable {s : State} {w : Who} {a : RegField} {c : BitVec 3} {v : BitVec 2} {tr i : Nat} {o : Carousel} {x : Fetched} {old : Stage} (new : Stage)
  (hx : w.t.fetch [] [rd1 a [.b32]] = .ok x) (hc : s.carouselOf w c v = .ok (tr, o)) (hi : s.stageAt o w.tr.k (x.v 0).toNat = some i)
include hx hc hi

theorem stageRelease_refused (hs : o.stage i ≠ old) : stageRelease a c v old new s w = .error (.trap .carouselProtocol 0 0 0) := by
  refine (bind_of_ok hx).trans ((bind_of_ok hc).trans ?_)
  simp only [hi]
  exact if_pos (bne_iff_ne.2 hs)

theorem stageRelease_released (hs : o.stage i = old) (hr : s.released w.t .en = true) :
    stageRelease a c v old new s w = .ok ((s.setThread w.k x.t).updCarousel tr c.toNat (·.setStage i new)) := by
  refine (bind_of_ok hx).trans ((bind_of_ok hc).trans ?_)
  simp only [hi]
  exact (if_neg fun hne => bne_iff_ne.1 hne hs).trans (if_pos hr)

end

/-- Settles O35: the stages of the Carousel reached decide each operation on it. -/
theorem carousels : Obligations.Carousels := by
  unfold Obligations.Carousels
  intro s w g d a c v tr h htr o upd
  have hc : s.carouselOf w c v = .ok (tr, o) := State.carouselOf_ok htr
  let laid (f : Carousel → Carousel) : Outcome := (upd s f).wordDone w
  refine ⟨fun x hx hz hfree => ⟨fun hs => ?_, fun place hs hb hp ha => ?_⟩,
    fun x hx => ⟨fun ho => ⟨execCbacq_uninitialised h hx hc ho, execCbwait_uninitialised h hx hc ho⟩, execCbacq_taken h hx hc,
      fun ho hw => ⟨execCbwait_taken h hx hc ho hw, fun cause addr => execCbwait_fault h hx hc ho hw⟩⟩,
    fun x i hx hi => ⟨fun hs hr => runWord_ok h (stageRelease_released .full hx hc hi hs hr),
      fun hs hr => runWord_ok h (stageRelease_released .free hx hc hi hs hr),
      fun hs => runWord_error h (stageRelease_refused .full hx hc hi hs), fun hs => runWord_error h (stageRelease_refused .free hx hc hi hs)⟩⟩
  · exact (execCbinit_laid h hx hz hc hfree (fun _ => rfl) (absurd hs)).trans (congrArg laid (funext fun _ => if_pos hs))
  · exact (execCbinit_laid h hx hz hc hfree (absurd · hs) fun _ => ⟨hb, hp, ha⟩).trans (congrArg laid (funext fun _ => if_neg hs))

end Sys2Proof.Machine

namespace Sys2Proof.Machine

/-! ## MMA and MMAS (O37; 06_control.md R147; 11_matrix.md R242 to R248) -/

/-! ### The last arrival of a matrix instruction (R245) -/

section
variable {s : State} {w : Who} {i : Instr} {g : PredField} {check : Who → Except Stop Unit} {done : DWord → List (Nat × Nat) → State → State}
  {here : List (Nat × Nat)} (h : Executes s w g) (hc : check w = .ok ()) (hg : Gathered s w i w.maskPair here)
include h hc hg

/-- Arrivals that name another set of lanes than their crew's fail. -/
theorem runMatrix_fails (hm : w.maskPair.toNat % 65536 ≠ w.tr.crewMask w.t.crew) :
    runMatrix s i g check done =
      let s1 := s.updThread w.k fun t => { t with status := .arrived i w.maskPair }
      .next (s1.failAtPc (s1.crewOf w.tr w.t.crew) w.t.pc w.t.lane) := by
  simp only [runMatrix, h.1, h.2, hc, State.meet_of_gathered hg, if_true, if_neg hm]

theorem runMatrix_completes (hm : w.maskPair.toNat % 65536 = w.tr.crewMask w.t.crew) :
    runMatrix s i g check done = .next (done w.maskPair here (s.updThread w.k fun t => { t with status := .arrived i w.maskPair })) := by
  simp only [runMatrix, h.1, h.2, hc, State.meet_of_gathered hg, if_true, if_pos hm]

end

/-! ### The product of a crew (R147, R247) -/

/-- MMA and MMAS run one body, the second with a sparse A. -/
theorem exec_mma {d a b : RegField} {g : PredField} {sparse : Bool} {i : Instr}
    (hi : (sparse, i) ∈ [(false, Instr.mma d a b g), (true, .mmas d a b g)]) (s : State) :
    exec i s = runMatrix s i g (mmaCheck sparse d a b) (mmaDone sparse d a b) := by
  simp only [List.mem_cons, Prod.mk.injEq, List.not_mem_nil, or_false] at hi
  rcases hi with ⟨rfl, rfl⟩ | ⟨rfl, rfl⟩ <;> rfl

section
variable {lanes : List MatLane} {c : MatClass} (hcls : ∀ l ∈ lanes, l.cls = some c)
include hcls

/-- The class of a product is that which its arrivals agree on. -/
theorem headClass_of_agree (hne : lanes ≠ []) : (lanes.head?.bind (·.cls)).getD .half = c := by
  obtain ⟨l, ls, rfl⟩ := List.exists_cons_of_ne_nil hne
  simp only [List.head?_cons, Option.bind_some, hcls l List.mem_cons_self, Option.getD_some]

theorem all_class_of_agree : (lanes.all fun l => l.cls == some c) = true :=
  List.all_eq_true.2 fun l hl => beq_iff_eq.2 (hcls l hl)

end

/-- Where a row's latch stands, it is the row; where none does, the class is the tag's of x[a], and the row its registers. -/
theorem matLane_row (sparse : Bool) (a b : RegField) (s : State) (x : Nat × Nat) :
    let t := s.thread x.2
    let latch := latchUsed (nth (s.troupe t.troupe).latches t.crew none) t sparse a
    (∀ u, latch = some u → (matLane sparse a b s x).a = u.row x.1) ∧
    ∀ c, latch = none → (t.reg a.toNat).tag.matClass = some c →
      let z := fragShape c sparse t.hints.sx
      (matLane sparse a b s x).cls = some c ∧
        (matLane sparse a b s x).a = t.portWords a.toNat z.a [(t.reg a.toNat).tag] ++ t.portWords (a.toNat + z.a) z.aExt [] := by
  refine ⟨fun u hu => ?_, fun c hn hc => ⟨?_, ?_⟩⟩
  · simp only [matLane, matLaneOf, hu]
  · simp only [matLane, matLaneOf, hn, hc]
  · simp only [matLane, matLaneOf, hn, hc, Option.getD_some]

/-! ### An integer element (R243) -/

theorem foldl_add_eq_add_sum {α : Type} (f : α → Int) (l : List α) (e : Int) : l.foldl (fun e x => e + f x) e = e + (l.map f).sum := by
  induction l generalizing e with
  | nil => exact (Int.add_zero e).symm
  | cons x xs ih => rw [List.foldl_cons, ih, List.map_cons, List.sum_cons, Int.add_assoc]

/-- Without .SAT the integer form is the exact sum over the depths that take part, modulo 2^32. -/
theorem dotInt_wraps (acc : Word) (k : Nat) (a b : List FVal) (use : Nat → Bool) :
    w32 (dotInt acc.toNat k a b use false) =
      BitVec.ofInt 32 (acc.toInt + ((termsOf a b use 0 k).map fun x => (x.1.toInt .rne).1 * (x.2.toInt .rne).1).sum) := by
  rw [dotInt, foldl_add_eq_add_sum, signed_toNat acc (by decide), if_neg Bool.false_ne_true, w32_wrap]

/-- Settles O37: the completed rendezvous is one product, whose class, latch and rows its arrivals agree on. -/
theorem matrixProducts : Obligations.MatrixProducts := by
  unfold Obligations.MatrixProducts
  refine ⟨fun s w g d a b sparse i here c h hi hc hg hmem => ?_, fun sparse a b s x => ⟨rfl, rfl, rfl, matLane_row sparse a b s x⟩,
    fun m k t old a b hsat => ?_⟩
  · intro m hints s1 lanes held fresh key work hall hcls
    rw [exec_mma hi]
    refine ⟨runMatrix_fails h hc hg, fun hm => (runMatrix_completes h hc hg hm).trans (congrArg _ ?_)⟩
    obtain ⟨x, xs, rfl⟩ := List.exists_cons_of_ne_nil (List.ne_nil_of_mem hmem)
    obtain ⟨hhints, htroupe, hcrew⟩ := hall x List.mem_cons_self
    have hhead : (lanes.head?.bind (·.cls)).getD .half = c := headClass_of_agree hcls (List.cons_ne_nil _ _)
    have hagree : (lanes.all fun l => l.cls == some c) = true := all_class_of_agree hcls
    have hheld : latchUsed (nth (s1.troupe w.trI).latches w.t.crew none) (s1.thread x.2) sparse a = held := rfl
    change mmaDone sparse d a b m (x :: xs) s1 = _
    clear_value held s1
    simp only [mmaDone, hhints, htroupe, hcrew, hheld]
    rw [hhead, hagree]
    -- the latch in use stays as it was loaded, and else the product's own rows are loaded
    cases held <;> rfl
  · have hacc : (if t.hints.aa then 0 else old.toNat) = (if t.hints.aa then 0 else old).toNat := by split <;> rfl
    have hint : (if t.hints.aa then 0 else old.toInt) = (if t.hints.aa then 0 else old).toInt := by split <;> rfl
    rw [hint, ← dotInt_wraps, ← hacc]
    simp only [mmaElem, hsat]
    rfl

end Sys2Proof.Machine

namespace Sys2Proof.Machine

/-! ## TLD and TST (O38; 02_encoding.md R39; 11_matrix.md R249, R250) -/

/-- TLD and TST run one body, each with its own check and effect. -/
theorem exec_fragment {d a b : RegField} {g : PredField} {store : Bool} {i : Instr} {one : DWord → Who → State → Except Stop State}
    (hi : (store, i, one) ∈ [(false, Instr.tld d a b g, tldOne d a b), (true, .tst d a b g, tstOne d a b)]) (s : State) :
    exec i s = runFragment store i d a b g one s := by
  simp only [List.mem_cons, Prod.mk.injEq, List.not_mem_nil, or_false] at hi
  rcases hi with ⟨rfl, rfl, rfl⟩ | ⟨rfl, rfl, rfl⟩ <;> rfl

section
variable {s : State} {w : Who} {g : PredField} {d a b : RegField} (h : Executes s w g)
include h

/-! ### One arrival -/

theorem fragOne_moves {one : DWord → Who → State → Except Stop State} {m : DWord} {s' : State} (ho : one m w s = .ok s') :
    fragOne one m w.k s = s'.retire w.k w.t := by
  obtain ⟨hk, -⟩ := s.whoOf_eq s.cur w h.1
  simp only [fragOne, hk, h.1, ho]

/-- An arrival whose rendezvous has completed moves its elements alone. -/
theorem runFragment_alone {store : Bool} {i : Instr} {one : DWord → Who → State → Except Stop State} {s' : State} (hs : w.t.split = true)
    (ho : one w.maskPair w s = .ok s') : runFragment store i d a b g one s = s'.wordDone w := by
  simp only [runFragment, h.1, hs, if_true, fragOne_moves h ho, State.wordDone]

theorem runFragment_gathered {store : Bool} {i : Instr} {one : DWord → Who → State → Except Stop State} {here : List (Nat × Nat)}
    (hs : w.t.split = false) (hc : fragCheck store d a b w = .ok ()) (hg : Gathered s w i w.maskPair here)
    (hm : w.maskPair.toNat % 65536 = w.tr.crewMask w.t.crew) :
    runFragment store i d a b g one s =
      .next (here.foldl (fun s x => fragOne one w.maskPair x.2 s) (s.updThread w.k fun t => { t with status := .arrived i w.maskPair })) := by
  simp only [runFragment, h.1, hs, if_neg Bool.false_ne_true]
  exact runMatrix_completes h hc hg hm

end

/-! ### TLD -/

section
variable {s : State} {w : Who} {d a b : RegField} {m : DWord}

theorem tldOne_loads {ps : List ((Nat × Bool) × List Loc)} :
    let c := fragCtl (w.t.reg b.toNat).val
    c.kind ≠ 3 → fragPlaces s w c a false m = .ok ps → w.t.Room [w.t.fa] →
      tldOne d a b m w s = .ok (s.setThread w.k ((w.t.raised [w.t.fa]).pushLoad
        { seq := 0, locs := ps.flatMap (·.2), scope := if c.scratch then .en else .dv, flag := w.t.fa,
          form := { type := c.type, dst := d.toNat, count := c.regs, frag := some (c, ps.map (·.1)) }, born := s.moves })) :=
  fun hk hp hr => (if_neg hk).trans ((bind_of_ok hp).trans (bind_of_ok (Thread.raiseFlags_ok hr)))

/-- Of the numbers of a list that have a property, each listed with a value, a number finds its own value. -/
theorem find?_filter_map {α : Type} {l : List Nat} {n : Nat} (hn : n ∈ l) (p : Nat → Bool) (f : Nat → α) :
    (((l.filter p).map fun n => (n, f n)).find? fun x => x.1 == n).map (·.2) = if p n then some (f n) else none := by
  have hfind : (l.filter p).find? (· == n) = if p n then some n else none := by
    cases hf : (l.filter p).find? (· == n) with
    | none => rw [if_neg fun hp => List.find?_eq_none.1 hf n (List.mem_filter.2 ⟨hn, hp⟩) (beq_self_eq_true n)]
    | some k =>
      obtain rfl : k = n := by simpa using List.find?_some hf
      rw [if_pos (List.mem_filter.1 (List.mem_of_find?_eq_some hf)).2]
  rw [List.find?_map]
  simp only [Function.comp_def, hfind]
  split <;> rfl

/-- KIND 3 takes its words of the tile at once. -/
theorem tldOne_tile :
    let c := fragCtl (w.t.reg b.toNat).val
    c.kind = 3 → w.t.Room [w.t.fa] →
    let live (n : Nat) : Bool := maskRow m w.t.lane && maskCol m n && bitAt (w.tr.crewMask w.t.crew) n
    let word (n : Nat) : Nat :=
      (w.e.tileWord (blockWord (slice c.str 0 4) (16 * slice c.str 8 2 + w.t.lane) (16 * slice c.str 10 2 + n))).1.toNat
    let vals := ((upFrom 0 16).filter live).map fun n => (n, word n)
    let ws := (upFrom 0 16).map fun n => (w32 (((vals.find? fun x => x.1 == n).map (·.2)).getD 0), Tag.acc)
    tldOne d a b m w s = .ok (s.setThread w.k (w.t.owing { flag := w.t.fa, writes := (upFrom d.toNat ws.length).zip ws, simt := true })) := by
  intro c hk hr live word vals ws
  have hlive (n : Nat) : c.live m (w.tr.crewMask w.t.crew) w.t.lane n = live n := by simp only [FragCtl.live, hk, live]
  have hws : (upFrom 0 16).map (fun n => (if c.live m (w.tr.crewMask w.t.crew) w.t.lane n then (w.e.tileWord
      (blockWord (slice c.str 0 4) (16 * slice c.str 8 2 + w.t.lane) (16 * slice c.str 10 2 + n))).1 else 0, Tag.acc)) = ws :=
    List.map_congr_left fun n hn => by
      rw [find?_filter_map hn, hlive]
      split
      · exact congrArg (·, Tag.acc) (w32_toNat_self _).symm
      · rfl
  refine (if_pos hk).trans ((bind_of_ok (Thread.owe_ok hr)).trans ?_)
  rw [← hws, List.length_map, length_upFrom]

/-! ### TST -/

/-- The state in which a TST has owed its "b" and put its stores, of the bytes listed, behind those before. -/
def State.fragStores (s : State) (w : Who) (d : RegField) (c : FragCtl) (ps : List ((Nat × Bool) × List Loc)) (stores : List (List StoreByte)) : State :=
  stores.foldl (fun (s : State) bs =>
    s.addStore w (s.thread w.k) { seq := 0, bytes := bs, scope := if c.scratch then .en else .dv, src := tstOne.source d w c ps bs })
    (s.setThread w.k (w.t.owing { flag := w.t.fb, simt := true, stores := upFrom w.t.seq stores.length }))

/-- Elements of whole bytes are a store each. -/
theorem tstOne_stores {ps : List ((Nat × Bool) × List Loc)} :
    let c := fragCtl (w.t.reg b.toNat).val
    c.width ≠ 4 → fragPlaces s w c a true m = .ok ps → w.t.Room [w.t.fb] →
      tstOne d a b m w s = .ok (s.fragStores w d c ps (ps.map fun x => storeOf x.2 (toBytes (c.stored w.t d x.1.1) c.bytes))) := by
  intro c hw hp hr
  have hbytes : ps.map (fun x => if c.width = 4 then tstOne.storeNibble x.2 x.1.2 (c.stored w.t d x.1.1) else
      storeOf x.2 (toBytes (c.stored w.t d x.1.1) c.bytes)) = ps.map fun x => storeOf x.2 (toBytes (c.stored w.t d x.1.1) c.bytes) :=
    List.map_congr_left fun _ _ => if_neg hw
  rw [← hbytes]
  exact (bind_of_ok hp).trans ((if_neg hw).trans ((bind_of_ok rfl).trans (bind_of_ok (Thread.owe_ok hr))))

/-- Nibbles are a store for each byte of them. -/
theorem tstOne_nibbles {ps : List ((Nat × Bool) × List Loc)} {r : State × List (List StoreByte)} :
    let c := fragCtl (w.t.reg b.toNat).val
    c.width = 4 → fragPlaces s w c a true m = .ok ps → w.t.Room [w.t.fb] →
      nibbleStores s w (mergeNibbles (ps.flatMap fun x => tstOne.storeNibble x.2 x.1.2 (c.stored w.t d x.1.1))) = .ok r →
      tstOne d a b m w s = .ok (r.1.fragStores w d c ps r.2) := by
  intro c hw hp hr hn
  have hbytes : (ps.map fun x => if c.width = 4 then tstOne.storeNibble x.2 x.1.2 (c.stored w.t d x.1.1) else
      storeOf x.2 (toBytes (c.stored w.t d x.1.1) c.bytes)).flatten = ps.flatMap fun x => tstOne.storeNibble x.2 x.1.2 (c.stored w.t d x.1.1) :=
    congrArg List.flatten (List.map_congr_left fun _ _ => if_pos hw)
  rw [← hbytes] at hn
  exact (bind_of_ok hp).trans ((if_pos hw).trans ((bind_of_ok hn).trans (bind_of_ok (Thread.owe_ok hr))))

end

/-- Settles O38: the completed rendezvous has each arrival move its elements, and an arrival that is alone moves them by the one rule of its word. -/
theorem matrixFragments : Obligations.MatrixFragments := by
  unfold Obligations.MatrixFragments
  intro s w g d a b h c m
  have htld {s' : State} (hs : w.t.split = true) (ho : tldOne d a b m w s = .ok s') : exec (.tld d a b g) s = s'.wordDone w :=
    runFragment_alone h hs ho
  have htst {s' : State} (hs : w.t.split = true) (ho : tstOne d a b m w s = .ok s') : exec (.tst d a b g) s = s'.wordDone w :=
    runFragment_alone h hs ho
  exact ⟨fun store i one here hi hs hc hg hm => (exec_fragment hi s).trans (runFragment_gathered h hs hc hg hm),
    fun ps hs hk hp hr => htld hs (tldOne_loads hk hp hr), fun hs hk hr => htld hs (tldOne_tile hk hr),
    fun ps hs hw hp hr => (htst hs (tstOne_stores hw hp hr)).trans (by rw [State.fragStores, List.foldl_map, List.length_map]),
    fun ps r hs hw hp hr hn => htst hs (tstOne_nibbles hw hp hr hn)⟩

end Sys2Proof.Machine

namespace Sys2Proof.Machine

/-! ## The grid's arrangement, gangs, fences and GWAIT (O39; 11_matrix.md R253 to R257, R262) -/

section
variable {s : State} {w : Who} {g : PredField} (h : Executes s w g)

/-! ### GRID.ON (R253) -/

/-- A matrix instruction of an ensemble is outstanding: a thread of it owes one, or a load of fragments of it has not bound. -/
def State.SimtOutstanding (s : State) (e : Ensemble) : Prop :=
  ∃ k ∈ s.threadsOf e, (∃ o ∈ (s.thread k).owed, o.simt = true) ∨ ∃ l ∈ (s.thread k).loads, l.form.frag.isSome = true

theorem any_simt_iff (s : State) (e : Ensemble) :
    ((s.threadsOf e).any fun k => (s.thread k).owed.any (·.simt) || (s.thread k).loads.any (·.form.frag.isSome)) = true ↔ s.SimtOutstanding e := by
  simp only [State.SimtOutstanding, List.any_eq_true, Bool.or_eq_true]

include h

theorem execGridOn_unowned (ho : ¬fieldOf w.e.packet 48 8 1 = 1) : execGridOn g s = s.trapped w .gridNotOwned 0 0 :=
  runWord_error h (bind_of_error (require_of_false (beq_eq_false_iff_ne.2 ho) _))

section
variable (ho : fieldOf w.e.packet 48 8 1 = 1)
include ho

theorem execGridOn_small (hs : fieldOf w.e.packet 56 0 16 < 1536) : execGridOn g s = s.trapped w .gridShape 0 0 :=
  runWord_error h ((bind_of_ok (require_of_true (beq_iff_eq.2 ho) _)).trans (bind_of_error (require_of_false (decide_eq_false hs.not_ge) _)))

variable (hs : 1536 ≤ fieldOf w.e.packet 56 0 16)
include hs

theorem execGridOn_again (hq : w.e.grid.on = true) : execGridOn g s = s.wordDone w :=
  runWord_ok h ((bind_of_ok (require_of_true (beq_iff_eq.2 ho) _)).trans ((bind_of_ok (require_of_true (decide_eq_true hs) _)).trans (if_pos hq)))

variable (hq : w.e.grid.on = false)
include hq

theorem execGridOn_parks (hb : s.SimtOutstanding w.e) : execGridOn g s = .next (s.stopped w (.park .gridSwitch)) :=
  runWord_error h ((bind_of_ok (require_of_true (beq_iff_eq.2 ho) _)).trans ((bind_of_ok (require_of_true (decide_eq_true hs) _)).trans
    ((if_neg (ne_true_of_eq_false hq)).trans (if_pos ((any_simt_iff s w.e).2 hb)))))

theorem execGridOn_arranges (hb : ¬s.SimtOutstanding w.e) : execGridOn g s = (s.updGrid w.eI fun q => { q with on := true }).wordDone w :=
  runWord_ok h ((bind_of_ok (require_of_true (beq_iff_eq.2 ho) _)).trans ((bind_of_ok (require_of_true (decide_eq_true hs) _)).trans
    ((if_neg (ne_true_of_eq_false hq)).trans (if_neg (mt (any_simt_iff s w.e).1 hb)))))

end

/-! ### GRID.OFF (R254) -/

omit h in
/-- Where nobody stands at the latch, nobody traps there. -/
theorem gangMismatch_of_empty {s : State} {eI : Nat} (hl : s.latched (s.ens eI) = []) : s.gangMismatch eI = s := by
  rw [State.gangMismatch, hl, List.foldl_nil]

theorem execGridOff_again (hq : w.e.grid.on = false) : execGridOff g s = s.wordDone w :=
  runWord_ok h (if_pos (by rw [hq]; rfl))

section
variable (hq : w.e.grid.on = true) (hl : s.latched w.e = [])
include hq hl

/-- Where nobody stands at the latch, GRID.OFF asks only whether the queue is empty. -/
theorem gridOff_asks : execGridOff g s = runWord s g fun w =>
    if !w.e.grid.queue.isEmpty then .error (.hold s (.parked .gridEmpty s.clock))
    else .ok (s.updGrid w.eI fun q => { q with on := false, fault := none }) := by
  rw [← State.ens_of_whoOf h.1] at hl
  simp only [execGridOff, runWord, h.1, h.2, hq, gangMismatch_of_empty hl, ite_self, Bool.not_true, Bool.false_eq_true, if_false]

theorem execGridOff_waits (hne : w.e.grid.queue ≠ []) :
    execGridOff g s = .next (s.stopped w (.hold s (.parked .gridEmpty s.clock))) :=
  (gridOff_asks h hq hl).trans (runWord_error h (if_pos (by simpa using hne)))

theorem execGridOff_releases (he : w.e.grid.queue = []) :
    execGridOff g s = (s.updGrid w.eI fun q => { q with on := false, fault := none }).wordDone w :=
  (gridOff_asks h hq hl).trans (runWord_ok h (if_neg (by simpa using he)))

end

/-! ### GANG (R255) -/

section
variable {a : RegField} {x : Fetched} (hx : w.t.fetch [] [rd1 a [.b32]] = .ok x)

/-- A gang word's shape (R255): no first crew without members, no gang of one, and every member crew exists. -/
def State.GangShape (s : State) (e : Ensemble) (v : Nat) : Prop :=
  ¬(slice v 8 6 = 0 ∧ slice v 0 8 ≠ 0) ∧ popCount (slice v 8 6) 6 ≠ 1 ∧
    ∀ i < 6, bitAt (slice v 8 6) i = true → s.crewExists e (slice v 0 8 + i) = true

omit h in
theorem gangShape_iff (s : State) (e : Ensemble) (v : Nat) :
    (!(slice v 8 6 == 0 && slice v 0 8 != 0) && popCount (slice v 8 6) 6 != 1 && (gangCrews v).all (s.crewExists e)) = true ↔ s.GangShape e v := by
  simp only [State.GangShape, gangCrews, onesOf, Bool.and_eq_true, Bool.not_eq_true', ← Bool.not_eq_true, beq_iff_eq, bne_iff_ne, List.all_map,
    List.all_eq_true, List.mem_filter, mem_upFrom, Function.comp_apply, and_imp, and_assoc, Nat.zero_le, Nat.zero_add, true_implies]

include hx

theorem execGang_reserved (hv : 2 ^ 14 ≤ (x.v 0).toNat) : execGang a g s = s.trapped w .reservedField 0 0 :=
  runWord_error h ((bind_of_ok hx).trans (bind_of_error (require_of_false
    (beq_eq_false_iff_ne.2 (Nat.div_pos hv (by decide)).ne') _)))

variable (hv : (x.v 0).toNat < 2 ^ 14)
include hv

theorem execGang_shapeless (hs : ¬s.GangShape w.e (x.v 0).toNat) : execGang a g s = s.trapped w .gridShape 0 0 :=
  runWord_error h ((bind_of_ok hx).trans ((bind_of_ok (require_of_true (beq_iff_eq.2 (Nat.div_eq_of_lt hv)) _)).trans
    (bind_of_error (require_of_false (Bool.eq_false_iff.2 (mt (gangShape_iff ..).1 hs)) _))))

theorem execGang_sets (hs : s.GangShape w.e (x.v 0).toNat) (hl : (s.setThread w.k x.t).latched w.e = []) :
    execGang a g s = ((s.setThread w.k x.t).updGrid w.eI fun q => { q with gang := x.v 0 }).wordDone w := by
  have hl' : (s.setThread w.k x.t).gangMismatch w.eI = s.setThread w.k x.t :=
    gangMismatch_of_empty (s := s.setThread w.k x.t) (by rw [← State.ens_of_whoOf h.1] at hl; exact hl)
  refine runWord_ok h ((bind_of_ok hx).trans ((bind_of_ok (require_of_true (beq_iff_eq.2 (Nat.div_eq_of_lt hv)) _)).trans
    ((bind_of_ok (require_of_true ((gangShape_iff ..).2 hs) _)).trans ?_)))
  rw [hl', w32_toNat_self]

end

/-! ### OPFENCE (R257) -/

omit h in
theorem any_scratchStore_iff (t : Thread) :
    (t.stores.any fun p => p.bytes.any (·.loc.scratch.isSome)) = true ↔ ∃ p ∈ t.stores, ∃ b ∈ p.bytes, b.loc.scratch.isSome = true := by
  simp only [List.any_eq_true]

theorem execOpfence_parks (hout : ∃ p ∈ w.t.stores, ∃ b ∈ p.bytes, b.loc.scratch.isSome = true) :
    execOpfence g s = .next (s.stopped w (.park .drain)) :=
  runWord_error h (if_pos ((any_scratchStore_iff w.t).2 hout))

theorem execOpfence_clears (hout : ¬∃ p ∈ w.t.stores, ∃ b ∈ p.bytes, b.loc.scratch.isSome = true) :
    execOpfence g s = (s.updGrid w.eI fun q => { q with dirtyScratch := [], dirtyTile := [] }).wordDone w :=
  runWord_ok h (if_neg (mt (any_scratchStore_iff w.t).1 hout))

/-! ### GWAIT (R262) -/

section
variable {a : RegField} {x : Fetched} (hx : w.t.fetch [] [rd1 a [.b32]] = .ok x)
include hx

theorem execGwait_zero (hv : x.v 0 = 0) : execGwait a g s = s.threadDone w x.t :=
  runWord_ok h ((bind_of_ok hx).trans (if_pos hv))

variable (hv : x.v 0 ≠ 0)
include hv

theorem execGwait_unissued (h1 : 1 ≤ (x.v 0 - w.e.grid.issued).toNat) (h2 : (x.v 0 - w.e.grid.issued).toNat < 2 ^ 31) :
    execGwait a g s = s.trapped w .matrixParam 0 0 :=
  runWord_error h ((bind_of_ok hx).trans ((if_neg hv).trans (bind_of_error (require_of_false (by rw [decide_eq_true h1, decide_eq_true h2]; rfl) _))))

variable (hi : (x.v 0 - w.e.grid.issued).toNat = 0 ∨ 2 ^ 31 ≤ (x.v 0 - w.e.grid.issued).toNat)

omit h hx hv in
include hi in
theorem issued_ok : require (!(decide (1 ≤ (x.v 0 - w.e.grid.issued).toNat) && decide ((x.v 0 - w.e.grid.issued).toNat < 2 ^ 31))) .matrixParam = .ok () :=
  require_of_true (by simp only [Bool.not_eq_true', Bool.and_eq_false_iff, decide_eq_false_iff_not]; omega) _

include hi

theorem execGwait_parks (hd : 2 ^ 31 ≤ (w.e.grid.done - x.v 0).toNat) : execGwait a g s = .next (s.stopped w (.park .gridSequence)) :=
  runWord_error h ((bind_of_ok hx).trans ((if_neg hv).trans ((bind_of_ok (issued_ok hi)).trans
    (if_pos (by rw [seqAtOrBelow, decide_eq_false hd.not_gt]; rfl)))))

variable (hd : (w.e.grid.done - x.v 0).toNat < 2 ^ 31)
include hd

theorem execGwait_faults {f : Cause × DWord × Word} (hf : w.e.grid.fault = some f) (hb : (x.v 0 - f.2.2).toNat < 2 ^ 31) :
    execGwait a g s = .next (s.stopped w (.trap f.1 f.2.1 (w64 f.2.2.toNat) x.fl)) :=
  runWord_error h ((bind_of_ok hx).trans ((if_neg hv).trans ((bind_of_ok (issued_ok hi)).trans
    ((if_neg (by rw [seqAtOrBelow, decide_eq_true hd]; decide)).trans (by
      simp only [hf, Option.filter, seqAtOrBelow, hb, decide_true, if_true])))))

theorem execGwait_passes (hf : ∀ f, w.e.grid.fault = some f → 2 ^ 31 ≤ (x.v 0 - f.2.2).toNat) :
    execGwait a g s = ((s.setThread w.k x.t).updGrid w.eI fun q =>
      { q with unwaited := q.unwaited.filter fun op => !decide ((x.v 0 - op.seq).toNat < 2 ^ 31) }).wordDone w := by
  have hnone : (w.e.grid.fault.filter fun f => seqAtOrBelow f.2.2 (x.v 0)) = none :=
    Option.filter_eq_none_iff.2 fun f hf' => by simpa [seqAtOrBelow] using hf f hf'
  exact runWord_ok h ((bind_of_ok hx).trans ((if_neg hv).trans ((bind_of_ok (issued_ok hi)).trans
    ((if_neg (by rw [seqAtOrBelow, decide_eq_true hd]; decide)).trans (by simp only [hnone]; rfl)))))

end

end

/-- Settles O39: each word of the grid's control asks its checks in their order, then acts, waits or traps. -/
theorem gridControl : Obligations.GridControl := by
  unfold Obligations.GridControl
  intro s w g a h upd q
  exact ⟨⟨execGridOn_unowned h, execGridOn_small h, execGridOn_again h, execGridOn_parks h, execGridOn_arranges h⟩,
    ⟨execGridOff_again h, fun hq hne hl => execGridOff_waits h hq hl hne, fun hq he hl => execGridOff_releases h hq hl he⟩,
    fun x hx => ⟨execGang_reserved h hx, execGang_shapeless h hx, fun hv hs _ => execGang_sets h hx hv hs⟩,
    ⟨execOpfence_parks h, execOpfence_clears h⟩,
    fun x hx => ⟨execGwait_zero h hx, execGwait_unissued h hx, fun hv hi => ⟨execGwait_parks h hx hv hi, fun hd =>
      ⟨fun f => execGwait_faults h hx hv hi hd, execGwait_passes h hx hv hi hd⟩⟩⟩⟩

end Sys2Proof.Machine

namespace Sys2Proof.Machine

/-! ## Operations of the grid (O40; 11_matrix.md R256 to R267) -/

/-! ### Acceptance (R256, R258, R261) -/

theorem of_require_ok {ok : Bool} {c : Cause} {u : Unit} (h : require ok c = .ok u) : ok = true := by
  cases ok
  · cases h
  · rfl

/-- An accepted block's operation is of the word's kind and has the next number; the grid is on, and its queue has room. -/
theorem State.checkOp_ok {s : State} {kind : GridKind} {addr : Nat} {ks : List Nat} {w : Who} {op : GridOp} (h : s.checkOp kind addr ks w = .ok op) :
    w.e.grid.on = true ∧ w.e.grid.queue.length < 8 ∧ op.kind = kind ∧ op.seq = w.e.grid.issued + 1 := by
  obtain ⟨l, -, h⟩ := bind_eq_ok_iff.1 h
  dsimp only at h
  split at h
  case isTrue => cases h
  case isFalse =>
    obtain ⟨_, -, h⟩ := bind_eq_ok_iff.1 h
    obtain ⟨_, hon, h⟩ := bind_eq_ok_iff.1 h
    split at h
    case h_1 => cases h
    case h_2 =>
      obtain ⟨_, -, h⟩ := bind_eq_ok_iff.1 h
      obtain ⟨_, -, h⟩ := bind_eq_ok_iff.1 h
      obtain ⟨_, -, h⟩ := bind_eq_ok_iff.1 h
      split at h
      case isTrue => cases h
      case isFalse hroom =>
        cases h
        exact ⟨of_require_ok hon, Nat.lt_of_not_le hroom, rfl, rfl⟩

theorem Grid.enter_issued (q : Grid) (op : GridOp) : (q.enter op).issued = op.seq := rfl

theorem Grid.enter_length (q : Grid) (op : GridOp) : (q.enter op).queue.length = q.queue.length + 1 :=
  List.length_append

/-- The state in which an operation has been accepted for one thread, which stands as t: it has the number in x[d] and goes on. -/
def State.accepted (s : State) (w : Who) (t : Thread) (d : RegField) (op : GridOp) : State :=
  (((s.setThread w.k t).updGrid w.eI (·.enter op)).updThread w.k (·.setReg d.toNat op.seq .b32)).retire w.k t

/-- The one arrival whose block passes receives the number of its operation, which enters the queue. -/
theorem State.accept_one {s : State} {kind : GridKind} {addr k : Nat} {d : RegField} {w : Who} {op : GridOp} (hw : s.whoOf k = some w)
    (hop : s.checkOp kind addr [k] w = .ok op) :
    s.accept kind addr [(k, d)] =
      .ok (((s.updGrid w.eI (·.enter op)).updThread k (·.setReg d.toNat op.seq .b32)).retire k (s.thread k)) := by
  simp only [State.accept, hw, List.map_cons, List.map_nil, hop, Except.map, List.foldl_cons, List.foldl_nil]
  rfl

section
variable {s : State} {w : Who} {g : PredField} {d a : RegField} {x : Fetched} (h : Executes s w g)
  (hx : w.t.fetch [wr1 d] [rd1 a [.b32]] = .ok x)
include h hx

theorem State.accept_fetched {kind : GridKind} {addr : Nat} {op : GridOp}
    (hop : (s.setThread w.k x.t).checkOp kind addr [w.k] { w with t := x.t } = .ok op) :
    (s.setThread w.k x.t).accept kind addr [(w.k, d)] =
      .ok (s.accepted w x.t d op) := by
  obtain ⟨hk, -⟩ := s.whoOf_eq s.cur w h.1
  have hw : (s.setThread w.k x.t).whoOf w.k = some { w with t := x.t } := State.whoOf_fetch (hk ▸ h.1) hx
  rw [State.accept_one hw hop, s.thread_setThread w.k x.t (s.lt_of_whoOf s.cur w h.1)]
  rfl

theorem runMove_accepts {kind : GridKind} {op : GridOp}
    (hop : (s.setThread w.k x.t).checkOp kind (x.v 0).toNat [w.k] { w with t := x.t } = .ok op) :
    runMove kind d a g s = .next (s.accepted w x.t d op) := by
  simp only [runMove, h.1, h.2, hx, State.accept_fetched h hx hop]
  rfl

variable (hs : ∀ j b, w.t.status ≠ .latched j b)
include hs

theorem runGang_accepts (i : Instr) {kind : GridKind} {op : GridOp} (hg : slice w.e.grid.gang.toNat 8 6 = 0)
    (hop : (s.setThread w.k x.t).checkOp kind (x.v 0).toNat [w.k] { w with t := x.t } = .ok op) :
    runGang i kind d a g s = .next (s.accepted w x.t d op) := by
  unfold runGang
  rw [h.1]
  dsimp only
  split
  case h_1 hst => exact absurd hst (hs _ _)
  case h_2 => simp only [h.2, hx, hg, State.accept_fetched h hx hop, if_true]; rfl

end

/-! ### The gang latch (R256) -/

theorem State.mem_latched_iff {s : State} {e : Ensemble} {k : Nat} :
    k ∈ s.latched e ↔ k ∈ s.threadsOf e ∧ ∃ i b, (s.thread k).status = .latched i b := by
  rw [State.latched, List.mem_filter]
  refine and_congr_right fun _ => ?_
  split
  case h_1 i b hst => exact ⟨fun _ => ⟨i, b, hst⟩, fun _ => rfl⟩
  case h_2 hst => exact ⟨fun hf => absurd hf Bool.false_ne_true, fun ⟨i, b, hib⟩ => absurd hib (hst i b)⟩

/-- The crew of its ensemble that a thread is of. -/
def State.gangCrewOf (s : State) (k : Nat) : Nat := 64 * (s.troupe (s.thread k).troupe).k + (s.thread k).crew

/-- While a member crew has not arrived, the arrivals stay. -/
theorem State.tryLatch_incomplete {s : State} {eI c : Nat} (hc : c ∈ gangCrews (s.ens eI).grid.gang.toNat)
    (hno : ∀ k ∈ s.latched (s.ens eI), s.gangCrewOf k ≠ c) : s.tryLatch eI = s := by
  have hall : ¬((gangCrews (s.ens eI).grid.gang.toNat).all ((s.latched (s.ens eI)).map s.gangCrewOf).contains) = true := by
    intro hall
    obtain ⟨k, hk, hkc⟩ := List.mem_map.1 (List.contains_iff_mem.1 (List.all_eq_true.1 hall c hc))
    exact hno k hk hkc
  unfold State.tryLatch
  dsimp only
  split
  case h_1 => rfl
  case h_2 hks =>
    split
    case h_1 => exact if_neg hall
    case h_2 => rfl

theorem slice_ne_zero_of_gangCrews {v c : Nat} (hc : c ∈ gangCrews v) : slice v 8 6 ≠ 0 := by
  intro h0
  rw [gangCrews, h0] at hc
  exact List.not_mem_nil hc

/-- The state in which thread w, which stands as t, has come to the gang latch with instruction i and the address b of its block. -/
def State.atLatch (s : State) (w : Who) (t : Thread) (i : Instr) (b : Word) : State :=
  (s.setThread w.k t).updThread w.k fun t => { t with status := .latched i b }

theorem State.atLatch_thread {s : State} {w : Who} (hlt : w.k < s.threads.length) (t : Thread) (i : Instr) (b : Word) :
    (s.atLatch w t i b).thread w.k = { t with status := .latched i b } := by
  rw [State.atLatch, State.thread_updThread _ _ _ (by simpa using hlt), s.thread_setThread w.k t hlt]

theorem State.atLatch_thread_ne {s : State} {w : Who} {k : Nat} (hne : w.k ≠ k) (t : Thread) (i : Instr) (b : Word) :
    (s.atLatch w t i b).thread k = s.thread k := by
  rw [State.atLatch, State.thread_updThread_ne _ _ hne, State.thread_setThread_ne _ _ hne]

section
variable {s : State} {w : Who} {g : PredField} {d a : RegField} {x : Fetched} (h : Executes s w g)
  (hx : w.t.fetch [wr1 d] [rd1 a [.b32]] = .ok x) (hl : s.latched w.e = [])
include h hx hl

/-- Where nobody stood at the latch, the one arrival there is of its own crew. -/
theorem State.gangCrewOf_atLatch {i : Instr} {b : Word} {k : Nat} (hk : k ∈ (s.atLatch w x.t i b).latched w.e) :
    (s.atLatch w x.t i b).gangCrewOf k = 64 * w.tr.k + w.t.crew := by
  obtain ⟨hmem, hst⟩ := State.mem_latched_iff.1 hk
  obtain rfl : w.k = k := by
    by_contra hne
    rw [State.atLatch_thread_ne hne] at hst
    have hks : k ∈ s.latched w.e := State.mem_latched_iff.2 ⟨hmem, hst⟩
    rw [hl] at hks
    exact List.not_mem_nil hks
  obtain ⟨-, -, -, -, -, htr, -⟩ := s.whoOf_eq s.cur w h.1
  rw [State.gangCrewOf, State.atLatch_thread (s.lt_of_whoOf s.cur w h.1), Thread.fetch_t hx, ← State.troupe_of_whoOf h.1, htr]
  rfl

/-- The first arrival of a gang of several crews waits. -/
theorem runGang_waits (hs : ∀ j b, w.t.status ≠ .latched j b) (i : Instr) (kind : GridKind)
    (hmem : 64 * w.tr.k + w.t.crew ∈ gangCrews w.e.grid.gang.toNat)
    (hmore : ∃ c ∈ gangCrews w.e.grid.gang.toNat, c ≠ 64 * w.tr.k + w.t.crew) :
    runGang i kind d a g s = .next (s.atLatch w x.t i (x.v 0)) := by
  have hg : slice w.e.grid.gang.toNat 8 6 ≠ 0 := slice_ne_zero_of_gangCrews hmem
  have he : (s.atLatch w x.t i (x.v 0)).ens w.eI = w.e := State.ens_of_whoOf (s := s) h.1
  obtain ⟨c, hc, hne⟩ := hmore
  have hstay : (s.atLatch w x.t i (x.v 0)).tryLatch w.eI = s.atLatch w x.t i (x.v 0) :=
    State.tryLatch_incomplete (c := c) (by rw [he]; exact hc) fun k hk heq =>
      hne (heq.symm.trans (State.gangCrewOf_atLatch h hx hl (by rw [he] at hk; exact hk)))
  unfold runGang
  rw [h.1]
  dsimp only
  split
  case h_1 hst => exact absurd hst (hs _ _)
  case h_2 =>
    simp only [h.2, hx, hl, hg, List.contains_iff_mem.2 hmem, List.all_nil, Bool.and_true, Bool.not_true, Bool.false_eq_true, if_true, if_false]
    exact congrArg _ hstay

end

/-! ### RBOX.G (R267) -/

theorem exists_mapM_ok {ε α β : Type} {f : α → Except ε β} {l : List α} (h : ∀ r ∈ l, ∃ p, f r = .ok p) : ∃ ps, l.mapM f = .ok ps := by
  induction l with
  | nil => exact ⟨[], rfl⟩
  | cons r l ih =>
    obtain ⟨p, hp⟩ := h r List.mem_cons_self
    obtain ⟨ps, hps⟩ := ih fun q hq => h q (List.mem_cons_of_mem r hq)
    exact ⟨p :: ps, by rw [List.mapM_cons, bind_of_ok hp, bind_of_ok hps]; rfl⟩

/-- A range of scratch memory that an RBOX.G reads or writes lies in the slices, or holds no byte. -/
def State.ScratchRange (s : State) (w : Who) (addr n : Nat) : Prop := n ≠ 0 → ∃ p, s.checkScratch w addr n 1 = .ok p

theorem State.scratchRange_of_not_lacks {s : State} {w : Who} {addr n : Nat} (h : ¬(n ≠ 0 ∧ ∀ p, s.checkScratch w addr n 1 ≠ .ok p)) :
    s.ScratchRange w addr n := by
  intro hn
  by_contra hno
  exact h ⟨hn, fun p hp => hno ⟨p, hp⟩⟩

/-- Word i of the quad that a thread has read. -/
def Fetched.quad (x : Fetched) (i : Nat) : Nat := (nth (x.ws 0) i 0).toNat

section
variable {s : State} {w : Who} {g : PredField} {d a : RegField} {x : Fetched} (h : Executes s w g) (hx : w.t.fetch [wr1 d] [rd4 a []] = .ok x)
include h hx

theorem execRboxG_unowned (hq : w.e.grid.on = false) : execRboxG d a g s = s.trapped w .gridNotOwned 0 0 :=
  runWord_error h ((bind_of_ok hx).trans (bind_of_error (require_of_false hq _)))

/-- RBOX.G with rays, node and results in place owes its count and enters the queue. -/
theorem execRboxG_enters (hq : w.e.grid.on = true) (h0 : x.quad 0 % 32 = 0) (h1 : x.quad 1 % 128 = 0) (h2 : x.quad 2 % 8 = 0) (h3 : x.quad 3 ≤ 64)
    (hlen : w.e.grid.queue.length < 8) (hrays : s.ScratchRange w (x.quad 0) (32 * x.quad 3)) (hnode : s.ScratchRange w (x.quad 1) 128)
    (hout : s.ScratchRange w (x.quad 2) (8 * x.quad 3)) (hroom : x.t.Room [w.t.fa]) :
    execRboxG d a g s = ((s.setThread w.k (x.t.owing { flag := w.t.fa, hold := some s.moves })).updGrid w.eI fun q =>
      { q with queue := q.queue ++
        [{ kind := .rbox, key := s.moves, thread := w.k, dst := d.toNat, raddrs := x.ws 0, after := [(w.k, w.t.seq)] }] }).wordDone w := by
  have haligned {v m : Nat} (hv : v % m = 0) : ¬(v % m != 0) = true := ne_true_of_eq_false (bne_eq_false_iff_eq.2 hv)
  have hlt : x.quad 3 < 128 := h3.trans_lt (by decide)
  have hn : x.quad 3 % 128 = x.quad 3 := Nat.mod_eq_of_lt hlt
  obtain ⟨ps, hps⟩ : ∃ ps, (([(x.quad 0, 32 * (x.quad 3 % 128)), (x.quad 1, 128), (x.quad 2, 8 * (x.quad 3 % 128))] : List (Nat × Nat)).filter
      fun r => r.2 != 0).mapM (fun r => s.checkScratch w r.1 r.2 1) = .ok ps := by
    refine exists_mapM_ok fun r hr => ?_
    rw [hn, List.mem_filter, bne_iff_ne] at hr
    obtain ⟨hr, hne⟩ := hr
    simp only [List.mem_cons, List.not_mem_nil, or_false] at hr
    rcases hr with rfl | rfl | rfl
    · exact hrays hne
    · exact hnode hne
    · exact hout hne
  refine runWord_ok h ((bind_of_ok hx).trans ((bind_of_ok (require_of_true hq _)).trans ?_))
  refine (if_neg (haligned h0)).trans ((bind_of_ok rfl).trans ((if_neg (haligned h1)).trans ((bind_of_ok rfl).trans
    ((if_neg (haligned h2)).trans ((bind_of_ok rfl).trans ((bind_of_ok hps).trans ?_))))))
  exact (bind_of_ok (require_of_true (beq_iff_eq.2 (Nat.div_eq_of_lt hlt)) _)).trans ((bind_of_ok (require_of_true (decide_eq_true (hn ▸ h3)) _)).trans
    ((if_neg (Nat.not_le.2 hlen)).trans ((bind_of_ok rfl).trans (bind_of_ok (Thread.owe_ok hroom)))))

end

/-! ### Words of the tile -/

/-- A word tagged ACC is kept, whatever its value, and found in its place; every other word is found where it was. -/
theorem find?_tileSet_acc (l : List (Nat × Word × Tag)) (i j : Nat) (v : Word) :
    (tileSet l i v .acc).find? (·.1 == j) = if i = j then some (i, v, .acc) else l.find? (·.1 == j) := by
  have hkept : (v = 0 && Tag.acc = .b32 : Bool) = false := Bool.and_false _
  induction l with
  | nil => simp only [tileSet, hkept, Bool.false_eq_true, if_false, List.find?_cons, List.find?_nil]; grind
  | cons x l ih =>
    obtain ⟨k, y⟩ := x
    simp only [tileSet, hkept, Bool.false_eq_true, if_false]
    rcases lt_trichotomy i k with hlt | rfl | hgt
    · rw [if_neg hlt.ne, if_pos hlt]
      grind
    · rw [if_pos rfl]
      grind
    · rw [if_neg hgt.ne', if_neg hgt.not_gt]
      grind

theorem Ensemble.tileWord_setTileWord_acc (e : Ensemble) (i j : Nat) (v : Word) :
    (e.setTileWord i v .acc).tileWord j = if i = j then (v, .acc) else e.tileWord j := by
  rw [Ensemble.tileWord, Ensemble.setTileWord, find?_tileSet_acc]
  by_cases hij : i = j
  · rw [if_pos hij, if_pos hij]
  · rw [if_neg hij, if_neg hij]
    rfl

/-- The elements of a region of M rows and N columns, row by row. -/
def regionOf (m n : Nat) : List (Nat × Nat) := upFrom 0 m ×ˢ upFrom 0 n

theorem mem_regionOf {m n : Nat} {x : Nat × Nat} : x ∈ regionOf m n ↔ x.1 < m ∧ x.2 < n := by
  obtain ⟨i, j⟩ := x
  simp only [regionOf, List.mem_product, mem_upFrom, Nat.zero_le, Nat.zero_add, true_and]

/-- Elements of one block lie in words of their own, where a row has no more than 64. -/
theorem blockWord_inj {j m n m' n' : Nat} (hn : n < 64) (hn' : n' < 64) (h : blockWord j m n = blockWord j m' n') : m = m' ∧ n = n' := by
  simp only [blockWord] at h
  omega

theorem nodup_regionOf (m n : Nat) : (regionOf m n).Nodup := by
  rw [regionOf, upFrom_eq_range, upFrom_eq_range]
  exact List.Nodup.product List.nodup_range' List.nodup_range'

theorem nodup_regionWords (j : Nat) {m n : Nat} (hn : n ≤ 64) : ((regionOf m n).map fun x => blockWord j x.1 x.2).Nodup :=
  (nodup_regionOf m n).map_on fun _ hx _ hy hxy =>
    Prod.ext_iff.2 (blockWord_inj ((mem_regionOf.1 hx).2.trans_le hn) ((mem_regionOf.1 hy).2.trans_le hn) hxy)

theorem foldl_regionOf {α : Type} (f : α → Nat → Nat → α) (m n : Nat) (x : α) :
    (upFrom 0 m).foldl (fun x i => (upFrom 0 n).foldl (fun x j => f x i j) x) x = (regionOf m n).foldl (fun x p => f x p.1 p.2) x := by
  simp only [regionOf, SProd.sprod, List.product, List.foldl_flatMap, List.foldl_map]

section
variable {ι : Type} (word : ι → Nat) (val : ι → Word → Word) (skip : ι → Bool)

/-- A word of the tile for each of some things, but for those skipped, written from the word that stood there. -/
def Ensemble.writeWords (e : Ensemble) (l : List ι) : Ensemble :=
  l.foldl (fun e x => if skip x then e else e.setTileWord (word x) (val x (e.tileWord (word x)).1) .acc) e

variable {word val skip}

theorem Ensemble.tileWord_writeWords_other {l : List ι} {i : Nat} (e : Ensemble) (h : ∀ x ∈ l, skip x = false → i ≠ word x) :
    (e.writeWords word val skip l).tileWord i = e.tileWord i := by
  induction l generalizing e with
  | nil => rfl
  | cons x l ih =>
    refine (ih _ fun y hy => h y (List.mem_cons_of_mem x hy)).trans ?_
    dsimp only
    split
    case isTrue => rfl
    case isFalse hx =>
      rw [Ensemble.tileWord_setTileWord_acc, if_neg (h x List.mem_cons_self (eq_false_of_ne_true hx)).symm]

theorem Ensemble.tileWord_writeWords {l : List ι} (hl : (l.map word).Nodup) {x : ι} (e : Ensemble) (hx : x ∈ l) (hs : skip x = false) :
    (e.writeWords word val skip l).tileWord (word x) = (val x (e.tileWord (word x)).1, .acc) := by
  induction l generalizing e with
  | nil => exact absurd hx List.not_mem_nil
  | cons y l ih =>
    rw [List.map_cons, List.nodup_cons] at hl
    obtain ⟨hy, hl⟩ := hl
    rcases List.mem_cons.1 hx with rfl | hx'
    · refine (Ensemble.tileWord_writeWords_other (l := l) (word := word) _ fun z hz _ heq => hy (List.mem_map.2 ⟨z, hz, heq.symm⟩)).trans ?_
      simp only [hs, Bool.false_eq_true, if_false, Ensemble.tileWord_setTileWord_acc, if_true]
    · refine (ih hl _ hx').trans ?_
      have hne : word y ≠ word x := fun heq => hy (List.mem_map.2 ⟨x, hx', heq.symm⟩)
      dsimp only
      split
      case isTrue => rfl
      case isFalse => rw [Ensemble.tileWord_setTileWord_acc, if_neg hne]

end

/-! ### The end of an operation (R258, R263) -/

theorem updateAt_of_getElem? {α : Type} {l : List α} {i : Nat} {a : α} (h : l[i]? = some a) : updateAt l i (fun _ => a) = l := by
  refine List.ext_getElem? fun j => ?_
  rw [getElem?_updateAt]
  split
  case isTrue hij => rw [← hij, h]; rfl
  case isFalse => rfl

theorem State.ens_updEns {s : State} {n : Nat} {e : Ensemble} (he : s.ensembles[n]? = some e) (f : Ensemble → Ensemble) :
    (s.updEns n f).ens n = f e := by
  rw [State.ens, nth, List.getD_eq_getElem?_getD, State.updEns_ensembles, getElem?_updateAt, if_pos rfl, he]
  rfl

/-- A write that meets nothing leaves the operation's region as it stands. -/
theorem Ensemble.meets_nil (e : Ensemble) (k : Nat) (op : GridOp) : e.meets k op .glob [] = false := by
  simp only [Ensemble.meets, List.any_nil, Bool.and_false, Bool.or_false, List.any_eq_false, Bool.false_eq_true, not_false_eq_true, implies_true]

/-- An operation that latches no panel and that nobody has disturbed is done, and waits for its GWAIT. -/
theorem State.finishOp_undisturbed {s : State} {op : GridOp} (hl : op.latching = false) (hk : op.kind ≠ .rbox) (hs : op.smeared = false)
    (hw : op.wrote = []) (n : Nat) :
    s.finishOp n op = s.updGrid n fun q => { q with queue := q.queue.drop 1, done := op.seq, unwaited := q.unwaited ++ [op] } := by
  simp only [State.finishOp, hs, hw, GridOp.virtual, List.flatMap_nil, Ensemble.meets_nil, hl, hk, Bool.or_self, Bool.false_and,
    Bool.false_eq_true, if_false]

/-! ### A step, a move, a drain (R242, R259, R261, R265) -/

section
variable {s : State} {n : Nat} {e : Ensemble} (he : s.ensembles[n]? = some e)
include he

theorem execGridDrain_runs (hr : s.gridRuns n e = true) : execGridDrain n s = .next s := by
  simp only [execGridDrain, he, hr, if_true]

theorem execGridDrain_notes (hr : s.gridRuns n e = false) : execGridDrain n s = .next (s.updGrid n fun q => { q with drained := true }) := by
  simp only [execGridDrain, he, hr, Bool.false_eq_true, if_false]

theorem execGridStep_nil (hq : e.grid.queue = []) : execGridStep n s = .next s := by
  simp only [execGridStep, he, hq]

theorem execGridMove_nil (hq : e.grid.queue = []) : execGridMove n s = .next s := by
  simp only [execGridMove, he, hq]

variable {op : GridOp} {rest : List GridOp} (hq : e.grid.queue = op :: rest)
include hq

theorem execGridStep_head :
    execGridStep n s = .next (if op.isMatrix && s.gridRuns n e && s.opReady op then (s.matrixStep n e op).powerBands e else s) := by
  simp only [execGridStep, he, hq]

theorem execGridMove_head :
    execGridMove n s = .next (if op.isMatrix || !s.gridRuns n e || !s.opReady op then s
      else if op.kind = .rbox then s.gridBoxes n e op else s.gridMoveOp n e op) := by
  simp only [execGridMove, he, hq]

theorem execGridStep_idle (hno : op.isMatrix = false ∨ s.gridRuns n e = false ∨ s.opReady op = false) : execGridStep n s = .next s := by
  rw [execGridStep_head he hq, if_neg]
  rcases hno with hno | hno | hno <;> simp [hno]

theorem execGridMove_idle (hno : op.isMatrix = true ∨ s.gridRuns n e = false ∨ s.opReady op = false) : execGridMove n s = .next s := by
  rw [execGridMove_head he hq, if_pos]
  rcases hno with hno | hno | hno <;> simp [hno]

variable (hr : s.gridRuns n e = true) (hready : s.opReady op = true)
include hr hready

theorem execGridStep_steps (hm : op.isMatrix = true) : execGridStep n s = .next ((s.matrixStep n e op).powerBands e) := by
  rw [execGridStep_head he hq, if_pos (by rw [hm, hr, hready]; rfl)]

theorem execGridMove_moves (hk : op.kind = .gtld) : execGridMove n s = .next (s.gridMoveOp n e op) := by
  have hm : op.isMatrix = false := by rw [GridOp.isMatrix, hk]; rfl
  rw [execGridMove_head he hq, if_neg (by rw [hm, hr, hready]; decide), if_neg (by rw [hk]; decide)]

end

theorem GridOp.kind_ne_rbox_of_isMatrix {op : GridOp} (hm : op.isMatrix = true) : op.kind ≠ .rbox := by
  intro hk
  rw [GridOp.isMatrix, hk] at hm
  exact absurd hm (by decide)

/-- An operation that reuses a panel ends once no step of it is left. -/
theorem State.matrixStep_ends {s : State} {n : Nat} {e : Ensemble} {op : GridOp} (he : s.ensembles[n]? = some e) (hm : op.isMatrix = true)
    (hlast : op.steps ≤ op.next) (hb : op.begun = true) (hs : op.smeared = false) (hw : op.wrote = []) (hr : op.reuse = true) :
    s.matrixStep n e op = s.updGrid n fun q =>
      { q with queue := q.queue.drop 1, done := op.seq, unwaited := q.unwaited ++ [{ op with begun := true }] } := by
  have hl : ({ op with begun := true } : GridOp).latching = false := by
    change (op.isMatrix && !op.reuse) = false
    rw [hr]
    exact Bool.and_false _
  simp only [State.matrixStep, hb, if_true, if_pos hlast, updateAt_of_getElem? he]
  exact State.finishOp_undisturbed (op := { op with begun := true }) hl (op.kind_ne_rbox_of_isMatrix hm) hs hw n

/-! #### A K-slice (R242, R243) -/

/-- The exact values of a row or column of an operand in one step, from its places. -/
def State.sliceVals (s : State) (e : Ensemble) (pas : List (Nat × Nat)) (op : GridOp) (fmt : Nat) (p : List (Space × Nat) × List (Space × Nat)) :
    List FVal :=
  gridVals fmt op.scl (min op.depth (op.k - op.next * op.depth)) (p.1.map (s.gridByte e pas)) (p.2.map (s.gridByte e pas))

/-- An element after the K-slice of a step: the old one and the products of its row and its column. -/
def GridOp.sliceElem (op : GridOp) (old : Word) (a b : List FVal) : Word :=
  let depths := min op.depth (op.k - op.next * op.depth)
  w32 (if op.intForm then dotInt old.toNat depths a b (fun _ => true) false else addSlice old.toNat (termsOf a b (fun _ => true) 0 depths))

/-- The places of the rows of A and of the columns of B that a step reads; of no column where M is 0. -/
def GridOp.rowPlaces (op : GridOp) (e : Ensemble) (k : Nat) : List (List (Space × Nat) × List (Space × Nat)) :=
  (upFrom 0 op.m).map (op.operandPlaces e k true op.next)
def GridOp.colPlaces (op : GridOp) (e : Ensemble) (k : Nat) : List (List (Space × Nat) × List (Space × Nat)) :=
  if op.m = 0 then [] else (upFrom 0 op.n).map (op.operandPlaces e k false op.next)

/-- A K-slice added to an operation's region, row i of A and column j of B at their places in two lists. -/
def Ensemble.addedSlice (e : Ensemble) (op : GridOp) (a b : List (List FVal)) : Ensemble :=
  e.writeWords (fun x => blockWord op.blk x.1 x.2) (fun x old => op.sliceElem old (nth a x.1 []) (nth b x.2 [])) (fun x => op.above x.1 x.2)
    (regionOf op.m op.n)

theorem State.matrixStep_slice {s : State} {n : Nat} {e : Ensemble} {op : GridOp} {pas : List (Nat × Nat) × List Nat} (hmore : op.next + 1 < op.steps)
    (hb : op.begun = true) (hr : op.reuse = false) :
    let k := (s.troupe (s.thread op.thread).troupe).k
    s.gridPhys n e ((op.rowPlaces e k ++ op.colPlaces e k).flatMap fun p => p.1 ++ p.2) { read := true } = .ok pas →
    ∃ q : Grid, s.matrixStep n e op = { s with ensembles := updateAt s.ensembles n fun _ => { e.addedSlice op ((op.rowPlaces e k).map
      (s.sliceVals e pas.1 op op.fa)) ((op.colPlaces e k).map (s.sliceVals e pas.1 op op.fb)) with grid := q } } := by
  intro k hp
  simp only [GridOp.rowPlaces, GridOp.colPlaces, k] at hp
  simp only [State.matrixStep, hb, hr, if_true, Bool.false_eq_true, if_false, hp, if_neg (show ¬op.steps ≤ op.next by omega), if_neg (Nat.not_le.2 hmore),
    GridOp.rowPlaces, List.map_map, foldl_regionOf]
  exact ⟨_, rfl⟩

theorem nth_map_upFrom {α : Type} (f : Nat → α) {i n : Nat} (hi : i < n) (d : α) : nth ((upFrom 0 n).map f) i d = f i := by
  rw [nth, List.getD_eq_getElem?_getD, List.getElem?_map, upFrom_eq_range, List.getElem?_range' hi, Nat.zero_add, Nat.one_mul]
  rfl

section
variable {e : Ensemble} {op : GridOp} {a b : List (List FVal)}

theorem Ensemble.tileWord_addedSlice (hn : op.n ≤ 64) {m c : Nat} (hm : m < op.m) (hc : c < op.n) (ha : op.above m c = false) :
    (e.addedSlice op a b).tileWord (blockWord op.blk m c) = (op.sliceElem (e.tileWord (blockWord op.blk m c)).1 (nth a m []) (nth b c []), .acc) :=
  Ensemble.tileWord_writeWords (x := (m, c)) (nodup_regionWords op.blk hn) e (mem_regionOf.2 ⟨hm, hc⟩) ha

theorem Ensemble.tileWord_addedSlice_other {i : Nat} (hi : ∀ m c, m < op.m → c < op.n → op.above m c = false → i ≠ blockWord op.blk m c) :
    (e.addedSlice op a b).tileWord i = e.tileWord i :=
  Ensemble.tileWord_writeWords_other e fun x hx hs => hi x.1 x.2 (mem_regionOf.1 hx).1 (mem_regionOf.1 hx).2 hs

end

theorem GridOp.nth_rowPlaces {α : Type} (op : GridOp) (e : Ensemble) (k : Nat) (f : List (Space × Nat) × List (Space × Nat) → α) {m : Nat}
    (hm : m < op.m) (d : α) : nth ((op.rowPlaces e k).map f) m d = f (op.operandPlaces e k true op.next m) := by
  rw [GridOp.rowPlaces, List.map_map, nth_map_upFrom _ hm]
  rfl

theorem GridOp.nth_colPlaces {α : Type} (op : GridOp) (e : Ensemble) (k : Nat) (f : List (Space × Nat) × List (Space × Nat) → α) {c : Nat}
    (hm : op.m ≠ 0) (hc : c < op.n) (d : α) : nth ((op.colPlaces e k).map f) c d = f (op.operandPlaces e k false op.next c) := by
  rw [GridOp.colPlaces, if_neg hm, List.map_map, nth_map_upFrom _ hc]
  rfl

/-! #### A load (R261) -/

theorem State.getElem?_updEns {s : State} {n : Nat} {e : Ensemble} (he : s.ensembles[n]? = some e) (f : Ensemble → Ensemble) :
    (s.updEns n f).ensembles[n]? = some (f e) := by
  rw [State.updEns_ensembles, getElem?_updateAt, if_pos rfl, he]
  rfl

theorem State.tileWord_updEns {s : State} {n : Nat} {e : Ensemble} (he : s.ensembles[n]? = some e) (f : Ensemble → Ensemble) (i : Nat) :
    ((s.updEns n f).ens n).tileWord i = (f e).tileWord i := by
  rw [State.ens_updEns he]

/-- The word that a GTLD writes for an element of its format. -/
def GridOp.loadedWord (op : GridOp) (v : Nat) : Word :=
  w32 (if op.f 4 0 4 < 2 then v
    else (convertElem (Tag.ofCode (op.f 4 0 4)).kind (.flt fF32) .unscaled .unscaled .rne false false false v).1)

/-- An ensemble whose region a GTLD has filled from the bytes that it reads. -/
def Ensemble.loaded (e : Ensemble) (op : GridOp) (k : Nat) (read : Space × Nat → Byte) : Ensemble :=
  e.writeWords Prod.fst (fun c _ => op.loadedWord (ofBytes (c.2.map read))) (fun _ => false) (op.moveCells e k)

theorem GridOp.moveCells_words (op : GridOp) (e : Ensemble) (k : Nat) :
    (op.moveCells e k).map Prod.fst = (regionOf op.m op.n).map fun x => blockWord op.blk x.1 x.2 := by
  simp only [GridOp.moveCells, regionOf, SProd.sprod, List.product, List.map_flatMap, List.map_map]
  rfl

theorem Ensemble.tileWord_loaded {e : Ensemble} {op : GridOp} (hn : op.n ≤ 64) {k : Nat} {read : Space × Nat → Byte} {c : Nat × List (Space × Nat)}
    (hc : c ∈ op.moveCells e k) : (e.loaded op k read).tileWord c.1 = (op.loadedWord (ofBytes (c.2.map read)), .acc) :=
  Ensemble.tileWord_writeWords (by rw [op.moveCells_words]; exact nodup_regionWords op.blk hn) e hc rfl

/-- A GTLD that its pages let pass fills its region and is done. -/
theorem State.gridMoveOp_loads {s : State} {n : Nat} {e : Ensemble} {op : GridOp} {pas : List (Nat × Nat) × List Nat} (hk : op.kind = .gtld)
    (hs : op.smeared = false) (hw : op.wrote = []) (hsent : op.sent = []) :
    let k := (s.troupe (s.thread op.thread).troupe).k
    s.gridPhys n e ((op.moveCells e k).flatMap (·.2)) { read := true } = .ok pas →
    s.gridMoveOp n e op = ((s.updGrid n fun q => { q with drained := false }).updEns n fun x =>
        { e.loaded op k (s.gridByte e pas.1) with grid := x.grid }).updGrid n fun q =>
      { q with queue := q.queue.drop 1, done := op.seq, unwaited := q.unwaited ++ [op.finds pas.1] } := by
  intro k hp
  have hstore : (op.kind == .gtst) = false := by rw [hk]; decide
  have hl : (op.finds pas.1).latching = false := by
    change (op.isMatrix && !op.reuse) = false
    rw [GridOp.isMatrix, hk]
    rfl
  have hkr : (op.finds pas.1).kind ≠ .rbox := by
    change op.kind ≠ .rbox
    rw [hk]
    decide
  simp only [State.gridMoveOp, hsent, hstore, List.isEmpty_nil, Bool.not_true, Bool.not_false, Bool.false_eq_true, if_false]
  rw [hp]
  exact State.finishOp_undisturbed hl hkr hs hw n

/-! ### The obligation -/

/-- Settles O40: a block that passes enters the queue, a gang that is not complete waits, and the head of the queue steps or moves its region. -/
theorem gridOperations : Obligations.GridOperations := by
  unfold Obligations.GridOperations
  refine ⟨fun s w g d a kind i x op h hi hs hx => ?_, fun s w g d a i x h hi hs hx => ?_, fun s w g d a x h hx => ?_, fun s n e he => ?_⟩
  · intro s1 hop
    obtain ⟨hon, hlen, hkind, hseq⟩ := State.checkOp_ok hop
    refine ⟨hon, hlen, hkind, hseq, fun hgang => ?_, Grid.enter_issued .., Grid.enter_length ..⟩
    simp only [List.mem_cons, Prod.mk.injEq, List.not_mem_nil, or_false] at hi
    rcases hi with ⟨rfl, rfl⟩ | ⟨rfl, rfl⟩ | ⟨rfl, rfl⟩ | ⟨rfl, rfl⟩
    · exact runGang_accepts h hx hs _ (by simpa using hgang) hop
    · exact runGang_accepts h hx hs _ (by simpa using hgang) hop
    · exact runMove_accepts h hx hop
    · exact runMove_accepts h hx hop
  · intro crews _ hmem hl hmore
    simp only [List.mem_cons, List.not_mem_nil, or_false] at hi
    rcases hi with rfl | rfl
    · exact runGang_waits h hx hl hs _ _ hmem hmore
    · exact runGang_waits h hx hl hs _ _ hmem hmore
  · exact ⟨execRboxG_unowned h hx, fun hq h0 h1 h2 h3 hlen hrays hnode hout hroom => execRboxG_enters h hx hq h0 h1 h2 h3 hlen
      (State.scratchRange_of_not_lacks hrays) (State.scratchRange_of_not_lacks hnode) (State.scratchRange_of_not_lacks hout) hroom⟩
  · refine ⟨execGridDrain_runs he, execGridDrain_notes he, fun hq => ⟨execGridStep_nil he hq, execGridMove_nil he hq⟩, fun op rest hq =>
      ⟨fun hr hready => ⟨fun hm hlast hb hs hw hre => ?_, fun pas hm hmore hb hre hn => ?_, fun pas hk hn hs hw hsent hp => ?_⟩,
        execGridStep_idle he hq, execGridMove_idle he hq⟩⟩
    · exact (execGridStep_steps he hq hr hready hm).trans (by rw [State.matrixStep_ends he hm hlast hb hs hw hre]; rfl)
    · intro at_ cols hp vals
      obtain ⟨q, hstep⟩ := State.matrixStep_slice hmore hb hre hp
      refine ⟨_, execGridStep_steps he hq hr hready hm, ?_⟩
      rw [hstep]
      refine ⟨rfl, rfl, rfl, fun m c hlt hc ha => ?_, fun i hi => ?_⟩
      · refine (State.tileWord_updEns he _ _).trans ((Ensemble.tileWord_addedSlice hn hlt hc ha).trans ?_)
        rw [op.nth_rowPlaces e _ _ hlt, op.nth_colPlaces e _ _ (Nat.ne_zero_of_lt hlt) hc]
        rfl
      · exact (State.tileWord_updEns he _ _).trans (Ensemble.tileWord_addedSlice_other hi)
    · refine ⟨_, execGridMove_moves he hq hr hready hk, ?_⟩
      rw [State.gridMoveOp_loads hk hs hw hsent hp]
      have hens (f f' : Ensemble → Ensemble) := State.getElem?_updEns (State.getElem?_updEns he f) f'
      exact ⟨rfl, rfl, congrArg (·.grid.done) (State.ens_updEns (hens _ _) _),
        (congrArg (·.grid.queue) (State.ens_updEns (hens _ _) _)).trans (congrArg (List.drop 1) hq),
        fun c hc => (State.tileWord_updEns (hens _ _) _ _).trans (Ensemble.tileWord_loaded hn hc)⟩

end Sys2Proof.Machine

namespace Sys2Proof.Machine

/-! ## The state after reset (O50; 11_matrix.md R254; 15_system.md R352; 17_platform.md R371, R379) -/

/-- Settles O50: every register named is at its default, which is the value that R352 or R371 gives it. -/
theorem resetState : Obligations.ResetState :=
  ⟨rfl, rfl, ⟨rfl, rfl, rfl, rfl, rfl, rfl, rfl, rfl, rfl, rfl, rfl, rfl, rfl, rfl, rfl, rfl⟩, rfl, rfl, rfl, rfl, rfl⟩

end Sys2Proof.Machine

/-! ## O53: every step is taken (R2, R32, R340)

A meaning answers Fault.unlinkedState only where the state's cur has no place; a turn runs a word only for a thread that has one, and an event needs none. -/

namespace Sys2Proof.Machine

/-- An outcome with a next state: neither a fault nor a refusal. -/
def IsNext (o : Outcome) : Prop := ∃ t, o = .next t

@[simp] theorem isNext_next (s : State) : IsNext (.next s) := ⟨s, rfl⟩

@[simp] theorem isNext_ite (c : Prop) [Decidable c] (x y : Outcome) : IsNext (if c then x else y) ↔ if c then IsNext x else IsNext y := by
  split <;> rfl

/-! ### Words that reach their thread themselves -/

section
variable {s : State} {w : Who} (h : s.whoOf s.cur = some w)
include h

theorem execSleep_next (a : RegField) (g : PredField) : IsNext (execSleep a g s) := by
  simp only [execSleep, h]
  split
  · split <;> simp
  · simp

theorem runMatrix_next (i : Instr) (g : PredField) (check : Who → Except Stop Unit) (done : DWord → List (Nat × Nat) → State → State) :
    IsNext (runMatrix s i g check done) := by
  simp only [runMatrix, h]
  split
  · split <;> simp
  · simp

theorem runFragment_next (store : Bool) (i : Instr) (d a b : RegField) (g : PredField) (one : DWord → Who → State → Except Stop State) :
    IsNext (runFragment store i d a b g one s) := by
  simp only [runFragment, h]
  split
  · simp
  · exact runMatrix_next h ..

theorem runGang_next (i : Instr) (kind : GridKind) (d a : RegField) (g : PredField) : IsNext (runGang i kind d a g s) := by
  simp only [runGang, h]
  split
  · simp
  · split
    · simp
    · split
      · simp
      · split
        · split <;> simp
        · simp

theorem runMove_next (kind : GridKind) (d a : RegField) (g : PredField) : IsNext (runMove kind d a g s) := by
  simp only [runMove, h]
  split
  · simp
  · split
    · simp
    · split <;> simp

theorem execDeriv_next (d a : RegField) (g : PredField) (m : BitVec 1) : IsNext (execDeriv d a g m s) := by
  simp only [execDeriv, h]
  split
  · simp
  · split
    · simp
    · split
      · split <;> simp
      · simp

theorem execTex_next (d a : RegField) (g : PredField) (m : BitVec 2) : IsNext (execTex d a g m s) := by
  simp only [execTex, h]
  split
  · simp
  · split
    · simp
    · split
      · split <;> simp
      · split <;> simp

theorem execEret_next (g : PredField) : IsNext (execEret g s) := by
  simp only [execEret, h]
  split
  · split
    · simp
    · split <;> simp
  · simp

theorem execClause_next (wait : BitVec 12) (a b l : BitVec 4) (y : BitVec 1) : IsNext (execClause wait a b l y s) := by
  simp only [execClause, h]
  split <;> simp

theorem runShuffle_next (mode : Nat) (i : Instr) (d a b : RegField) (g : PredField) : IsNext (runShuffle mode i d a b g s) :=
  runRendezvous_next h ..

theorem runRedux_next (i : Instr) (want : List Tag) (f : HintLatch → List Word → Word) (d a b : RegField) (g : PredField) :
    IsNext (runRedux i want f d a b g s) :=
  runRendezvous_next h ..

theorem runHint_next (f : HintLatch → HintLatch) : IsNext (runHint s f) := by
  simp only [runHint, h, isNext_next]

theorem execYield_next (g : PredField) : IsNext (execYield g s) := by
  simp only [execYield, h, isNext_next]

theorem execIllegalOpcode_next : IsNext (execIllegalOpcode s) := by
  simp only [execIllegalOpcode, h, isNext_next]

end

/-! ### Events -/

theorem runGrant_next (s : State) (tag opc : Nat) (st : Moesi) (data : Unit64) : IsNext (runGrant s tag opc st data) := by
  unfold runGrant
  split
  · simp
  · split <;> simp


/-! ### Messages of the link, and the slots of a flit -/

theorem execCmp_next (tag : Nat) (s : State) : IsNext (execCmp tag s) := by
  dsimp only [execCmp]
  repeat' split
  all_goals exact isNext_next _

theorem execDatu_next (tag : Nat) (data : Unit64) (s : State) : IsNext (execDatu tag data s) := by
  dsimp only [execDatu]
  repeat' split
  all_goals exact isNext_next _

theorem execXlrsp_next (tag : Nat) (present : Bool) (frame : Nat) (size perms : BitVec 3) (policy : BitVec 2) (tracked : Bool) (s : State) :
    IsNext (execXlrsp tag present frame size perms policy tracked s) := by
  dsimp only [execXlrsp]
  repeat' split
  all_goals exact isNext_next _

theorem execPgrsp_next (tag : Nat) (halt : Bool) (s : State) : IsNext (execPgrsp tag halt s) := by
  dsimp only [execPgrsp]
  repeat' split
  all_goals exact isNext_next _

theorem farCmp_next (s : State) (tag : Nat) : IsNext (s.farCmp tag) := by
  unfold State.farCmp
  split
  · split
    · exact execCmp_next tag s
    · exact isNext_next _
  · exact isNext_next _

/-- A message of the host die has its event's meaning, which goes on. -/
theorem deliver_next (s : State) (hd : Nat) (ds : List (BitVec 128)) : IsNext (s.deliver hd ds) := by
  unfold State.deliver
  extract_lets
  split
  case h_9 =>
    split
    · exact isNext_next _
    · split <;> exact isNext_next _
  case h_10 => exact farCmp_next ..
  case h_15 | h_16 | h_17 => exact runGrant_next ..
  case h_18 => exact execDatu_next ..
  case h_19 => exact execXlrsp_next ..
  case h_21 => exact execPgrsp_next ..
  all_goals exact isNext_next _

theorem deliverAll_next (n : Nat) (s : State) : IsNext (s.deliverAll n) := by
  induction n generalizing s with
  | zero => exact isNext_next s
  | succ n ih =>
    unfold State.deliverAll
    split
    · exact isNext_next s
    next hd r _ =>
      extract_lets _ rest
      split
      · exact isNext_next _
      · split
        · exact isNext_next s
        · obtain ⟨t, ht⟩ := deliver_next (rest (r.drop (slotCount hd.toNat - 1))) hd.toNat (r.take (slotCount hd.toNat - 1))
          rw [ht]
          exact ih t

theorem execFlit_next (crcOk recovered : Bool) (slots : List (BitVec 128)) (s : State) : IsNext (execFlit crcOk recovered slots s) := by
  unfold execFlit
  split
  · exact isNext_next s
  · split
    · exact isNext_next _
    · exact deliverAll_next _ _

/-! ### Every instruction -/

/-- Every word goes on for a thread that has its place, by the rule of its group. -/
theorem word_next (i : Instr) (s : State) {w : Who} (hw : s.whoOf s.cur = some w) (hi : isEvent i = false ∨ i = .illegalOpcode) :
    IsNext (exec i s) := by
  unfold exec
  cases i with
  | imul | imulh | imin | iminN | imax | imaxN | and | or | xor | andn | shl | shr | sar | rot | bfx | bfxS | icmp | icmpN | icmpAnd | icmpOr |
  mov | iabs | ineg | not | popc | clz | brev | idot4 | idot4N | idot2 | idot4Sn | shiftiShl | shiftiShr | shiftiSar | shiftiRot | fadd | fsub |
  fmul | fmin | fmax | fcmp | fcmpAnd | fcmpOr | frnd | ffrc | frcp | frsq | fsqrt | fex2 | flg2 | fsin | fcos | hadd2 | hmul2 | hfma2 | hsub2 |
  hmin2 | hmax2 | cvt | cvtHi | cvtN | unpk16 | unpk8 | nop | pset => exact runThread_next hw ..
  | movi | iadd | isub | imad | imadw | iadc | lea | bfi | sel | ptox | xtop | iaddi | andi | ori | ffma | fscl | fdot2 | fcls | hcmp2 | pack16 |
  pack8 | tag | tagq | spcH | spcB | spx | fence | ctest | cpyc | cbinit | cbacq | arrive | await | gridOn | gridOff | gang | opfence | mvtx |
  mprim | mcnt | alloc | free | rdsr | mapHint | mapOff | bkpt | trap | halt | exit | exitS | ld | ldw | ldq | st | stw | stq | lds | ldsq | sts |
  stsq | ldfeK | ldfeC | stfe | ldc | ldmx | stmx | pref | cctlInv | cctlCln | cctlFlush | cctlRange | atomAdd | atomMin | atomMax | atomMinN |
  atomMaxN | atomAnd | atomOr | atomXor | atomExch | atomInc | atomDec | atomFadd | atomHadd2 | redAdd | redMin | redMax | redMinN | redMaxN |
  redAnd | redOr | redXor | redExch | redInc | redDec | redFadd | redHadd2 | atomc | atomc64 | atomq | cpyLd | cpySt | cpygG | cpygS | cpyCb |
  cwait | cbcmt | cbrel | cbwait | qpush | qpop | qpeek | qcfg | rboxG | gwait | tpay | tdisp | visrd | attr | imld | tldi | imst | rbox | rtri |
  rnode | rpin | runpin | rgen | bld | bldq | bldw | wrsr | launch | lwait => exact runWord_next hw ..
  | clause => exact execClause_next hw ..
  | hintImm | hintMod | hintC | hintSched => exact runHint_next hw ..
  | bra | call | ret | brx | callx => exact runJump_next hw ..
  | yield => exact execYield_next hw ..
  | sleep => exact execSleep_next hw ..
  | eret => exact execEret_next hw ..
  | split | join | elect | voteAll | voteAny | voteBallot | voteMatch => exact runRendezvous_next hw ..
  | shflPick | shflRotl | shflRotr | shflSwap => exact runShuffle_next hw ..
  | reduxAdd | reduxMin | reduxMax | reduxOr => exact runRedux_next hw ..
  | bar | ebar => exact runBarrier_next hw ..
  | mma | mmas => exact runMatrix_next hw ..
  | tld | tst => exact runFragment_next hw ..
  | gmma | gmmat => exact runGang_next hw ..
  | gtld | gtst => exact runMove_next hw ..
  | deriv => exact execDeriv_next hw ..
  | tex => exact execTex_next hw ..
  | syscallB | syscallN | syswait => exact runCall_next hw ..
  | illegalOpcode => exact execIllegalOpcode_next hw
  | _ => simp [isEvent, encode] at hi

/-- Every event goes on from any state. Those that branch answer a next state in each branch. -/
theorem event_next (i : Instr) (s : State) (hi : isEvent i = true) (hne : i ≠ .illegalOpcode) : IsNext (exec i s) := by
  unfold exec
  cases i with
  | translationLinkTimeout | acknowledgementTimeout | rds | rdx | upg | rdu | wru | wrc | atoms | wbm | memoryData | snpinv | snpfwds | snpfwdx |
  rspi | rsps | rspfwd | gntack | xlinvcmp | drainDone | registerClear | preemptionRequest | linkTraining | retrainTimeout | xlinv | presentcmp |
  powerOff | powerOn | firmwareVerify | mctrClear | replayRateAdjust | timingError | thermalThrottle | thermalEmergency | sramUncorrectable |
  present | haltRequest | debugHalt | sleepExpiry | issueGapExpiry | regroupHoldExpiry | heatEntryClear | refusalExpiry | cmdNoAction | mboxClear
  | gafferRegisterWrite | queueDisable | memoryIslandPowerUp => exact isNext_next _
  | dats | date | datm => exact runGrant_next ..
  | flit => exact execFlit_next ..
  | cmp => exact execCmp_next ..
  | datu => exact execDatu_next ..
  | xlrsp => exact execXlrsp_next ..
  | pgrsp => exact execPgrsp_next ..
  | illegalOpcode => exact absurd rfl hne
  | submission | queueMap | queueUnmap | placementOpportunity | dependenceWrite | launchCompletion | preemptStarvation | victimSave |
  preemptTimeout | trapEntry | haltLine | contextCreation | descriptorUpdate | syscallDone | lwaitCounter | feWaitExpired | watchdog |
  mapperAnalysis | copyGranuleWrite | gridStep | gridMove | gridDrain | riggerCommand | reclamation | binRecord | shadeThreadFormation | phaseLoss
  | obligationMet | visibilityPoint | functionReady | powerArbitration | queueCreation | contextDestruction =>
    simp only [execSubmission, execQueueMap, execQueueUnmap, execPlacementOpportunity, execDependenceWrite, execLaunchCompletion, execPreemptStarvation,
      execVictimSave, execPreemptTimeout, execTrapEntry, execHaltLine, execContextCreation, execDescriptorUpdate, execSyscallDone, execLwaitCounter,
      execFeWaitExpired, execWatchdog, execMapperAnalysis, execCopyGranuleWrite, execGridStep, execGridMove, execGridDrain, execRiggerCommand,
      execReclamation, execBinRecord, execShadeThreadFormation, execPhaseLoss, execObligationMet, execVisibilityPoint, execFunctionReady,
      execPowerArbitration, execQueueCreation, execContextDestruction]
    repeat' split
    all_goals exact isNext_next _
  | _ => cases hi

/-- Any instruction goes on where the thread that executes has its place. -/
theorem exec_next (i : Instr) {s : State} {w : Who} (hw : s.whoOf s.cur = some w) : IsNext (exec i s) := by
  by_cases hi : isEvent i = true ∧ i ≠ .illegalOpcode
  · exact event_next i s hi.1 hi.2
  · refine word_next i s hw ?_
    rw [not_and_or, Bool.not_eq_true, not_not] at hi
    exact hi

/-! ### A thread keeps its place up to its word -/

/-- Thread k has a place in u: a troupe, an ensemble and a context. -/
def State.HasWho (s : State) (k : Nat) : Prop := ∃ w, s.whoOf k = some w

theorem State.HasWho.of_eq {s u : State} {k : Nat} (h : s.HasWho k) (ht : u.threads = s.threads) (htr : u.troupes = s.troupes)
    (he : u.ensembles = s.ensembles) (hc : u.contexts = s.contexts) : u.HasWho k := by
  obtain ⟨w, hw⟩ := h
  exact ⟨w, by rw [← hw]; simp only [State.whoOf, ht, htr, he, hc]⟩

theorem State.HasWho.updThread {s : State} {k : Nat} (h : s.HasWho k) (j : Nat) {f : Thread → Thread}
    (hf : ∀ t, (f t).troupe = t.troupe ∧ (f t).ens = t.ens) : (s.updThread j f).HasWho k := by
  obtain ⟨w, hw⟩ := h
  obtain ⟨-, ht, htr, he, hc, h1, h2, h3⟩ := s.whoOf_eq k w hw
  rw [h1] at htr
  rw [h2] at he
  rw [h3] at hc
  refine ⟨{ w with k := k, t := if j = k then f w.t else w.t }, ?_⟩
  by_cases hj : j = k <;>
    simp [State.whoOf, getElem?_updateAt, ht, htr, he, hc, hj, hf, h1, h2, h3]

/-- A read that gives bytes changes no list of threads: it fills a core's L1 at most. -/
theorem gather_places {s s1 : State} {k j seq : Nat} {t : Thread} {locs : List Loc} {got : List (Nat × Unit64)} {l1 apart : Bool} {bs : List Byte}
    (h : s.gather j t seq locs got l1 apart = (s1, some bs)) (hp : s.HasWho k) : s1.HasWho k := by
  unfold State.gather at h
  dsimp only at h
  split_ifs at h <;> cases h
  · exact hp
  · exact hp.of_eq rfl rfl rfl rfl

theorem fetchWord_places {s s1 : State} {w : Who} {a : DWord} {n k : Nat} (h : s.fetchWord w a = .ok (s1, n)) (hp : s.HasWho k) :
    s1.HasWho k := by
  unfold State.fetchWord at h
  split at h
  · cases h
  · dsimp only at h
    split_ifs at h
    · split at h
      next hg =>
        cases h
        exact gather_places hg hp
      · cases h
    · cases h
      exact hp
    · cases h
      exact hp.of_eq rfl rfl rfl rfl

theorem fetchUnit_places {w : Who} {k : Nat} (left : Nat) {s s1 : State} {a : DWord} {words : List (DWord × Nat)}
    (h : s.fetchUnit w left a = .ok (s1, words)) (hp : s.HasWho k) : s1.HasWho k := by
  induction left generalizing s a words s1 with
  | zero =>
    cases h
    exact hp
  | succ left ih =>
    unfold State.fetchUnit at h
    obtain ⟨⟨u, n⟩, hw, h⟩ := bind_eq_ok_iff.1 h
    have hu : u.HasWho k := fetchWord_places hw hp
    dsimp only at h
    split_ifs at h
    · obtain ⟨⟨u2, r⟩, hr, h⟩ := bind_eq_ok_iff.1 h
      cases h
      exact ih hr hu
    · cases h
      exact hu

theorem unitAt_places {s s1 : State} {w : Who} {k : Nat} {words : List (DWord × Nat)} (h : s.unitAt w = .ok (s1, words)) (hp : s.HasWho k) :
    s1.HasWho k :=
  fetchUnit_places _ h hp

/-! ### Issuing -/

theorem runInstr_next {s : State} {w : Who} (h : s.HasWho w.k) (i : Instr) : IsNext (s.runInstr exec w i) := by
  obtain ⟨v, hv⟩ := h
  obtain ⟨t, ht⟩ := exec_next i (s := { s with cur := w.k }) hv
  simp only [State.runInstr, ht, isNext_next]

theorem runUnit_next {s : State} {w : Who} (h : s.HasWho w.k) (words : List (DWord × Nat)) : IsNext (s.runUnit exec w words) := by
  unfold State.runUnit
  extract_lets left pc n hit cause later trap
  have hrun := runInstr_next h
  have htrap (c : Cause) (a : DWord) : IsNext (trap c a) := isNext_next _
  split
  · exact isNext_next _
  · split
    · split
      · exact hrun _
      · exact htrap ..
    · exact htrap ..
    · exact hrun _
    · exact htrap ..
    · split
      · exact hrun _
      · exact htrap ..
    · split
      · exact isNext_next _
      · exact hrun _

theorem issueWord_next {s : State} {w : Who} (h : s.HasWho w.k) : IsNext (s.issueWord exec w) := by
  unfold State.issueWord
  split
  · exact isNext_next _
  next s1 words hu =>
    have h1 : s1.HasWho w.k := unitAt_places hu h
    extract_lets fresh
    exact runUnit_next (w := { w with t := fresh w.t }) (h1.updThread w.k (f := fresh) fun _ => ⟨rfl, rfl⟩) words

theorem issueOne_next {s : State} {w : Who} (h : s.HasWho w.k) (ahead : List Nat) : IsNext (s.issueOne exec w ahead) := by
  unfold State.issueOne
  extract_lets s1
  have h1 : s1.HasWho w.k := h.updThread _ fun _ => ⟨rfl, rfl⟩
  split
  · split
    · exact isNext_next _
    · exact runInstr_next h1 _
  · exact issueWord_next h1

theorem issueAll_next (ks : List Nat) (s : State) (ahead : List Nat) : IsNext (s.issueAll exec ks ahead) := by
  induction ks generalizing s ahead with
  | nil => exact isNext_next s
  | cons k r ih =>
    unfold State.issueAll
    split
    · exact ih ..
    next w hw =>
      obtain ⟨hk, -⟩ := s.whoOf_eq k w hw
      obtain ⟨t, ht⟩ := issueOne_next (w := w) (hk ▸ ⟨w, hw⟩ : s.HasWho w.k) ahead
      simp only [ht]
      exact ih ..

theorem issueFragment_next (s : State) (w : Who) : IsNext (s.issueFragment exec w) := by
  unfold State.issueFragment
  extract_lets members ready
  split
  · exact isNext_next _
  · split
    · exact isNext_next _
    · split
      · exact isNext_next _
      · obtain ⟨t, ht⟩ := issueAll_next (members.map (·.2)) (s.takeSlot w (s.issueSlot w)) []
        simp only [State.runFragment, ht, isNext_next]

theorem issue_next (s : State) (k : Nat) : IsNext (s.issue exec k) := by
  unfold State.issue
  split
  · exact isNext_next s
  next w hw =>
    obtain ⟨hk, -⟩ := s.whoOf_eq k w hw
    have hp : s.HasWho w.k := hk ▸ ⟨w, hw⟩
    split
    · exact isNext_next s
    · split
      · exact isNext_next _
      · split
        · exact issueFragment_next s w
        · split
          · exact isNext_next s
          · exact issueOne_next (s := s.takeSlot w (s.issueSlot w)) (hp.of_eq rfl rfl rfl rfl) []

theorem issueBundle_next (s : State) (ks : List Nat) : IsNext (s.issueBundle exec ks) := by
  unfold State.issueBundle
  extract_lets ks'
  split
  · exact isNext_next s
  next w _ =>
    split
    · exact isNext_next s
    · obtain ⟨t, ht⟩ := issueAll_next ks' (s.takeSlot w (s.issueSlot w)) []
      simp only [ht, isNext_next]

/-- Each act goes on: an issue by its thread's place, an event by its own rule, and every other act answers its next state. -/
theorem perform_next (s : State) (a : Act) : IsNext (s.perform exec a) := by
  cases a with
  | issue k => exact issue_next s k
  | bundle ks => exact issueBundle_next s ks
  | event i =>
    simp only [State.perform]
    split
    next hi =>
      rw [Bool.and_eq_true, bne_iff_ne] at hi
      exact event_next i s hi.1 hi.2
    · exact isNext_next s
  | _ => exact isNext_next _

/-- Settles O53: what the turn names moves, and each act answers a next state. -/
theorem everyStepIsTaken : Obligations.EveryStepIsTaken := fun s => perform_next _ s.nextTurn.1.act

end Sys2Proof.Machine

namespace Sys2Proof.Machine

/-! ## Barriers (O32; 12_launch.md R281) -/

/-- The troupe that an update gives. -/
theorem State.troupe_updTroupe {s : State} {n : Nat} {tr : Troupe} (htr : s.troupes[n]? = some tr) (f : Troupe → Troupe) :
    (s.updTroupe n f).troupe n = f tr := by
  simp [State.troupe, nth, List.getD_eq_getElem?_getD, getElem?_updateAt, htr]

theorem State.serveBar_eq {s : State} {n : Nat} {ks arr : List Nat} (hks : (s.troupe n).threads = ks) (ha : (s.troupe n).barrier.arrived = arr) :
    s.serveBar n = if s.completes ks arr
      then (s.updTroupe n fun t => { t with barrier := { arrived := [], phase := t.barrier.phase + 1 } }).leaveBarrier arr .tr (s.troupe n).relStamp
      else s := by
  rw [State.serveBar, hks, ha]

theorem State.serveEbar_eq {s : State} {n : Nat} {arr : List Nat} (ha : (s.ens n).ebar.arrived = arr) :
    s.serveEbar n = if s.completes (s.threadsOf (s.ens n)) arr
      then (s.updEns n fun e => { e with ebar := { arrived := [], phase := e.ebar.phase + 1 } }).leaveBarrier arr .en 0 else s := by
  rw [State.serveEbar, ha]

section
variable {s : State} {w : Who} {g : PredField} (h : Executes s w g)
include h

theorem runBarrier_parks {sc : Scope} (join : Who → State) (hr : s.released w.t sc = false) :
    runBarrier s g sc join = .next (s.stopped w (.park .drain)) := by
  simp [runBarrier, h.1, h.2, hr]

theorem runBarrier_joins {sc : Scope} (join : Who → State) (hr : s.released w.t sc = true) : runBarrier s g sc join = .next (join w) := by
  simp [runBarrier, h.1, h.2, hr]

/-- A release of the thread that executes changes no more of its troupe than what it passes on. -/
theorem State.troupes_passOn : ∃ r, (s.passOn w.k).troupes[w.trI]? = some { w.tr with relStamp := r } := by
  obtain ⟨-, -, htr, -, -, h1, -⟩ := s.whoOf_eq _ w h.1
  refine ⟨max w.tr.relStamp (s.thread w.k).acqStamp, ?_⟩
  have hthread : (s.thread w.k).troupe = w.trI := by rw [s.thread_of_whoOf _ w h.1, h1]
  simp [State.passOn, getElem?_updateAt, htr, hthread]

theorem execArrive_arrives {d : RegField} {x : Fetched} (hx : w.t.fetch [wr1 d] [] = .ok x) (hn : w.k ∉ w.e.sbar.arrived)
    (hr : s.released w.t .en = true) :
    execArrive d g s = (((s.setThread w.k (x.t.setReg d.toNat w.e.sbar.phase .b32)).updEns w.eI fun e =>
      { e with sbar := { e.sbar with arrived := e.sbar.arrived ++ [w.k] } }).serveSplit w.eI).wordDone w :=
  runWord_ok h (by
    have hc : w.e.sbar.arrived.contains w.k = false := by simpa using hn
    simp only [hx, bind, Except.bind, hc, hr]
    rfl)

end

/-- A phase of AWAIT has ended where the barrier's is ahead of it by less than half the words. -/
theorem ahead_iff (v : Word) : (decide (1 ≤ v.toNat) && decide (v.toNat < 2 ^ 31)) = true ↔ v ≠ 0 ∧ v.msb = false := by
  have hz : v ≠ 0 ↔ v.toNat ≠ 0 := by rw [ne_eq, ne_eq, ← BitVec.toNat_inj]; rfl
  have hm : v.msb = false ↔ v.toNat < 2 ^ 31 := by rw [BitVec.msb_eq_decide, decide_eq_false_iff_not, Nat.not_le]
  rw [Bool.and_eq_true, decide_eq_true_eq, decide_eq_true_eq, hz, hm, Nat.one_le_iff_ne_zero]

theorem execAwait_eq {s : State} {w : Who} {g : PredField} (h : Executes s w g) {a : RegField} {x : Fetched} (hx : w.t.fetch [] [rd1 a [.b32]] = .ok x) :
    execAwait a g s = if w.e.sbar.phase - x.v 0 ≠ 0 ∧ (w.e.sbar.phase - x.v 0).msb = false
      then (s.setThread w.k (x.t.acquired .en s.stamp)).wordDone w else .next (s.stopped w (.park .split)) := by
  have hc := ahead_iff (w.e.sbar.phase - x.v 0)
  split
  next ha => exact runWord_ok h (by simp only [hx, bind, Except.bind]; exact if_pos (hc.2 ha))
  next ha => exact runWord_error h (by simp only [hx, bind, Except.bind]; exact if_neg (mt hc.1 ha))

/-- Settles O32: a barrier parks a thread with accesses outstanding, and else serves the arrivals, the thread's own among them. -/
theorem barriers : Obligations.Barriers := by
  unfold Obligations.Barriers
  intro s w g h
  refine ⟨?_, ?_, fun d x hx hn hr => execArrive_arrives h hx hn hr, fun a x hx => execAwait_eq h hx⟩
  · intro arr s1 s2
    obtain ⟨r, hp⟩ := State.troupes_passOn h
    have htr : s2.troupe w.trI = { w.tr with relStamp := r, barrier := { w.tr.barrier with arrived := arr } } :=
      State.troupe_updTroupe (s := s1) hp _
    have hth : (s2.troupe w.trI).threads = w.tr.threads := by rw [htr]
    exact ⟨runBarrier_parks h _, fun hr => (runBarrier_joins h _ hr).trans
      (congrArg _ (State.serveBar_eq hth (congrArg (·.barrier.arrived) htr)))⟩
  · intro arr s1 s2
    obtain ⟨-, -, -, he, -⟩ := s.whoOf_eq _ w h.1
    have hens : s2.ens w.eI = { w.e with ebar := { w.e.ebar with arrived := arr } } := State.ens_updEns (s := s1) he _
    exact ⟨runBarrier_parks h _, fun hr => (runBarrier_joins h _ hr).trans
      (congrArg _ (State.serveEbar_eq (congrArg (·.ebar.arrived) hens)))⟩

end Sys2Proof.Machine

namespace Sys2Proof.Machine

/-! ## BKPT, TRAP, HALT, ERET and unassigned words (O20; 02_encoding.md R32; 15_system.md R344, R345) -/

section
variable {s : State} {w : Who} {g : PredField} (h : Executes s w g)
include h

theorem execBkpt_traps (k : BitVec 7) : execBkpt k g s = s.trapped w .breakpoint 0 ((1#1 ++ k).zeroExtend 64) := by
  have hk : w64 (k.toNat + 128) = (1#1 ++ k).zeroExtend 64 := by
    rw [BitVec.zeroExtend_eq_setWidth, ← BitVec.ofNat_toNat, toNat_append_add, Nat.add_comm k.toNat]
    rfl
  rw [← hk]
  exact runWord_error h rfl

theorem execTrap_traps (k : BitVec 7) : execTrap k g s = s.trapped w .trapInstruction 0 (k.zeroExtend 64) :=
  (runWord_error h rfl).trans (by rw [State.trapped, w64, BitVec.ofNat_toNat])

theorem execHalt_raises : execHalt g s = (s.raiseHalt w.cI
    { index := w.partIndex, cause := .haltRequest, pc := w.t.pc, info := 0x1000, thread := some w.k }).wordDone w :=
  runWord_ok h rfl

theorem execEret_outside (hi : w.t.inHandler = false) : execEret g s = s.trapped w .privilege 0 0 := by
  simp only [execEret, h.1, h.2, hi, if_true, Bool.not_false, State.trapped]

section
variable (hi : w.t.inHandler = true)
include hi

theorem execEret_refused {e : Stop} (ht : checkTarget w.t.hpc = .error e) : execEret g s = .next (s.stopped w e) := by
  simp only [execEret, h.1, h.2, hi, ht, if_true, Bool.not_true, Bool.false_eq_true, if_false]

theorem execEret_returns (ht : checkTarget w.t.hpc = .ok ()) :
    execEret g s = .next ((if w.t.hcause.getLsbD 7 then s.dropOn w.cI w.tr.core else s).setThread w.k { w.t.returnFromHandler with
      gapUntil := if w.t.hints.gap = 0 then none else some (s.clock + w64 w.t.hints.gap) }) := by
  simp only [execEret, h.1, h.2, hi, ht, if_true, Bool.not_true, Bool.false_eq_true, if_false, bitAt_toNat]

end

theorem execIllegalOpcode_traps : execIllegalOpcode s = .next (s.takeTrap w.k .illegalOpcode w.t.pc 0 0) := by
  simp only [execIllegalOpcode, h.1]

end

/-! ### What ERET restores (R344, R41, R42) -/

/-- sr.hpc lies in the saved clause's body. -/
def Thread.HpcInside (t : Thread) : Prop :=
  t.saveClause.header.toNat + 4 ≤ t.hpc.toNat ∧ t.hpc.toNat < t.saveClause.header.toNat + 4 + 4 * t.saveClause.len

section
variable {t : Thread}

theorem returnFromHandler_clause_inside (h : t.HpcInside) :
    t.returnFromHandler.clause = { t.saveClause with pos := (t.hpc.toNat - (t.saveClause.header.toNat + 4)) / 4 } := by
  simp [Thread.returnFromHandler, h.1, h.2]

theorem returnFromHandler_clause_outside (h : ¬t.HpcInside) : t.returnFromHandler.clause = t.clause.atEnd := by
  have hb : ¬(t.saveClause.header.toNat + 4 ≤ t.hpc.toNat ∧ t.hpc.toNat < t.saveClause.header.toNat + 4 + 4 * t.saveClause.len) := h
  simp [Thread.returnFromHandler, hb]

theorem returnFromHandler_hints_interrupted (h : t.HpcInside) (hp : t.hpc.toNat = t.saveClause.header.toNat + 4 + 4 * t.saveClause.pos) :
    t.returnFromHandler.hints = t.saveHints := by
  refine if_pos ?_
  simpa [hp] using And.intro h.1 h.2

theorem returnFromHandler_hints_elsewhere (h : ¬(t.HpcInside ∧ t.hpc.toNat = t.saveClause.header.toNat + 4 + 4 * t.saveClause.pos)) :
    t.returnFromHandler.hints = {} := by
  refine if_neg fun hc => h ?_
  simpa [Thread.HpcInside] using hc

end

/-- Settles O20: each word by its own rule, and what ERET restores by where sr.hpc stands in the saved clause. -/
theorem trapWordsAndReturn : Obligations.TrapWordsAndReturn := by
  unfold Obligations.TrapWordsAndReturn
  refine ⟨fun s w g h => ⟨fun k => ⟨execBkpt_traps h k, execTrap_traps h k⟩, execHalt_raises h, execEret_outside h,
    fun hi hc => execEret_refused h hi (checkTarget_noncanonical hc), fun hi hc h4 => execEret_refused h hi (checkTarget_misaligned hc h4),
    fun hi hc h4 => execEret_returns h hi (checkTarget_legal hc h4), execIllegalOpcode_traps h⟩, fun t => ?_⟩
  intro r body inside
  refine ⟨rfl, rfl, rfl, returnFromHandler_clause_inside, fun ho => ?_, returnFromHandler_hints_interrupted, returnFromHandler_hints_elsewhere,
    bitAt_toNat _ 7, bitAt_toNat _ 8, rfl⟩
  rw [returnFromHandler_clause_outside ho]
  rfl

end Sys2Proof.Machine

namespace Sys2Proof.Machine

/-! ## Taking a trap (O58; 15_system.md R340, R343, R347) -/

/-- A thread that traps: armed for nothing, with its cause, PC, address and value. -/
def Thread.trapping (t : Thread) (c : Cause) (p a i : DWord) : Thread := { t with armStep := false, armSkip := false, status := .trapping c p a i }

theorem Thread.quiet_iff (t : Thread) : t.quiet = true ↔ ∀ f ∈ t.flags, f = 0 := by simp [Thread.quiet]

/-- An entry that is not of this ac stands. -/
theorem Thread.undoEntry_of_old {t : Thread} {now : DWord} (h : ∀ e, t.entry = some e → e.at_ ≠ now) : t.undoEntry now = t := by
  unfold Thread.undoEntry
  split
  · rfl
  next e he => rw [if_pos (by simpa using h e he)]

/-- Undoing an entry leaves the registers, what is outstanding and the arms as they are. -/
theorem Thread.undoEntry_frame (t : Thread) (now : DWord) : let u := t.undoEntry now
    u.regs = t.regs ∧ u.preds = t.preds ∧ u.flags = t.flags ∧ u.rsp = t.rsp ∧ u.fflags = t.fflags ∧ u.stores = t.stores ∧
      u.armStep = t.armStep ∧ u.armSkip = t.armSkip := by
  unfold Thread.undoEntry
  split
  · exact ⟨rfl, rfl, rfl, rfl, rfl, rfl, rfl, rfl⟩
  · split <;> exact ⟨rfl, rfl, rfl, rfl, rfl, rfl, rfl, rfl⟩

section
variable {s : State} {k : Nat} {w : Who} (hw : s.whoOf k = some w) (c : Cause) (p a i : DWord)
include hw

theorem State.takeTrap_halts (hh : w.c.handler = 0 ∨ w.t.inHandler = true) :
    s.takeTrap k c p a i = (s.setThread k (w.t.trapping c p a i)).trapHalts w c p a := by
  have hc : (decide (w.c.handler = 0) || w.t.inHandler) = true := by simpa using hh
  simp only [State.takeTrap, hw, hc, if_true]
  rfl

theorem State.takeTrap_waits (hh : w.c.handler ≠ 0) (hi : w.t.inHandler = false) (hq : w.t.quiet = false ∨ w.c.halt ≠ none) :
    s.takeTrap k c p a i = s.setThread k (w.t.trapping c p a i) := by
  have hc : (decide (w.c.handler = 0) || w.t.inHandler) = false := by rw [decide_eq_false hh, hi]; rfl
  have hg : (w.t.quiet && w.c.halt.isNone) = false := by
    rcases hq with h | h
    · simp [h]
    · rw [Option.isNone_eq_false_iff.2 (Option.isSome_iff_ne_none.2 h), Bool.and_false]
  have hg' : (({ w.t with armStep := false, armSkip := false } : Thread).quiet && w.c.halt.isNone) = false := hg
  simp only [State.takeTrap, hw, hc, hg', Bool.false_eq_true, if_false]
  rfl

/-- The thread that a trap leaves: where it enters its handler it has done so, and else it is trapping, its entry of this ac undone where the trap halts
its context. -/
theorem State.takeTrap_thread_cases :
    (s.takeTrap k c p a i).thread k = ({ w.t with armStep := false, armSkip := false } : Thread).enterHandler s.clock w.c.handler c p a i ∨
      (s.takeTrap k c p a i).thread k = w.t.trapping c p a i ∨ (s.takeTrap k c p a i).thread k = (w.t.trapping c p a i).undoEntry s.clock := by
  have hlt : k < s.threads.length := by
    obtain ⟨hk, -⟩ := s.whoOf_eq k w hw
    exact hk ▸ s.lt_of_whoOf k w hw
  by_cases hh : w.c.handler = 0 ∨ w.t.inHandler = true
  · rw [State.takeTrap_halts hw c p a i hh, State.trapHalts, State.raiseHalt_thread, s.thread_setThread k _ hlt]
    split
    · exact .inr (.inr rfl)
    · exact .inr (.inl rfl)
  · rw [not_or, Bool.not_eq_true] at hh
    by_cases hq : w.t.quiet = false ∨ w.c.halt ≠ none
    · rw [State.takeTrap_waits hw c p a i hh.1 hh.2 hq, s.thread_setThread k _ hlt]
      exact .inr (.inl rfl)
    · rw [not_or, Bool.not_eq_false, not_not] at hq
      rw [State.takeTrap_enter s k w c p a i hw hh.1 hh.2 hq.1 hq.2, s.thread_setThread k _ hlt]
      exact .inl rfl

/-- Another thread stands, but that a halt undoes its entry of this ac. -/
theorem State.takeTrap_thread_other {j : Nat} (hj : j ≠ k) : (s.takeTrap k c p a i).thread j = s.thread j ∨
    (s.takeTrap k c p a i).thread j = (s.thread j).undoEntry s.clock ∧ (w.c.handler = 0 ∨ w.t.inHandler = true) := by
  by_cases hh : w.c.handler = 0 ∨ w.t.inHandler = true
  · exact (s.takeTrap_thread_ne c p a i hj.symm).imp_right fun e => ⟨e, hh⟩
  · rw [not_or, Bool.not_eq_true] at hh
    refine .inl ?_
    by_cases hq : w.t.quiet = false ∨ w.c.halt ≠ none
    · rw [State.takeTrap_waits hw c p a i hh.1 hh.2 hq, s.thread_setThread_ne _ hj.symm]
    · rw [not_or, Bool.not_eq_false, not_not] at hq
      rw [State.takeTrap_enter s k w c p a i hw hh.1 hh.2 hq.1 hq.2, s.thread_setThread_ne _ hj.symm]

/-- The context of a trap that halts is halted from now on, by the thread's partition alone. -/
theorem State.takeTrap_halted (hh : w.c.handler = 0 ∨ w.t.inHandler = true) (hn : w.c.halt = none) :
    ((s.takeTrap k c p a i).ctx w.cI).halt = some s.clock ∧ ((s.takeTrap k c p a i).ctx w.cI).raisers =
      [{ index := w.partIndex, cause := c, pc := p, addr := a, thread := some k, mapped := s.isMapped w.tr.core k }] := by
  obtain ⟨hk, -, -, -, hc, -⟩ := s.whoOf_eq k w hw
  have hctx : (s.takeTrap k c p a i).ctx w.cI = w.c.raise s.clock
      { index := w.partIndex, cause := c, pc := p, addr := a, thread := some w.k, mapped := s.isMapped w.tr.core w.k } := by
    rw [State.takeTrap_halts hw c p a i hh]
    simp [State.trapHalts, State.raiseHalt, State.ctx, nth, List.getD_eq_getElem?_getD, getElem?_updateAt, hc, State.isMapped, State.core]
  rw [hctx, Ctx.raise, hn, hk]
  exact ⟨rfl, rfl⟩

end

/-- Settles O58: the trap enters the handler, waits or halts, and each leaves the rest alone. -/
theorem trapTaken : Obligations.TrapTaken := by
  unfold Obligations.TrapTaken
  intro s k w c p a i hw t n
  have hlt : k < s.threads.length := by
    obtain ⟨hk, -⟩ := s.whoOf_eq k w hw
    exact hk ▸ s.lt_of_whoOf k w hw
  refine ⟨?_, fun hh hi hf hl => ?_, fun hh hi hf => ?_, fun hh he => ?_⟩
  · have hn : n.regs = w.t.regs ∧ n.preds = w.t.preds ∧ n.flags = w.t.flags ∧ n.rsp = w.t.rsp ∧ n.fflags = w.t.fflags ∧ n.stores = w.t.stores ∧
        n.armStep = false ∧ n.armSkip = false := by
      rcases State.takeTrap_thread_cases hw c p a i with e | e | e <;> simp only [n, t, e]
      · exact ⟨rfl, rfl, rfl, rfl, rfl, rfl, rfl, rfl⟩
      · exact ⟨rfl, rfl, rfl, rfl, rfl, rfl, rfl, rfl⟩
      · exact (w.t.trapping c p a i).undoEntry_frame s.clock
    obtain ⟨h1, h2, h3, h4, h5, h6, h7, h8⟩ := hn
    exact ⟨h1, h2, h3, h4, h5, h6, h7, h8, s.takeTrap_mem .., s.takeTrap_troupes .., s.takeTrap_ensembles ..,
      fun j hj => State.takeTrap_thread_other hw c p a i hj⟩
  · have ht : t = s.setThread k _ := State.takeTrap_enter s k w c p a i hw hh hi (w.t.quiet_iff.2 hf) hl
    have hn : n = _ := (congrArg (State.thread · k) ht).trans (s.thread_setThread k _ hlt)
    rw [hn, ht]
    exact ⟨rfl, rfl, rfl, rfl, rfl, rfl, rfl, rfl, rfl, Nat.sub_self _, rfl, rfl⟩
  · have hq : w.t.quiet = false := by
      rw [← Bool.not_eq_true, Thread.quiet_iff]
      simpa using hf
    have ht : t = s.setThread k _ := State.takeTrap_waits hw c p a i hh hi (.inl hq)
    have hn : n = _ := (congrArg (State.thread · k) ht).trans (s.thread_setThread k _ hlt)
    rw [hn, ht]
    exact ⟨rfl, rfl, rfl⟩
  · have hn : n = w.t.trapping c p a i := by
      have hu : (w.t.trapping c p a i).undoEntry s.clock = w.t.trapping c p a i := Thread.undoEntry_of_old he
      simp only [n, t, State.takeTrap_halts hw c p a i hh, State.trapHalts, State.raiseHalt_thread, s.thread_setThread k _ hlt]
      rw [State.setThread_clock, hu, ite_self]
    rw [hn]
    exact ⟨rfl, rfl, rfl, rfl, State.takeTrap_halted hw c p a i hh⟩

end Sys2Proof.Machine

namespace Sys2Proof.Machine

/-! ## Special registers (O29; 15_system.md R351, R352) -/

/-- A number in a pair of registers is its 64-bit word there. -/
theorem setWide_two_eq_pairSet (t : Thread) (d : RegField) (v : Nat) : t.setWide d.toNat 2 v .b32 = t.pairSet d (w64 v) := by
  have hlow : w32 v = (w64 v).truncate 32 := BitVec.eq_of_toNat_eq (by simp [w32, w64])
  have hhigh : w32 (v / 2 ^ 32) = (w64 v >>> 32).truncate 32 :=
    BitVec.eq_of_toNat_eq (by simp [w32, w64, Nat.shiftRight_eq_div_pow]; omega)
  rw [Thread.setWide, toWords, toWords, toWords, hlow, hhigh]
  rfl

theorem w64_toNat (v : DWord) : w64 v.toNat = v := BitVec.ofNat_toNat 64 v |>.trans (BitVec.setWidth_eq v)

theorem srWide_iff (n : Nat) : srWide n = true ↔ n ∈ [8, 14, 15, 18, 19, 20] := List.contains_iff_mem

/-! ### The effect of WRSR -/

/-- A register that no write reaches: the read-only ones and the numbers from 22. -/
theorem State.srWrite_refused (s : State) (w : Who) {m : Nat} (hm : m < 9 ∨ m = 11 ∨ m = 13 ∨ 22 ≤ m) (v : Nat) : s.srWrite w m v = fail .specialRegister := by
  unfold State.srWrite
  split
  case h_12 => rfl
  all_goals omega

theorem bitAt_zero_iff (v : Nat) : bitAt v 0 = true ↔ v % 2 = 1 := by simp [bitAt]

theorem State.srWrite_fmode (s : State) (w : Who) (v : Nat) : s.srWrite w 9 v = if slice v 13 19 == 0 && slice v 3 5 == 0
    then .ok ((s.updThread w.k fun t => { t with fmode := w32 v }).dropOn w.cI w.tr.core) else fail .specialRegister := by
  show Except.map _ (if _ then _ else _) = _
  split <;> rfl

theorem State.srWrite_mapctl (s : State) (w : Who) (v : Nat) : s.srWrite w 16 v =
    if slice v 12 20 == 0 && slice v 6 2 == 0 && slice v 3 1 == 0 && slice v 4 2 != 3
    then .ok ((if v % 2 = 1 then (s.dropAll w.cI).chill w.cI fun _ => true else s.dropAll w.cI).updCtx w.cI fun c => { c with
      mapctl := w32 (putSlice v 2 1 (slice c.mapctl.toNat 2 1)) }) else fail .specialRegister := by
  simp only [State.srWrite, bitAt_zero_iff]

/-! ### RDSR -/

section
variable {s : State} {w : Who} {g : PredField} {d n : RegField} {x : Fetched} (h : Executes s w g)
include h

section
variable (hx : w.t.fetch [if srWide n.toNat then wr2 d else wr1 d] [] = .ok x)
include hx

theorem execRdsr_refused (hn : 22 ≤ n.toNat) : execRdsr d n g s = s.trapped w .specialRegister 0 0 :=
  runWord_error h (by
    simp only [hx, bind, Except.bind, require_of_false (decide_eq_false (Nat.not_lt.2 hn))])

theorem execRdsr_narrow (hn : n.toNat < 22) (hs : srWide n.toNat = false) :
    execRdsr d n g s = (s.updThread w.k fun t => t.setReg d.toNat (w32 (s.srRead w n.toNat)) .b32).wordDone w :=
  runWord_ok h (by
    simp only [hx, bind, Except.bind, require_of_true (decide_eq_true hn)]
    rw [hs]
    rfl)

theorem execRdsr_wide (hn : n.toNat < 22) (hs : srWide n.toNat = true) :
    execRdsr d n g s = (s.updThread w.k fun t => t.pairSet d (w64 (s.srRead w n.toNat))).wordDone w :=
  runWord_ok h (by
    simp only [hx, bind, Except.bind, require_of_true (decide_eq_true hn)]
    rw [hs, if_pos rfl]
    simp only [setWide_two_eq_pairSet])

end

/-! ### WRSR -/

section
variable {a : RegField} (hx : w.t.fetch [] [if srWide n.toNat then rd2 a [] else rd1 a []] = .ok x)
include hx

theorem execWrsr_refused (he : s.srWrite w n.toNat (x.n 0) = fail .specialRegister) : execWrsr n a g s = s.trapped w .specialRegister 0 0 :=
  runWord_error h (by simp only [hx, bind, Except.bind, he]; rfl)

/-- A write that its register's rule accepts is done, and one that it rejects traps. -/
theorem execWrsr_ite {s' : State} {b : Bool} {c : Prop} [Decidable c] (he : s.srWrite w n.toNat (x.n 0) = if b then .ok s' else fail .specialRegister)
    (hb : b = true ↔ c) : if c then execWrsr n a g s = s'.wordDone w else execWrsr n a g s = s.trapped w .specialRegister 0 0 := by
  split
  next hc => exact runWord_ok h (by simp only [hx, bind, Except.bind, he, hb.2 hc, if_true])
  next hc => exact execWrsr_refused h hx (by rw [he, if_neg (mt hb.1 hc)])

end
end

/-- Settles O29: each register number has its arm of RDSR and of WRSR. -/
theorem specialRegisters : Obligations.SpecialRegisters := by
  unfold Obligations.SpecialRegisters
  refine ⟨fun s w g d n x h hx => ?_, fun s w g n a x h hx => ?_⟩
  · simp only [← srWide_iff] at hx
    refine ⟨execRdsr_refused h hx, fun v hv => ?_, fun v hv => ?_⟩
    · simp only [List.mem_cons, Prod.mk.injEq, List.not_mem_nil, or_false] at hv
      have hn : n.toNat < 22 := by omega
      have hs : srWide n.toNat = false := by
        rw [Bool.eq_false_iff, Ne, srWide_iff]
        simp only [List.mem_cons, List.not_mem_nil, or_false]
        omega
      have hv' : s.srRead w n.toNat = v := by
        rcases hv with ⟨e, rfl⟩ | ⟨e, rfl⟩ | ⟨e, rfl⟩ | ⟨e, rfl⟩ | ⟨e, rfl⟩ | ⟨e, rfl⟩ | ⟨e, rfl⟩ | ⟨e, rfl⟩ | ⟨e, rfl⟩ | ⟨e, rfl⟩ | ⟨e, rfl⟩ | ⟨e, rfl⟩ |
          ⟨e, rfl⟩ | ⟨e, rfl⟩ | ⟨e, rfl⟩ | ⟨e, rfl⟩ <;> rw [e] <;> rfl
      rw [← hv']
      exact execRdsr_narrow h hx hn hs
    · simp only [List.mem_cons, Prod.mk.injEq, List.not_mem_nil, or_false] at hv
      have hs : srWide n.toNat = true := by
        rw [srWide_iff]
        simp only [List.mem_cons, List.not_mem_nil, or_false]
        omega
      have hv' : w64 (s.srRead w n.toNat) = v := by
        rcases hv with ⟨e, rfl⟩ | ⟨e, rfl⟩ | ⟨e, rfl⟩ | ⟨e, rfl⟩ | ⟨e, rfl⟩ | ⟨e, rfl⟩ <;> rw [e] <;> exact w64_toNat _
      rw [← hv']
      exact execRdsr_wide h hx (by omega) hs
  · simp only [← srWide_iff] at hx
    intro v bad puts
    refine ⟨fun hn => ?_, ?_, ?_, ?_, ?_, ?_, ?_, ?_, ?_, ?_, ?_, ?_⟩
    · refine execWrsr_refused h hx (s.srWrite_refused w ?_ _)
      rcases hn with hn | rfl | rfl | hn
      · exact .inl hn
      · exact .inr (.inl rfl)
      · exact .inr (.inr (.inl rfl))
      · exact .inr (.inr (.inr hn))
    · rintro rfl
      exact execWrsr_ite h hx (s.srWrite_fmode w _) (by simp [v])
    · rintro rfl
      exact execWrsr_ite h hx rfl beq_iff_eq
    · rintro rfl
      exact execWrsr_ite h hx rfl (by simp [v])
    · rintro rfl
      exact execWrsr_ite h hx rfl beq_iff_eq
    · rintro rfl
      exact execWrsr_ite h hx rfl beq_iff_eq
    · rintro rfl
      exact execWrsr_ite h hx (s.srWrite_mapctl w _) (by simp [v, and_assoc])
    · rintro rfl
      exact execWrsr_ite h hx rfl (by simp [v, and_assoc])
    · rintro rfl
      exact execWrsr_ite h hx rfl Iff.rfl
    · rintro rfl
      exact execWrsr_ite h hx rfl Iff.rfl
    · rintro rfl
      exact execWrsr_ite h hx rfl Iff.rfl
    · rintro rfl
      exact execWrsr_ite h hx rfl beq_iff_eq

end Sys2Proof.Machine

namespace Sys2Proof.Machine

/-! ## The device heap (O31; 15_system.md R357) -/

/-- What a heap access may meet in damaged metadata, as R357's choice: HEAP_CORRUPT at a place in the heap, or nothing. -/
def State.heapChecked (s : State) (w : Who) (o : Outcome) : Outcome :=
  if w.c.heapHurt = true ∧ Config.choice (s.freshKey 200) % 2 = 1
  then s.trapped w .heapCorrupt (w64 (w.c.heapPlace (Config.choice (s.freshKey 200) / 2))) 0 else o

section
variable {s : State} {w : Who} {g : PredField} {d a : RegField} {x : Fetched} (h : Executes s w g)
include h

/-- A word that reads the metadata and then ends in s' does so where it finds no damage. -/
theorem runWord_heapChecked {body : Who → Except Stop State} {s' : State} (hb : body w = (do s.readMetadata w; .ok s')) :
    runWord s g body = s.heapChecked w (s'.wordDone w) := by
  unfold State.heapChecked
  split
  next hd =>
    have hm : s.readMetadata w = failAt .heapCorrupt (w.c.heapPlace (Config.choice (s.freshKey 200) / 2)) := if_pos (by simpa using hd)
    exact runWord_error h (by rw [hb, hm]; rfl)
  next hd =>
    have hm : s.readMetadata w = .ok () := if_neg (by simpa using hd)
    exact runWord_ok h (by rw [hb, hm]; rfl)

section
variable (hx : w.t.fetch [wr2 d] [rd1 a [.b32]] = .ok x)
include hx

theorem execAlloc_zero (hz : x.v 0 = 0) : execAlloc d a g s = s.threadDone w (x.t.pairSet d 0) :=
  runWord_ok h (by
    simp only [hx, bind, Except.bind, hz, setWide_two_eq_pairSet]
    rfl)

variable (hz : x.v 0 ≠ 0)
include hz

theorem execAlloc_unsupplied (hf : w.c.blockFits (w.c.heapPlace (Config.choice s.moves)) (x.v 0).toNat = false) :
    execAlloc d a g s = s.heapChecked w (s.threadDone w (x.t.pairSet d 0)) :=
  runWord_heapChecked h (by
    have hn : (x.v 0).toNat ≠ 0 := fun hc => hz (BitVec.eq_of_toNat_eq hc)
    simp only [hx, bind, Except.bind, hn, hf, if_false, decide_false, Bool.not_false, Bool.or_true, if_true, setWide_two_eq_pairSet]
    rfl)

theorem execAlloc_supplied (hf : w.c.blockFits (w.c.heapPlace (Config.choice s.moves)) (x.v 0).toNat = true)
    (ha : s.heapAccess w (w.c.heapPlace (Config.choice s.moves)) = .ok ()) :
    execAlloc d a g s = s.heapChecked w
      (((s.setThread w.k ((x.t.pairSet d (w64 (w.c.heapPlace (Config.choice s.moves)))).acquired .dv s.stamp)).updCtx w.cI fun c =>
        { c with heap := c.heap ++ [{ base := w.c.heapPlace (Config.choice s.moves), size := (x.v 0).toNat }] }).wordDone w) :=
  runWord_heapChecked h (by
    have hn : (x.v 0).toNat ≠ 0 := fun hc => hz (BitVec.eq_of_toNat_eq hc)
    simp only [hx, bind, Except.bind, hn, hf, ha, if_false, decide_false, Bool.not_true, Bool.or_false, Bool.false_eq_true, setWide_two_eq_pairSet])

end

section
variable (hx : w.t.fetch [] [rd2 a [.b32]] = .ok x)
include hx

theorem execFree_zero (hz : x.n 0 = 0) : execFree a g s = s.threadDone w x.t :=
  runWord_ok h (by simp only [hx, bind, Except.bind, hz, if_true])

variable (hz : x.n 0 ≠ 0)
include hz

theorem execFree_unallocated (hb : ∀ b ∈ w.c.heap, b.base ≠ x.n 0) : execFree a g s = s.trapped w .heapCorrupt (w64 (x.n 0)) 0 :=
  runWord_error h (by
    have hany : (w.c.heap.any fun b => b.base == x.n 0) = false := by simpa using hb
    simp only [hx, bind, Except.bind, hz, hany]
    rfl)

theorem execFree_ends (hb : ∃ b ∈ w.c.heap, b.base = x.n 0) (ha : s.heapAccess w (x.n 0) = .ok ()) (hr : s.released w.t .dv = true) :
    execFree a g s = s.heapChecked w (((s.setThread w.k x.t).updCtx w.cI fun c =>
      { c with heap := c.heap.filter fun b => b.base != x.n 0 }).wordDone w) :=
  runWord_heapChecked h (by
    have hany : (w.c.heap.any fun b => b.base == x.n 0) = true := by simpa using hb
    simp only [hx, bind, Except.bind, hz, hany, ha, hr]
    rfl)

end
end

theorem le_alignUp (n : Nat) : n ≤ alignUp n 16 := by
  unfold alignUp
  omega

/-- A place where a block may stand. -/
theorem Ctx.blockFits_bounds {c : Ctx} {at_ n : Nat} (h : c.blockFits at_ n = true) : at_ % 16 = 0 ∧ 0 < at_ ∧ c.field 56 0 64 ≤ at_ ∧
    at_ + n ≤ c.field 56 0 64 + c.field 64 0 64 ∧ (c.heapHurt = false → ∀ b ∈ c.heap, at_ + n ≤ b.base ∨ b.base + b.size ≤ at_) := by
  simp only [Ctx.blockFits, Bool.and_eq_true, beq_iff_eq, decide_eq_true_eq, Bool.or_eq_true, List.all_eq_true] at h
  obtain ⟨⟨⟨⟨hal, hpos⟩, hlo⟩, hhi⟩, happart⟩ := h
  have hn := le_alignUp n
  refine ⟨hal, hpos, hlo, by omega, fun hh b hb => ?_⟩
  have hs := le_alignUp b.size
  rcases (happart.resolve_left (by simp [hh])) b hb with hx | hx
  · exact .inl (by omega)
  · exact .inr (by omega)

/-- Settles O31: what the heap supplies and takes back, and the bounds of every block. -/
theorem deviceHeap : Obligations.DeviceHeap := by
  unfold Obligations.DeviceHeap
  intro s w g d a h found damaged checked
  refine ⟨fun x hx => ⟨execAlloc_zero h hx, execAlloc_unsupplied h hx, execAlloc_supplied h hx⟩,
    fun x hx => ⟨execFree_zero h hx, execFree_unallocated h hx, execFree_ends h hx⟩, fun c at_ n => Ctx.blockFits_bounds⟩

end Sys2Proof.Machine

namespace Sys2Proof.Machine

/-! ## System calls (O30; 15_system.md R354 to R356) -/

section
variable {s : State} {w : Who} {g : PredField} {body : Who → Except Stop State} (h : Executes s w g)
include h

theorem runCall_ok {s' : State} (hb : body w = .ok s') : runCall s g body = s'.wordDone w := by
  simp only [runCall, h.1, h.2, hb, if_true, State.wordDone]

theorem runCall_error {e : Stop} (hb : body w = .error e) : runCall s g body = .next (s.callTrapped w e) := by
  simp only [runCall, h.1, h.2, hb, if_true]

end

/-! ### Waiting for a call (R355) -/

/-- STATUS in a slot's bytes. -/
def slotStatus (b : List Byte) : Nat := ofBytes ((b.drop 56).take 4)

/-- The slot's bytes are those of a call: its ID stands in them (R354). -/
def Call.Owns (c : Call) (b : List Byte) : Prop := ofBytes (b.take 8) = c.id.toNat

/-- The state in which a call has its answer: result and STATUS in the quad from d, IDLE stored in the slot, an acquire at .SY (R355). -/
def State.callAnswered (w : Who) (d : RegField) (p : Placed) (s1 : State) (b : List Byte) : State :=
  let result := ofBytes ((b.drop 48).take 8)
  let idle : PendingStore := { seq := 0, bytes := storeOf ((p.locs.drop 56).take 4) (toBytes 0 4), scope := .sy, born := s1.moves }
  s1.updThread w.k fun t => { ((t.setRegs d.toNat [w32 result, w32 (result / 2 ^ 32), w32 (slotStatus b), 0] .b32).pushStore
    idle).acquired .sy s1.stamp with call := none }

section
variable {s s1 : State} {w : Who} {c : Call} {d : RegField} {p : Placed} {b : List Byte}
  (hp : s.checkGlobal w (w.c.slotAddr c.slot) 64 1 { read := true, write := true } false = .ok p)
  (hr : ({ s with viaL1 := false } : State).readNow w p.locs = .ok (s1, b))
include hp hr

theorem callWait_owned (ho : c.Owns b) (hs : slotStatus b < 5) : s.callWait w c d =
    if (decide (slotStatus b = 3) || decide (slotStatus b = 4)) = true then .ok (State.callAnswered w d p s1 b) else .error (.park .syscall) := by
  have hid : (ofBytes (b.take 8) != c.id.toNat) = false := bne_eq_false_iff_eq.2 ho
  have hlt : decide (5 ≤ ofBytes ((b.drop 56).take 4)) = false := decide_eq_false (Nat.not_le.2 hs)
  simp only [State.callWait, State.slotPlaces, hp, hr, bind, Except.bind, hid, hlt, Bool.or_false, Bool.false_eq_true, if_false]
  by_cases hd : (decide (slotStatus b = 3) || decide (slotStatus b = 4)) = true
  · rw [if_pos hd]
    unfold slotStatus at hd
    simp only [hd, if_true]
    rfl
  · rw [if_neg hd]
    unfold slotStatus at hd
    simp only [hd, Bool.false_eq_true, if_false]

theorem callWait_answered (ho : c.Owns b) (hs : slotStatus b ∈ [3, 4]) : s.callWait w c d = .ok (State.callAnswered w d p s1 b) := by
  have hst : slotStatus b = 3 ∨ slotStatus b = 4 := by simpa using hs
  rw [callWait_owned hp hr ho (by omega), if_pos (by simpa using hst)]

theorem callWait_parks (ho : c.Owns b) (hs : slotStatus b ∈ [0, 1, 2]) : s.callWait w c d = .error (.park .syscall) := by
  have hst : slotStatus b = 0 ∨ slotStatus b = 1 ∨ slotStatus b = 2 := by simpa using hs
  rw [callWait_owned hp hr ho (by omega), if_neg (by simp; omega)]

theorem callWait_refused (hs : ¬c.Owns b ∨ 5 ≤ slotStatus b) : s.callWait w c d = .error (.trap .syscallSlot 0 4 0) := by
  have hbad : (decide (5 ≤ ofBytes ((b.drop 56).take 4)) || ofBytes (b.take 8) != c.id.toNat) = true := by
    rcases hs with hs | hs
    · rw [bne_iff_ne.2 hs, Bool.or_true]
    · rw [decide_eq_true (show 5 ≤ ofBytes ((b.drop 56).take 4) from hs), Bool.true_or]
  simp only [State.callWait, State.slotPlaces, hp, hr, bind, Except.bind, hbad, if_true]
  rfl

end

/-- What a word that waits for call c answers, by what stands in the call's slot. -/
theorem runCall_waits {s : State} {w : Who} {g : PredField} {body : Who → Except Stop State} (h : Executes s w g) {c : Call} {d : RegField}
    (hb : body w = s.callWait w c d) (p : Placed) (s1 : State) (b : List Byte)
    (hslot : s.checkGlobal w (w.c.slotAddr c.slot) 64 1 { read := true, write := true } false = .ok p ∧
      ({ s with viaL1 := false } : State).readNow w p.locs = .ok (s1, b)) :
    (c.Owns b → slotStatus b ∈ [3, 4] → runCall s g body = (State.callAnswered w d p s1 b).wordDone w) ∧
    (c.Owns b → slotStatus b ∈ [0, 1, 2] → runCall s g body = .next (s.stopped w (.park .syscall))) ∧
    (¬c.Owns b ∨ 5 ≤ slotStatus b → runCall s g body = .next (s.callTrapped w (.trap .syscallSlot 0 4 0))) :=
  ⟨fun ho hs => runCall_ok h (hb.trans (callWait_answered hslot.1 hslot.2 ho hs)),
    fun ho hs => runCall_error h (hb.trans (callWait_parks hslot.1 hslot.2 ho hs)),
    fun hs => runCall_error h (hb.trans (callWait_refused hslot.1 hslot.2 hs))⟩

/-! ### Posting a call (R354) -/

/-- The store of n bytes at the slot's word i. -/
def slotPart (p : Placed) (born i n : Nat) (bs : List Byte) (ord : Order) : PendingStore :=
  { seq := 0, bytes := storeOf ((p.locs.drop (8 * i)).take n) bs, order := ord, scope := .sy, born := born }

/-- The store of argument i of a call: two of the registers that x has read. -/
def slotArg (p : Placed) (born : Nat) (x : Fetched) (i : Nat) : PendingStore :=
  slotPart p born i 8 (toBytes (ofWords (((x.ws 1).drop (2 * i - 2)).take 2)) 8) .rlx

/-- A thread that has posted a call: its ID, the arguments, and last, as a release, the rest of the slot. -/
def Thread.posted (t : Thread) (p : Placed) (born : Nat) (id : DWord) (x : Fetched) : Thread :=
  ((((((t.pushStore (slotPart p born 0 8 (toBytes id.toNat 8) .rlx)).pushStore (slotArg p born x 1)).pushStore (slotArg p born x 2)).pushStore
    (slotArg p born x 3)).pushStore (slotArg p born x 4)).pushStore (slotArg p born x 5)).pushStore
      (slotPart p born 6 16 (toBytes 0 8 ++ toBytes 1 4 ++ toBytes (x.n 0) 4) .rel)

/-- The registers that a SYSCALL may write: the twelve from x[a], and for .B the quad of its answer. -/
def callDsts (a : RegField) : Option RegField → List Grp
  | some d => [⟨a.toNat, 12, 4⟩, wr4 d]
  | none => [⟨a.toNat, 12, 4⟩]

section
variable {s : State} {w : Who} {d : RegField} {a : RegField} {x : Fetched}

section
variable (hx : w.t.fetch (callDsts a (some d)) [.regs a.toNat 1 1 [], .regs (a.toNat + 2) 10 1 []] = .ok x)
include hx

theorem syscallBody_waits {c : Call} (hc : w.t.call = some c) (hw : c.waiting = true) : syscallBody (some d) a s w = s.callWait w c d := by
  rw [callDsts] at hx
  simp only [syscallBody, hx, bind, Except.bind, hc, hw, if_true]

theorem syscallBody_second {c : Call} (hc : w.t.call = some c) (hw : c.waiting = false) :
    syscallBody (some d) a s w = .error (.trap .syscallSlot 0 2 0) := by
  rw [callDsts] at hx
  simp only [syscallBody, hx, bind, Except.bind, hc, hw]
  rfl

theorem syscallBody_unclaimed (hc : w.t.call = none) (hcs : w.t.callSlot = none) (hf : w.c.freeSlot (Config.choice s.moves) = none) :
    syscallBody (some d) a s w = .error (.trap .syscallSlot 0 1 0) := by
  rw [callDsts] at hx
  simp only [syscallBody, hx, bind, Except.bind, hc, hcs, hf]
  rfl

end

theorem syscallBody_sent (hx : w.t.fetch (callDsts a none) [.regs a.toNat 1 1 [], .regs (a.toNat + 2) 10 1 []] = .ok x)
    {c : Call} (hc : w.t.call = some c) (hw : c.waiting = true)
    (hs : ∀ p ∈ w.t.stores, ¬(p.order = .rel ∧ p.scope = .sy ∧ p.bytes.length = 16)) :
    syscallBody none a s w = .ok (s.updThread w.k fun t => { t with call := some { c with waiting := false } }) := by
  have hany : (w.t.stores.any fun p => p.order == .rel && p.scope == .sy && p.bytes.length == 16) = false := by
    simpa [and_assoc] using hs
  rw [callDsts] at hx
  simp only [syscallBody, hx, bind, Except.bind, hc, hw, hany]
  rfl

theorem syscallBody_posts {e : Option RegField} (hx : w.t.fetch (callDsts a e) [.regs a.toNat 1 1 [], .regs (a.toNat + 2) 10 1 []] = .ok x)
    {slot : Nat} {p : Placed} (hc : w.t.call = none)
    (hslot : w.t.callSlot = some slot ∨ (w.t.callSlot = none ∧ w.c.freeSlot (Config.choice s.moves) = some slot))
    (hp : s.checkGlobal w (w.c.slotAddr slot) 64 1 { write := true } false = .ok p) (hl : p.locs.length = 64) :
    syscallBody e a s w = .error (.hold ((s.updThread w.k fun t => { t.posted p s.moves w.c.nextCall x with
        callSlot := some slot, call := some { slot := slot, id := w.c.nextCall, waiting := true } }).updCtx w.cI fun c => { c with
        nextCall := c.nextCall + 1, callSlots := if c.callSlots.contains slot then c.callSlots else c.callSlots ++ [slot] })
      (.parked .syscall s.clock)) := by
  have hlast : (p.locs.drop 48).take 16 = p.locs.drop 48 := List.take_of_length_le (by simp [hl])
  rcases hslot with hcs | ⟨hcs, hf⟩
  · cases e
    all_goals
      rw [callDsts] at hx
      simp only [syscallBody, hx, bind, Except.bind, hc, hcs, State.slotPlaces, hp, Thread.posted, slotPart, slotArg, hlast]
      rfl
  · cases e
    all_goals
      rw [callDsts] at hx
      simp only [syscallBody, hx, bind, Except.bind, hc, hcs, hf, State.slotPlaces, hp, Thread.posted, slotPart, slotArg, hlast]
      rfl

end

/-- Settles O30: what the thread has outstanding decides what a system call does, and what its slot holds decides what a wait does. -/
theorem systemCalls : Obligations.SystemCalls := by
  unfold Obligations.SystemCalls
  intro s w g d a h both slot status own answered waits args quads
  refine ⟨fun x hx => ⟨fun c hc hw => runCall_waits h (syscallBody_waits hx hc hw),
      fun c hc hw => runCall_error h (syscallBody_second hx hc hw), fun hc hcs hf => runCall_error h (syscallBody_unclaimed hx hc hcs hf)⟩,
    fun x c hx hc hw hs => runCall_ok h (syscallBody_sent hx hc hw hs),
    fun x hx => ⟨fun c hc => runCall_waits h (by simp only [hx, bind, Except.bind, hc]),
      fun hc => runCall_error h (by simp only [hx, bind, Except.bind, hc]; rfl)⟩, ?_⟩
  intro i x slot p hi hc hslot hp id part arg last posted hl
  simp only [List.mem_cons, Prod.mk.injEq, List.not_mem_nil, or_false] at hi
  rcases hi with ⟨rfl, hx⟩ | ⟨rfl, hx⟩
  · exact runCall_error h (syscallBody_posts (e := some d) hx hc hslot hp hl)
  · rw [if_pos rfl] at hx
    exact runCall_error h (syscallBody_posts (e := none) hx hc hslot hp hl)

end Sys2Proof.Machine

namespace Sys2Proof.Machine

/-! ## Ray instructions and pins (O41; 14_rays.md R319 to R328) -/

/-- The items of a generation in a slot are as they were built: nobody has spoilt them (R314). -/
def State.Clean (s : State) (w : Who) (h gen : Word) : Prop := ∀ i, w.c.handleIndex h = some i → s.isSpoilt w.cI i gen = false

/-- A node and the targets of its children lie inside the pool (R319). -/
def State.NodeInside (s : State) (w : Who) (h : Word) (a : DWord) (n : Node) : Prop :=
  s.inPool w h a.toNat 128 = true ∧
    ∀ i < 8, refKind (n.child i) ≠ 0 → s.inPool w h (canonicalOf (refAddr (n.child i))).toNat (refBytes (n.child i)) = true

section
variable {s s1 : State} {w : Who} {slot : Nat} {a : DWord} {len align : Nat} {p : Placed} {bs : List Byte}
  (hp : s.checkGlobal w a len align { read := true } = .ok p)
include hp

theorem rayItem_unpinned (hu : s.pinHeld w slot = none) : rayItem s w slot a len align = fail .structureUnpinned := by
  simp only [rayItem, hp, bind, Except.bind, hu]

variable (hr : s.readNow w p.locs = .ok (s1, bs)) {hd gen : Word} (hs : s.pinHeld w slot = some (hd, gen)) (hc : s.Clean w hd gen)
include hr hs hc

theorem rayItem_clean : rayItem s w slot a len align = .ok (s1, hd, ofBytes bs, false) := by
  have hspoilt : ((w.c.handleIndex hd).map fun i => s.isSpoilt w.cI i gen).getD false = false := by
    cases hi : w.c.handleIndex hd with
    | none => rfl
    | some i => exact hc i hi
  simp only [rayItem, hp, bind, Except.bind, hs, hr, hspoilt]

end

section
variable {s s1 : State} {w : Who} {slot : Nat} {a : DWord} {hd : Word} {v : Nat} (hi : rayItem s w slot a 128 128 = .ok (s1, hd, v, false))
include hi

theorem rayNode_ok (hm : Node.malformed (BitVec.ofNat 1024 v) = false) (hin : s.NodeInside w hd a (BitVec.ofNat 1024 v)) :
    rayNode s w slot a = .ok (s1, BitVec.ofNat 1024 v) := by
  obtain ⟨hpool, hkids⟩ := hin
  have hall : ((upFrom 0 8).all fun i => refKind (Node.child (BitVec.ofNat 1024 v) i) == 0 ||
      s.inPool w hd (canonicalOf (refAddr (Node.child (BitVec.ofNat 1024 v) i))).toNat (refBytes (Node.child (BitVec.ofNat 1024 v) i))) = true := by
    simp only [List.all_eq_true, mem_upFrom, Bool.or_eq_true, beq_iff_eq]
    exact fun i hi8 => (Decidable.em _).imp_right (hkids i (by omega))
  simp only [rayNode, hi, bind, Except.bind, hm, hpool, hall]
  rfl

theorem rayNode_malformed (hbad : Node.malformed (BitVec.ofNat 1024 v) = true ∨ ¬s.NodeInside w hd a (BitVec.ofNat 1024 v)) :
    rayNode s w slot a = failAt .structureMalformed a.toNat := by
  simp only [rayNode, hi, bind, Except.bind]
  refine if_pos ?_
  rcases hbad with hm | hout
  · simp [hm]
  · by_contra hc
    simp only [Bool.or_false, Bool.or_eq_true, Bool.not_eq_true', Bool.and_eq_false_imp, not_or, Bool.not_eq_false, List.all_eq_true, mem_upFrom,
      beq_iff_eq, not_forall, exists_prop] at hc
    obtain ⟨hpool, -, hkids⟩ := hc
    exact hout ⟨hpool, fun i hi8 hk => (hkids i (by omega)).resolve_left hk⟩

end

theorem Thread.oweWrites_ok {t : Thread} {f : Nat} {ws : List (Nat × Word × Tag)} (h : t.Room [f]) :
    t.owe { flag := f, writes := ws } = .ok (t.owing { flag := f, writes := ws }) :=
  Thread.owe_ok h

section
variable {s s1 : State} {w : Who} {g : PredField} {d a : RegField} {sl : BitVec 1} {x : Fetched} (h : Executes s w g)
include h

/-! ### RBOX and RNODE -/

section
variable (hx : w.t.fetchQuiet [wr2 d] [.regs a.toNat 8 8 [.f32, .acc], w.t.cPair] = .ok x)
include hx

theorem execRbox_stops {e : Stop} (hn : rayNode s w sl.toNat (w64 (x.n 1)) = .error e) : exec (.rbox d a g sl) s = .next (s.stopped w e) :=
  runWord_error h (by simp only [hx, bind, Except.bind, hn])

theorem execRbox_owes {n : Node} (hn : rayNode s w sl.toNat (w64 (x.n 1)) = .ok (s1, n)) (hroom : x.t.Room [w.t.fa]) :
    exec (.rbox d a g sl) s = s1.threadDone w (x.t.owing
      { flag := w.t.fa, writes := [(d.toNat, (n.test (x.ws 0)).1, .b32), (d.toNat + 1, (n.test (x.ws 0)).2, .f32)] }) :=
  runWord_ok h (by simp only [hx, bind, Except.bind, hn, Thread.oweWrites_ok hroom])

end

theorem execRnode_owes {n : Node} (hx : w.t.fetch [wr2 d, wr4 a] [rd2 a [.b32], .regs (a.toNat + 2) 1 1 [.b32]] = .ok x)
    (hn : rayNode s w sl.toNat (w64 (x.n 0)) = .ok (s1, n)) (hroom : x.t.Room [x.t.fa]) :
    exec (.rnode d a g sl) s =
      s1.threadDone w (x.t.owing (x.t.oweA d.toNat (toWords (canonicalOf (n.child (x.n 1 % 8))).toNat 2) .b32)) :=
  runWord_ok h (by simp only [hx, bind, Except.bind, hn, Thread.oweRegs_ok hroom])

/-! ### RTRI -/

section
variable (hx : w.t.fetchQuiet [wr4 d] [.regs a.toNat 8 8 [.f32, .acc], w.t.cPair] = .ok x)
include hx

theorem execRtri_stops {e : Stop} (hi : rayItem s w sl.toNat (w64 (x.n 1)) 48 16 = .error e) :
    exec (.rtri d a g sl) s = .next (s.stopped w e) :=
  runWord_error h (by simp only [hx, bind, Except.bind, hi])

variable {hd : Word} {v : Nat} (hi : rayItem s w sl.toNat (w64 (x.n 1)) 48 16 = .ok (s1, hd, v, false))
include hi

theorem execRtri_malformed
    (hbad : TriRec.malformed (BitVec.ofNat 384 v) = true ∨ ¬s1.inPool w hd (w64 (x.n 1)).toNat 48 = true) :
    exec (.rtri d a g sl) s = s.trapped w .structureMalformed (w64 (x.n 1)) 0 :=
  runWord_error h (by
    have hb : ((TriRec.malformed (BitVec.ofNat 384 v) && !false) || !s1.inPool w hd (w64 (x.n 1)).toNat 48) = true := by
      simpa using hbad
    simp only [hx, bind, Except.bind, hi, hb, if_true, failAt, w64_toNat])

theorem execRtri_owes (hm : TriRec.malformed (BitVec.ofNat 384 v) = false) (hin : s1.inPool w hd (w64 (x.n 1)).toNat 48 = true)
    (hroom : x.t.Room [w.t.fa]) {hit : Word × Word × Word}
    (hhit : hit = (TriRec.hit (BitVec.ofNat 384 v) (x.ws 0)).getD (0x7F800000, 0, 0)) :
    exec (.rtri d a g sl) s = s1.threadDone w (x.t.owing
      { flag := w.t.fa, writes := [(d.toNat, hit.1, .f32), (d.toNat + 1, hit.2.1, .f32), (d.toNat + 2, hit.2.2, .f32),
          (d.toNat + 3, TriRec.prim (BitVec.ofNat 384 v), .b32)] }) :=
  runWord_ok h (by
    have hinf : w32 (fF32.infBits false) = 0x7F800000 := rfl
    subst hhit
    simp only [hx, bind, Except.bind, hi, hm, hin, hinf, Thread.oweWrites_ok hroom]
    rfl)

end

/-! ### Pins (R327, R328) -/

section
variable {hb : BitVec 1} {handle : Word} {s2 : State} (hx : w.t.fetch [wr1 d] (if hb = 1#1 then [rd1 a [.b32]] else []) = .ok x)
  (hh : handle = if hb = 1#1 then x.v 0 else (w.t.pin sl.toNat).handle)
include hx hh

theorem execRpin_takes {i : Nat} {e e2 : List Nat × Entry} {s0 : State} (hi : w.c.handleIndex handle = some i)
    (he : s.threadEntry w i false = .ok e) (he2 : s.threadEntry w i true = .ok e2) (hv : e.2.valid handle = true) (hcur : e.2.cur ≠ 0)
    (h0 : s.releaseOwn w sl.toNat = .ok s0) (h2 : (s.pinUp w.cI i e2.1 e.2.cur).releaseOwn w sl.toNat = .ok s2) :
    exec (.rpin d a g hb sl) s = (s2.setThread w.k
      (((x.t.setPin sl.toNat { handle := handle, claim := .own e.2.cur }).setReg d.toNat e.2.cur .b32).acquired .dv s.stamp)).wordDone w :=
  runWord_ok h (by
    have hok : (e.2.valid handle && e.2.cur != 0) = true := by simpa [hv] using hcur
    subst hh
    simp only [hx, bind, Except.bind, hi, he, hok, if_true, he2, h0, h2, hcur, if_false])

theorem execRpin_empties (h2 : s.releaseOwn w sl.toNat = .ok s2) (hnone : w.c.handleIndex handle = none ∨
      (∃ i e, w.c.handleIndex handle = some i ∧ s.threadEntry w i false = .ok e ∧ (e.2.valid handle = false ∨ e.2.cur = 0))) :
    exec (.rpin d a g hb sl) s =
      (s2.setThread w.k ((x.t.setPin sl.toNat { handle := handle, claim := .none }).setReg d.toNat 0 .b32)).wordDone w :=
  runWord_ok h (by
    subst hh
    rcases hnone with hi | ⟨i, e, hi, he, hbad⟩
    · simp only [hx, bind, Except.bind, hi, h2, if_true]
    · have hok : (e.2.valid (if hb = 1#1 then x.v 0 else (w.t.pin sl.toNat).handle) && e.2.cur != 0) = false := by
        rcases hbad with hv | hc
        · simp [hv]
        · simp [hc]
      simp only [hx, bind, Except.bind, hi, he, hok, Bool.false_eq_true, if_false, h2, if_true])

end

/-- The thread of w, its pin slot holding nothing. -/
def State.dropPin (s : State) (w : Who) (slot : Nat) : State := s.updThread w.k fun t => t.setPin slot { t.pin slot with claim := .none }

section
variable {l : BitVec 1} {s2 : State} (h2 : s.releaseOwn w sl.toNat = .ok s2)
include h2

theorem execRunpin_own (hl : l = 0#1 ∨ (if sl.toNat = 0 then (s.launch w.e.launch).pin0 else (s.launch w.e.launch).pin1) = none) :
    exec (.runpin g l sl) s = (s2.dropPin w sl.toNat).wordDone w :=
  runWord_ok h (by
    have hnone : (if l = 1#1 then (if sl.toNat = 0 then (s.launch w.e.launch).pin0 else (s.launch w.e.launch).pin1) else none) = none := by
      rcases hl with rfl | hl
      · rfl
      · rw [hl, ite_self]
    simp only [hnone, h2, bind, Except.bind]
    rfl)

theorem execRunpin_launch {gen : Word} {i : Nat} {e : List Nat × Entry} (hl : l = 1#1)
    (hheld : (if sl.toNat = 0 then (s.launch w.e.launch).pin0 else (s.launch w.e.launch).pin1) = some gen)
    (hi : w.c.handleIndex (w32 (fieldOf (s.launch w.e.launch).packet (80 + 4 * sl.toNat) 0 32)) = some i)
    (h0 : ∃ e0, s.threadEntry w i true = .ok e0) (he : s2.threadEntry w i true = .ok e) :
    exec (.runpin g l sl) s = (((s2.pinDown w.cI i e.1 gen).updLaunch w.e.launch fun q =>
      if sl.toNat = 0 then { q with pin0 := none } else { q with pin1 := none }).dropPin w sl.toNat).wordDone w :=
  runWord_ok h (by
    obtain ⟨e0, h0⟩ := h0
    simp only [hl, if_true, hheld, hi, h0, h2, he, bind, Except.bind, Except.map]
    rfl)

end

section
variable (hx : w.t.fetch [wr4 d] [] = .ok x)
include hx

theorem execRgen_empty (hp : s.pinHeld w sl.toNat = none) : exec (.rgen d g sl) s = s.trapped w .structureUnpinned 0 0 :=
  runWord_error h (by simp only [hx, bind, Except.bind, hp, fail])

theorem execRgen_owes {hd gen : Word} {i r : Nat} {e : List Nat × Entry} (hp : s.pinHeld w sl.toNat = some (hd, gen))
    (hi : w.c.handleIndex hd = some i) (he : s.threadEntry w i false = .ok e) (hr : e.2.record gen = some r) (hroom : x.t.Room [x.t.fa]) :
    exec (.rgen d g sl) s = s.threadDone w (x.t.owing (x.t.oweA d.toNat (toWords (e.2.root r) 2 ++ [gen, hd]) .b32)) :=
  runWord_ok h (by simp only [hx, bind, Except.bind, hp, hi, he, hr, Thread.oweRegs_ok hroom])

end

end

/-! ### Void rays (R322, R325) -/

theorem Node.hit_void {n : Node} {r : Ray} (hv : Ray.void r = true) (i : Nat) : n.hit r i = none := by
  simp [Node.hit, hv]

theorem Node.test_void {n : Node} {r : Ray} (hv : Ray.void r = true) : n.test r = missRecord := by
  have hnone : ((upFrom 0 8).filterMap fun i => (n.hit r i).map fun e => (i, e)) = [] := by
    simp [Node.hit_void hv]
  simp only [Node.test, hnone]
  rfl

theorem TriRec.hit_void {t : TriRec} {r : Ray} (hv : Ray.void r = true) : t.hit r = none := by
  simp [TriRec.hit, hv]

/-- Settles O41: the item that a ray instruction reads decides what it owes, and the entry of a handle what a pin holds. -/
theorem rays : Obligations.Rays := by
  unfold Obligations.Rays
  refine ⟨fun s s1 w g d a sl x p bs h => ⟨fun hx hp hr hroom => ⟨fun hu => ?_, fun hd gen hs hc => ?_⟩,
    fun hx hp hr hroom => ⟨fun hu => ?_, fun hd gen hs hc => ?_⟩, fun hx hp hr hroom hd gen hs hc hm hin => ?_⟩,
    fun n t r hv => ⟨Node.test_void hv, TriRec.hit_void hv⟩, fun s s2 w g d a hb l sl x h => ⟨fun hx => ⟨?_, ?_⟩, fun h2 => ⟨?_, ?_⟩, fun hx => ⟨?_, ?_⟩⟩⟩
  · exact execRbox_stops h hx (by rw [rayNode, rayItem_unpinned hp hu]; rfl)
  · have hi := rayItem_clean hp hr hs hc
    refine ⟨fun hbad => ?_, fun hm hin => execRbox_owes h hx (rayNode_ok hi hm hin) hroom⟩
    exact (execRbox_stops h hx (rayNode_malformed hi hbad)).trans (by simp only [w64_toNat, State.trapped])
  · exact execRtri_stops h hx (rayItem_unpinned hp hu)
  · have hi := rayItem_clean hp hr hs hc
    exact ⟨execRtri_malformed h hx hi, fun hm hin => execRtri_owes h hx hi hm hin hroom rfl⟩
  · exact execRnode_owes h hx (rayNode_ok (rayItem_clean hp hr hs hc) hm hin) hroom
  · exact fun i e e2 hi he he2 hv hcur ⟨s0, h0⟩ h2 => execRpin_takes h hx rfl hi he he2 hv hcur h0 h2
  · exact fun h2 hnone => execRpin_empties h hx rfl h2 hnone
  · exact fun hl => execRunpin_own h h2 hl
  · exact fun gen i e hl hheld hi h0 he => execRunpin_launch h h2 hl hheld hi h0 he
  · exact fun hp => execRgen_empty h hx hp
  · exact fun hd gen i e r hp hi he hr hroom => execRgen_owes h hx hp hi he hr hroom

end Sys2Proof.Machine

namespace Sys2Proof.Machine

/-! ## Structure builds (O42; 14_rays.md R334, R202; 08_memory.md R187)

BLDW reads the status record and then acquires. The read may fill the core's L1 under a new stamp, and the acquire must leave those lines behind it:
the model acquires with the stamp after the read. The statement acquires with the stamp before it, so that the two part where the read fills. -/

/-- A thread whose x0 and x1 hold the address of a status record. -/
def doneThread : Thread := { regs := { val := 0x3000 } :: List.replicate 127 {}, pc := 4 }
/-- A page of memory that the thread's core can read. -/
def donePage : TlbEntry :=
  { asid := 0, first := some 0, group := 0, base := 0, size := 65536, frame := 0, read := true, write := true, exec := true, policy := .wb,
    tracked := false }
/-- A device whose one thread is that one, with a record that is DONE and has no triangle left out. -/
def doneDevice : State :=
  { State.reset with
    threads := [doneThread], troupes := [{ threads := [0] }], ensembles := [{}], contexts := [{}], tlb := [donePage], mem := [(0x3000, 2)] }
def doneWho : Who := ⟨0, doneThread, 0, { threads := [0] }, 0, {}, 0, {}⟩

/-- The stamp that thread 0 has acquired after a step. -/
def stampAfter : Outcome → Option Nat
  | .next s => some (s.thread 0).acqStamp
  | _ => none

/-- The step of the model: the read has filled the L1 under stamp 1, and the acquire is past it. -/
theorem stampAfter_bldw : stampAfter (exec (.bldw 0 7) doneDevice) = some 2 := by decide +kernel

theorem doneThread_reads : (doneThread.fetch [] [rd2 0 [.b32]]).toOption.any (fun x => x.n 0 == 0x3000 && x.t == doneThread) = true := by
  decide +kernel

/-- The record as the thread reads it, and the answer of the statement: the acquire is at the stamp of the fill. -/
theorem doneDevice_readStatus : (readStatus doneDevice doneWho (w64 0x3000)).toOption.any (fun r =>
    (nth r.2 0 0).toNat % 4 == 2 && nth r.2 2 0 == 0 && nth r.2 3 0 == 0 &&
      stampAfter (r.1.threadDone doneWho (doneThread.acquired .dv doneDevice.stamp)) == some 1) = true := by
  decide +kernel

/-- A computation that passes a test answers, with an answer that passes it. -/
theorem exists_ok_of_any {ε α : Type} {e : Except ε α} {p : α → Bool} (h : e.toOption.any p = true) : ∃ x, e = .ok x ∧ p x = true := by
  cases e with
  | error e => cases h
  | ok x => exact ⟨x, rfl, h⟩

/-- Refutes O42: a BLDW whose read of the status record fills its core's L1 acquires at the stamp after the fill, not at the one before it. -/
theorem not_builds : ¬Obligations.Builds := by
  unfold Obligations.Builds
  rintro ⟨hwords, -, -⟩
  obtain ⟨x, hx, hops⟩ := exists_ok_of_any doneThread_reads
  obtain ⟨⟨s1, ws⟩, hr, hrec⟩ := exists_ok_of_any doneDevice_readStatus
  simp only [Bool.and_eq_true, beq_iff_eq] at hops hrec
  obtain ⟨haddr, hsame⟩ := hops
  obtain ⟨⟨⟨hdone, hzero⟩, hexcl⟩, hstamp⟩ := hrec
  have hgo := ((hwords doneDevice doneWho 7 0 0 x ⟨rfl, by decide⟩).2 s1 ws (haddr ▸ hr)).2 hx
  have hnext : exec (.bldw 0 7) doneDevice = s1.threadDone doneWho (x.t.acquired .dv doneDevice.stamp) :=
    hgo.2.2 (le_of_eq hdone.symm) fun hstrict => hstrict.2.2 ⟨hzero, hexcl⟩
  have hparts : some 2 = some 1 := by rw [← stampAfter_bldw, hnext, hsame, hstamp]
  exact absurd hparts (by decide)

end Sys2Proof.Machine

namespace Sys2Proof.Machine

/-! ## Visibility reads, attributes, derivatives and images (O44; 13_graphics.md R304 to R311) -/

/-- Component c of varying value i at vertex v of a shade thread's triangle (R306). -/
def ShadeRec.component (r : ShadeRec) (i v c : Nat) : Word := w32 (slice (nth (nth r.attrs v []) i 0).toNat (32 * c) 32)

theorem ShadeRec.component_eq (r : ShadeRec) (i v c : Nat) :
    r.component i v c = w32 (slice (nth (nth r.attrs v []) i 0).toNat (32 * c) 32) := rfl

section
variable {s : State} {w : Who} {g : PredField} {d a : RegField} {x : Fetched} (h : Executes s w g)
include h

/-! ### VISRD (R305) -/

section
variable {m : BitVec 1} (hx : w.t.fetch [if m = 0#1 then wr4 d else wr2 d] [] = .ok x)
include hx

theorem execVisrd_unshaded (hs : w.t.shade = none) : exec (.visrd d g m) s = s.trapped w .payloadProtocol 0 0 :=
  runWord_error h (by simp only [hx, bind, Except.bind, hs, fail])

variable {r : ShadeRec} (hs : w.t.shade = some r) (hroom : x.t.Room [x.t.fa])
include hs hroom

theorem execVisrd_place (hm : m = 0#1) : exec (.visrd d g m) s = s.threadDone w (x.t.owing (x.t.oweA d.toNat [r.prim, w32 (r.px + r.py * 65536),
    w32 (r.coverage.toNat + (if r.helper then 256 else 0) + (if r.front then 512 else 0) + r.samp * 1024), w32 r.depth.toNat] .b32)) :=
  runWord_ok h (by
    simp only [hx, bind, Except.bind, hs]
    simp only [hm, if_true, Thread.oweRegs_ok hroom])

theorem execVisrd_bary (hm : m ≠ 0#1) : exec (.visrd d g m) s = s.threadDone w (x.t.owing (x.t.oweA d.toNat [r.bary1, r.bary2] .f32)) :=
  runWord_ok h (by
    simp only [hx, bind, Except.bind, hs]
    simp only [hm, if_false, Thread.oweRegs_ok hroom])

end

/-! ### ATTR (R306) -/

section
variable (hx : w.t.fetch [wr4 d] [rd1 a [.b32]] = .ok x)
include hx

theorem execAttr_reserved (hr : slice (x.n 0) 4 28 ≠ 0) : exec (.attr d a g) s = s.trapped w .reservedField 0 0 :=
  runWord_error h (by simp only [hx, bind, Except.bind, require_of_false (beq_false_of_ne hr)])

variable {r : ShadeRec} (hz : slice (x.n 0) 4 28 = 0) (hs : w.t.shade = some r)
include hz hs

theorem execAttr_beyond (hi : (nth r.attrs 0 []).length ≤ slice (x.n 0) 0 3) : exec (.attr d a g) s = s.trapped w .meshBounds 0 0 :=
  runWord_error h (by
    simp only [hx, bind, Except.bind, require_of_true (beq_iff_eq.2 hz), hs, require_of_false (decide_eq_false (Nat.not_lt.2 hi))])

variable (hi : slice (x.n 0) 0 3 < (nth r.attrs 0 []).length) (hroom : x.t.Room [x.t.fa])
include hi hroom

theorem execAttr_raw (hb : bitAt (x.n 0) 3 = true) :
    exec (.attr d a g) s = s.threadDone w (x.t.owing (x.t.oweA d.toNat ((upFrom 0 4).map (r.component (slice (x.n 0) 0 3) 0)) .b32)) :=
  runWord_ok h (by
    simp only [hx, bind, Except.bind, require_of_true (beq_iff_eq.2 hz), hs, require_of_true (decide_eq_true hi), hb, if_true, ← ShadeRec.component_eq,
      Thread.oweRegs_ok hroom])

theorem execAttr_interpolated (hb : bitAt (x.n 0) 3 = false) :
    exec (.attr d a g) s = s.threadDone w (x.t.owing (x.t.oweA d.toNat ((upFrom 0 4).map fun c => interpolate (r.component (slice (x.n 0) 0 3) 0 c)
      (r.component (slice (x.n 0) 0 3) 1 c) (r.component (slice (x.n 0) 0 3) 2 c) r.bary1 r.bary2) .f32)) :=
  runWord_ok h (by
    simp only [hx, bind, Except.bind, require_of_true (beq_iff_eq.2 hz), hs, require_of_true (decide_eq_true hi), hb, Bool.false_eq_true, if_false,
      ← ShadeRec.component_eq, Thread.oweRegs_ok hroom])

end

/-! ### DERIV (R307) -/

section
variable {m : BitVec 1} (hx : w.t.fetchQuiet [wr1 d] [rd1 a [.f32, .acc]] = .ok x) (hroom : w.t.Room [w.t.fa])
include hx hroom

theorem execDeriv_alone (hq : w.t.quadLane = none) : exec (.deriv d a g m) s = s.threadDone w (w.t.owing (w.t.oweA d.toNat [0] .f32)) := by
  have hc : w.t.checked [wr1 d] [rd1 a [.f32, .acc]] = .ok () := by rw [Thread.checked, hx]; rfl
  change execDeriv d a g m s = _
  simp only [execDeriv, h.1, h.2, hc, bind, Except.bind, Thread.raiseFlags_ok hroom, hq, Thread.oweRegs_ok hroom]
  rfl

/-- What the last arrival at a DERIV does to the quad: each thread owes the difference of its value and its neighbour's. -/
def derivDone (d a : RegField) (m : BitVec 1) (here : List (Nat × Nat)) (s1 : State) : State :=
  let val (lane : Nat) : Word := ((here.find? fun x => x.1 == lane).map fun x => (s1.thread x.2).floatAt a.toNat).getD 0
  here.foldl (fun s2 x =>
    let n := neighbourLane x.1 m.toNat
    let r := if n.2 then differenceF32 (val n.1) (val x.1) else differenceF32 (val x.1) (val n.1)
    s2.updThread x.2 fun t => (t.oweRegs d.toNat [r] .f32).toOption.getD t) s1

theorem execDeriv_meets {q : Nat} {here : List (Nat × Nat)} (hq : w.t.quadLane = some q)
    (hg : Gathered s w (.deriv d a g m) (w64 ((w32 (15 * 2 ^ q)).toNat % 65536)) here) :
    exec (.deriv d a g m) s = s.leaveAll w (.deriv d a g m) (w64 ((w32 (15 * 2 ^ q)).toNat % 65536)) here (derivDone d a m here) := by
  have hc : w.t.checked [wr1 d] [rd1 a [.f32, .acc]] = .ok () := by rw [Thread.checked, hx]; rfl
  change execDeriv d a g m s = _
  simp only [execDeriv, h.1, h.2, hc, bind, Except.bind, Thread.raiseFlags_ok hroom, hq]
  refine (State.arrive_of_gathered hg).trans (congrArg (s.leaveAll w _ _ here) (funext fun s1 => ?_))
  have hval (lane : Nat) : (match here.find? fun x => x.1 == lane with
      | some x => (s1.thread x.2).floatAt a.toNat
      | none => 0) = ((here.find? fun x => x.1 == lane).map fun x => (s1.thread x.2).floatAt a.toNat).getD 0 := by
    cases here.find? fun x => x.1 == lane <;> rfl
  have howe (t : Thread) (r : Word) : (match t.oweRegs d.toNat [r] .f32 with
      | .ok t' => t'
      | .error _ => t) = (t.oweRegs d.toNat [r] .f32).toOption.getD t := by
    cases t.oweRegs d.toNat [r] .f32 <;> rfl
  simp only [derivDone, ← hval, ← howe] <;> rfl

end

/-! ### IMLD and TLDI (R311) -/

section
variable {raw : Bool} {s1 : State} {p : ImageDesc} (hx : w.t.fetch [wr4 d] [rd2 a [.b32], w.t.texelCoords] = .ok x) (hroom : x.t.Room [x.t.fa])
  (hi : imageAt s w (w64 (x.n 0)) raw = .ok (s1, p))
include hx hroom hi
omit h

theorem imageLoad_beyond (hc : coordAddr p (x.ws 1) = none) : imageLoad s w d a raw =
    .ok (s1.setThread w.k (x.t.owing (x.t.oweA d.toNat [0, 0, 0, 0] (if raw then .b32 else .f32)))) := by
  simp only [imageLoad, hx, bind, Except.bind, hi, hc, Thread.oweRegs_ok hroom]
  rfl

/-- The load of the texel at the places of l. -/
def texelLoad (d : RegField) (raw : Bool) (p : ImageDesc) (t : Thread) (s1 : State) (l : Placed) : PendingLoad :=
  { seq := 0, locs := l.locs, order := t.hints.order, scope := .dv, flag := t.fa, born := s1.moves,
    form := { type := 0, dst := d.toNat, count := 4, image := some { fmt := imFormat p, size := texelBytes (imFormat p), raw := raw } } }

theorem imageLoad_loads {at_ : DWord} {l : Placed} (hc : coordAddr p (x.ws 1) = some at_)
    (hl : s1.checkGlobal w at_ (texelBytes (imFormat p)) 1 { read := true } = .ok l) :
    imageLoad s w d a raw = .ok (s1.setThread w.k ((x.t.raised [x.t.fa]).pushLoad (texelLoad d raw p x.t s1 l))) := by
  simp only [imageLoad, hx, bind, Except.bind, hi, hc, hl, State.issueLoad, Thread.raiseFlags_ok hroom]
  rfl

end

/-- IMLD reads texels raw, TLDI decodes them; else they are one word. -/
theorem exec_imageLoad {raw : Bool} {i : Instr} (hi : (raw, i) ∈ [(true, Instr.imld d a g), (false, .tldi d a g)]) {s' : State}
    (hs : imageLoad s w d a raw = .ok s') : exec i s = s'.wordDone w := by
  simp only [List.mem_cons, Prod.mk.injEq, List.not_mem_nil, or_false] at hi
  rcases hi with ⟨rfl, rfl⟩ | ⟨rfl, rfl⟩
  · exact runWord_ok h hs
  · exact runWord_ok h hs

/-! ### IMST (R311) -/

section
variable (hx : w.t.fetch [] [rd2 a [.b32], rd4 d [], w.t.texelCoords] = .ok x) (hroom : x.t.Room [w.t.fb])
include hx hroom

theorem execImst_helper (hh : ∃ r, w.t.shade = some r ∧ r.helper = true) : exec (.imst d a g) s = s.threadDone w (x.t.owing { flag := w.t.fb }) :=
  runWord_ok h (by
    obtain ⟨r, hs, hr⟩ := hh
    simp only [hx, bind, Except.bind, hs, Option.map_some, Option.getD_some, hr, if_true, Thread.oweWrites_ok hroom]
    rfl)

variable {s1 : State} {p : ImageDesc} (hh : ¬∃ r, w.t.shade = some r ∧ r.helper = true) (hi : imageAt s w (w64 (x.n 0)) true = .ok (s1, p))
include hh hi

theorem execImst_beyond (hc : coordAddr p (x.ws 2) = none) : exec (.imst d a g) s = s1.threadDone w (x.t.owing { flag := w.t.fb }) :=
  runWord_ok h (by
    have hf : ((w.t.shade.map (·.helper)).getD false) = false := by
      cases hs : w.t.shade with
      | none => rfl
      | some r => exact Bool.eq_false_iff.2 fun hr => hh ⟨r, hs, hr⟩
    simp only [hx, bind, Except.bind, hf, Bool.false_eq_true, if_false, hi, hc, Thread.oweWrites_ok hroom]
    rfl)

theorem execImst_stores {at_ : DWord} {l : Placed} (hc : coordAddr p (x.ws 2) = some at_)
    (hl : s1.checkGlobal w at_ (texelBytes (imFormat p)) 1 { write := true } = .ok l) (hfb : x.t.fb = w.t.fb) :
    exec (.imst d a g) s = (s1.addStore w (x.t.owing { flag := x.t.fb, stores := [x.t.seq] })
      { seq := 0, bytes := storeOf l.locs (toBytes (x.n 1) (texelBytes (imFormat p))),
        src := some { regs := (upFrom d.toNat 4).map fun r => (r, storeTags 0), words := x.ws 1 } }).wordDone w :=
  runWord_ok h (by
    have hf : ((w.t.shade.map (·.helper)).getD false) = false := by
      cases hs : w.t.shade with
      | none => rfl
      | some r => exact Bool.eq_false_iff.2 fun hr => hh ⟨r, hs, hr⟩
    have hlen : (x.ws 1).length = 4 := Thread.length_fetch_ws hx rfl
    rw [← hfb] at hroom
    simp only [hx, bind, Except.bind, hf, Bool.false_eq_true, if_false, hi, hc, hl, issueStore_ok hroom, dataOf_of_length hlen])

end

end

/-! ### What an image load leaves (R310, R311) -/

theorem length_decodeTexel (fmt v : Nat) : (decodeTexel fmt v).length = 4 := by
  unfold decodeTexel
  split
  all_goals simp [length_upFrom, length_toWords]

section
variable {l : LoadForm} {f : ImageForm} {bs : List Byte} (hfrag : l.frag = none) (him : l.image = some f)
include hfrag him

theorem LoadForm.expand_image {ws : List (Word × Tag)} (hw : f.landed bs = ws) (hlen : ws.length = 4) :
    l.expand bs = (upFrom l.dst 4).zip ws := by
  simp only [LoadForm.expand, hfrag, him, hw, hlen, List.any_nil]
  rfl

theorem LoadForm.expand_raw (ht : f.terms = none) (hr : f.raw = true) :
    l.expand bs = (upFrom l.dst 4).zip ((toWords (ofBytes bs) 4).map fun v => (v, Tag.b32)) :=
  expand_image hfrag him (by simp only [ImageForm.landed, ht, hr, if_true]) (by rw [List.length_map, length_toWords])

theorem LoadForm.expand_decoded (ht : f.terms = none) (hr : f.raw = false) :
    l.expand bs = (upFrom l.dst 4).zip ((decodeTexel f.fmt (ofBytes bs)).map fun v => (v, Tag.f32)) :=
  expand_image hfrag him (by simp only [ImageForm.landed, ht, hr, Bool.false_eq_true, if_false]) (by rw [List.length_map, length_decodeTexel])

/-- The values of a term of a sample: a texel that the load has read, or the border. -/
def ImageForm.valuesOf (f : ImageForm) (bs : List Byte) : Option Nat → List Word
  | some i => decodeTexel f.fmt (ofBytes ((bs.drop (i * f.size)).take f.size))
  | none => f.border

theorem LoadForm.expand_weighted {ts : List (Option Nat × Nat)} (ht : f.terms = some ts) :
    l.expand bs = (upFrom l.dst 4).zip ((upFrom 0 4).map fun c =>
      (weighted (ts.map fun t => (nth (f.valuesOf bs t.1) c 0, t.2)) (Config.freeWord f.key c), Tag.f32)) := by
  refine expand_image hfrag him ?_ (by rw [List.length_map, length_upFrom])
  simp only [ImageForm.landed, ht, List.map_map]
  refine List.map_congr_left fun c _ => Prod.ext (congrArg (weighted · _) (List.map_congr_left fun t _ => ?_)) rfl
  obtain ⟨_ | i, n⟩ := t
  · rfl
  · rfl

end

/-! ### TEX outside a quad's meeting (R310) -/

/-- A read that finds its bytes leaves the threads as they were: it may fill a core's L1. -/
theorem State.gather_threads {s s' : State} {k seq : Nat} {t : Thread} {locs : List Loc} {got : List (Nat × Unit64)} {b : List Byte} {l1 apart : Bool}
    (hg : s.gather k t seq locs got l1 apart = (s', some b)) : s'.threads = s.threads := by
  unfold State.gather at hg
  dsimp only at hg
  split at hg
  · cases hg
  · split at hg
    · cases hg
    · rw [← (Prod.mk.inj hg).1]
      split
      · rfl
      · exact fillL1_threads ..

theorem State.readNow_threads {s s1 : State} {w : Who} {ls : List Loc} {bs : List Byte} (hr : s.readNow w ls = .ok (s1, bs)) :
    s1.threads = s.threads := by
  unfold State.readNow at hr
  split at hr
  · cases hr
  · split at hr
    next s' b hg =>
      split at hr
      · cases hr
      · cases hr
        exact State.gather_threads hg
    next => cases hr

theorem State.loadRecord_threads {s : State} {w : Who} {a : DWord} {n align : Nat} {r : State × Nat} (hr : s.loadRecord w a n align = .ok r) :
    r.1.threads = s.threads := by
  simp only [State.loadRecord, bind_eq_ok_iff, Except.ok.injEq] at hr
  obtain ⟨p, -, b, hb, rfl⟩ := hr
  exact State.readNow_threads hb

theorem Thread.eq_raised_of_raiseFlags {t t' : Thread} {fs : List Nat} (ht : t.raiseFlags fs = .ok t') : t' = t.raised fs := by
  dsimp only [Thread.raiseFlags] at ht
  split at ht
  · cases ht
  · exact (Except.ok.inj ht).symm

/-- A load that issues is the last of its thread's, under the flag of "a". -/
theorem State.issueLoad_loads {s s' : State} {w : Who} {t : Thread} {p : Placed} {form : LoadForm} {sc : Scope} (hk : w.k < s.threads.length)
    (hs : s.issueLoad w t p form sc = .ok s') : ∃ l, (s'.thread w.k).loads = t.loads ++ [l] ∧ l.scope = sc ∧ l.flag = t.fa ∧ l.form = form := by
  unfold State.issueLoad at hs
  cases hf : t.raiseFlags [t.fa] with
  | error e => rw [hf] at hs; cases hs
  | ok t' =>
    rw [hf] at hs
    cases hs
    refine ⟨{ seq := t.seq, locs := p.locs, order := t.hints.order, scope := sc, form := form, flag := t.fa, born := s.moves }, ?_, rfl, rfl, rfl⟩
    rw [State.thread_setThread _ _ _ hk, Thread.eq_raised_of_raiseFlags hf]
    rfl

/-- The sample of one thread is one load, of its texels and border places. -/
theorem texOne_loads {form : LodForm} {d a : RegField} {s s1 : State} {w : Who} (hk : w.k < s.threads.length) (hs : texOne form d a w s = .ok s1) :
    ∃ l f ts, (s1.thread w.k).loads = w.t.loads ++ [l] ∧ l.scope = .dv ∧ l.flag = w.t.fa ∧
      l.form.dst = d.toNat ∧ l.form.frag = none ∧ l.form.image = some f ∧ f.terms = some ts := by
  rw [texOne] at hs
  obtain ⟨x, hx, hs⟩ := bind_eq_ok_iff.1 hs
  obtain ⟨r, hr, hs⟩ := bind_eq_ok_iff.1 hs
  obtain ⟨q, hq, hs⟩ := bind_eq_ok_iff.1 hs
  dsimp only at hs
  split at hs
  · cases hs
  · split at hs
    · cases hs
    · obtain ⟨-, -, hs⟩ := bind_eq_ok_iff.1 hs
      obtain ⟨-, -, hs⟩ := bind_eq_ok_iff.1 hs
      obtain ⟨-, -, hs⟩ := bind_eq_ok_iff.1 hs
      obtain ⟨ps, -, hs⟩ := bind_eq_ok_iff.1 hs
      obtain ⟨-, -, hs⟩ := bind_eq_ok_iff.1 hs
      have hlen : w.k < q.1.threads.length := by rwa [State.loadRecord_threads hq, State.loadRecord_threads hr]
      obtain ⟨l, hl, hsc, hflag, hform⟩ := State.issueLoad_loads hlen hs
      rw [Thread.fetch_t hx] at hl hflag
      exact ⟨l, _, _, hl, hsc, hflag, by rw [hform], by rw [hform], by rw [hform], rfl⟩

theorem exec_tex_alone {s s1 : State} {w : Who} {g : PredField} {d a : RegField} {m : BitVec 2} (h : Executes s w g) (hsplit : w.t.split = false)
    (hq : w.t.quadLane = none ∨ LodForm.ofCode m ≠ .implicit) (hs : texOne (LodForm.ofCode m) d a w s = .ok s1) :
    exec (.tex d a g m) s = s1.wordDone w := by
  change execTex d a g m s = _
  simp only [execTex, h.1, h.2, hsplit, Bool.false_eq_true, if_false, Bool.not_true]
  split
  next q hq' hform => exact absurd hq (by simp [hq', hform])
  next => rw [hs]; rfl

/-- Settles O44: what each word owes outside the rendezvous and at it, and what an image load leaves. -/
theorem images : Obligations.Images := by
  unfold Obligations.Images
  intro s w g d a h
  refine ⟨fun m x hx => ⟨execVisrd_unshaded h hx, fun r hs hroom => ⟨execVisrd_place h hx hs hroom, execVisrd_bary h hx hs hroom⟩⟩,
    fun x hx => ⟨execAttr_reserved h hx, fun r hz hs => ⟨execAttr_beyond h hx hz hs, fun hi hroom =>
      ⟨execAttr_raw h hx hz hs hi hroom, execAttr_interpolated h hx hz hs hi hroom⟩⟩⟩,
    fun m x hx hroom => ⟨execDeriv_alone h hx hroom, fun q here hq hg => execDeriv_meets h hx hroom hq hg⟩,
    fun x p hx hroom raw i s1 hi him => ⟨fun hc => exec_imageLoad h hi (imageLoad_beyond hx hroom him hc),
      fun at_ l hc hl => exec_imageLoad h hi (imageLoad_loads hx hroom him hc hl)⟩,
    fun l f bs hfrag him => ⟨LoadForm.expand_raw hfrag him, fun ht hr _ => LoadForm.expand_decoded hfrag him ht hr,
      fun ts ht => LoadForm.expand_weighted hfrag him ht⟩,
    fun x hx hroom => ⟨execImst_helper h hx hroom, fun p s1 hh hi => ⟨execImst_beyond h hx hroom hh hi,
      fun at_ l hc hl hfb => execImst_stores h hx hroom hh hi hc hl hfb⟩⟩,
    fun m s1 hsplit hq hs => ⟨exec_tex_alone h hsplit hq hs, texOne_loads (s.lt_of_whoOf _ _ h.1) hs⟩⟩

end Sys2Proof.Machine

namespace Sys2Proof.Machine

/-! ## Task and mesh threads, binning and shade threads (O43; 13_graphics.md R287 to R303, 15_system.md R342) -/

section
variable {s : State} {w : Who} {g : PredField} {d a : RegField} {x : Fetched} (h : Executes s w g)
include h

/-! ### TPAY (R290) -/

section
variable (hx : w.t.fetch [] [rd1 a [.b32], rd4 d []] = .ok x)
include hx

theorem execTpay_misaligned (ho : x.n 0 % 16 ≠ 0) : exec (.tpay d a g) s = s.trapped w .misaligned (w64 (w.tr.staging + x.n 0)) 0 :=
  runWord_error h (by
    rw [hx]
    exact if_pos (bne_iff_ne.2 ho))

variable (ho : x.n 0 % 16 = 0)
include ho

theorem execTpay_refused (hr : w.e.isTask = false ∨ stagingBytes ≤ x.n 0 ∨ w.tr.slice < stagingBytes) :
    exec (.tpay d a g) s = s.trapped w .payloadProtocol 0 0 :=
  runWord_error h (by
    have hno : (w.e.isTask && decide (x.n 0 < stagingBytes) && decide (stagingBytes ≤ w.tr.slice)) = false := by
      rcases hr with hr | hr | hr
      · simp [hr]
      · simp [Nat.not_lt.2 hr]
      · simp [Nat.not_le.2 hr]
    simp only [hx, bind, Except.bind, ho, bne_self_eq_false, Bool.false_eq_true, if_false, require_of_false hno])

theorem execTpay_stores {l : Nat × Nat} (ht : w.e.isTask = true) (hlt : x.n 0 < stagingBytes) (hsl : stagingBytes ≤ w.tr.slice)
    (hl : s.checkScratch w (w.tr.staging + x.n 0) 16 16 = .ok l) (hroom : x.t.Room [x.t.fb]) :
    exec (.tpay d a g) s = (s.addStore w (x.t.owing { flag := x.t.fb, stores := [x.t.seq] })
      { seq := 0, bytes := storeOf (scratchLocs l.1 l.2 16) (toBytes (x.n 1) 16), scope := .en,
        src := some { regs := (upFrom d.toNat 4).map fun r => (r, storeTags 0), words := x.ws 1 } }).wordDone w :=
  runWord_ok h (by
    have hyes : (w.e.isTask && decide (x.n 0 < stagingBytes) && decide (stagingBytes ≤ w.tr.slice)) = true := by simp [ht, hlt, hsl]
    have hlen : (x.ws 1).length = 4 := Thread.length_fetch_ws hx rfl
    rw [hx]
    refine (if_neg (by simp [ho])).trans (bind_eq_ok_iff.2 ⟨(), rfl, bind_eq_ok_iff.2 ⟨(), require_of_true hyes _, bind_eq_ok_iff.2 ⟨l, hl, ?_⟩⟩⟩)
    rw [issueStore_ok hroom, dataOf_of_length hlen])

end

/-! ### MCNT (R293) -/

section
variable (hx : w.t.fetch [] [rd1 a [.b32]] = .ok x)
include hx

theorem execMcnt_reserved (hr : slice (x.n 0) 22 10 ≠ 0) : exec (.mcnt a g) s = s.trapped w .reservedField 0 0 :=
  runWord_error h (by simp only [hx, bind, Except.bind, require_of_false (beq_false_of_ne hr)])

/-- The counts are within the limits, and the troupe has fixed no others (R293). -/
def MeshStore.Fits (m : MeshStore) (n : Nat × Nat × Nat) : Prop := n.1 ≤ 256 ∧ n.2.1 ≤ 512 ∧ (m.counts = none ∨ m.counts = some n)

omit h hx in
theorem MeshStore.fits_iff (m : MeshStore) (n : Nat × Nat × Nat) :
    (decide (n.1 ≤ 256) && decide (n.2.1 ≤ 512) && (m.counts == none || m.counts == some n)) = true ↔ m.Fits n := by
  simp only [Bool.and_eq_true, decide_eq_true_eq, Bool.or_eq_true, beq_iff_eq, Fits, and_assoc]

variable (hz : slice (x.n 0) 22 10 = 0)
include hz

theorem execMcnt_bounds (hf : ¬w.tr.mesh.Fits (slice (x.n 0) 0 9, slice (x.n 0) 9 10, slice (x.n 0) 19 3)) :
    exec (.mcnt a g) s = s.trapped w .meshBounds 0 0 :=
  runWord_error h (by
    have hno := Bool.eq_false_iff.2 (mt (w.tr.mesh.fits_iff _).1 hf)
    simp only [hx, bind, Except.bind, require_of_true (beq_iff_eq.2 hz), require_of_false hno])

variable (hf : w.tr.mesh.Fits (slice (x.n 0) 0 9, slice (x.n 0) 9 10, slice (x.n 0) 19 3))
include hf

theorem execMcnt_refused (hm : w.e.isMesh = false) : exec (.mcnt a g) s = s.trapped w .payloadProtocol 0 0 :=
  runWord_error h (by
    have hyes := (w.tr.mesh.fits_iff _).2 hf
    simp only [hx, bind, Except.bind, require_of_true (beq_iff_eq.2 hz), require_of_true hyes, require_of_false hm])

theorem execMcnt_fixes (hm : w.e.isMesh = true) : exec (.mcnt a g) s = ((s.setThread w.k x.t).updTroupe w.trI fun tr =>
    { tr with mesh := { tr.mesh with counts := some (slice (x.n 0) 0 9, slice (x.n 0) 9 10, slice (x.n 0) 19 3) } }).wordDone w :=
  runWord_ok h (by
    have hyes := (w.tr.mesh.fits_iff _).2 hf
    simp only [hx, bind, Except.bind, require_of_true (beq_iff_eq.2 hz), require_of_true hyes, require_of_true hm])

end

/-! ### MVTX (R294) -/

section
variable (hx : w.t.fetch [] [rd1 a [.b32], rd4 d []] = .ok x) (hz : slice (x.n 0) 11 21 = 0)
include hx hz

theorem execMvtx_refused (hm : w.e.isMesh = false) : exec (.mvtx d a g) s = s.trapped w .payloadProtocol 0 0 :=
  runWord_error h (by simp only [hx, bind, Except.bind, require_of_true (beq_iff_eq.2 hz), require_of_false hm])

variable (hm : w.e.isMesh = true)
include hm

section
variable (hout : w.tr.mesh.v ≤ slice (x.n 0) 0 8 ∨ w.tr.mesh.a < slice (x.n 0) 8 3)
include hout

theorem execMvtx_strict (hs : s.meshStrict w = true) : exec (.mvtx d a g) s = s.trapped w .meshBounds 0 (w64 (slice (x.n 0) 0 8)) :=
  runWord_error h (by
    have ho : (decide (w.tr.mesh.v ≤ slice (x.n 0) 0 8) || decide (w.tr.mesh.a < slice (x.n 0) 8 3)) = true := by simpa using hout
    have hlt : slice (x.n 0) 0 8 % 512 = slice (x.n 0) 0 8 := Nat.mod_eq_of_lt ((slice_lt ..).trans (by decide))
    simp only [hx, bind, Except.bind, require_of_true (beq_iff_eq.2 hz), require_of_true hm, ho, hs, Bool.and_self, if_true, Who.boundsTrap, hlt])

theorem execMvtx_drops (hs : s.meshStrict w = false) (hroom : x.t.Room [w.t.fb]) : exec (.mvtx d a g) s =
    ((s.setThread w.k (x.t.owing { flag := w.t.fb })).updLaunch w.e.launch fun l => { l with dropped := min (l.dropped + 1) (2 ^ 32 - 1) }).wordDone w :=
  runWord_ok h (by
    have ho : (decide (w.tr.mesh.v ≤ slice (x.n 0) 0 8) || decide (w.tr.mesh.a < slice (x.n 0) 8 3)) = true := by simpa using hout
    simp only [hx, bind, Except.bind, require_of_true (beq_iff_eq.2 hz), require_of_true hm, ho, hs, Bool.and_false, Bool.false_eq_true, if_false, if_true,
      Thread.owe_ok (o := { flag := w.t.fb }) hroom]
    rfl)

end

theorem execMvtx_keeps (hout : ¬(w.tr.mesh.v ≤ slice (x.n 0) 0 8 ∨ w.tr.mesh.a < slice (x.n 0) 8 3)) (hroom : x.t.Room [w.t.fb]) :
    exec (.mvtx d a g) s = ((s.setThread w.k (x.t.owing
        { flag := w.t.fb, late := some (.vert (slice (x.n 0) 0 8) (slice (x.n 0) 8 3) d.toNat (x.ws 1)) })).updTroupe w.trI fun tr =>
      { tr with mesh := tr.mesh.setVert (slice (x.n 0) 0 8) (slice (x.n 0) 8 3) (BitVec.ofNat 128 (x.n 1)) }).wordDone w :=
  runWord_ok h (by
    have ho : (decide (w.tr.mesh.v ≤ slice (x.n 0) 0 8) || decide (w.tr.mesh.a < slice (x.n 0) 8 3)) = false := by simpa using hout
    simp only [hx, bind, Except.bind, require_of_true (beq_iff_eq.2 hz), require_of_true hm, ho, Bool.false_and, Bool.false_eq_true, if_false,
      Thread.owe_ok (o := { flag := w.t.fb, late := some (.vert (slice (x.n 0) 0 8) (slice (x.n 0) 8 3) d.toNat (x.ws 1)) }) hroom])

end

/-! ### MPRIM (R295) -/

section
variable (hx : w.t.fetch [] [rd1 a [.b32], rd2 d []] = .ok x) (hz : slice (x.n 0) 9 23 = 0) (hz1 : slice (x.n 1) 25 7 = 0)
include hx hz hz1

theorem execMprim_refused (hm : w.e.isMesh = false) : exec (.mprim d a g) s = s.trapped w .payloadProtocol 0 0 :=
  runWord_error h (by
    have hres : (slice (x.n 0) 9 23 == 0 && slice (x.n 1) 25 7 == 0) = true := by simp [hz, hz1]
    simp only [hx, bind, Except.bind, require_of_true hres, require_of_false hm])

variable (hm : w.e.isMesh = true)
include hm

/-- The state in which an MPRIM has issued: its sources may be read again where it has kept a primitive and cannot trap (R38, R39). -/
def State.primIssued (s : State) (w : Who) (x : Fetched) (l : Option LateRead) : State :=
  s.setThread w.k (x.t.owing { flag := w.t.fb, late := l })

theorem execMprim_strict (ho : decide (w.tr.mesh.p ≤ slice (x.n 0) 0 9) = true ∨ w.tr.mesh.primBad (x.n 1) = true) (hs : s.meshStrict w = true) :
    exec (.mprim d a g) s = s.trapped w .meshBounds 0 (w64 (slice (x.n 0) 0 9)) :=
  runWord_error h (by
    have hres : (slice (x.n 0) 9 23 == 0 && slice (x.n 1) 25 7 == 0) = true := by simp [hz, hz1]
    have hb : ((decide (w.tr.mesh.p ≤ slice (x.n 0) 0 9) || w.tr.mesh.primBad (x.n 1)) && s.meshStrict w) = true := by simpa [hs] using ho
    have hlt : slice (x.n 0) 0 9 % 512 = slice (x.n 0) 0 9 := Nat.mod_eq_of_lt (slice_lt ..)
    simp only [hx, bind, Except.bind, require_of_true hres, require_of_true hm, hb, if_true, Who.boundsTrap, hlt])

section
variable {out bad : Bool} (hout : decide (w.tr.mesh.p ≤ slice (x.n 0) 0 9) = out) (hbad : w.tr.mesh.primBad (x.n 1) = bad)
  (hgo : ((out || bad) && s.meshStrict w) = false) (hroom : x.t.Room [w.t.fb]) {again : Option LateRead}
  (hagain : again = if (decide (w.tr.mesh.p ≤ slice (x.n 0) 0 9) || s.meshStrict w) = true then none
    else some (.prim (slice (x.n 0) 0 9) d.toNat (x.ws 1)))
include hout hbad hgo hroom hagain

theorem execMprim_goes : exec (.mprim d a g) s = State.wordDone (if out = true then
      (s.primIssued w x again).updLaunch w.e.launch fun l => { l with dropped := satCount l.dropped }
    else if bad = true then
      ((s.primIssued w x again).updTroupe w.trI fun tr =>
        { tr with mesh := tr.mesh.setPrim (slice (x.n 0) 0 9) (w64 (x.n 1), bitAt (x.n 1) 24 || bad) }).updLaunch w.e.launch fun l =>
          { l with culled := satCount l.culled }
    else (s.primIssued w x again).updTroupe w.trI fun tr =>
      { tr with mesh := tr.mesh.setPrim (slice (x.n 0) 0 9) (w64 (x.n 1), bitAt (x.n 1) 24 || bad) }) w :=
  runWord_ok h (by
    have hres : (slice (x.n 0) 9 23 == 0 && slice (x.n 1) 25 7 == 0) = true := by simp [hz, hz1]
    rw [hout] at hagain
    simp only [hx, bind, Except.bind, require_of_true hres, require_of_true hm, hout, hbad, hgo, Bool.false_eq_true, if_false, ← hagain,
      Thread.owe_ok (o := { flag := w.t.fb, late := again }) hroom]
    cases out
    · rfl
    · rfl)

end

section
variable (hroom : x.t.Room [w.t.fb]) {again : Option LateRead}
  (hagain : again = if (decide (w.tr.mesh.p ≤ slice (x.n 0) 0 9) || s.meshStrict w) = true then none
    else some (.prim (slice (x.n 0) 0 9) d.toNat (x.ws 1)))
include hroom hagain

theorem execMprim_drops (hs : s.meshStrict w = false) (ho : w.tr.mesh.p ≤ slice (x.n 0) 0 9) : exec (.mprim d a g) s =
    ((s.primIssued w x again).updLaunch w.e.launch fun l => { l with dropped := satCount l.dropped }).wordDone w :=
  execMprim_goes h hx hz hz1 hm (decide_eq_true ho) rfl (by simp [hs]) hroom hagain

variable (ho : ¬w.tr.mesh.p ≤ slice (x.n 0) 0 9)
include ho

theorem execMprim_culls (hs : s.meshStrict w = false) (hbad : w.tr.mesh.primBad (x.n 1) = true) : exec (.mprim d a g) s =
    (((s.primIssued w x again).updTroupe w.trI fun tr =>
      { tr with mesh := tr.mesh.setPrim (slice (x.n 0) 0 9) (w64 (x.n 1), true) }).updLaunch w.e.launch fun l =>
        { l with culled := satCount l.culled }).wordDone w := by
  have hgo := execMprim_goes h hx hz hz1 hm (decide_eq_false ho) hbad (by simp [hs]) hroom hagain
  rwa [Bool.or_true, if_neg Bool.false_ne_true, if_pos rfl] at hgo

theorem execMprim_keeps (hbad : w.tr.mesh.primBad (x.n 1) = false) : exec (.mprim d a g) s =
    ((s.primIssued w x again).updTroupe w.trI fun tr =>
      { tr with mesh := tr.mesh.setPrim (slice (x.n 0) 0 9) (w64 (x.n 1), bitAt (x.n 1) 24) }).wordDone w := by
  have hgo := execMprim_goes h hx hz hz1 hm (decide_eq_false ho) hbad (by simp) hroom hagain
  rwa [Bool.or_false, if_neg Bool.false_ne_true, if_neg Bool.false_ne_true] at hgo

end
end
end

end Sys2Proof.Machine

namespace Sys2Proof.Machine

/-! ### TDISP (R291, R292) -/

/-- What a TDISP of n mesh ensembles and a payload of some bytes does once its packet and its pass stand: s2 has read them, and s3 knows the pass
as number i. -/
def State.dispatch (s2 s3 : State) (w : Who) (t : Thread) (mesh : Packet) (i n bytes : Nat) : Except Stop State :=
  if n = 0 then .ok (s3.setThread w.k t)
  else if !s2.ringFirst w then .error (.hold (s2.ringPark w) (.parked .ringSlot s2.clock))
  else match (s2.core w.tr.core).freeSlot with
    | none => .error (.hold (s2.ringPark w) (.parked .ringSlot s2.clock))
    | some slot =>
      if !s2.released w.t .dv then .error (.hold (s2.ringPark w) (.parked .drain s2.clock))
      else .ok ((upFrom 0 n).foldl (fun (s : State) j => s.queueEnsemble
        { ctx := w.cI, launch := w.e.launch, index := j, packet := mesh, role := .mesh i w.tr.core slot, group := w.group, payload := s2.stagedBytes w bytes })
        ((s3.setThread w.k t).updCore w.tr.core fun c => { c with
          ring := updateAt c.ring slot fun _ => { left := n, data := s2.stagedBytes w bytes }, ringLast := slot
          ringWait := c.ringWait.filter (· != w.k) }))

/-- The pass of a TDISP: the one that its launch has named before, or the one that it is the first to name and reads. -/
def State.Named (s1 s2 s3 : State) (w : Who) (at_ : DWord) (i : Nat) : Prop :=
  (∃ p, (s1.launch w.e.launch).pass = some i ∧ s1.passes[i]? = some p ∧ p.addr = at_ ∧ s2 = s1 ∧ s3 = s1) ∨
    (∃ desc shade chunks, (s1.launch w.e.launch).pass = none ∧ s1.readPass w at_ = .ok (s2, desc, shade, chunks) ∧ passFailure desc shade = none ∧
      (∀ c ∈ chunks, chunkBad c = false) ∧ i = s2.passes.length ∧
      s3 = { (s2.updLaunch w.e.launch fun l => { l with pass := some i }) with passes := s2.passes ++
        [{ ctx := w.cI, launch := w.e.launch, addr := at_, desc := desc, shade := shade.getD 0, chunks := chunks }] })

section
variable {s s1 s2 s3 : State} {w : Who} {g : PredField} {a : RegField} {x : Fetched} {mesh : Packet} {i : Nat} (h : Executes s w g)
  (hx : w.t.fetch [] [rd4 a [.b32]] = .ok x) (hz : slice (x.n 0) 19 13 = 0) (hz1 : slice (x.n 0) 47 17 = 0)
  (he : s.successorEntry w (slice (x.n 0) 16 3) = .ok (s1, some mesh)) (hb : slice (x.n 0) 32 15 % 16 = 0) (hb1 : slice (x.n 0) 32 15 ≤ stagingBytes)
  (hm : packetFailure mesh = none) (hsl : slice (x.n 0) 32 15 ≤ pkSlice mesh) (hp : State.Named s1 s2 s3 w (w64 (slice (x.n 0) 64 64)) i)
include h hx hz hz1 he hb hb1 hm hsl hp

theorem execTdisp_eq : execTdisp a g s = runWord s g fun _ =>
    if w.e.isTask then s2.dispatch s3 w x.t mesh i (slice (x.n 0) 0 16) (slice (x.n 0) 32 15) else payloadTrap 0xFF := by
  have hres : (slice (x.n 0) 19 13 == 0 && slice (x.n 0) 47 17 == 0) = true := by simp [hz, hz1]
  have hgood : (slice (x.n 0) 32 15 % 16 != 0 || decide (stagingBytes < slice (x.n 0) 32 15) || (some mesh).isNone || (packetFailure mesh).isSome ||
      decide (pkSlice mesh < slice (x.n 0) 32 15)) = false := by
    simp [hb, hm, Nat.not_lt.2 hb1, Nat.not_lt.2 hsl]
  have hbody {b b' : Who → Except Stop State} (heq : b w = b' w) : runWord s g b = runWord s g b' := by
    simp only [runWord, h.1, heq]
  refine hbody ?_
  simp only [hx, bind, Except.bind, require_of_true hres, he]
  rcases hp with ⟨p, hl, hpi, ha, rfl, rfl⟩ | ⟨desc, shade, chunks, hl, hr, hf, hc, rfl, rfl⟩
  · have hsame : ((some p).map (·.addr) == some (w64 (slice (x.n 0) 64 64))) = true := by simp [ha]
    simp only [hl, hpi, hsame, if_true, hgood, Option.getD_some, Option.isSome_none, Bool.and_false, Bool.or_false, Bool.false_eq_true, if_false]
    cases ht : w.e.isTask
    · rfl
    · rfl
  · have hnew : ((none : Option Pass).map (·.addr) == some (w64 (slice (x.n 0) 64 64))) = false := rfl
    have hchunks : chunks.any chunkBad = false := by simpa using hc
    simp only [hl, hnew, Bool.false_eq_true, if_false, hr, Except.map, hgood, Option.isSome_none, Bool.false_and, Bool.or_false, hf, hchunks, Option.getD_some]
    cases ht : w.e.isTask
    · rfl
    · rfl

theorem execTdisp_refused (ht : w.e.isTask = false) : execTdisp a g s = s.trapped w .payloadProtocol 0 0xFF := by
  rw [execTdisp_eq h hx hz hz1 he hb hb1 hm hsl hp]
  exact runWord_error h (by rw [ht]; rfl)

theorem execTdisp_ok {s' : State} (ht : w.e.isTask = true)
    (hd : s2.dispatch s3 w x.t mesh i (slice (x.n 0) 0 16) (slice (x.n 0) 32 15) = .ok s') : execTdisp a g s = s'.wordDone w := by
  rw [execTdisp_eq h hx hz hz1 he hb hb1 hm hsl hp]
  exact runWord_ok h (by rw [ht]; exact hd)

theorem execTdisp_stops {e : Stop} (ht : w.e.isTask = true)
    (hd : s2.dispatch s3 w x.t mesh i (slice (x.n 0) 0 16) (slice (x.n 0) 32 15) = .error e) : execTdisp a g s = .next (s.stopped w e) := by
  rw [execTdisp_eq h hx hz hz1 he hb hb1 hm hsl hp]
  exact runWord_error h (by rw [ht]; exact hd)

end

section
variable {s2 s3 : State} {w : Who} {t : Thread} {mesh : Packet} {i n bytes : Nat}

theorem State.dispatch_none (hn : n = 0) : s2.dispatch s3 w t mesh i n bytes = .ok (s3.setThread w.k t) := if_pos hn

theorem State.dispatch_unserved (hn : n ≠ 0) (hr : s2.ringFirst w = false ∨ (s2.core w.tr.core).freeSlot = none) :
    s2.dispatch s3 w t mesh i n bytes = .error (.hold (s2.ringPark w) (.parked .ringSlot s2.clock)) := by
  cases hf : s2.ringFirst w with
  | false => simp only [dispatch, hn, if_false, hf, Bool.not_false, if_true]
  | true =>
    have hslot := hr.resolve_left (by simp [hf])
    simp only [dispatch, hn, if_false, hf, Bool.not_true, Bool.false_eq_true, hslot]

variable {slot : Nat} (hn : n ≠ 0) (hf : s2.ringFirst w = true) (hs : (s2.core w.tr.core).freeSlot = some slot)
include hn hf hs

theorem State.dispatch_drains (hr : s2.released w.t .dv = false) :
    s2.dispatch s3 w t mesh i n bytes = .error (.hold (s2.ringPark w) (.parked .drain s2.clock)) := by
  simp only [dispatch, hn, if_false, hf, Bool.not_true, Bool.false_eq_true, hs, hr, Bool.not_false, if_true]

theorem State.dispatch_queues (hr : s2.released w.t .dv = true) : s2.dispatch s3 w t mesh i n bytes =
    .ok ((upFrom 0 n).foldl (fun (s : State) j => s.queueEnsemble
      { ctx := w.cI, launch := w.e.launch, index := j, packet := mesh, role := .mesh i w.tr.core slot, group := w.group, payload := s2.stagedBytes w bytes })
      ((s3.setThread w.k t).updCore w.tr.core fun c => { c with
        ring := updateAt c.ring slot fun _ => { left := n, data := s2.stagedBytes w bytes }, ringLast := slot
        ringWait := c.ringWait.filter (· != w.k) })) := by
  simp only [dispatch, hn, if_false, hf, Bool.not_true, Bool.false_eq_true, hs, hr]

end

/-! ### Binning and shade threads (R302, R303, R347, R378) -/

section
variable {s : State} {i : Nat} {p : Pass} (hp : s.passes[i]? = some p)
include hp

theorem State.passes_updPass (f : Pass → Pass) : (s.updPass i f).passes[i]? = some (f p) := by
  simp only [State.updPass, getElem?_updateAt, hp, if_true, Option.map_some]

section
variable {n : Nat} {r : BinRec} (hr : p.recs[n]? = some r)
include hr

theorem execBinRecord_idle (hno : p.live = false ∨ r.tiles = [] ∨ s.engineRuns p.ctx 5 = false) : exec (.binRecord i n) s = .next s := by
  change execBinRecord i n s = _
  simp only [execBinRecord, hp, hr]
  refine if_pos ?_
  rcases hno with hno | hno | hno
  · simp [hno]
  · simp [hno]
  · simp [hno]

theorem execBinRecord_applies (hl : p.live = true) (ht : r.tiles ≠ []) (hrun : s.engineRuns p.ctx 5 = true) : exec (.binRecord i n) s =
    .next (s.updPass i fun p => let q := p.applyRecord r (Config.choice s.moves)
      { q with recs := updateAt q.recs n fun x => { x with tiles := [] } }) := by
  change execBinRecord i n s = _
  simp only [execBinRecord, hp, hr]
  exact if_neg (by simp [hl, ht, hrun])

end

section
variable {tile : Nat}

theorem execShadeThreadFormation_idle {order sizes : List Nat} (hno : tile ∈ p.formed ∨ tileCount p.desc ≤ tile ∨ p.live = false ∨
      (∃ r ∈ p.recs, tile ∈ r.tiles) ∨ s.geometryDone p.launch = false ∨ s.engineRuns p.ctx 5 = false) :
    exec (.shadeThreadFormation i tile order sizes) s = .next s := by
  change execShadeThreadFormation i tile order sizes s = _
  simp only [execShadeThreadFormation, hp]
  refine if_pos ?_
  rcases hno with hno | hno | hno | ⟨r, hr, hno⟩ | hno | hno
  · simp [hno]
  · simp [Nat.not_lt.2 hno]
  · simp [hno]
  · have hex : ∃ r ∈ p.recs, tile ∈ r.tiles := ⟨r, hr, hno⟩
    simp [hex]
  · simp [hno]
  · simp [hno]

variable (hform : tile ∉ p.formed) (htile : tile < tileCount p.desc) (hl : p.live = true) (hrecs : ∀ r ∈ p.recs, tile ∉ r.tiles)
  (hgeo : s.geometryDone p.launch = true) (hhalt : (s.ctx p.ctx).halt = none) (hrun : s.engineRuns p.ctx 5 = true)
include hform htile hl hrecs hgeo hhalt hrun

theorem execShadeThreadFormation_empty (hu : ∀ f, shadeUnits p tile f = []) :
    exec (.shadeThreadFormation i tile [] []) s = .next (s.updPass i fun p => { p with formed := p.formed ++ [tile] }) := by
  change execShadeThreadFormation i tile [] [] s = _
  simp only [execShadeThreadFormation, hp, hu]
  exact if_neg (by simpa [hl, htile, hform, hgeo, hhalt, hrun] using hrecs)

theorem execShadeThreadFormation_one {r : ShadeRec} (hu : ∀ f, shadeUnits p tile f = [[r]]) (hd : pdDerivs p.desc = false)
    (htx : 1 ≤ fieldOf p.shade 40 0 16) : exec (.shadeThreadFormation i tile [0] [1]) s =
    .next ((s.updPass i fun p => { p with formed := p.formed ++ [tile] }).queueEnsemble
      { ctx := p.ctx, launch := p.launch, index := Config.shadeIndex s.ensembles.length % 2 ^ 48, packet := p.shade, role := .shade i, shades := [r] }) := by
  change execShadeThreadFormation i tile [0] [1] s = _
  simp only [execShadeThreadFormation, hp, hu, hd]
  refine (if_neg ?_).trans rfl
  simpa [hl, htile, hform, hgeo, hhalt, hrun, htx, nth] using hrecs

end
end

theorem MeshStore.primBad_iff (m : MeshStore) (v : Nat) :
    m.primBad v = true ↔ (∃ i < 3, m.v ≤ slice v (8 * i) 8) ∨ slice v 32 32 = 2 ^ 32 - 1 := by
  simp only [primBad, Bool.or_eq_true, List.any_eq_true, mem_upFrom, decide_eq_true_eq, beq_iff_eq]
  refine or_congr_left (exists_congr fun i => and_congr_left fun _ => ?_)
  omega

/-- Settles O43: the role, the staging, the counts and the ring decide what a word of the task and mesh stages does, and whether a tile is final
when its shade threads form. -/
theorem geometry : Obligations.Geometry := by
  unfold Obligations.Geometry
  refine ⟨fun s w g d a x h => ⟨fun hx => ⟨execTpay_misaligned h hx, execTpay_refused h hx,
      fun l ho ht hlt hsl hl hroom => execTpay_stores h hx ho ht hlt hsl hl hroom⟩,
    fun hx s1 s2 s3 mesh i slot hz hz1 he hb hb1 hm hsl hp => ⟨?_, fun ht => ⟨?_, ?_, ?_, ?_⟩⟩,
    fun hx => ⟨execMcnt_reserved h hx, execMcnt_bounds h hx, execMcnt_refused h hx, execMcnt_fixes h hx⟩,
    fun hx hz hm => execMvtx_refused h hx hz hm,
    fun hx hz hm => ⟨execMvtx_strict h hx hz hm, execMvtx_drops h hx hz hm, execMvtx_keeps h hx hz hm⟩,
    fun hx hz hz1 hm => execMprim_refused h hx hz hz1 hm, ?_⟩, fun s i p hp => ⟨fun n r hr => ⟨execBinRecord_idle hp hr, ?_⟩, ?_⟩⟩
  · exact fun ht => execTdisp_refused h hx hz hz1 he hb hb1 hm hsl hp ht
  · exact fun hn => execTdisp_ok h hx hz hz1 he hb hb1 hm hsl hp ht (State.dispatch_none hn)
  · exact fun hn hw => execTdisp_stops h hx hz hz1 he hb hb1 hm hsl hp ht (State.dispatch_unserved hn hw)
  · exact fun hn hf hs hr => execTdisp_stops h hx hz hz1 he hb hb1 hm hsl hp ht (State.dispatch_drains hn hf hs hr)
  · exact fun hn hf hs hr => execTdisp_ok h hx hz hz1 he hb hb1 hm hsl hp ht (State.dispatch_queues hn hf hs hr)
  · intro hx hz hz1 hm q out bad again s1 keep
    have hbad : w.tr.mesh.primBad (x.n 1) = true ↔ bad := MeshStore.primBad_iff _ _
    have hagain : again = if (decide (w.tr.mesh.p ≤ q) || s.meshStrict w) = true then none else some (.prim q d.toNat (x.ws 1)) :=
      if_congr (by simp only [out, Bool.or_eq_true, decide_eq_true_eq]) rfl rfl
    refine ⟨fun hob hs => execMprim_strict h hx hz hz1 hm (hob.imp decide_eq_true hbad.2) hs,
      fun ho hs hroom => execMprim_drops h hx hz hz1 hm hroom hagain hs ho, fun ho hb hs hroom => execMprim_culls h hx hz hz1 hm hroom hagain ho hs (hbad.2 hb),
      fun ho hb hroom => execMprim_keeps h hx hz hz1 hm hroom hagain ho (Bool.eq_false_iff.2 (mt hbad.1 hb))⟩
  · exact fun hl ht hrun => ⟨_, execBinRecord_applies hp hr hl ht hrun, rfl, rfl, State.passes_updPass hp _⟩
  · exact fun tile order sizes => ⟨execShadeThreadFormation_idle hp, fun hform htile hl hrecs hgeo hhalt hrun =>
      ⟨execShadeThreadFormation_empty hp hform htile hl hrecs hgeo hhalt hrun,
        fun r hu hd htx => execShadeThreadFormation_one hp hform htile hl hrecs hgeo hhalt hrun hu hd htx⟩⟩

end Sys2Proof.Machine

namespace Sys2Proof.Machine

/-! ## Submission, placement, completion and pre-emption (O45; 12_launch.md R269 to R286, 15_system.md R341, 17_platform.md R377) -/

/-! ### LAUNCH and LWAIT (R284, R285) -/

section
variable {s s1 : State} {w : Who} {g : PredField} {d a : RegField} {x : Fetched} {v : Nat} (h : Executes s w g)
include h

section
variable (hx : w.t.fetch [wr1 d] [rd2 a [.b32]] = .ok x) (hr : s.loadRecord w (w64 (x.n 0)) 128 128 = .ok (s1, v))
include hx hr

theorem execLaunch_waits (hno : ¬(s1.released w.t .dv = true ∧ s1.launchHeld w = false)) :
    exec (.launch d a g) s = .next (s.stopped w (.park .launchStatus)) :=
  runWord_error h (by
    have hb : (!s1.released w.t .dv || s1.launchHeld w) = true := by
      by_contra hc
      exact hno (by simpa using hc)
    simp only [hx, bind, Except.bind, hr, hb, if_true])

/-- The queue of a thread's launch judges the packet, and its answer stands in d. -/
theorem execLaunch_answers {s2 : State} {ans : Nat × Nat × Nat} (hgo : s1.released w.t .dv = true ∧ s1.launchHeld w = false)
    (ha : s1.judgePacket (s1.launch w.e.launch).queue (BitVec.ofNat 1024 v) = ans)
    (hq : s1.enqueue (s1.launch w.e.launch).queue (BitVec.ofNat 1024 v) ans.1 = .ok s2) :
    exec (.launch d a g) s = s2.threadDone w (x.t.setReg d.toNat (w32 (ans.1 + ans.2.1 * 256 + ans.2.2 * 65536)) .b32) :=
  runWord_ok h (by
    obtain ⟨hrel, hheld⟩ := hgo
    simp only [hx, bind, Except.bind, hr, hrel, hheld, ha, hq]
    rfl)

end

section
variable (hx : w.t.fetch [] [rd4 a [.b32]] = .ok x) (hr : { s with viaL1 := false }.loadRecord w (w64 (x.n 0)) 8 8 = .ok (s1, v))
include hx hr

theorem execLwait_goes (hv : x.n 0 / 2 ^ 64 ≤ v) : exec (.lwait a g) s = s1.threadDone w (x.t.acquired .sy s1.stamp) :=
  runWord_ok h (by simp only [hx, bind, Except.bind, hr, hv, if_true])

theorem execLwait_waits (hv : v < x.n 0 / 2 ^ 64) : exec (.lwait a g) s = .next (s.stopped w (.park (.counter (w64 (x.n 0))))) :=
  runWord_error h (by simp only [hx, bind, Except.bind, hr, Nat.not_le.2 hv, if_false])

end
end

/-! ### The judgement of a packet, and its place in the ring (R269 to R272) -/

section
variable {s : State} {qI : Nat} {q : UQueue} {p : Packet} (hq : nth s.queues qI {} = q)
include hq

theorem State.judgePacket_disabled (hd : q.disabled = true) : s.judgePacket qI p = (3, 6, 0) := by
  simp only [judgePacket, hq, hd, if_true]

theorem State.judgePacket_fails {r off : Nat} (hd : q.disabled = false) (hp : packetFailure p = some (r, off)) :
    s.judgePacket qI p = (3, r, off) := by
  simp only [judgePacket, hq, hd, hp, Bool.false_eq_true, if_false]

theorem State.judgePacket_exceeds {off : Nat} (hd : q.disabled = false) (hp : packetFailure p = none) (he : packetExceeds p = some off) :
    s.judgePacket qI p = (3, 1, off) := by
  simp only [judgePacket, hq, hd, hp, he, Bool.false_eq_true, if_false]

theorem State.judgePacket_queues (hd : q.disabled = false) (hp : packetFailure p = none) (he : packetExceeds p = none) :
    s.judgePacket qI p = if q.ring ≤ q.pending.length then (3, 5, 0) else if q.slot = none then (1, 0, 0) else (0, 0, 0) := by
  simp only [judgePacket, hq, hd, hp, he, Bool.false_eq_true, if_false]
  cases q.slot <;> rfl

/-- An accepted packet of an unmapped queue is written to the queue's image by the Ringmaster. -/
theorem State.enqueue_unmapped {pas : List Nat} (hw : s.gaffer.works 2 = true)
    (he : s.engineReady q.ctx 436 (upFrom (q.base + 128 * q.tail) 128) { write := true } = .ok pas) :
    s.enqueue qI p 1 = .ok ((s.acceptPacket qI p).engineWrite q.ctx pas (toBytes p.toNat 128)) := by
  simp only [enqueue, hq, hw, UQueue.entryBytes, ringmaster, he, bind, Except.bind]
  rfl

/-- While the domain has no Ringmaster the memory island writes it (R377). -/
theorem State.enqueue_island (hw : s.gaffer.works 2 = false) :
    s.enqueue qI p 1 = .ok ((s.acceptPacket qI p).islandStore (upFrom (q.base + 128 * q.tail) 128) (toBytes p.toNat 128)) := by
  simp only [enqueue, hq, hw]
  rfl

end

/-! ### Submission stores and queues (R269, R272) -/

section
variable {s : State} {page : Nat} {whole : Bool} {pkt : Packet}

theorem execSubmission_unknown {same : Bool} (hno : ∀ q ∈ s.queues, q.page ≠ page) : exec (.submission page whole same pkt) s = .next s := by
  have hf : findIdx (fun (q : UQueue) => q.page == page) s.queues = none := by simpa [findIdx] using hno
  change execSubmission page whole same pkt s = _
  simp only [execSubmission, hf]

variable {qI : Nat} {q : UQueue} (hq : s.queues[qI]? = some q)
include hq

theorem nth_of_getElem? : nth s.queues qI {} = q := by
  rw [nth, List.getD_eq_getElem?_getD, hq, Option.getD_some]

variable (hpage : q.page = page) (hfirst : ∀ j < qI, ∀ r, s.queues[j]? = some r → r.page ≠ page)
include hpage hfirst

theorem findIdx_page : findIdx (fun (q : UQueue) => q.page == page) s.queues = some qI := by
  obtain ⟨hlt, hget⟩ := List.getElem?_eq_some_iff.1 hq
  rw [findIdx, List.findIdx?_eq_some_iff_getElem]
  refine ⟨hlt, by simp [hget, hpage], fun j hj => ?_⟩
  have hjl : j < s.queues.length := hj.trans hlt
  simpa using hfirst j hj _ (List.getElem?_eq_getElem hjl)

theorem execSubmission_down {same : Bool} (hl : s.linkUp = false) : exec (.submission page whole same pkt) s = .next s := by
  change execSubmission page whole same pkt s = _
  simp only [execSubmission, findIdx_page hq hpage hfirst, hl, Bool.not_false, if_true]

theorem execSubmission_moving (hl : s.linkUp = true) (hs : q.slot = none) (hw : s.gaffer.works 2 = true) :
    exec (.submission page whole true pkt) s = .next (s.say (.status page 2)) := by
  change execSubmission page whole true pkt s = _
  simp only [execSubmission, findIdx_page hq hpage hfirst, nth_of_getElem? hq, hl, hs, hw]
  rfl

theorem execSubmission_answers {s1 : State} {ans : Nat × Nat × Nat} (hl : s.linkUp = true)
    (ha : ans = if whole then s.judgePacket qI pkt else (3, 7, 0)) (he : s.enqueue qI pkt ans.1 = .ok s1) :
    exec (.submission page whole false pkt) s = .next ((s1.updQueue qI fun q =>
      { q with err := if ans.1 = 3 then w32 (3 + ans.2.1 * 256 + ans.2.2 * 65536) else w32 (putSlice q.err.toNat 0 2 ans.1) }).say
        (.status page (BitVec.ofNat 2 ans.1))) := by
  have herr (q : UQueue) : q.errAfter ans =
      if ans.1 = 3 then w32 (3 + ans.2.1 * 256 + ans.2.2 * 65536) else w32 (putSlice q.err.toNat 0 2 ans.1) := by
    unfold UQueue.errAfter errWord
    split
    next h3 => rw [h3]
    next => rfl
  change execSubmission page whole false pkt s = _
  simp only [execSubmission, findIdx_page hq hpage hfirst, hl, Bool.not_true, Bool.false_and, Bool.false_eq_true, if_false, ← ha, he, herr]

end

section
variable {s : State} {queue slot : Nat} {q : UQueue} (hq : s.queues[queue]? = some q)
include hq

/-- The slot is free and the queue has none, and the Ringmaster takes queues (R272, R377). -/
def State.MayMap (s : State) (q : UQueue) (slot : Nat) : Prop :=
  slot < 64 ∧ (∀ q ∈ s.queues, q.slot ≠ some slot) ∧ q.slot = none ∧ s.gaffer.works 2 = true ∧ s.gaffer.state ≠ .draining

omit hq in
theorem State.mayMap_iff : s.MayMap q slot ↔ (decide (64 ≤ slot) || (s.queues.any fun q => q.slot == some slot) || q.slot.isSome || !s.gaffer.works 2 ||
    s.gaffer.state == .draining) = false := by
  simp [MayMap, and_assoc]

theorem execQueueMap_maps {pas : List Nat} (hm : s.MayMap q slot)
    (he : s.engineReady q.ctx 436 (q.pending.flatMap fun l => upFrom (q.base + 128 * (s.launch l).entry) 128) { read := true } = .ok pas) :
    exec (.queueMap queue slot) s = .next ((q.pending.foldl (fun (s : State) l => s.updLaunch l fun x =>
      { x with packet := BitVec.ofNat 1024 (s.readNat (upFrom (q.base + 128 * x.entry) 128)) }) s).updQueue queue fun q => { q with slot := some slot }) := by
  change execQueueMap queue slot s = _
  simp only [execQueueMap, hq, State.mayMap_iff.1 hm, Bool.false_eq_true, if_false, UQueue.entryBytes, ringmaster, he]

theorem execQueueMap_idle (hm : ¬s.MayMap q slot) : exec (.queueMap queue slot) s = .next s := by
  have hb := Bool.eq_true_of_not_eq_false (mt State.mayMap_iff.2 hm)
  change execQueueMap queue slot s = _
  simp only [execQueueMap, hq, hb, if_true]

theorem execQueueUnmap_idle (hs : q.slot = none) : exec (.queueUnmap queue) s = .next s := by
  change execQueueUnmap queue s = _
  simp only [execQueueUnmap, State.unmapQueue, nth_of_getElem? hq, hs]
  rfl

theorem execQueueUnmap_unmaps {pas : List Nat} (hs : q.slot ≠ none)
    (he : s.engineReady q.ctx 436 (q.pending.flatMap fun l => upFrom (q.base + 128 * (s.launch l).entry) 128) { write := true } = .ok pas) :
    exec (.queueUnmap queue) s = .next ((q.pending.foldl (fun (s : State) l => s.engineWrite q.ctx (upFrom (q.base + 128 * (s.launch l).entry) 128)
      (toBytes (s.launch l).packet.toNat 128)) s).updQueue queue fun q => { q with slot := none }) := by
  have hn : q.slot.isNone = false := Option.isNone_eq_false_iff.2 (Option.isSome_iff_ne_none.2 hs)
  change execQueueUnmap queue s = _
  simp only [execQueueUnmap, State.unmapQueue, nth_of_getElem? hq, hn, Bool.false_eq_true, if_false, UQueue.entryBytes, ringmaster, he, bind,
    Except.bind]
  rfl

end

section
variable {s : State} {ctx page ring base : Nat}

/-- A queue may be created: its page is the aperture's and no other queue's, its context lives, and its ring lies in memory. -/
def State.MayCreate (s : State) (ctx page ring base : Nat) : Prop :=
  page < 16384 ∧ (∀ q ∈ s.queues, q.page ≠ page) ∧ (∃ c, s.contexts[ctx]? = some c ∧ c.live = true) ∧ base + 128 * ring ≤ 2 ^ 52

theorem State.mayCreate_iff : (decide (page < 16384) && !(s.queues.any fun q => q.page == page) && ((s.contexts[ctx]?.map (·.live)).getD false)
    && decide (base + 128 * ring ≤ 2 ^ 52)) = true ↔ s.MayCreate ctx page ring base := by
  cases hc : s.contexts[ctx]? <;> simp [MayCreate, hc, and_assoc]

theorem execQueueCreation_adds (hm : s.MayCreate ctx page ring base) : exec (.queueCreation ctx page ring base) s =
    .next { s with queues := s.queues ++ [{ ctx := ctx, page := page, ring := ring, base := base }] } :=
  if_pos (State.mayCreate_iff.2 hm)

theorem execQueueCreation_idle (hm : ¬s.MayCreate ctx page ring base) : exec (.queueCreation ctx page ring base) s = .next s :=
  if_neg (mt State.mayCreate_iff.1 hm)

end

section
variable {s : State} {tr : Nat}

theorem execRegisterClear_clears (hh : (s.ctx (s.ctxOfTroupe tr)).halt = none) :
    exec (.registerClear tr) s = .next (s.updTroupe tr fun t => { t with cleared := true }) :=
  congrArg Host.Outcome.next (if_neg (by simp [hh]))

theorem execRegisterClear_halted (hh : (s.ctx (s.ctxOfTroupe tr)).halt ≠ none) : exec (.registerClear tr) s = .next s :=
  congrArg Host.Outcome.next (if_pos (Option.isSome_iff_ne_none.2 hh))

end

/-! ### Placement (R273 to R276) -/

section
variable {s : State} {cores : List Nat}

theorem execPlacementOpportunity_idle (hno : s.gaffer.ready.getLsbD 2 = false ∨ s.gaffer.state = .draining) :
    exec (.placementOpportunity cores) s = .next s :=
  if_pos (by
    rcases hno with hno | hno
    · rw [hno]
      rfl
    · rw [hno]
      exact Bool.or_true _)

/-- With no head to place no queue is served, and nothing of the arbitration moves. -/
theorem State.chooseQueue_none (hno : ∀ q ∈ s.queues, s.placeable q = false) : s.chooseQueue = (s, none) := by
  have hf : ([3, 2, 1, 0].find? fun lv => s.queues.any fun q => s.level q == lv && s.placeable q) = none := by
    refine List.find?_eq_none.2 fun lv _ => ?_
    simpa using fun q hq _ => hno q hq
  simp only [chooseQueue, hf]

section
variable {s1 : State} (hs1 : s1 = s.checkDeps.tidyQueues) (hr : s.gaffer.ready.getLsbD 2 = true) (hd : s.gaffer.state ≠ .draining)
include hs1 hr hd

theorem execPlacementOpportunity_none (hno : ∀ q ∈ s1.queues, s1.placeable q = false) : exec (.placementOpportunity cores) s = .next s1 := by
  change execPlacementOpportunity cores s = _
  simp only [execPlacementOpportunity, hr, beq_false_of_ne hd, ← hs1, State.chooseQueue_none hno]
  rfl

theorem execPlacementOpportunity_places {s2 : State} {qI : Nat} {h : Head} (hc : s1.chooseQueue = (s2, some qI))
    (hh : (nth s2.queues qI {}).head = some h) (hcs : s2.headCores h cores = some cores) :
    exec (.placementOpportunity cores) s = .next (s2.placeHead qI h cores) := by
  change execPlacementOpportunity cores s = _
  simp only [execPlacementOpportunity, hr, beq_false_of_ne hd, ← hs1, hc, hh, hcs]
  rfl

end
end

theorem UQueue.head_eq (q : UQueue) : q.head = match q.vacated, q.extra, q.pending with
    | e :: _, _, _ => some (.saved e)
    | [], e :: _, _ => some (.extra e)
    | [], [], l :: _ => some (.fresh l)
    | [], [], [] => none := by
  unfold UQueue.head
  rfl

/-! ### Dependence writes, completion and the watchdog (R273, R279, R341) -/

section
variable {s : State} {addr : Nat} {v : DWord}

theorem execDependenceWrite_unawaited (hno : ∀ l ∈ s.launches, l.depMet = true ∨ l.done = true ∨ fieldOf l.packet 88 0 64 ≠ addr) :
    exec (.dependenceWrite addr v) s = .next s := by
  have hf : (s.launches.filter fun l => !l.depMet && !l.done && fieldOf l.packet 88 0 64 == addr && addr != 0) = [] := by
    refine List.filter_eq_nil_iff.2 fun l hl => ?_
    rcases hno l hl with h | h | h
    · simp [h]
    · simp [h]
    · simp [h]
  change execDependenceWrite addr v s = _
  simp only [execDependenceWrite, hf]

theorem execDependenceWrite_stores {l : Launch} {pas : List Nat} (hl : s.launches[0]? = some l) (hm : l.depMet = false) (hd : l.done = false)
    (ha : fieldOf l.packet 88 0 64 = addr) (h0 : addr ≠ 0) (ht : s.engineTranslate (s.ctx l.ctx).asid 0 (addr % 2 ^ 57) 8 {} = .ok pas) :
    exec (.dependenceWrite addr v) s = .next (s.hostStore pas (toBytes v.toNat 8)).checkDeps := by
  obtain ⟨rest, hrest⟩ : ∃ rest, s.launches = l :: rest := by
    cases hs : s.launches with
    | nil => simp [hs] at hl
    | cons y ys => exact ⟨ys, by simpa [hs] using hl⟩
  obtain ⟨more, hf⟩ : ∃ more, (s.launches.filter fun l => !l.depMet && !l.done && fieldOf l.packet 88 0 64 == addr && addr != 0) = l :: more :=
    ⟨_, by rw [hrest, List.filter_cons_of_pos (by simp [hm, hd, ha, h0])]⟩
  change execDependenceWrite addr v s = _
  simp only [execDependenceWrite, hf, ht]

end

/-- A launch that leaves no record, no message and no pin when it completes (R279, R327). -/
structure Launch.Plain (l : Launch) : Prop where
  counter : fieldOf l.packet 104 0 64 = 0
  message : fieldOf l.packet 112 16 1 = 0
  pin0 : l.pin0 = none
  pin1 : l.pin1 = none

section
variable {s : State} {n : Nat} {l : Launch}

theorem State.launch_of_getElem? (hl : s.launches[n]? = some l) : s.launch n = l := by
  rw [State.launch, nth, List.getD_eq_getElem?_getD, hl, Option.getD_some]

theorem State.getElem?_updLaunch (hl : s.launches[n]? = some l) (f : Launch → Launch) : (s.updLaunch n f).launches[n]? = some (f l) := by
  rw [State.updLaunch, getElem?_updateAt, if_pos rfl, hl, Option.map_some]

theorem State.completionStep_plain (hl : s.launches[n]? = some l) (hp : l.Plain) (ho : s.engineOwes l.ctx = false) (k : Nat) :
    s.completionStep n k = .ok s := by
  obtain ⟨hcounter, hmessage, h0, h1⟩ := hp
  unfold State.completionStep
  simp only [State.launch_of_getElem? hl, hcounter, hmessage, ho, h0, h1, bne_self_eq_false, Bool.false_and, Bool.false_eq_true, if_false,
    zero_ne_one]
  split <;> rfl

/-- A plain completion ends in the launch's end, and writes nothing. -/
theorem State.completeFrom_plain (k : Nat) (hl : s.launches[n]? = some l) (hp : l.Plain) (ho : s.engineOwes l.ctx = false) :
    ((s.completeFrom n k).launch n).done = true ∧ (s.completeFrom n k).mem = s.mem := by
  induction k generalizing s l with
  | zero =>
    refine ⟨?_, rfl⟩
    rw [State.completeFrom, State.launch_of_getElem? (State.getElem?_updLaunch hl _)]
  | succ k ih =>
    simp only [State.completeFrom, State.completionStep_plain hl hp ho]
    obtain ⟨hcounter, hmessage, h0, h1⟩ := hp
    exact ih (State.getElem?_updLaunch hl _) ⟨hcounter, hmessage, h0, h1⟩ ho

section
variable (hl : s.launches[n]? = some l)
include hl

theorem execLaunchCompletion_idle (hno : s.gaffer.works 2 = false ∨ s.launchEnded n = false ∨ s.launchQuiet n = false ∨ (s.ctx l.ctx).halt ≠ none ∨
    s.waits .engine = true) : exec (.launchCompletion n) s = .next s := by
  change execLaunchCompletion n s = _
  simp only [execLaunchCompletion, hl]
  refine if_neg ?_
  rcases hno with h | h | h | h | h
  · simp [h]
  · simp [h]
  · simp [h]
  · simp [h]
  · simp [h]

theorem execLaunchCompletion_ends (hw : s.gaffer.works 2 = true) (he : s.launchEnded n = true) (hq : s.launchQuiet n = true)
    (hh : (s.ctx l.ctx).halt = none) (hwait : s.waits .engine = false) (ho : s.engineOwes l.ctx = false) (hp : l.Plain) :
    ∃ t, exec (.launchCompletion n) s = .next t ∧ (t.launch n).done = true ∧ t.mem = s.mem := by
  refine ⟨s.completeFrom n (6 - l.recorded), ?_, State.completeFrom_plain _ hl hp ho⟩
  change execLaunchCompletion n s = _
  simp only [execLaunchCompletion, hl]
  exact if_pos (by simp [hw, he, hq, hh, hwait])

/-- A launch has run for longer than its context's WDOG allows (R341). -/
def State.Late (s : State) (l : Launch) : Prop :=
  l.started = true ∧ l.done = false ∧ (s.ctx l.ctx).field 72 0 32 ≠ 0 ∧ (s.ctx l.ctx).field 72 0 32 * 2 ^ 20 < (s.fclock - l.start).toNat

omit hl in
theorem State.late_iff : (l.started && !l.done && (s.ctx l.ctx).field 72 0 32 * 2 ^ 20 != 0 &&
    decide ((s.ctx l.ctx).field 72 0 32 * 2 ^ 20 < (s.fclock - l.start).toNat)) = true ↔ s.Late l := by
  simp [Late, and_assoc]

theorem execWatchdog_halts (ht : s.Late l) : exec (.watchdog n) s = .next (s.raiseHalt l.ctx { index := 436, cause := .watchdog }) := by
  change execWatchdog n s = _
  simp only [execWatchdog, hl]
  exact if_pos (State.late_iff.2 ht)

theorem execWatchdog_idle (ht : ¬s.Late l) : exec (.watchdog n) s = .next s := by
  change execWatchdog n s = _
  simp only [execWatchdog, hl]
  exact if_neg (mt State.late_iff.1 ht)

end
end

end Sys2Proof.Machine

namespace Sys2Proof.Machine

/-! ### Pre-emption (R286) -/

section
variable {s : State} {n : Nat} {cores : List Nat}

theorem execPreemptionRequest_goes (hall : ∀ c ∈ s.coresOf n, c ∈ cores) (hne : cores ≠ []) :
    exec (.preemptionRequest n cores) s = .next (s.preempt cores) :=
  congrArg Host.Outcome.next (if_pos (by simpa [hne] using hall))

theorem execPreemptionRequest_idle (hno : cores = [] ∨ ∃ c ∈ s.coresOf n, c ∉ cores) : exec (.preemptionRequest n cores) s = .next s :=
  congrArg Host.Outcome.next (if_neg (by
    rcases hno with rfl | ⟨c, hc, hout⟩
    · simp
    · simpa using fun hall => absurd (hall c hc) hout))

/-- A request for starvation pre-empts for the cores named, or does nothing. -/
theorem execPreemptStarvation_cases : ∃ t, exec (.preemptStarvation n cores) s = .next t ∧ (t = s ∨ t = s.preempt cores) := by
  change ∃ t, execPreemptStarvation n cores s = .next t ∧ _
  unfold execPreemptStarvation
  split
  next => exact ⟨s, rfl, .inl rfl⟩
  next q _ =>
    split
    next h _ =>
      dsimp only
      split
      next => exact ⟨s, rfl, .inl rfl⟩
      next =>
        split
        next m _ =>
          split
          next => exact ⟨_, rfl, .inr rfl⟩
          next => exact ⟨s, rfl, .inl rfl⟩
        next => exact ⟨s, rfl, .inl rfl⟩
    next => exact ⟨s, rfl, .inl rfl⟩

section
variable {q : UQueue} (hq : s.queues[n]? = some q)
include hq

theorem execPreemptStarvation_idle (hno : q.head = none ∨ q.wait = 0 ∨ s.headReady q = false ∨ s.placeable q = true) :
    exec (.preemptStarvation n cores) s = .next s := by
  change execPreemptStarvation n cores s = _
  simp only [execPreemptStarvation, hq]
  cases hh : q.head with
  | none => rfl
  | some h =>
    refine if_pos ?_
    rcases hno with hno | hno | hno | hno
    · simp [hh] at hno
    · simp [hno]
    · simp [hno]
    · simp [hno]

omit hq in
/-- Cores that fit an ensemble all stand in the group of the first. -/
theorem State.fitsCores_group {p : Packet} {k c : Nat} {rest : List Nat} (hf : s.fitsCores p k (c :: rest) = true) : ∀ x ∈ c :: rest, x / 4 = c / 4 := by
  simp only [State.fitsCores, Bool.and_eq_true, List.all_eq_true, decide_eq_true_eq, beq_iff_eq] at hf
  obtain ⟨-, ⟨hall, -⟩, -⟩ := hf
  intro x hx
  obtain ⟨⟨-, hg⟩, -⟩ := hall x hx
  exact hg

/-- The one ensemble of a device stands in the way of a head of a higher level that it leaves room for. -/
theorem execPreemptStarvation_preempts {h : Head} {e : Ensemble} {c : Nat} {rest : List Nat} (hh : q.head = some h) (hw : q.wait ≠ 0)
    (hlate : 8192 ≤ (s.fclock - q.wait).toNat) (hr : s.headReady q = true) (hp : s.placeable q = false) (hc : cores = c :: rest) (he : s.ensembles = [e])
    (hocc : e.occupies = true) (hg : e.group = c / 4) (hprio : pkPrio (s.launch e.launch).packet < s.level q) (hgs : c / 4 ∈ s.headGroups h)
    (hfind : ((s.updEns 0 fun e => { e with phase := .saved }).findCores (s.headShape h).1 (s.headShape h).2 (s.headGroups h)).isSome = true)
    (hfits : (s.updEns 0 fun e => { e with phase := .saved }).fitsCores (s.headShape h).1 (s.headShape h).2 cores = true) :
    exec (.preemptStarvation n cores) s = .next (s.preempt cores) := by
  have hens : s.ens 0 = e := by simp [State.ens, nth, he]
  have hlower : (s.ensembles.all fun e => !e.victimOf cores || decide (pkPrio (s.launch e.launch).packet < s.level q)) = true := by simp [he, hprio]
  have hthose : ((upFrom 0 s.ensembles.length).filter fun i =>
      (s.ens i).occupies && (s.headGroups h).contains (s.ens i).group && decide (pkPrio (s.launch (s.ens i).launch).packet < s.level q)) = [0] := by
    simp [he, upFrom, hens, hocc, hg, hprio, hgs]
  have hgroups : (cores.all fun c => (s.headGroups h).contains (c / 4)) = true := by
    subst hc
    simp only [List.all_eq_true, List.contains_iff_mem]
    exact fun x hx => State.fitsCores_group hfits x hx ▸ hgs
  change execPreemptStarvation n cores s = _
  have hgo : (decide (q.wait = 0) || decide ((s.fclock - q.wait).toNat < 8192) || !s.headReady q || s.placeable q ||
      !(s.ensembles.all fun e => !e.victimOf cores || decide (pkPrio (s.launch e.launch).packet < s.level q))) = false := by
    rw [decide_eq_false hw, decide_eq_false (Nat.not_lt.2 hlate), hr, hp, hlower]
    rfl
  have horder : s.insertVictim 0 [] = [0] := rfl
  have hupto : upFrom 1 [0].length = [1] := rfl
  simp only [execPreemptStarvation, hq, hh, hgo, Bool.false_eq_true, if_false, hthose, List.foldl_cons, List.foldl_nil, horder, hupto]
  simp only [List.find?_cons, List.take_succ_cons, List.take_zero, List.foldl_cons, List.foldl_nil, hfind]
  exact congrArg Host.Outcome.next (if_pos (Bool.and_eq_true_iff.2 ⟨hfits, hgroups⟩))

end
end

section
variable {s : State} {n : Nat} {e : Ensemble} (he : s.ensembles[n]? = some e)
include he

theorem execVictimSave_idle (hno : e.phase ≠ .draining ∨ s.drainedEns n = false ∨ (s.ctx e.ctx).halt ≠ none) : exec (.victimSave n) s = .next s := by
  change execVictimSave n s = _
  simp only [execVictimSave, he]
  refine if_pos ?_
  rcases hno with h | h | h
  · simp [h]
  · simp [h]
  · simp [Option.isSome_iff_ne_none.2 h]

section
variable (hd : e.phase = .draining) (hq : s.drainedEns n = true) (hh : (s.ctx e.ctx).halt = none)
include hd hq hh

theorem execVictimSave_lost (hs : s.imageSlot n = none) : exec (.victimSave n) s =
    .next ((s.raiseHalt e.ctx { index := 436, cause := .machineCheckOther }).updCtx e.ctx fun c => { c with imageLost := true }) := by
  change execVictimSave n s = _
  simp only [execVictimSave, he]
  refine (if_neg (by simp [hd, hq, hh])).trans ?_
  rw [hs]
  rfl

theorem execVictimSave_saves {slot : Nat} {header pas : List Nat} {s1 : State} (hs : s.imageSlot n = some slot)
    (hhead : s.ringAccess e.ctx (w64 ((s.ctx e.ctx).field 8 0 64)) 4096 { write := true } = .ok header)
    (hpas : s.ringAccess e.ctx (s.imageAddr e.ctx slot) (s.imageBytes n) { write := true } = .ok pas)
    (hs1 : s1 = (((s.dropConfigs fun i _ => e.cores.contains i).charge n).writeImage n slot header pas).updQueue (s.launch e.launch).queue fun q =>
      { q with vacated := n :: q.vacated }) :
    exec (.victimSave n) s = .next (s1.updCtx e.ctx fun c => { c with preempt := c.preempt.filter fun p => s1.requestOpen e.ctx p.1 }) := by
  change execVictimSave n s = _
  simp only [execVictimSave, he]
  refine (if_neg (by simp [hd, hq, hh])).trans ?_
  simp only [hs, hhead, hpas, bind, Except.bind, ← hs1]

end
end

section
variable {s : State} {n : Nat} {c : Ctx} (hc : s.contexts[n]? = some c)
include hc

theorem execPreemptTimeout_idle (hno : ∀ p ∈ c.preempt, (s.fclock - p.2).toNat < 2 ^ 20 ∨ (∀ e ∈ s.ensembles, e.ctx = n → e.phase ≠ .draining)) :
    exec (.preemptTimeout n) s = .next s := by
  change execPreemptTimeout n s = _
  simp only [execPreemptTimeout, hc]
  refine if_neg ?_
  simp only [List.any_eq_true, Bool.and_eq_true, decide_eq_true_eq, State.requestOpen, beq_iff_eq, not_exists, not_and]
  rintro p hp hlate e he ⟨hctx, hdrain⟩ -
  rcases hno p hp with hearly | hnone
  · exact absurd hlate (Nat.not_le.2 hearly)
  · exact hnone e he hctx hdrain

theorem execPreemptTimeout_halts {p : List Nat × DWord} (hp : p ∈ c.preempt) (hlate : 2 ^ 20 ≤ (s.fclock - p.2).toNat)
    (hopen : ∃ e ∈ s.ensembles, e.ctx = n ∧ e.phase = .draining ∧ e.victimOf p.1 = true) :
    exec (.preemptTimeout n) s = .next (s.raiseHalt n { index := 436, cause := .preemptTimeout }) := by
  change execPreemptTimeout n s = _
  simp only [execPreemptTimeout, hc]
  refine if_pos ?_
  simp only [List.any_eq_true, Bool.and_eq_true, decide_eq_true_eq, State.requestOpen, beq_iff_eq]
  obtain ⟨e, he, hctx, hdrain, hv⟩ := hopen
  exact ⟨p, hp, hlate, e, he, ⟨hctx, hdrain⟩, hv⟩

end

/-- Settles O45: one lemma for each outcome of a submission, a placement, a completion and a pre-emption. -/
theorem launches : Obligations.Launches := by
  unfold Obligations.Launches
  refine ⟨fun s s1 w g d a x v h => ⟨fun hx hr => ⟨execLaunch_waits h hx hr, fun hgo ha => ?_, fun hgo ha => ?_, fun s2 hgo hq ha => ?_⟩,
      fun hx hr => ⟨execLwait_goes h hx hr, execLwait_waits h hx hr⟩⟩,
    fun s qI q p hq => ⟨State.judgePacket_disabled hq, fun r off => State.judgePacket_fails hq, fun off => State.judgePacket_exceeds hq,
      State.judgePacket_queues hq, rfl, rfl, fun pas => State.enqueue_unmapped hq, State.enqueue_island hq⟩,
    fun s page queue slot ctx ring base pkt => ⟨fun hno whole same => execSubmission_unknown hno, fun qI q hq hpage hfirst => ⟨?_, ?_, ?_⟩,
      fun q hq => ⟨fun pas => execQueueMap_maps hq, execQueueMap_idle hq, execQueueUnmap_idle hq, fun pas => execQueueUnmap_unmaps hq⟩, rfl,
      ⟨execQueueCreation_adds, execQueueCreation_idle⟩, ⟨execRegisterClear_clears, execRegisterClear_halted⟩⟩,
    fun s s1 cores hs1 => ⟨execPlacementOpportunity_idle, fun hr hd => ⟨execPlacementOpportunity_none hs1 hr hd, fun s2 qI h =>
      execPlacementOpportunity_places hs1 hr hd⟩, UQueue.head_eq⟩,
    fun s n addr v => ⟨execDependenceWrite_unawaited, fun l pas => execDependenceWrite_stores, fun l hl => ⟨execLaunchCompletion_idle hl, ?_,
      ⟨execWatchdog_halts hl, execWatchdog_idle hl⟩⟩⟩,
    fun s n cores => ⟨execPreemptionRequest_goes, execPreemptionRequest_idle, fun q => execPreemptStarvation_idle, execPreemptStarvation_cases,
      ?_, fun e he => ⟨execVictimSave_idle he, fun hd hq hh => ⟨execVictimSave_lost he hd hq hh, fun slot header pas hs hhead hpas => ?_⟩⟩,
      fun c hc => ⟨execPreemptTimeout_idle hc, fun p hp hlate hopen => execPreemptTimeout_halts hc hp hlate hopen⟩⟩⟩
  · exact execLaunch_answers h hx hr hgo rfl (by rw [ha]; rfl)
  · exact execLaunch_answers h hx hr hgo rfl (by rw [ha]; rfl)
  · exact execLaunch_answers h hx hr hgo rfl (by rw [ha]; exact hq)
  · exact fun hl whole same => execSubmission_down hq hpage hfirst hl
  · exact fun hl hs hw whole => execSubmission_moving hq hpage hfirst hl hs hw
  · exact fun whole s1 hl he => execSubmission_answers hq hpage hfirst hl rfl he
  · exact fun hw he hq hh hwait ho hcounter hmessage h0 h1 _ => execLaunchCompletion_ends hl hw he hq hh hwait ho ⟨hcounter, hmessage, h0, h1⟩
  · exact fun q h e c rest hq hh hw hlate hr hp hc he hocc hg hprio hgs hfind hfits =>
      execPreemptStarvation_preempts hq hh hw hlate hr hp hc he hocc hg hprio hgs hfind hfits
  · exact execVictimSave_saves he hd hq hh hs hhead hpas rfl

end Sys2Proof.Machine

namespace Sys2Proof.Machine

/-! ## Trap entry, expiries, halts and contexts (O46; 15_system.md R339 to R350, 08_memory.md R186, R189, 06_control.md R132, R144) -/

/-! ### What waits and engine writes leave of the contexts -/

theorem foldl_contexts {α : Type} {f : State → α → State} (hf : ∀ s x, (f s x).contexts = s.contexts) (l : List α) (s : State) :
    (l.foldl f s).contexts = s.contexts :=
  List.foldlRecOn (motive := fun t : State => t.contexts = s.contexts) l f rfl fun t ht x _ => (hf t x).trans ht

theorem State.setMemUnit_eq (s : State) (unit : Nat) (places : List Nat) (data : Unit64) : ∃ m, s.setMemUnit unit places data = { s with mem := m } :=
  List.foldlRecOn (motive := fun t : State => ∃ m, t = { s with mem := m }) places _ ⟨s.mem, rfl⟩ fun _ ⟨_, ht⟩ _ _ => ht ▸ ⟨_, rfl⟩

@[simp] theorem setMemUnit_contexts (s : State) (unit : Nat) (places : List Nat) (data : Unit64) :
    (s.setMemUnit unit places data).contexts = s.contexts := by
  obtain ⟨m, h⟩ := s.setMemUnit_eq unit places data
  rw [h]

@[simp] theorem setDir_contexts (s : State) (d : Directory) : (s.setDir d).contexts = s.contexts := rfl

/-- A request changes what the link holds, and the counter of its troupe. -/
theorem State.send_eq (s : State) (r : LinkReq) (aux : Nat) : ∃ t l, s.send r aux = { s with troupes := t, link := l } := by
  unfold State.send
  dsimp only
  split_ifs
  · cases r.troupe
    · exact ⟨s.troupes, _, rfl⟩
    · exact ⟨_, _, rfl⟩
  · exact ⟨s.troupes, _, rfl⟩

@[simp] theorem send_contexts (s : State) (r : LinkReq) (aux : Nat) : (s.send r aux).contexts = s.contexts := by
  obtain ⟨t, l, h⟩ := s.send_eq r aux
  rw [h]

/-- A unit that leaves the L2 changes memory, what the link holds, a counter of messages, and what is known of the structure table. -/
theorem State.evictUnit_eq (s : State) (unit : Nat) (ctx : Option Nat) (keep : Bool) :
    ∃ m t x l, s.evictUnit unit ctx keep = { s with mem := m, troupes := t, structs := x, link := l } := by
  have hback (l : L2Line) : ∃ m t k, s.writeBack l ctx keep = { s with mem := m, troupes := t, link := k } := by
    unfold State.writeBack
    split
    · obtain ⟨t, k, h⟩ := s.send_eq { opc := 3, unit := l.unit, data := l.data, en := BitVec.ofNat 64 l.stored.toNat, ctx := ctx, keep := keep }
        l.stored.toNat
      exact ⟨s.mem, t, k, h⟩
    · obtain ⟨m, h⟩ := s.setMemUnit_eq l.unit (granuleBytes l.stored) l.data
      rw [h]
      exact ⟨m, s.troupes, _, rfl⟩
  have hrem (u : State) : ∃ m, u.remember unit = { u with mem := m } := by
    unfold State.remember
    split
    · split
      · exact u.setMemUnit_eq _ _ _
      · exact ⟨u.mem, rfl⟩
    · exact ⟨u.mem, rfl⟩
  unfold State.evictUnit
  split
  · exact ⟨s.mem, s.troupes, s.structs, s.link, rfl⟩
  next l _ =>
    obtain ⟨m, t, k, h⟩ : ∃ m t k, (if l.dirty then s.writeBack l ctx keep else s) = { s with mem := m, troupes := t, link := k } := by
      split
      · exact hback l
      · exact ⟨s.mem, s.troupes, s.link, rfl⟩
    obtain ⟨m', h'⟩ := hrem { s with mem := m, troupes := t, link := k }
    rw [h, h']
    exact ⟨m', t, _, _, rfl⟩

@[simp] theorem evictUnit_contexts (s : State) (unit : Nat) (ctx : Option Nat) (keep : Bool) : (s.evictUnit unit ctx keep).contexts = s.contexts := by
  obtain ⟨m, t, x, l, h⟩ := s.evictUnit_eq unit ctx keep
  rw [h]

@[simp] theorem acquireUnit_contexts (s : State) (unit : Nat) (write : Bool) (b : Behalf) : (s.acquireUnit unit write b).contexts = s.contexts := by
  unfold State.acquireUnit
  split_ifs <;> simp

@[simp] theorem pastAsk_contexts (s : State) (read write : Bool) (b : Behalf) (unit : Nat) : (s.pastAsk read write b unit).contexts = s.contexts := by
  unfold State.pastAsk
  split_ifs <;> simp

@[simp] theorem engineAsk_contexts (s : State) (pas past : List Nat) (u : Use) (b : Behalf) : (s.engineAsk pas past u b).contexts = s.contexts :=
  foldl_contexts (fun t x => by split_ifs <;> simp) _ s

@[simp] theorem requestPage_contexts (s : State) (asid : BitVec 16) (page aux : Nat) (pass : DWord) (wt : Waiter) :
    (s.requestPage asid page aux pass wt).contexts = s.contexts := by
  unfold State.requestPage
  split <;> rfl

@[simp] theorem requestXl_contexts (s : State) (asid : BitVec 16) (core va kind : Nat) (wt : Waiter) :
    (s.requestXl asid core va kind wt).contexts = s.contexts := by
  unfold State.requestXl
  dsimp only
  split
  · rfl
  · split
    · rfl
    · split <;> rfl

@[simp] theorem writePhys_contexts (s : State) (pas : List Nat) (bs : List Byte) (b : Behalf) : (s.writePhys pas bs b).contexts = s.contexts := by
  have hsettle (t : State) (u : Nat) : (t.settlePast u).contexts = t.contexts := by
    have hdrop (v : State) : (v.dropLine u).contexts = v.contexts := rfl
    unfold State.settlePast
    split
    · split
      · rw [hdrop, setMemUnit_contexts]
      · rfl
    · rfl
  have hput (t : State) (x : Nat × Byte) : (t.putPhys x.1 x.2).contexts = t.contexts := by
    unfold State.putPhys
    split <;> rfl
  have hpass (t : State) (u : Nat) : (t.passUnit b u (pas.zip bs)).contexts = t.contexts := by
    unfold State.passUnit
    exact (apply_ite State.contexts _ _ _).trans (by rw [send_contexts, ite_self])
  unfold State.writePhys
  rw [foldl_contexts hpass, foldl_contexts hput, foldl_contexts hsettle]

/-- What a write marks beside memory: threads leave configurations, and what is known of tiles, code and structure-table entries may be old. No other
field changes (`State.Reached` says what it leaves of each thread). -/
def State.Marked (s u : State) : Prop :=
  ∃ t e c x r, u = { s with threads := t, ensembles := e, cores := c, structs := x, rigger := r }

theorem State.Marked.rfl (s : State) : s.Marked s := ⟨s.threads, s.ensembles, s.cores, s.structs, s.rigger, Eq.refl s⟩

theorem State.Marked.trans {s u v : State} (h : s.Marked u) (h' : u.Marked v) : s.Marked v := by
  obtain ⟨t, e, c, x, r, rfl⟩ := h
  obtain ⟨t', e', c', x', r', rfl⟩ := h'
  exact ⟨t', e', c', x', r', Eq.refl _⟩

theorem State.marked_foldl {α : Type} {f : State → α → State} (hf : ∀ (s : State) a, s.Marked (f s a)) (l : List α) (s : State) :
    s.Marked (l.foldl f s) :=
  List.foldlRecOn (motive := s.Marked) l f (.rfl s) fun t ht a _ => ht.trans (hf t a)

theorem State.marked_dropConfigs (s : State) (p : Nat → MapConfig → Bool) : s.Marked (s.dropConfigs p) := by
  unfold State.dropConfigs
  split
  · exact .rfl s
  · rw [State.leave]
    refine State.Marked.trans ?_ (State.marked_foldl (fun u k => ⟨_, u.ensembles, u.cores, u.structs, u.rigger, Eq.refl _⟩) _ _)
    exact ⟨s.threads, s.ensembles, _, s.structs, s.rigger, Eq.refl _⟩

theorem State.marked_codeWritten (s : State) (pas : List Nat) : s.Marked (s.codeWritten pas) := by
  have hforget (p : Nat → DWord → Bool) : s.Marked (s.forgetBacks p) := by
    unfold State.forgetBacks
    split
    · exact .rfl s
    · exact ⟨s.threads, s.ensembles, _, s.structs, s.rigger, Eq.refl _⟩
  exact (hforget _).trans (State.marked_dropConfigs _ _)

theorem State.marked_wroteGlobal (s : State) (pas : List Nat) (by_ : Option Nat) : s.Marked (s.wroteGlobal pas by_) := by
  have hbytes : s.Marked (s.wroteBytes pas by_) := by
    refine (s.marked_codeWritten pas).trans (State.marked_foldl (fun u i => ?_) _ _)
    dsimp only
    split
    · exact .rfl u
    · exact ⟨u.threads, _, u.cores, u.structs, u.rigger, Eq.refl _⟩
  refine hbytes.trans (State.marked_foldl (fun u x => ?_) _ _)
  split
  · exact .rfl u
  · dsimp only
    split_ifs
    · exact .rfl u
    · exact ⟨u.threads, u.ensembles, u.cores, _, _, Eq.refl _⟩
    · exact ⟨u.threads, u.ensembles, u.cores, _, u.rigger, Eq.refl _⟩

@[simp] theorem wroteGlobal_contexts (s : State) (pas : List Nat) (by_ : Option Nat) : (s.wroteGlobal pas by_).contexts = s.contexts := by
  obtain ⟨t, e, c, x, r, h⟩ := s.marked_wroteGlobal pas by_
  rw [h]

@[simp] theorem engineWrite_contexts (s : State) (cI : Nat) (pas : List Nat) (bs : List Byte) : (s.engineWrite cI pas bs).contexts = s.contexts := by
  unfold State.engineWrite
  rw [wroteGlobal_contexts, writePhys_contexts]

@[simp] theorem leaveRing_contexts (s : State) (eI : Nat) : (s.leaveRing eI).contexts = s.contexts := by
  unfold State.leaveRing
  dsimp only
  split
  · split <;> rfl
  · rfl

@[simp] theorem leaveRings_contexts (s : State) (n : Nat) : (s.leaveRings n).contexts = s.contexts := foldl_contexts leaveRing_contexts _ s

/-! ### Trap entry (R343, R347) -/

/-- Does a trapping thread not enter its handler, and halt no context, yet? -/
def State.entryHeld (s : State) (w : Who) : Bool :=
  !w.t.quiet || !(match w.c.halt with
    | some h => decide (h < s.clock) && s.ctxRuns w.cI
    | none => true) || w.t.inHandler || !w.e.occupies

section
variable {s : State} {w : Who} {k : Nat} (hw : s.whoOf k = some w)
include hw

section
variable {c : Cause} {p a i : DWord} (ht : w.t.status = .trapping c p a i)
include ht

theorem execTrapEntry_eq : exec (.trapEntry k) s = .next (if s.entryHeld w then s
    else if w.c.handler = 0 then s.trapHalts w c p a
    else s.setThread k (w.t.enterHandler s.clock w.c.handler c p a i)) := by
  change execTrapEntry k s = _
  simp only [execTrapEntry, hw, ht]
  rfl

theorem execTrapEntry_owing (hq : w.t.quiet = false) : exec (.trapEntry k) s = .next s := by
  rw [execTrapEntry_eq hw ht, State.entryHeld, hq]
  rfl

variable (hq : w.t.quiet = true) (hh : w.c.halt = none) (hin : w.t.inHandler = false) (ho : w.e.occupies = true)
include hq hh hin ho

theorem execTrapEntry_halts (h0 : w.c.handler = 0) : exec (.trapEntry k) s = .next (s.trapHalts w c p a) := by
  rw [execTrapEntry_eq hw ht, State.entryHeld, hq, hh, hin, ho]
  exact congrArg Host.Outcome.next (if_pos h0)

theorem execTrapEntry_enters (h0 : w.c.handler ≠ 0) :
    exec (.trapEntry k) s = .next (s.setThread k (w.t.enterHandler s.clock w.c.handler c p a i)) := by
  rw [execTrapEntry_eq hw ht, State.entryHeld, hq, hh, hin, ho]
  exact congrArg Host.Outcome.next (if_neg h0)

end

/-! ### Expiries (R132, R144, R186) -/

section
variable {granule : Nat} {since : DWord} (ht : w.t.status = .parked (.fullEmpty granule) since)
include ht

theorem execFeWaitExpired_traps (hlate : 2 ^ 24 ≤ (s.clock - since).toNat) :
    exec (.feWaitExpired k) s = .next (s.takeTrap k .feWaitExpired w.t.pc (w64 (w.granuleAddr granule)) 0) := by
  change execFeWaitExpired k s = _
  simp only [execFeWaitExpired, hw, ht, hlate, if_true]

theorem execFeWaitExpired_idle (hearly : (s.clock - since).toNat < 2 ^ 24) : exec (.feWaitExpired k) s = .next s := by
  change execFeWaitExpired k s = _
  simp only [execFeWaitExpired, hw, ht, Nat.not_le.2 hearly, if_false]

end

theorem State.thread_eq_of_whoOf : s.thread k = w.t := by
  obtain ⟨hk, -⟩ := s.whoOf_eq k w hw
  rw [← hk]
  exact s.thread_of_whoOf k w hw

theorem execSleepExpiry_wakes {wake : DWord} (ht : w.t.status = .sleeping wake) (hwake : wake ≤ s.clock) :
    exec (.sleepExpiry k) s = .next (s.updThread k fun t => { t with status := .ready }) := by
  refine congrArg Host.Outcome.next (State.updThread_congr ?_)
  simp only [State.thread_eq_of_whoOf hw, ht, hwake, if_true]

theorem execIssueGapExpiry_ends {n : DWord} (hg : w.t.gapUntil = some n) (hn : n ≤ s.clock) :
    exec (.issueGapExpiry k) s = .next (s.updThread k fun t => { t with gapUntil := none }) := by
  refine congrArg Host.Outcome.next (State.updThread_congr ?_)
  simp only [State.thread_eq_of_whoOf hw, hg, hn, if_true]

omit hw in
theorem State.updThread_self {f : Thread → Thread} (hf : f (s.thread k) = s.thread k) : s.updThread k f = s := by
  have hid : updateAt s.threads k id = s.threads := List.modify_id k s.threads
  rw [State.updThread_congr (g := id) hf, State.updThread, hid]

section
variable {set : List Nat} {since : Option DWord} (hr : w.t.regroup = some (w.t.pc, set, since))
include hr

omit hw in
theorem State.regroupHolds_iff :
    s.regroupHolds k w.t = true ↔ s.awaited k w.t.pc set = true ∧ ∀ n, since = some n → (s.clock - n).toNat < 64 := by
  cases since <;> simp [State.regroupHolds, hr]

theorem execRegroupHoldExpiry_ends (hno : ¬(s.awaited k w.t.pc set = true ∧ ∀ n, since = some n → (s.clock - n).toNat < 64)) :
    exec (.regroupHoldExpiry k) s = .next (s.updThread k fun t => { t with regroup := none }) := by
  refine congrArg Host.Outcome.next (State.updThread_congr ?_)
  have hb := Bool.eq_false_iff.2 (mt (State.regroupHolds_iff hr).1 hno)
  simp only [State.thread_eq_of_whoOf hw, hr, hb, Bool.not_false, decide_true, Bool.and_self, if_true]

theorem execRegroupHoldExpiry_holds (hyes : s.awaited k w.t.pc set = true ∧ ∀ n, since = some n → (s.clock - n).toNat < 64) :
    exec (.regroupHoldExpiry k) s = .next s := by
  refine congrArg Host.Outcome.next (State.updThread_self ?_)
  have hb := (State.regroupHolds_iff hr).2 hyes
  simp only [State.thread_eq_of_whoOf hw, hr, hb, Bool.not_true, Bool.and_false, Bool.false_eq_true, if_false]

end

/-! ### The host's answers (R285, R355) -/

theorem execSyscallDone_stores {call : Call} {pas : List Nat} {r : DWord} {st : Word} (hc : w.t.call = some call)
    (hp : s.engineTranslate w.c.asid w.tr.core (va57 (w.c.slotAddr call.slot) + 48) 12 {} = .ok pas) :
    exec (.syscallDone k r st) s = .next (s.hostStore pas (toBytes r.toNat 8 ++ toBytes st.toNat 4)) := by
  change execSyscallDone k r st s = _
  simp only [execSyscallDone, hw, hc, hp]

theorem execSyscallDone_idle {r : DWord} {st : Word} (hc : w.t.call = none) : exec (.syscallDone k r st) s = .next s := by
  change execSyscallDone k r st s = _
  simp only [execSyscallDone, hw, hc]

theorem execLwaitCounter_stores {a since v : DWord} {pas : List Nat} (ht : w.t.status = .parked (.counter a) since)
    (hp : s.engineTranslate w.c.asid w.tr.core (va57 a) 8 {} = .ok pas) :
    exec (.lwaitCounter k v) s = .next (s.hostStore pas (toBytes v.toNat 8)) := by
  change execLwaitCounter k v s = _
  simp only [execLwaitCounter, hw, ht, hp]

end

/-! ### Requests to halt (R194, R341) -/

section
variable {s : State} {n : Nat}

theorem execSramUncorrectable_idle (hno : ∀ e ∈ s.ensembles, e.occupies = true → n ∉ e.cores) : exec (.sramUncorrectable n) s = .next s := by
  have hf : s.ensembles.filter (fun e => e.occupies && e.cores.contains n) = [] :=
    List.filter_eq_nil_iff.2 fun e he => by simpa using hno e he
  change Host.Outcome.next (s.haltCore n .sramUncorrectable) = _
  simp only [State.haltCore, hf]
  rfl

theorem execSramUncorrectable_halts {e : Ensemble} (he : s.ensembles = [e]) (ho : e.occupies = true) (hn : n ∈ e.cores) :
    exec (.sramUncorrectable n) s =
      .next (s.raiseHalt e.ctx { index := 4 * n + Config.choice s.moves % 4, cause := .sramUncorrectable }) := by
  have hf : s.ensembles.filter (fun e => e.occupies && e.cores.contains n) = [e] := by simp [he, ho, hn]
  change Host.Outcome.next (s.haltCore n .sramUncorrectable) = _
  simp only [State.haltCore, hf]
  rfl

end

end Sys2Proof.Machine

namespace Sys2Proof.Machine

/-! ### What a halt that waits, and its images, leave of the contexts (R347, R350) -/

theorem State.ctx_of_getElem? {s : State} {n : Nat} {c : Ctx} (hc : s.contexts[n]? = some c) : s.ctx n = c := by
  simp [State.ctx, nth, hc]

theorem State.ctx_congr {s t : State} (h : t.contexts = s.contexts) (n : Nat) : t.ctx n = s.ctx n := by
  rw [State.ctx, State.ctx, h]

/-- The field of a context after an update of it, where the context is one of the state's. -/
theorem State.ctx_updCtx {s : State} {n : Nat} (f : Ctx → Ctx) (hn : n < s.contexts.length) : (s.updCtx n f).ctx n = f (s.ctx n) := by
  simp [State.ctx, nth_updateAt, hn]

section
variable {s : State} {n : Nat}

@[simp] theorem State.haltPlace_stops_contexts (a : DWord) (len : Nat) : Stops (fun e : State => e.contexts = s.contexts) (s.haltPlace n a len) := by
  intro e h
  unfold State.haltPlace at h
  dsimp only at h
  split at h
  · cases h
    split <;> simp
  · cases h
    split <;> simp
  · cases h
  · split at h
    · cases h
    · cases h
      simp

@[simp] theorem State.stopPlaces_stops_contexts (rs : List StopRec) : Stops (fun e : State => e.contexts = s.contexts) (s.stopPlaces n rs) :=
  (stops_mapM fun _ => (State.haltPlace_stops_contexts _ _).map _).map _

@[simp] theorem State.imagePlace_stops_contexts (i slot : Nat) : Stops (fun e : State => e.contexts = s.contexts) (s.imagePlace n i slot) :=
  stops_iff.2 ((State.haltPlace_stops_contexts _ _).bind fun _ => (State.haltPlace_stops_contexts _ _).bind fun _ => trivial)

@[simp] theorem putFree_contexts (s : State) (ctx : Nat) (pas : List Nat) : (s.putFree ctx pas).contexts = s.contexts := engineWrite_contexts ..

/-- One ensemble's halt image: what it waits for leaves the contexts of the state where the engines stopped, and the image takes no context away. -/
theorem State.haltImage_ends_contexts {s0 : State} (i : Nat) :
    Ends (fun e : State => e.contexts = s0.contexts) (fun t => t.contexts.length = s.contexts.length) (s.haltImage s0 n i) := by
  unfold State.haltImage
  dsimp only
  split
  · refine ((State.imagePlace_stops_contexts _ _).map _).bind fun place => ?_
    split <;> simp
  · simp

theorem State.haltImages_ends_contexts :
    Ends (fun e : State => e.contexts = s.contexts) (fun t => t.contexts.length = s.contexts.length) (s.haltImages n) :=
  ends_foldlM (fun _ i ht => (State.haltImage_ends_contexts i).mono fun _ hu => hu.trans ht) _ rfl

@[simp] theorem writeStops_contexts (recs : List (StopRec × List Nat)) : (s.writeStops n recs).contexts = s.contexts :=
  foldl_contexts (fun _ _ => engineWrite_contexts ..) _ _

/-! ### The driver is told (R347, R379) -/

/-- A mailbox bit that is set changes the mailbox and may send an interrupt, and nothing else. -/
theorem State.setMbox_eq (s : State) (i : Nat) :
    ∃ m out, s.setMbox i = { s with gaffer := { s.gaffer with mbox := m }, link := { s.link with out := out } } := by
  unfold State.setMbox
  dsimp only
  split_ifs
  · exact ⟨_, _, rfl⟩
  · exact ⟨_, _, rfl⟩
  · exact ⟨_, s.link.out, rfl⟩

/-- A record changes the Dailies and, where their ring wraps, the mailbox, and nothing else. -/
theorem State.daily_eq (s : State) (event data bits : Nat) : ∃ m q h d out, s.daily event data bits =
    { s with gaffer := { s.gaffer with mbox := m, dailySeq := q, dlHead := h, dailies := d }, link := { s.link with out := out } } := by
  unfold State.daily
  dsimp only
  split
  · obtain ⟨m, out, h⟩ := State.setMbox_eq { s with gaffer := { s.gaffer with
      dailySeq := s.gaffer.dailySeq + 1, dlHead := s.gaffer.dlHead + 32, dailies := _ } } 4
    exact ⟨m, _, _, _, out, h⟩
  · exact ⟨s.gaffer.mbox, _, _, _, s.link.out, rfl⟩

/-- A context that has not halted, has been told of, or whose engines still owe a write: there is nothing to tell. -/
theorem State.noteHalt_of_told (h : (s.ctx n).noted = true ∨ s.engineOwes n = true) : s.noteHalt n = s := by
  refine if_pos ?_
  rcases h with h | h <;> simp [h]

theorem State.noteHalt_rest : (s.noteHalt n).queues = s.queues ∧ (s.noteHalt n).rigger = s.rigger ∧ (s.noteHalt n).passes = s.passes ∧
    (s.noteHalt n).link.reqs = s.link.reqs ∧ (s.noteHalt n).mem = s.mem := by
  unfold State.noteHalt
  dsimp only
  split
  · simp
  · obtain ⟨m, q, h, d, out, hd⟩ := ((s.updCtx n fun c => { c with noted := true }).say (.haltNote (s.ctx n).asid)).daily_eq 7
      (((s.ctx n).raisers.head?.map fun r => r.cause.code).getD 0 + (s.ctx n).asid.toNat * 2 ^ 16) 32
    rw [hd]
    exact ⟨rfl, rfl, rfl, rfl, rfl⟩

/-- Once a context's engines have stopped, the driver has been told or a write to a home is still on its way. -/
theorem State.noteHalt_settled (hn : n < s.contexts.length) (hd : (s.ctx n).haltDone = true) :
    ((s.noteHalt n).ctx n).haltDone = true ∧ (((s.noteHalt n).ctx n).noted = true ∨ (s.noteHalt n).engineOwes n = true) := by
  by_cases h : (s.ctx n).noted = true ∨ s.engineOwes n = true
  · rw [State.noteHalt_of_told h]
    exact ⟨hd, h⟩
  · rw [not_or, Bool.not_eq_true, Bool.not_eq_true] at h
    have hto : (s.noteHalt n).ctx n = (s.updCtx n fun c => { c with noted := true }).ctx n := by
      have hif : (!(s.ctx n).haltDone || (s.ctx n).noted || s.engineOwes n) = false := by simp [hd, h]
      unfold State.noteHalt
      dsimp only
      rw [hif, if_neg Bool.false_ne_true]
      obtain ⟨m, q, h, d, out, hd⟩ := ((s.updCtx n fun c => { c with noted := true }).say (.haltNote (s.ctx n).asid)).daily_eq 7
        (((s.ctx n).raisers.head?.map fun r => r.cause.code).getD 0 + (s.ctx n).asid.toNat * 2 ^ 16) 32
      rw [hd]
      rfl
    rw [hto, State.ctx_updCtx _ hn]
    exact ⟨hd, .inl rfl⟩

/-! ### The engines stop (R347) -/

/-- The state in which the engines of a context have stopped, its images and records written: its queues, commands and passes have ended. -/
def State.stopEngines (s : State) (ctx : Nat) : State :=
  let s2 := (s.leaveRings ctx).updCtx ctx fun c => { c with haltDone := true, preempt := [] }
  { s2 with
    cores := s2.cores.map fun (x : Core) => x.haltInside ctx
    copies := s2.copies.map fun (x : Copy) => if (s2.ens (s2.troupe x.troupe).ens).ctx = ctx then x.stop else x
    rigger := s2.rigger.map fun (x : RigCmd) => if x.ctx = ctx then x.stop else x
    passes := s2.passes.map fun (x : Pass) => if x.ctx = ctx then x.stop else x
    queues := s2.queues.map fun (x : UQueue) => if x.ctx = ctx then x.shut else x }

/-- No queue, command or pass of a context goes on. -/
def State.EnginesStopped (s : State) (ctx : Nat) : Prop :=
  (∀ q ∈ s.queues, q.ctx = ctx → q.disabled = true) ∧ (∀ r ∈ s.rigger, r.ctx = ctx → r.live = false) ∧ ∀ p ∈ s.passes, p.ctx = ctx → p.live = false

/-- Where what belongs to a context is stopped, each that then belongs to it has stopped. -/
theorem stopped_of_mem_map {α : Type} {own : α → Nat} {stop : α → α} {P : α → Prop} (hstop : ∀ x, P (stop x)) {l : List α} :
    ∀ y ∈ l.map (fun x => if own x = n then stop x else x), own y = n → P y := by
  intro y hy hown
  obtain ⟨x, -, rfl⟩ := List.mem_map.1 hy
  by_cases hx : own x = n
  · rw [if_pos hx]
    exact hstop x
  · rw [if_neg hx] at hown
    exact absurd hown hx

theorem State.stopEngines_stopped : (s.stopEngines n).EnginesStopped n :=
  ⟨stopped_of_mem_map (own := UQueue.ctx) (stop := UQueue.shut) (P := fun q => q.disabled = true) fun _ => rfl,
    stopped_of_mem_map (own := RigCmd.ctx) (stop := RigCmd.stop) (P := fun r => r.live = false) fun _ => rfl,
    stopped_of_mem_map (own := Pass.ctx) (stop := Pass.stop) (P := fun p => p.live = false) fun _ => rfl⟩

theorem State.stopEngines_mem : (s.stopEngines n).mem = s.mem := leaveRings_mem s n

theorem State.stopEngines_contexts :
    (s.stopEngines n).contexts = updateAt s.contexts n fun c => { c with haltDone := true, preempt := [] } :=
  congrArg (fun l => updateAt l n _) (leaveRings_contexts s n)

/-- What the halt line leaves of a context whose engines have stopped and of which the driver is told. -/
theorem State.stopEngines_noteHalt (hn : n < s.contexts.length) :
    (((s.stopEngines n).noteHalt n).ctx n).haltDone = true ∧ ((s.stopEngines n).noteHalt n).EnginesStopped n ∧
    ((s.stopEngines n).noteHalt n).mem = s.mem ∧
    ((((s.stopEngines n).noteHalt n).ctx n).noted = true ∨ ((s.stopEngines n).noteHalt n).engineOwes n = true) := by
  have hlen : n < (s.stopEngines n).contexts.length := by rw [State.stopEngines_contexts, length_updateAt]; exact hn
  have hdone : ((s.stopEngines n).ctx n).haltDone = true := by simp [State.ctx, State.stopEngines_contexts, nth_updateAt, hn]
  obtain ⟨hd, ht⟩ := State.noteHalt_settled hlen hdone
  obtain ⟨hq, hr, hp, -, hm⟩ := State.noteHalt_rest (s := s.stopEngines n) (n := n)
  refine ⟨hd, ?_, hm.trans State.stopEngines_mem, ht⟩
  unfold State.EnginesStopped
  rw [hq, hr, hp]
  exact State.stopEngines_stopped

end

/-! ### The halt line (R347) -/

section
variable {s : State} {n : Nat} {c : Ctx} (hc : s.contexts[n]? = some c)
include hc

theorem execHaltLine_idle (hh : c.halt = none) : exec (.haltLine n) s = .next s := by
  change execHaltLine n s = _
  simp [execHaltLine, hc, hh]

theorem execHaltLine_done (hh : c.halt ≠ none) (hd : c.haltDone = true) : exec (.haltLine n) s = .next (s.noteHalt n) := by
  change execHaltLine n s = _
  simp [execHaltLine, hc, hh, hd]

/-- The images and the places of the records: all that the halt line judges before it writes. -/
theorem execHaltLine_eq (hh : c.halt ≠ none) (hd : c.haltDone = false) :
    exec (.haltLine n) s = match (do
        let s1 ← s.haltImages n
        let recs ← s.stopPlaces n ((s.updCtx n fun _ => s1.ctx n).stopRecords n)
        Except.ok (s1.writeStops n recs)) with
      | .error s' => .next s'
      | .ok s1 => .next ((s1.stopEngines n).noteHalt n) := by
  change execHaltLine n s = _
  simp only [execHaltLine, hc, Option.isNone_eq_false_iff.2 (Option.isSome_iff_ne_none.2 hh), hd, Bool.false_eq_true, if_false]
  rfl

theorem execHaltLine_stops {s1 : State} {recs : List (StopRec × List Nat)} (hh : c.halt ≠ none) (hd : c.haltDone = false)
    (hi : s.haltImages n = .ok s1) (hr : s.stopPlaces n ((s.updCtx n fun _ => s1.ctx n).stopRecords n) = .ok recs) :
    exec (.haltLine n) s = .next (((s1.writeStops n recs).stopEngines n).noteHalt n) := by
  rw [execHaltLine_eq hc hh hd, hi]
  simp only [bind, Except.bind, hr]

omit hc in
/-- The judgement ends in a state of the same contexts that waits, or leaves every context in its place. -/
theorem State.haltJudged_contexts : Ends (fun e : State => e.contexts = s.contexts) (fun t => t.contexts.length = s.contexts.length) (do
    let s1 ← s.haltImages n
    let recs ← s.stopPlaces n ((s.updCtx n fun _ => s1.ctx n).stopRecords n)
    Except.ok (s1.writeStops n recs)) :=
  State.haltImages_ends_contexts.bind fun _ h1 => (State.stopPlaces_stops_contexts _).bind fun _ => by simpa using h1

theorem execHaltLine_ends (hh : c.halt ≠ none) (hd : c.haltDone = false) :
    ∃ t, exec (.haltLine n) s = .next t ∧ ((t.ctx n).haltDone = true → t.EnginesStopped n) := by
  have hn : n < s.contexts.length := (List.getElem?_eq_some_iff.1 hc).1
  have hj := State.haltJudged_contexts (s := s) (n := n)
  rw [execHaltLine_eq hc hh hd]
  revert hj
  generalize (do
    let s1 ← s.haltImages n
    let recs ← s.stopPlaces n ((s.updCtx n fun _ => s1.ctx n).stopRecords n)
    Except.ok (s1.writeStops n recs)) = x
  intro hj
  cases x with
  | error t =>
    refine ⟨t, rfl, fun hdone => ?_⟩
    rw [State.ctx_congr hj, State.ctx_of_getElem? hc, hd] at hdone
    exact absurd hdone Bool.false_ne_true
  | ok t => exact ⟨_, rfl, fun _ => (State.stopEngines_noteHalt (hn.trans_eq hj.symm)).2.1⟩

theorem execHaltLine_stopped {s1 : State} {recs : List (StopRec × List Nat)} (hh : c.halt ≠ none) (hd : c.haltDone = false)
    (hi : s.haltImages n = .ok s1) (hr : s.stopPlaces n ((s.updCtx n fun _ => s1.ctx n).stopRecords n) = .ok recs) :
    ∃ t, exec (.haltLine n) s = .next t ∧ (t.ctx n).haltDone = true ∧ t.EnginesStopped n ∧ t.mem = (s1.writeStops n recs).mem ∧
      ((t.ctx n).noted = true ∨ t.engineOwes n = true) := by
  have hn : n < (s1.writeStops n recs).contexts.length := by
    rw [writeStops_contexts, State.haltImages_ends_contexts.ok hi]
    exact (List.getElem?_eq_some_iff.1 hc).1
  exact ⟨_, execHaltLine_stops hc hh hd hi hr, State.stopEngines_noteHalt hn⟩

end

end Sys2Proof.Machine

namespace Sys2Proof.Machine

/-! ### Contexts and page responses (R189, R339, R367) -/

section
variable {s : State} {n : Nat} {c : Ctx} {desc : BitVec 64} {d : BitVec 2048}

@[simp] theorem dropConfigs_contexts (p : Nat → MapConfig → Bool) : (s.dropConfigs p).contexts = s.contexts := by
  obtain ⟨t, e, c, x, r, h⟩ := s.marked_dropConfigs p
  rw [h]

@[simp] theorem dropAll_contexts : (s.dropAll n).contexts = s.contexts := dropConfigs_contexts _

section
variable (hc : s.contexts[n]? = some c)
include hc

theorem execDescriptorUpdate_idle (h : c.live = false ∨ desc.toNat % 256 ≠ 0) : exec (.descriptorUpdate n desc) s = .next s := by
  refine if_pos ?_
  rcases h with h | h <;> simp [hc, h]

variable (hl : c.live = true) (ha : desc.toNat % 256 = 0) (hb : desc.toNat < 2 ^ 52) (hd : s.readContext n desc.toNat = .ok d)
include hl ha hb hd

theorem execDescriptorUpdate_eq : exec (.descriptorUpdate n desc) s = if descriptorOk d
    then .next ((s.takeDescriptor n d).updCtx n fun c => { c with descAt := desc.toNat }) else .next s := by
  have hlt : decide (2 ^ 52 ≤ desc.toNat) = false := decide_eq_false (Nat.not_le.2 hb)
  change execDescriptorUpdate n desc s = _
  unfold execDescriptorUpdate
  dsimp only
  rw [hlt, if_neg (by simp [ha, hc, hl]), hd]

theorem execDescriptorUpdate_fails (ho : descriptorOk d = false) : exec (.descriptorUpdate n desc) s = .next s := by
  rw [execDescriptorUpdate_eq hc hl ha hb hd, ho]
  rfl

/-- A context takes a new descriptor, and the address where it lies, after what its changed words invalidate. -/
theorem execDescriptorUpdate_takes (ho : descriptorOk d = true) : exec (.descriptorUpdate n desc) s =
    .next (((if fieldOf d 96 0 768 = fieldOf c.desc 96 0 768 then s else s.dropAll n).updCtx n fun c => { c with desc := d }).updCtx n
      fun c => { c with descAt := desc.toNat }) := by
  rw [execDescriptorUpdate_eq hc hl ha hb hd, if_pos ho]
  simp only [State.takeDescriptor, ho, State.ctx_of_getElem? hc, Bool.not_true, Bool.false_eq_true, if_false]

end

theorem State.updCtx_updCtx_contexts (f g : Ctx → Ctx) :
    ((s.updCtx n f).updCtx n g).contexts = (s.updCtx n fun c => g (f c)).contexts := List.modify_modify_eq f g n s.contexts

/-! ### The end of a context (R339) -/

theorem execContextDestruction_idle (h : ∃ e ∈ s.ensembles, e.ctx = n ∧ e.occupies = true) : exec (.contextDestruction n) s = .next s := by
  obtain ⟨e, he, hn, ho⟩ := h
  exact if_pos (List.any_eq_true.2 ⟨e, he, by simp [hn, ho]⟩)

/-- The state without the context, of which no ensemble is resident. -/
def State.destroyed (s : State) (ctx : Nat) : State :=
  let s1 := (s.leaveRings ctx).updCtx ctx fun c => { c with live := false, images := [] }
  { s1 with
    ensembles := s1.ensembles.map fun (e : Ensemble) => if e.ctx = ctx then { e with phase := .retired, image := none } else e
    queues := s1.queues.map fun (q : UQueue) => if q.ctx = ctx then q.emptied else q
    structs := s1.structs.filter fun x => x.ctx != ctx }

theorem execContextDestruction_ends (h : ∀ e ∈ s.ensembles, e.ctx = n → e.occupies = false) :
    exec (.contextDestruction n) s = .next (s.destroyed n) := by
  refine if_neg ?_
  simpa using h

theorem State.destroyed_ctx_live (hc : s.contexts[n]? = some c) : ((s.destroyed n).ctx n).live = false := by
  have hn : n < (s.leaveRings n).contexts.length := by
    rw [leaveRings_contexts]
    exact (List.getElem?_eq_some_iff.1 hc).1
  have hto : (s.destroyed n).ctx n = ((s.leaveRings n).updCtx n fun c => { c with live := false, images := [] }).ctx n := rfl
  rw [hto, State.ctx_updCtx _ hn]

theorem State.destroyed_queues : ∀ q ∈ (s.destroyed n).queues, q.ctx = n → q.slot = none ∧ q.disabled = true ∧ q.pending = [] :=
  stopped_of_mem_map (own := UQueue.ctx) (stop := UQueue.emptied) (P := fun q => q.slot = none ∧ q.disabled = true ∧ q.pending = [])
    fun _ => ⟨rfl, rfl, rfl⟩

theorem State.destroyed_structs : ∀ x ∈ (s.destroyed n).structs, x.ctx ≠ n := fun x hx => by
  have hne := (List.mem_filter.1 hx).2
  simpa using hne

theorem State.destroyed_mem : (s.destroyed n).mem = s.mem := leaveRings_mem s n

end

/-! ### The start of a context (R339) -/

section
variable {s : State} {asid : BitVec 16} {addr : BitVec 64} {d : BitVec 2048}

theorem execContextCreation_idle (h : addr.toNat % 256 ≠ 0 ∨ ∃ c ∈ s.contexts, c.live = true ∧ c.asid = asid) :
    exec (.contextCreation asid addr) s = .next s := by
  refine if_pos ?_
  rcases h with h | ⟨c, hm, hl, ha⟩
  · simp [h]
  · rw [List.any_eq_true.2 ⟨c, hm, by simp [hl, ha]⟩, Bool.or_true]

theorem execContextCreation_eq (ha : addr.toNat % 256 = 0) (hb : addr.toNat < 2 ^ 52) (hf : ∀ c ∈ s.contexts, c.live = true → c.asid ≠ asid)
    (hd : s.readContext s.contexts.length addr.toNat = .ok d) :
    exec (.contextCreation asid addr) s = if descriptorOk d then
        .next { s with contexts := s.contexts ++ [{ asid := asid, descAt := addr.toNat, desc := d, mapctl := w32 (putSlice (fieldOf d 80 0 32) 2 1 0) }] }
      else .next s := by
  have hlt : decide (2 ^ 52 ≤ addr.toNat) = false := decide_eq_false (Nat.not_le.2 hb)
  have hany : (s.contexts.any fun c => c.live && c.asid == asid) = false := List.any_eq_false.2 fun c hc => by simpa using hf c hc
  change execContextCreation asid addr s = _
  unfold execContextCreation
  dsimp only
  rw [hlt, hany, if_neg (by simp [ha]), hd]

end

/-! ### Page responses (R367) -/

section
variable {s : State} {tag : Nat} {halt : Bool}

theorem execPgrsp_unexpected (h : ∀ r ∈ s.pgreqs, r.1.tag ≠ tag) :
    exec (.pgrsp tag halt) s = .next (if s.linkUp then s.linkFailed else s) := by
  have hf : s.pgreqs.find? (·.1.tag == tag) = none := List.find?_eq_none.2 fun r hr => by simpa using h r hr
  change execPgrsp tag halt s = _
  simp only [execPgrsp, hf, State.unexpected]

theorem execPgrsp_unasked (h : ∃ r ∈ s.pgreqs, r.1.tag = tag) (ha : s.answerable tag = false) : exec (.pgrsp tag halt) s = .next s := by
  have hs : (s.pgreqs.find? (·.1.tag == tag)).isSome = true := by simpa using h
  obtain ⟨r, hr⟩ := Option.isSome_iff_exists.1 hs
  change execPgrsp tag halt s = _
  simp only [execPgrsp, hr, ha, Bool.not_false, if_true]

section
variable {r : PgReq × List Waiter} {rest : List (PgReq × List Waiter)} (hr : s.pgreqs = r :: rest) (ht : r.1.tag = tag) (ha : s.answerable tag = true)
include hr ht ha

theorem execPgrsp_halts : exec (.pgrsp tag true) s =
    .next (({ s with pgreqs := s.pgreqs.filter fun x => x.1.tag != tag } : State).haltAsid r.1.asid .haltRequest) := by
  have hf : s.pgreqs.find? (·.1.tag == tag) = some r := by simp [hr, ht]
  change execPgrsp tag true s = _
  simp only [execPgrsp, hf, ha, Bool.not_true, Bool.false_eq_true, if_false, if_true]

theorem execPgrsp_takes (hx : r.1.aux = 0) :
    exec (.pgrsp tag false) s = .next { s with pgreqs := s.pgreqs.filter fun x => x.1.tag != tag } := by
  have hf : s.pgreqs.find? (·.1.tag == tag) = some r := by simp [hr, ht]
  change execPgrsp tag false s = _
  simp [execPgrsp, hf, ha, hx]

end

end

end Sys2Proof.Machine

namespace Sys2Proof.Machine

/-- Settles O46: case by case along the events; the halt line ends with the engines stopped only where the images and records are judged written. -/
theorem trapsAndHalts : Obligations.TrapsAndHalts := by
  unfold Obligations.TrapsAndHalts
  refine ⟨fun s w k hw => ⟨fun c p a i ht => ⟨fun hq hh hin h0 ho => ?_, fun hq hh hin h0 ho => execTrapEntry_halts hw ht hq hh hin ho h0,
        execTrapEntry_owing hw ht⟩,
      fun granule since ht => ⟨execFeWaitExpired_traps hw ht, execFeWaitExpired_idle hw ht⟩, fun wake => execSleepExpiry_wakes hw,
      fun n => execIssueGapExpiry_ends hw, fun set since hr => ⟨execRegroupHoldExpiry_ends hw hr, execRegroupHoldExpiry_holds hw hr⟩,
      fun call pas r st => execSyscallDone_stores hw, fun r st => execSyscallDone_idle hw, fun a since v pas => execLwaitCounter_stores hw⟩,
    fun s n => ⟨rfl, rfl, execSramUncorrectable_idle, fun e => execSramUncorrectable_halts, fun c hc => ⟨execHaltLine_idle hc,
      fun hh hd => ⟨execHaltLine_done hc hh hd, fun hn => State.noteHalt_of_told ?_⟩, execHaltLine_ends hc,
      fun s1 recs hh hd hi hr => ?_, fun desc => execDescriptorUpdate_idle hc, fun desc d hl ha hb hd => ?_⟩,
      execContextDestruction_idle, fun h => ⟨_, execContextDestruction_ends h, fun c => State.destroyed_ctx_live, State.destroyed_queues,
        State.destroyed_structs, State.destroyed_mem⟩⟩,
    fun s asid addr tag => ⟨fun d ha hb hf hd => ⟨fun ho => ?_, fun ho => ?_⟩, execContextCreation_idle, fun halt => execPgrsp_unexpected,
      fun halt => execPgrsp_unasked, fun r rest hr ht ha => ⟨execPgrsp_halts hr ht ha, execPgrsp_takes hr ht ha⟩⟩⟩
  · obtain ⟨hk, -⟩ := s.whoOf_eq k w hw
    have hlt := hk ▸ s.lt_of_whoOf k w hw
    have hto : (s.setThread k (w.t.enterHandler s.clock w.c.handler c p a i)).thread k = w.t.enterHandler s.clock w.c.handler c p a i := by
      simp [State.thread, nth_updateAt, hlt]
    refine ⟨_, execTrapEntry_enters hw ht hq hh hin ho h0, ?_⟩
    simp only [hto]
    exact ⟨rfl, rfl, rfl, rfl, rfl, rfl, rfl, rfl, rfl, rfl, rfl, rfl, fun j hj => s.thread_setThread_ne _ (Ne.symm hj)⟩
  · rwa [State.ctx_of_getElem? hc]
  · obtain ⟨t, he, hd', ⟨hq, hr', hp⟩, hm, hn⟩ := execHaltLine_stopped hc hh hd hi hr
    exact ⟨t, he, hd', hq, hr', hp, hm, hn⟩
  · intro same takes
    refine ⟨execDescriptorUpdate_fails hc hl ha hb hd, fun ho hs => ?_, fun ho hs => ?_⟩
    · rw [execDescriptorUpdate_takes hc hl ha hb hd ho, if_pos hs]
      exact ⟨_, rfl, State.updCtx_updCtx_contexts _ _, rfl, rfl⟩
    · rw [execDescriptorUpdate_takes hc hl ha hb hd ho, if_neg hs]
      exact ⟨_, rfl, State.updCtx_updCtx_contexts _ _, rfl⟩
  · rw [execContextCreation_eq ha hb hf hd, if_pos ho]
  · rw [execContextCreation_eq ha hb hf hd, ho]
    rfl

end Sys2Proof.Machine

namespace Sys2Proof.Machine

/-! ## Power, bring-up and management (O49; 17_platform.md R370 to R379) -/

/-! ### Every resident context halts (R341, R347) -/

theorem Ctx.raise_halt (c : Ctx) (now : DWord) (r : Raiser) : (c.raise now r).halt ≠ none := by
  unfold Ctx.raise
  split
  · simp
  next h hh => split_ifs <;> simp [hh]

theorem Ctx.raise_live (c : Ctx) (now : DWord) (r : Raiser) : (c.raise now r).live = c.live := by
  unfold Ctx.raise
  split
  · rfl
  · split_ifs <;> rfl

/-- A halt raised in one context leaves every other context, and in its own whether it lives. -/
theorem State.raiseHalt_ctx (s : State) (k n : Nat) (r : Raiser) :
    (s.raiseHalt k r).ctx n = if k = n ∧ n < s.contexts.length then (s.ctx n).raise s.clock r else s.ctx n :=
  nth_updateAt s.contexts k n (fun c => c.raise s.clock r) {}

/-- The halt of one context, where it lives and is resident. -/
def State.haltResident (index : Nat) (cause : Cause) (s : State) (k : Nat) : State :=
  if (s.ctx k).live && s.residentCtx k then s.raiseHalt k { index := index, cause := cause } else s

section
variable {s : State} {index n : Nat} {cause : Cause}

theorem State.haltResident_eq (k : Nat) : ∃ c t, s.haltResident index cause k = { s with contexts := c, threads := t } := by
  unfold State.haltResident
  split
  · exact ⟨_, _, rfl⟩
  · exact ⟨s.contexts, s.threads, rfl⟩

theorem State.haltAll_eq : ∃ c t, s.haltAll index cause = { s with contexts := c, threads := t } :=
  List.foldlRecOn (motive := fun t : State => ∃ c u, t = { s with contexts := c, threads := u }) _ (State.haltResident index cause)
    ⟨s.contexts, s.threads, rfl⟩ fun t ⟨c, u, ht⟩ k _ => by
      obtain ⟨c', u', h⟩ := t.haltResident_eq (index := index) (cause := cause) k
      exact ⟨c', u', h.trans (by rw [ht])⟩

theorem State.haltResident_live (k : Nat) : ((s.haltResident index cause k).ctx n).live = (s.ctx n).live := by
  unfold State.haltResident
  split
  · rw [State.raiseHalt_ctx, apply_ite Ctx.live, Ctx.raise_live, ite_self]
  · rfl

theorem State.haltResident_halted (k : Nat) (h : (s.ctx n).halt ≠ none) : ((s.haltResident index cause k).ctx n).halt ≠ none := by
  unfold State.haltResident
  split
  · rw [State.raiseHalt_ctx]
    split
    · exact Ctx.raise_halt _ _ _
    · exact h
  · exact h

theorem State.haltResident_halts (hn : n < s.contexts.length) (hl : (s.ctx n).live = true) (hr : s.residentCtx n = true) :
    ((s.haltResident index cause n).ctx n).halt ≠ none := by
  unfold State.haltResident
  rw [hl, hr, Bool.and_self, if_pos rfl, State.raiseHalt_ctx, if_pos ⟨rfl, hn⟩]
  exact Ctx.raise_halt _ _ _

theorem State.haltResident_length (k : Nat) : (s.haltResident index cause k).contexts.length = s.contexts.length := by
  unfold State.haltResident
  split
  · exact length_updateAt _ _ _
  · rfl

theorem State.haltResident_resident (k : Nat) : (s.haltResident index cause k).residentCtx n = s.residentCtx n := by
  obtain ⟨c, t, h⟩ := s.haltResident_eq (index := index) (cause := cause) k
  rw [h]
  rfl

/-- Of the contexts in a list each that lives and is resident halts, and what has halted stays so. -/
theorem State.foldl_haltResident_halts (l : List Nat) (s : State)
    (h : (s.ctx n).halt ≠ none ∨ n ∈ l ∧ n < s.contexts.length ∧ (s.ctx n).live = true ∧ s.residentCtx n = true) :
    ((l.foldl (State.haltResident index cause) s).ctx n).halt ≠ none := by
  induction l generalizing s with
  | nil => exact h.resolve_right fun hn => absurd hn.1 List.not_mem_nil
  | cons k l ih =>
    refine ih _ ?_
    rcases h with h | ⟨hm, hn, hl, hr⟩
    · exact .inl (State.haltResident_halted k h)
    · rcases List.mem_cons.1 hm with rfl | hm
      · exact .inl (State.haltResident_halts hn hl hr)
      · rw [State.haltResident_length, State.haltResident_live, State.haltResident_resident]
        exact .inr ⟨hm, hn, hl, hr⟩

theorem State.haltAll_halts (hn : n < s.contexts.length) (hl : (s.ctx n).live = true) (hr : s.residentCtx n = true) :
    ((s.haltAll index cause).ctx n).halt ≠ none :=
  State.foldl_haltResident_halts _ _ (.inr ⟨(mem_upFrom ..).2 ⟨Nat.zero_le _, by omega⟩, hn, hl, hr⟩)

end

/-! ### Registers (R371) -/

theorem execGafferRegisterWrite_none {s : State} {off : Nat} {v : DWord} (h : off ∉ [0x010, 0x014, 0x020, 0x028, 0x034]) :
    exec (.gafferRegisterWrite off v) s = .next s := by
  simp only [List.mem_cons, List.not_mem_nil, or_false, not_or] at h
  obtain ⟨h1, h2, h3, h4, h5⟩ := h
  change execGafferRegisterWrite off v s = _
  unfold execGafferRegisterWrite
  split
  case h_6 => rfl
  all_goals contradiction

/-! ### Power states (R375, R377) -/

section
variable {s : State}

theorem execPowerOff_drains (h : s.gaffer.state = .on) :
    exec .powerOff s = .next ((s.preempt (upFrom 0 96)).updGaffer fun g => { g with state := .draining }) := congrArg Host.Outcome.next (if_pos h)

theorem execPowerOff_idle (h : s.gaffer.state ≠ .on) : exec .powerOff s = .next s := congrArg Host.Outcome.next (if_neg h)

theorem execPowerOn_idle (h : s.gaffer.state ≠ .off) : exec .powerOn s = .next s := congrArg Host.Outcome.next (if_neg h)

/-- What a power-on makes of the Gaffer's fields. -/
def Gaffer.poweredOn (g : Gaffer) (choice : Nat) : Gaffer :=
  if g.phases = 0xFFF || choice % 2 = 1 then { g with state := .verify, derated := false, phases := 0xFFF, ilim := 0x0FA0 }
  else if 8 ≤ g.healthy then { g with state := .verify } else g

theorem execPowerOn_eq (h : s.gaffer.state = .off) :
    exec .powerOn s = .next (s.updGaffer fun g => g.poweredOn (Config.choice s.moves)) := congrArg Host.Outcome.next (if_pos h)

theorem Gaffer.poweredOn_verify {g : Gaffer} {n : Nat} (h : 8 ≤ popCount g.phases.toNat 12) : (g.poweredOn n).state = .verify := by
  unfold Gaffer.poweredOn
  split
  · rfl
  · rw [if_pos (show 8 ≤ g.healthy from h)]

theorem Gaffer.poweredOn_healthy {g : Gaffer} {n : Nat} (ho : g.state = .off) (h : (g.poweredOn n).state = .verify) :
    8 ≤ popCount (g.poweredOn n).phases.toNat 12 := by
  unfold Gaffer.poweredOn at h ⊢
  split
  · exact (by decide : 8 ≤ popCount 0xFFF 12)
  next hc =>
    rw [if_neg hc] at h
    split
    next h8 => exact h8
    next h8 =>
      rw [if_neg h8, ho] at h
      cases h

theorem Gaffer.poweredOn_whole {g : Gaffer} {n : Nat} (h : g.phases = 0xFFF) :
    g.poweredOn n = { g with state := .verify, derated := false, phases := 0xFFF, ilim := 0x0FA0 } := if_pos (by simp [h])

/-- The state that a drained domain leaves. -/
theorem execDrainDone_ends {s' : State} (hd : s.gaffer.state = .draining) (he : ∀ e ∈ s.ensembles, e.occupies = false)
    (hr : ∀ r ∈ s.rigger, r.live = false) (hl : s.link.reqs = []) (hu : (upFrom 0 s.queues.length).foldlM State.unmapQueue s = .ok s') :
    exec .drainDone s = .next (s'.unpowered.daily 2 0) := by
  have he' : s.ensembles.any (·.occupies) = false := List.any_eq_false.2 fun e h => by simp [he e h]
  have hr' : s.rigger.any (·.live) = false := List.any_eq_false.2 fun r h => by simp [hr r h]
  change execDrainDone s = _
  unfold execDrainDone
  rw [he', hr', hl, hd, if_pos (by rfl), hu]

theorem execDrainDone_idle (h : ¬(s.gaffer.state = .draining ∧ (∀ e ∈ s.ensembles, e.occupies = false) ∧ (∀ r ∈ s.rigger, r.live = false) ∧
    s.link.reqs = [])) : exec .drainDone s = .next s := by
  refine congrArg Host.Outcome.next (if_neg fun hc => h ?_)
  simpa [and_assoc] using hc

theorem State.unpowered_daily {event data bits : Nat} : let t := s.unpowered.daily event data bits
    t.gaffer.state = .off ∧ t.gaffer.ready = 0 ∧ t.tlb = [] ∧ t.link.lines = [] ∧ (∀ r ∈ t.xlreqs, r.dead = true) ∧ t.xlwaits = [] ∧
      ∀ q ∈ t.queues, q.slot = none := by
  intro t
  obtain ⟨m, q, h, d, out, ht⟩ := s.unpowered.daily_eq event data bits
  have hx : t = _ := ht
  rw [hx]
  refine ⟨rfl, rfl, rfl, rfl, fun r hr => ?_, rfl, fun q hq => ?_⟩
  · obtain ⟨x, -, rfl⟩ := List.mem_map.1 hr
    rfl
  · obtain ⟨x, -, rfl⟩ := List.mem_map.1 hq
    rfl

theorem State.unpowered_phases : s.unpowered.gaffer.phases = s.gaffer.phases ∧ s.unpowered.gaffer.derated = s.gaffer.derated := by
  have hg : (s.link.lines.foldl (fun (s : State) l => s.evictUnit l.unit) s).gaffer = s.gaffer :=
    List.foldlRecOn (motive := fun t : State => t.gaffer = s.gaffer) _ _ rfl fun t ht l _ => by
      obtain ⟨m, u, x, k, h⟩ := t.evictUnit_eq l.unit none false
      rw [h]
      exact ht
  simp only [State.unpowered, hg, and_self]

/-! ### Firmware and readiness (R377) -/

variable {ed ml : Bool} {version floor : Word}

theorem execFirmwareVerify_idle (h : s.gaffer.state ≠ .verify) : exec (.firmwareVerify ed ml version floor) s = .next s :=
  congrArg Host.Outcome.next (if_pos (by simpa using h))

theorem execFirmwareVerify_passes (h : s.gaffer.state = .verify) (he : ed = true) (hm : ml = true) (hv : s.gaffer.floor.toNat ≤ version.toNat) :
    exec (.firmwareVerify ed ml version floor) s =
      .next (s.updGaffer fun g => { g with state := .bringup, fwFail := false, newFloor := floor, version := version }) := by
  have hle : s.gaffer.floor ≤ version := hv
  change execFirmwareVerify ed ml version floor s = _
  simp [execFirmwareVerify, h, he, hm, hle]

theorem execFirmwareVerify_fails (h : s.gaffer.state = .verify) (hbad : ed = false ∨ ml = false ∨ version.toNat < s.gaffer.floor.toNat) :
    ∃ t, exec (.firmwareVerify ed ml version floor) s = .next t ∧ t.gaffer.state = .off ∧ t.gaffer.fwFail = true := by
  have hno : (ed && ml && decide (s.gaffer.floor ≤ version)) = false := by
    rcases hbad with rfl | rfl | hlt
    · rfl
    · rw [Bool.and_false, Bool.false_and]
    · rw [decide_eq_false (show ¬s.gaffer.floor ≤ version from Nat.not_le.2 hlt), Bool.and_false]
  refine ⟨_, congrArg Host.Outcome.next ((if_neg (by simp [h])).trans (if_neg (by simp [hno]))), ?_⟩
  obtain ⟨m, out, hm⟩ := (s.updGaffer fun g => { g with state := .off, fwFail := true }).setMbox_eq 2
  obtain ⟨m', q, hd, d, out', ht⟩ := ((s.updGaffer fun g => { g with state := .off, fwFail := true }).setMbox 2).daily_eq 3 version.toNat 32
  rw [ht, hm]
  exact ⟨rfl, rfl⟩

/-- The Gaffer's fields with the readiness bit of a function. -/
def Gaffer.readied (g : Gaffer) (which : Nat) : Gaffer :=
  if which < 7 then { g with ready := g.ready ||| BitVec.ofNat 7 (2 ^ which) } else { g with grp := g.grp ||| BitVec.ofNat 24 (2 ^ (which - 7)) }

theorem Gaffer.readied_state (g : Gaffer) (n : Nat) : (g.readied n).state = g.state := by
  unfold Gaffer.readied
  split <;> rfl

section
variable {n : Nat}

theorem execFunctionReady_idle (h : ¬((s.gaffer.state = .bringup ∨ s.gaffer.state = .on) ∧ s.linkUp = true ∧ n < 31)) :
    exec (.functionReady n) s = .next s := by
  refine if_pos ?_
  by_contra hc
  refine h ?_
  simpa [not_or, not_and_or, or_iff_not_imp_left, and_assoc] using hc

theorem execFunctionReady_eq (h : s.gaffer.state = .bringup ∨ s.gaffer.state = .on) (hl : s.linkUp = true) (hn : n < 31) :
    exec (.functionReady n) s = let s1 := s.updGaffer fun g => g.readied n
      if s.gaffer.state = .bringup && s1.gaffer.ready = 0x7F && s1.gaffer.grp = 0xFFFFFF then
        let s2 := ((s1.updGaffer fun g => { g with state := .on }).setMbox 3).daily 1 s.gaffer.version.toNat 32
        .next (if s2.gaffer.floor < s2.gaffer.newFloor then (s2.updGaffer fun g => { g with floor := g.newFloor }).daily 4 s.gaffer.version.toNat 32 else s2)
      else .next s1 := by
  refine if_neg ?_
  rcases h with h | h <;> simp [h, hl, hn]

/-- The fused floor rises, where it does, and the readiness stays. -/
theorem State.floorRaised_gaffer (s : State) (v : Nat) :
    let t := if s.gaffer.floor < s.gaffer.newFloor then (s.updGaffer fun g => { g with floor := g.newFloor }).daily 4 v 32 else s
    t.gaffer.state = s.gaffer.state ∧ t.gaffer.ready = s.gaffer.ready ∧ t.gaffer.grp = s.gaffer.grp := by
  dsimp only
  split
  · obtain ⟨m, q, h, d, out, ht⟩ := (s.updGaffer fun g => { g with floor := g.newFloor }).daily_eq 4 v 32
    rw [ht]
    exact ⟨rfl, rfl, rfl⟩
  · exact ⟨rfl, rfl, rfl⟩

/-- All functions ready: the step to ON keeps the readiness bits. -/
theorem State.turnedOn_gaffer (s : State) (v : Nat) : let t := ((s.updGaffer fun g => { g with state := .on }).setMbox 3).daily 1 v 32
    t.gaffer.state = .on ∧ t.gaffer.ready = s.gaffer.ready ∧ t.gaffer.grp = s.gaffer.grp := by
  obtain ⟨m, out, hm⟩ := (s.updGaffer fun g => { g with state := .on }).setMbox_eq 3
  obtain ⟨m', q, h, d, out', ht⟩ := ((s.updGaffer fun g => { g with state := .on }).setMbox 3).daily_eq 1 v 32
  dsimp only
  rw [ht, hm]
  exact ⟨rfl, rfl, rfl⟩

theorem execFunctionReady_readies (h : s.gaffer.state = .bringup ∨ s.gaffer.state = .on) (hl : s.linkUp = true) (hn : n < 31) :
    ∃ t, exec (.functionReady n) s = .next t ∧ t.gaffer.ready = (s.gaffer.readied n).ready ∧ t.gaffer.grp = (s.gaffer.readied n).grp ∧
      (t.gaffer.state = .on ↔ s.gaffer.state = .on ∨ (t.gaffer.ready = 0x7F ∧ t.gaffer.grp = 0xFFFFFF)) := by
  rw [execFunctionReady_eq h hl hn]
  dsimp only
  split
  next hc =>
    obtain ⟨hst, hready, hgrp⟩ := State.turnedOn_gaffer (s.updGaffer fun g => g.readied n) s.gaffer.version.toNat
    obtain ⟨hst', hready', hgrp'⟩ := State.floorRaised_gaffer
      ((((s.updGaffer fun g => g.readied n).updGaffer fun g => { g with state := .on }).setMbox 3).daily 1 s.gaffer.version.toNat 32)
      s.gaffer.version.toNat
    simp only [Bool.and_eq_true, decide_eq_true_eq] at hc
    refine ⟨_, rfl, hready'.trans hready, hgrp'.trans hgrp, ?_⟩
    rw [hst', hst, hready', hready, hgrp', hgrp]
    exact ⟨fun _ => .inr ⟨hc.1.2, hc.2⟩, fun _ => rfl⟩
  next hc =>
    refine ⟨_, rfl, rfl, rfl, ?_⟩
    have hst : (s.updGaffer fun g => g.readied n).gaffer.state = s.gaffer.state := s.gaffer.readied_state n
    rw [hst]
    simp only [Bool.and_eq_true, decide_eq_true_eq, and_assoc, not_and] at hc
    exact ⟨.inl, fun ho => ho.elim id fun hall => h.elim (fun hb => absurd hall.2 (hc hb hall.1)) id⟩

end

end

/-! ### Power sharing and timing errors (R372 to R374) -/

section
variable {s : State} {grant clock : Nat} {cads : List Nat}

theorem execPowerArbitration_grants (h : grant ≤ s.gaffer.ceiling ∧ clock ≤ 2900000 ∧ cads.length = 24 ∧ ∀ c ∈ cads, 1 ≤ c ∧ c ≤ 16) :
    exec (.powerArbitration grant clock cads) s =
      .next (({ s with cads := cads.map (BitVec.ofNat 5) } : State).updGaffer fun g => { g with grant := grant, clock := clock }) := by
  obtain ⟨hg, hc, hl, hb⟩ := h
  have hall : cads.any (fun c => c == 0 || decide (16 < c)) = false := List.any_eq_false.2 fun c hm => by
    have hone := hb c hm
    simp only [Bool.or_eq_true, beq_iff_eq, decide_eq_true_eq]
    omega
  refine if_neg ?_
  rw [hall, hl, decide_eq_false (Nat.not_lt.2 hg), decide_eq_false (show ¬maxClock < clock from Nat.not_lt.2 hc)]
  decide

theorem execPowerArbitration_refuses (h : ¬(grant ≤ s.gaffer.ceiling ∧ clock ≤ 2900000 ∧ cads.length = 24 ∧ ∀ c ∈ cads, 1 ≤ c ∧ c ≤ 16)) :
    exec (.powerArbitration grant clock cads) s = .next s := by
  refine if_pos ?_
  by_contra hc
  simp only [Bool.or_eq_true, decide_eq_true_eq, bne_iff_ne, ne_eq, not_or, not_not, not_lt,
    List.any_eq_true, not_exists, not_and, beq_iff_eq] at hc
  obtain ⟨⟨⟨hg, hck⟩, hl⟩, hb⟩ := hc
  refine h ⟨hg, hck, hl, fun c hm => ?_⟩
  have hone := hb c hm
  omega

theorem State.clockGated_iff {n : Nat} : s.clockGated n = true ↔ ∀ e ∈ s.ensembles, e.occupies = true → e.group ≠ n := by
  simp [State.clockGated, State.onGroup]

theorem execReplayRateAdjust_sets {v c : Nat} (h : c ≤ 2900000) :
    exec (.replayRateAdjust v c) s = .next (s.updGaffer fun g => { g with voltage := v, clock := c, replays := List.replicate 24 0 }) :=
  congrArg Host.Outcome.next (if_neg (Nat.not_lt.2 h))

end

/-! ### Lost phases (R375) -/

/-- The state after the loss of a phase, before it is judged how many are left. -/
def State.phaseLost (s : State) (p : Nat) : State :=
  ((s.updGaffer fun g => { g with
    phases := g.phases &&& ~~~(BitVec.ofNat 12 (2 ^ p)), ilim := g.ilim - 0x014D, derated := true }).setMbox 0).daily 5 p 4

section
variable {s : State} {p : Nat}

theorem State.phaseLost_eq : ∃ m q h d out, s.phaseLost p = { s with
    gaffer := { s.gaffer with phases := s.gaffer.phases &&& ~~~(BitVec.ofNat 12 (2 ^ p)), ilim := s.gaffer.ilim - 0x014D, derated := true
                              mbox := m, dailySeq := q, dlHead := h, dailies := d }
    link := { s.link with out := out } } := by
  obtain ⟨m, out, hm⟩ := (s.updGaffer fun g => { g with
    phases := g.phases &&& ~~~(BitVec.ofNat 12 (2 ^ p)), ilim := g.ilim - 0x014D, derated := true }).setMbox_eq 0
  obtain ⟨m', q, h, d, out', ht⟩ := ((s.updGaffer fun g => { g with
    phases := g.phases &&& ~~~(BitVec.ofNat 12 (2 ^ p)), ilim := g.ilim - 0x014D, derated := true }).setMbox 0).daily_eq 5 p 4
  rw [hm] at ht
  exact ⟨m', q, h, d, out', (congrArg (State.daily · 5 p 4) hm).trans ht⟩

theorem execPhaseLoss_idle (h : 12 ≤ p ∨ s.gaffer.phases.getLsbD p = false) : exec (.phaseLoss p) s = .next s := by
  refine if_pos ?_
  rcases h with h | h <;> simp [h]

variable (hp : p < 12) (hb : s.gaffer.phases.getLsbD p = true)
include hp hb

theorem execPhaseLoss_eq : exec (.phaseLoss p) s = .next (if 8 ≤ (s.phaseLost p).gaffer.healthy then s.phaseLost p
    else match s.gaffer.state with
      | .off => s.phaseLost p
      | .verify => (s.phaseLost p).unpowered.daily 2 0
      | .bringup | .on | .draining => (s.phaseLost p).emergency.updGaffer fun g => { g with state := .draining }) :=
  if_neg (by simp [hb, Nat.not_le.2 hp])

theorem execPhaseLoss_goesOn (h : 8 ≤ (s.phaseLost p).gaffer.healthy ∨ s.gaffer.state = .off) : exec (.phaseLoss p) s = .next (s.phaseLost p) := by
  rw [execPhaseLoss_eq hp hb]
  rcases h with h | h
  · rw [if_pos h]
  · rw [h, ite_self]

variable (h8 : ¬8 ≤ (s.phaseLost p).gaffer.healthy)
include h8

theorem execPhaseLoss_unpowers (h : s.gaffer.state = .verify) : exec (.phaseLoss p) s = .next ((s.phaseLost p).unpowered.daily 2 0) := by
  rw [execPhaseLoss_eq hp hb, if_neg h8, h]

theorem execPhaseLoss_drains (h : s.gaffer.state = .bringup ∨ s.gaffer.state = .on ∨ s.gaffer.state = .draining) :
    exec (.phaseLoss p) s = .next ((s.phaseLost p).emergency.updGaffer fun g => { g with state := .draining }) := by
  rw [execPhaseLoss_eq hp hb, if_neg h8]
  rcases h with h | h | h <;> rw [h]

end

theorem State.updGaffer_gaffer (s : State) (f : Gaffer → Gaffer) : (s.updGaffer f).gaffer = f s.gaffer := rfl

theorem State.updGaffer_ctx (s : State) (f : Gaffer → Gaffer) (n : Nat) : (s.updGaffer f).ctx n = s.ctx n := rfl

theorem State.emergency_gaffer (s : State) : s.emergency.gaffer = s.gaffer := by
  obtain ⟨c, u, h⟩ := State.haltAll_eq (s := s) (index := ringmaster) (cause := .thermalEmergency)
  rw [State.emergency, h]

theorem State.emergency_halts {s : State} {n : Nat} (hn : n < s.contexts.length) (hl : (s.ctx n).live = true) (hr : s.residentCtx n = true) :
    (s.emergency.ctx n).halt ≠ none := State.haltAll_halts hn hl hr

/-- What the loss of a phase makes of the device, by how many are left and by the Gaffer's state. -/
theorem execPhaseLoss_derates {s : State} {p : Nat} (hp : p < 12) (hb : s.gaffer.phases.getLsbD p = true) :
    ∃ t, exec (.phaseLoss p) s = .next t ∧ t.gaffer.phases = s.gaffer.phases &&& ~~~(BitVec.ofNat 12 (2 ^ p)) ∧
    t.gaffer.derated = true ∧ (8 ≤ popCount t.gaffer.phases.toNat 12 → t.contexts = s.contexts ∧ t.gaffer.state = s.gaffer.state) ∧
    (popCount t.gaffer.phases.toNat 12 < 8 → s.gaffer.state = .off ∨ s.gaffer.state = .verify → t.gaffer.state = .off) ∧
    (popCount t.gaffer.phases.toNat 12 < 8 → s.gaffer.state = .bringup ∨ s.gaffer.state = .on ∨ s.gaffer.state = .draining →
      t.gaffer.state = .draining ∧ ∀ n < s.contexts.length, (s.ctx n).live = true → s.residentCtx n = true → (t.ctx n).halt ≠ none) := by
  obtain ⟨m, q, h, d, out, ht⟩ := s.phaseLost_eq (p := p)
  have hph : (s.phaseLost p).gaffer.phases = s.gaffer.phases &&& ~~~(BitVec.ofNat 12 (2 ^ p)) := by rw [ht]
  have hde : (s.phaseLost p).gaffer.derated = true := by rw [ht]
  have hst : (s.phaseLost p).gaffer.state = s.gaffer.state := by rw [ht]
  have hcx : (s.phaseLost p).contexts = s.contexts := by rw [ht]
  have hen : (s.phaseLost p).ensembles = s.ensembles := by rw [ht]
  by_cases h8 : 8 ≤ (s.phaseLost p).gaffer.healthy
  · exact ⟨_, execPhaseLoss_goesOn hp hb (.inl h8), hph, hde, fun _ => ⟨hcx, hst⟩, fun hlt => absurd h8 (Nat.not_le.2 hlt),
      fun hlt => absurd h8 (Nat.not_le.2 hlt)⟩
  · have hwhich : s.gaffer.state = .off ∨ s.gaffer.state = .verify ∨
        s.gaffer.state = .bringup ∨ s.gaffer.state = .on ∨ s.gaffer.state = .draining := by cases s.gaffer.state <;> simp
    rcases hwhich with hs | hs | hs
    · exact ⟨_, execPhaseLoss_goesOn hp hb (.inr hs), hph, hde, fun hge => absurd hge h8, fun _ _ => hst.trans hs, by simp [hs]⟩
    · obtain ⟨hup, hud⟩ := (s.phaseLost p).unpowered_phases
      obtain ⟨m', q', h', d', out', hu⟩ := (s.phaseLost p).unpowered.daily_eq 2 0 0
      refine ⟨_, execPhaseLoss_unpowers hp hb h8 hs, ?_⟩
      simp only [hu, hup, hud, hph, hde, true_and]
      refine ⟨fun hge => absurd ?_ h8, fun _ _ => rfl, by simp [hs]⟩
      rwa [Gaffer.healthy, hph]
    · have hg := (s.phaseLost p).emergency_gaffer
      refine ⟨_, execPhaseLoss_drains hp hb h8 hs, ?_⟩
      simp only [State.updGaffer_gaffer, State.updGaffer_ctx, hg, hph, hde, true_and]
      refine ⟨fun hge => absurd ?_ h8, fun _ hno => ?_, fun _ _ n hn hl hr => ?_⟩
      · rwa [Gaffer.healthy, hph]
      · rcases hno with hno | hno <;> simp [hno] at hs
      · refine State.emergency_halts (by rwa [hcx]) (by rwa [State.ctx_congr hcx]) ?_
        rwa [State.residentCtx, hen]

/-! ### Heat (R371, R376) -/

section
variable {m : BitVec 16} {l : List (Nat × BitVec 16)}

/-- The hotter of a reading and another sensor's. -/
def hotter (m : BitVec 16) (y : Nat × BitVec 16) : BitVec 16 := if m.slt y.2 then y.2 else m

theorem foldl_hotter_mem : l.foldl hotter m = m ∨ ∃ x ∈ l, x.2 = l.foldl hotter m := by
  induction l generalizing m with
  | nil => exact .inl rfl
  | cons y l ih =>
    rcases ih (m := hotter m y) with h | ⟨x, hx, h⟩
    · rw [List.foldl_cons, h]
      unfold hotter
      split
      · exact .inr ⟨y, List.mem_cons_self, rfl⟩
      · exact .inl rfl
    · exact .inr ⟨x, List.mem_cons_of_mem y hx, h⟩

theorem le_hotter (y : Nat × BitVec 16) : m.toInt ≤ (hotter m y).toInt ∧ y.2.toInt ≤ (hotter m y).toInt := by
  unfold hotter
  split
  next h => exact ⟨(BitVec.slt_iff_toInt_lt.1 h).le, le_rfl⟩
  next h => exact ⟨le_rfl, not_lt.1 fun hlt => h (BitVec.slt_iff_toInt_lt.2 hlt)⟩

theorem le_foldl_hotter : m.toInt ≤ (l.foldl hotter m).toInt ∧ ∀ x ∈ l, x.2.toInt ≤ (l.foldl hotter m).toInt := by
  induction l generalizing m with
  | nil => simp
  | cons y l ih =>
    obtain ⟨hm, hl⟩ := ih (m := hotter m y)
    obtain ⟨h1, h2⟩ := le_hotter (m := m) y
    exact ⟨h1.trans hm, List.forall_mem_cons.2 ⟨h2.trans hm, hl⟩⟩

theorem hottest_mem (h : l ≠ []) : ∃ x ∈ l, x.2 = hottest l := by
  cases l with
  | nil => exact absurd rfl h
  | cons y l =>
    rcases foldl_hotter_mem (m := y.2) (l := l) with hy | ⟨x, hx, hxe⟩
    · exact ⟨y, List.mem_cons_self, hy.symm⟩
    · exact ⟨x, List.mem_cons_of_mem y hx, hxe⟩

theorem le_hottest : ∀ x ∈ l, x.2.toInt ≤ (hottest l).toInt := by
  cases l with
  | nil => simp
  | cons y l => exact List.forall_mem_cons.2 (le_foldl_hotter (m := y.2) (l := l))

end

section
variable {s : State} {sensor : Nat} {temp : BitVec 16}

/-- The state with a sensor's reading among those the Gaffer holds. -/
def State.reading (s : State) (sensor : Nat) (temp : BitVec 16) : State :=
  let ts := (s.gaffer.temps.filter (·.1 != sensor)) ++ [(sensor, temp)]
  s.updGaffer fun g => { g with temps := ts, temp := hottest ts }

theorem State.reading_temps : (sensor, temp) ∈ (s.reading sensor temp).gaffer.temps ∧
    (∃ x ∈ (s.reading sensor temp).gaffer.temps, x.2 = (s.reading sensor temp).gaffer.temp) ∧
    ∀ x ∈ (s.reading sensor temp).gaffer.temps, x.2.toInt ≤ (s.reading sensor temp).gaffer.temp.toInt :=
  ⟨List.mem_append_right _ List.mem_cons_self, hottest_mem (List.append_ne_nil_of_right_ne_nil _ (List.cons_ne_nil _ _)), le_hottest⟩

theorem State.throttle_eq : ∃ c m q h d out, s.throttle sensor temp = { s with
    cads := List.replicate 24 16, gaffer := { s.gaffer with clock := c, mbox := m, dailySeq := q, dlHead := h, dailies := d }
    link := { s.link with out := out } } := by
  obtain ⟨m, out, hm⟩ := (({ s with cads := List.replicate 24 16 } : State).updGaffer fun g =>
    { g with clock := Config.choice s.moves % (maxClock + 1) }).setMbox_eq 1
  obtain ⟨m', q, h, d, out', ht⟩ := ((({ s with cads := List.replicate 24 16 } : State).updGaffer fun g =>
    { g with clock := Config.choice s.moves % (maxClock + 1) }).setMbox 1).daily_eq 6 (sensor % 2 ^ 16 + temp.toNat * 2 ^ 16) 32
  rw [hm] at ht
  exact ⟨_, m', q, h, d, out', (congrArg (State.daily · 6 (sensor % 2 ^ 16 + temp.toNat * 2 ^ 16) 32) hm).trans ht⟩

theorem State.sensed_eq (h : 1680 < temp.toInt) : s.sensed sensor temp =
    (if temp.toInt ≤ 1760 then s.reading sensor temp else (s.reading sensor temp).emergency).throttle sensor temp := if_neg (not_le.2 h)

theorem State.sensed_hot (h : 1680 < temp.toInt) : let t := s.sensed sensor temp
    t.cads = List.replicate 24 16 ∧ (sensor, temp) ∈ t.gaffer.temps ∧ (∃ x ∈ t.gaffer.temps, x.2 = t.gaffer.temp) ∧
      (∀ x ∈ t.gaffer.temps, x.2.toInt ≤ t.gaffer.temp.toInt) ∧ (temp.toInt ≤ 1760 → t.contexts = s.contexts ∧ t.threads = s.threads) ∧
      (1760 < temp.toInt → ∀ n < s.contexts.length, (s.ctx n).live = true → s.residentCtx n = true → (t.ctx n).halt ≠ none) := by
  rw [State.sensed_eq h]
  intro t
  obtain ⟨hm, hx, hle⟩ := s.reading_temps (sensor := sensor) (temp := temp)
  by_cases hc : temp.toInt ≤ 1760
  · obtain ⟨c, m, q, hd, d, out, ht⟩ := (s.reading sensor temp).throttle_eq (sensor := sensor) (temp := temp)
    have htt : t = _ := (congrArg (State.throttle · sensor temp) (if_pos hc)).trans ht
    rw [htt]
    exact ⟨rfl, hm, hx, hle, fun _ => ⟨rfl, rfl⟩, fun hlt => absurd hc (not_le.2 hlt)⟩
  · obtain ⟨c, m, q, hd, d, out, ht⟩ := (s.reading sensor temp).emergency.throttle_eq (sensor := sensor) (temp := temp)
    have htt : t = _ := (congrArg (State.throttle · sensor temp) (if_neg hc)).trans ht
    obtain ⟨cs, ts, he⟩ := State.haltAll_eq (s := s.reading sensor temp) (index := ringmaster) (cause := .thermalEmergency)
    have hg : (s.reading sensor temp).emergency.gaffer = (s.reading sensor temp).gaffer := by rw [State.emergency, he]
    rw [htt, hg]
    refine ⟨rfl, hm, hx, hle, fun hle' => absurd hle' hc, fun _ n hn hl hr => ?_⟩
    exact State.haltAll_halts (s := s.reading sensor temp) (index := ringmaster) (cause := .thermalEmergency) hn hl hr

theorem execThermalThrottle_idle (h : temp.toInt ≤ 1680) : exec (.thermalThrottle sensor temp) s = .next s := congrArg Host.Outcome.next (if_pos h)

theorem execThermalThrottle_senses (h : 1680 < temp.toInt) : exec (.thermalThrottle sensor temp) s = .next (s.sensed sensor temp) :=
  congrArg Host.Outcome.next (if_neg (not_le.2 h))

theorem execThermalEmergency_idle (h : temp.toInt ≤ 1760) : exec (.thermalEmergency sensor temp) s = .next s := congrArg Host.Outcome.next (if_pos h)

theorem execThermalEmergency_senses (h : 1760 < temp.toInt) : exec (.thermalEmergency sensor temp) s = .next (s.sensed sensor temp) :=
  congrArg Host.Outcome.next (if_neg (not_le.2 h))

end

end Sys2Proof.Machine

namespace Sys2Proof.Machine

/-- Settles O49: event by event, through what each leaves of the Gaffer's fields and which contexts it halts. -/
theorem power : Obligations.Power := by
  unfold Obligations.Power
  intro s st upd
  refine ⟨fun _ => rfl, fun _ => rfl, fun v => ⟨rfl, rfl, rfl, rfl, rfl, fun off => execGafferRegisterWrite_none⟩, execPowerOff_drains,
    execPowerOff_idle, fun h => ⟨_, execPowerOn_eq h, rfl, Gaffer.poweredOn_verify, Gaffer.poweredOn_healthy h, fun hw => ?_⟩, execPowerOn_idle,
    ⟨fun s' hd hu => ?_, execDrainDone_idle⟩, fun a b v fl => ⟨execFirmwareVerify_idle, execFirmwareVerify_passes, execFirmwareVerify_fails⟩,
    fun n => ?_, rfl, fun grant clock cads => ⟨execPowerArbitration_grants, execPowerArbitration_refuses⟩, fun n => State.clockGated_iff,
    fun h => ?_, fun h => ?_, fun v c => execReplayRateAdjust_sets, fun core storage => ⟨rfl, rfl⟩,
    fun p => ⟨execPhaseLoss_idle, execPhaseLoss_derates⟩,
    fun sensor temp => ⟨execThermalThrottle_idle, fun i hi h => ⟨s.sensed sensor temp, ?_, ?_⟩, execThermalEmergency_idle⟩⟩
  · simp only [State.updGaffer_gaffer, Gaffer.poweredOn_whole hw, and_self]
  · obtain ⟨hst, he, hr, hl⟩ := hd
    exact ⟨_, execDrainDone_ends hst he hr hl hu, State.unpowered_daily⟩
  · intro up
    refine ⟨execFunctionReady_idle, fun ⟨h, hl, hn⟩ => ?_⟩
    obtain ⟨t, ht, hready, hgrp, hon⟩ := execFunctionReady_readies h hl hn
    exact ⟨t, ht, fun h7 => hready.trans (by rw [Gaffer.readied, if_pos h7]), fun h7 => hgrp.trans (by rw [Gaffer.readied, if_neg (Nat.not_lt.2 h7)]),
      hon⟩
  · rw [Gaffer.ceiling, h]
    rfl
  · rw [Gaffer.ceiling, h]
    rfl
  · rcases hi with rfl | ⟨h2, rfl⟩
    · exact execThermalThrottle_senses h
    · exact execThermalEmergency_senses h2
  · exact State.sensed_hot h

end Sys2Proof.Machine

namespace Sys2Proof.Machine

/-! ## The host link (O48; 16_link.md R360 to R369, 08_memory.md R189, R190, 09_ordering.md R206) -/

/-! ### A unit's bytes in memory -/

theorem mem_onesOf {n w i : Nat} (v : BitVec n) : i ∈ onesOf v.toNat w ↔ i < w ∧ v.getLsbD i = true := by
  simp [onesOf, mem_upFrom, bitAt_toNat]

section
variable {s : State} {unit : Nat}

/-- Some bytes of a unit written to memory: those, and no others. -/
theorem State.memByte_setMemUnit (hm : MemoryCanonical s) {places : List Nat} (hp : ∀ i ∈ places, i < 64) (data : Unit64) (a : Nat) :
    (s.setMemUnit unit places data).memByte a = if a / 64 = unit ∧ a % 64 ∈ places then unitByte data (a % 64) else s.memByte a := by
  induction places generalizing s with
  | nil => simp [State.setMemUnit]
  | cons i l ih =>
    have hi : i < 64 := hp i List.mem_cons_self
    have hcons : s.setMemUnit unit (i :: l) data = (s.setMemByte (unit * 64 + i) (unitByte data i)).setMemUnit unit l data := rfl
    rw [hcons, ih (wf_setMemByte s _ _ hm) fun j hj => hp j (List.mem_cons_of_mem i hj), memByte_setMemByte s _ _ _ hm]
    have hat : a = unit * 64 + i ↔ a / 64 = unit ∧ a % 64 = i := by omega
    by_cases ha : a = unit * 64 + i
    · simp [ha, show (unit * 64 + i) / 64 = unit by omega, show (unit * 64 + i) % 64 = i by omega]
    · have hne : ¬(a / 64 = unit ∧ a % 64 = i) := mt hat.2 ha
      rw [if_neg ha]
      refine if_congr ?_ rfl rfl
      rw [List.mem_cons, and_or_left]
      exact (or_iff_right hne).symm

theorem State.settlePast_of_fresh (h : ∀ l, s.l2 unit = some l → l.past = false) : s.settlePast unit = s := by
  unfold State.settlePast
  split
  next l hl => rw [h l hl, if_neg Bool.false_ne_true]
  · rfl

theorem State.memByte_congr {s u : State} (h : u.mem = s.mem) (a : Nat) : u.memByte a = s.memByte a := by
  rw [State.memByte, State.memByte, h]

/-- The bytes of a unit that a mask names, written by an agent. -/
theorem State.memByte_mergeUnit (hm : MemoryCanonical s) (en : BitVec 64) (data : Unit64) (a : Nat) :
    (s.mergeUnit unit (onesOf en.toNat 64) data).memByte a =
      if a / 64 = unit ∧ en.getLsbD (a % 64) = true then unitByte data (a % 64) else s.memByte a := by
  have hb : a % 64 ∈ onesOf en.toNat 64 ↔ en.getLsbD (a % 64) = true :=
    (mem_onesOf en).trans (and_iff_right (Nat.mod_lt _ (by decide)))
  rw [State.mergeUnit, State.memByte_congr (wroteGlobal_mem _ _ _), State.memByte_setMemUnit hm fun i hi => ((mem_onesOf en).1 hi).1]
  exact if_congr (and_congr_right' hb) rfl rfl

theorem State.mergeUnit_link (places : List Nat) (data : Unit64) : (s.mergeUnit unit places data).link = s.link := by
  obtain ⟨m, h⟩ := s.setMemUnit_eq unit places data
  rw [State.mergeUnit, (State.reached_wroteGlobal _ _ _).link, h]

end

/-! ### Requests at the home (R365) -/

section
variable {s : State} {agent tag unit : Nat} {q : HomeReq}

theorem State.dirOf_unit : (s.dirOf unit).unit = unit := by
  unfold State.dirOf State.dir
  cases h : s.link.homes.find? (fun d => d.unit == unit) with
  | none => rfl
  | some d => simpa using List.find?_some h

theorem State.homeReq_of_far (h : q.agent ≠ 0) : s.homeReq q = q := by
  unfold State.homeReq
  split
  · exact if_neg h
  · rfl

theorem State.homeReq_kind : (s.homeReq q).opc = q.opc ∧ (s.homeReq q).agent = q.agent := by
  unfold State.homeReq
  split
  · split <;> exact ⟨rfl, rfl⟩
  · exact ⟨rfl, rfl⟩

theorem State.mayArrive_of_far {opc : Nat} (h : agent ≠ 0) :
    s.mayArrive agent tag unit opc = true ↔ hostHomed (unit * 64) = false ∧ unit * 64 < 2 ^ 52 ∧ s.linkUp = true := by
  simp [State.mayArrive, h, physOk, and_assoc]

theorem State.homeTakes_refuses (h : s.mayArrive q.agent q.tag unit q.opc = false) : s.homeTakes unit q = .next s := by
  rw [State.homeTakes, h]
  rfl

theorem State.homeTakes_serves (h : s.mayArrive q.agent q.tag unit q.opc = true) (ho : (s.dirOf unit).open_ = none) :
    s.homeTakes unit q = .next ((s.homeServe (s.dirOf unit) (s.homeReq q)).taken q.agent) := by
  simp only [State.homeTakes, h, if_true, State.homeArrive, ho]

theorem State.homeTakes_waits {o : HomeReq × HomeState} (h : s.mayArrive q.agent q.tag unit q.opc = true) (ho : (s.dirOf unit).open_ = some o) :
    s.homeTakes unit q = .next ((s.setDir { s.dirOf unit with waiting := (s.dirOf unit).waiting ++ [s.homeReq q] }).taken q.agent) := by
  simp only [State.homeTakes, h, if_true, State.homeArrive, ho]

/-- A WbM joins no transaction where none is open, or the open one reads memory: it is as any other request. -/
theorem execWbm_homeTakes {gr : BitVec 4} {data : Unit64}
    (h : s.mayArrive agent tag unit 3 = false ∨ (s.dirOf unit).open_ = none ∨ ∃ o, (s.dirOf unit).open_ = some (o, .memWait)) :
    execWbm agent tag unit gr data s = s.homeTakes unit { agent := agent, tag := tag, opc := 3, en := BitVec.ofNat 64 gr.toNat, data := data } := by
  rcases h with h | h | ⟨o, h⟩
  · rw [State.homeTakes_refuses h]
    exact congrArg Host.Outcome.next (if_pos (by rw [h]; rfl))
  · simp only [execWbm, State.joinFirst, h, State.homeTakes]
    cases s.mayArrive agent tag unit 3 <;> rfl
  · simp only [execWbm, State.joinFirst, h, State.homeTakes]
    cases s.mayArrive agent tag unit 3 <;> rfl

/-- A message that asks the home for a unit, and the request that it makes. -/
def AsksHome (agent tag unit : Nat) (en : BitVec 64) (data : BitVec 512) (op : BitVec 4) (cmp new : BitVec 128) (gr : BitVec 4) (i : Instr)
    (q : HomeReq) : Prop :=
  (i, q) ∈ [(Instr.rds agent tag unit, ({ agent := agent, tag := tag, opc := 0 } : HomeReq)), (.rdx agent tag unit, { agent := agent, tag := tag, opc := 1 }),
    (.upg agent tag unit, { agent := agent, tag := tag, opc := 2 }), (.rdu agent tag unit, { agent := agent, tag := tag, opc := 4 }),
    (.wbm agent tag unit gr data, { agent := agent, tag := tag, opc := 3, en := BitVec.ofNat 64 gr.toNat, data := data }),
    (.wru agent tag unit en data, { agent := agent, tag := tag, opc := 5, en := en, data := data }),
    (.wrc agent tag unit en data, { agent := agent, tag := tag, opc := 6, en := en, data := data }),
    (.atoms agent tag (64 * unit) op cmp new,
      { agent := agent, tag := tag, opc := 7, addr := 64 * unit, op := op.toNat, data := BitVec.ofNat 512 (new.toNat + cmp.toNat * 2 ^ 128) })]

section
variable {en : BitVec 64} {data : BitVec 512} {op : BitVec 4} {cmp new : BitVec 128} {gr : BitVec 4} {i : Instr}
  (hi : AsksHome agent tag unit en data op cmp new gr i q)
include hi

theorem AsksHome.sender : q.agent = agent ∧ q.tag = tag ∧ (q.opc = 5 ∨ q.opc = 6 → q.en = en ∧ q.data = data) := by
  simp only [AsksHome, List.mem_cons, List.not_mem_nil, or_false, Prod.mk.injEq] at hi
  rcases hi with ⟨-, rfl⟩ | ⟨-, rfl⟩ | ⟨-, rfl⟩ | ⟨-, rfl⟩ | ⟨-, rfl⟩ | ⟨-, rfl⟩ | ⟨-, rfl⟩ | ⟨-, rfl⟩ <;> simp

theorem exec_homeRequest
    (h : s.mayArrive agent tag unit q.opc = false ∨ (s.dirOf unit).open_ = none ∨ ∃ o, (s.dirOf unit).open_ = some (o, .memWait)) :
    exec i s = s.homeTakes unit q := by
  have hat : execAtoms agent tag (64 * unit) op cmp new s = s.homeTakes unit
      { agent := agent, tag := tag, opc := 7, addr := 64 * unit, op := op.toNat, data := BitVec.ofNat 512 (new.toNat + cmp.toNat * 2 ^ 128) } := by
    rw [execAtoms, Nat.mul_div_cancel_left _ (by decide)]
  simp only [AsksHome, List.mem_cons, List.not_mem_nil, or_false, Prod.mk.injEq] at hi
  rcases hi with ⟨rfl, rfl⟩ | ⟨rfl, rfl⟩ | ⟨rfl, rfl⟩ | ⟨rfl, rfl⟩ | ⟨rfl, rfl⟩ | ⟨rfl, rfl⟩ | ⟨rfl, rfl⟩ | ⟨rfl, rfl⟩
  case' inr.inr.inr.inr.inl => exact execWbm_homeTakes h
  case' inr.inr.inr.inr.inr.inr.inr => exact hat
  all_goals rfl

theorem exec_homeRequest_refused (h : ¬s.mayArrive agent tag unit q.opc = true) : exec i s = .next s := by
  obtain ⟨ha, ht, -⟩ := AsksHome.sender hi
  rw [exec_homeRequest hi (.inl (Bool.not_eq_true _ ▸ h)), State.homeTakes_refuses]
  rw [ha, ht]
  exact Bool.not_eq_true _ ▸ h

theorem exec_homeRequest_served (h : s.mayArrive agent tag unit q.opc = true) (ho : (s.dirOf unit).open_ = none) :
    exec i s = .next ((s.homeServe (s.dirOf unit) (s.homeReq q)).taken agent) := by
  obtain ⟨ha, ht, -⟩ := AsksHome.sender hi
  subst ha ht
  rw [exec_homeRequest hi (.inr (.inl ho)), State.homeTakes_serves h ho]

theorem exec_homeRequest_waits {o : HomeReq} (h : s.mayArrive agent tag unit q.opc = true) (ho : (s.dirOf unit).open_ = some (o, .memWait)) :
    exec i s = .next ((s.setDir { s.dirOf unit with waiting := (s.dirOf unit).waiting ++ [s.homeReq q] }).taken agent) := by
  obtain ⟨ha, ht, -⟩ := AsksHome.sender hi
  subst ha ht
  rw [exec_homeRequest hi (.inr (.inr ⟨o, ho⟩)), State.homeTakes_waits h ho]

end

/-! ### A unit that no cache holds (R365) -/

section
variable {d : Directory} (ho : d.owner = none) (hs : d.sharers = [])
include ho hs

theorem State.homeServe_fetches (h : q.opc = 0 ∨ q.opc = 1 ∨ q.opc = 4) : s.homeServe d q = s.setDir { d with open_ := some (q, .memWait) } := by
  rcases h with h | h | h <;> simp [State.homeServe, ho, hs, h]

theorem State.homeServe_upg (h : q.opc = 2) : s.homeServe d q = s.setDir { d with open_ := some ({ q with opc := 1 }, .memWait) } := by
  simp [State.homeServe, ho, hs, h]

omit ho hs in
theorem State.homeServe_wbm (h : q.opc = 3) : s.homeServe d q = (s.homeEffect d.unit q).setDir (d.wroteBack q.agent) := by
  simp [State.homeServe, h]

theorem State.homeServe_uncached (h : 5 ≤ q.opc) : s.homeServe d q = (s.homeEffect d.unit q).setDir d := by
  have h2 : q.opc ≠ 2 := by omega
  unfold State.homeServe
  dsimp only
  rw [ho, hs, if_neg (by simp [h2])]
  split
  case h_6 => rfl
  all_goals omega

end

/-- The effect of an uncached write of an agent of the host die. -/
theorem State.homeEffect_written (ha : q.agent ≠ 0) (hq : q.opc = 5 ∨ q.opc = 6) (hp : ∀ l, s.l2 unit = some l → l.past = false) :
    s.homeEffect unit q = (s.mergeUnit unit (onesOf q.en.toNat 64) q.data).say (.rsp 0 q.tag unit 0) := by
  rcases hq with hq | hq <;> simp [State.homeEffect, hq, State.settlePast_of_fresh hp, State.homeSays, ha]

end

/-! ### Responses at the home (R365) -/

theorem Directory.heard_open (d : Directory) (agent : Nat) : (d.heard agent).open_ = d.open_ := by
  unfold Directory.heard
  split <;> rfl

theorem HomeReq.matches_iff {q : HomeReq} {a : Sender} : q.matches a = true ↔ a.id = 0 ∨ a.tag = q.tag := by
  simp [HomeReq.matches]

section
variable {s : State} {sender : Sender} {unit : Nat} {wbp0 : Bool} {kept : BitVec 3}

/-- Has the agent said, with its answer, that its write-back is on its way? -/
def State.tellsWbp (s : State) (agent unit : Nat) (wbp0 : Bool) : Bool :=
  if agent = 0 then ((s.dirOf unit).resp.map fun x => x.2 == 1).getD false else wbp0

/-- Is a response the one that the open transaction of a unit has snooped for? -/
def Directory.asks (d : Directory) (q : HomeReq) (a : Sender) : Bool := d.snooped = some a.id && q.matches a

theorem Directory.asks_iff {d : Directory} {q : HomeReq} {a : Sender} :
    d.asks q a = true ↔ d.snooped = some a.id ∧ (a.id = 0 ∨ a.tag = q.tag) := by
  simp [Directory.asks, HomeReq.matches_iff]

theorem execMemoryData_idle (h : (s.dirOf unit).open_ = none) : exec (.memoryData unit) s = .next s := by
  change execMemoryData unit s = _
  simp only [execMemoryData, h]

theorem execMemoryData_eq {q : HomeReq} (h : (s.dirOf unit).open_ = some (q, .memWait)) : exec (.memoryData unit) s =
    .next (if q.opc = 4 then ((s.slcFill unit).homeEffect unit q).homeClose unit else (s.slcFill unit).grantFrom (s.dirOf unit) q true false) := by
  change execMemoryData unit s = _
  simp only [execMemoryData, h]

theorem execRspi_idle (h : ¬s.mayRespond sender.id unit 1 = true) : exec (.rspi sender unit wbp0) s = .next s :=
  congrArg Host.Outcome.next (if_pos (by simpa using h))
theorem execRsps_idle (h : ¬s.mayRespond sender.id unit 2 = true) : exec (.rsps sender unit) s = .next s :=
  congrArg Host.Outcome.next (if_pos (by simpa using h))
theorem execRspfwd_idle (h : ¬s.mayRespond sender.id unit 3 = true) : exec (.rspfwd sender unit kept) s = .next s :=
  congrArg Host.Outcome.next (if_pos (by simpa using h))
theorem execGntack_idle (h : ¬s.mayRespond sender.id unit 4 = true) : exec (.gntack sender unit) s = .next s :=
  congrArg Host.Outcome.next (if_pos (by simpa using h))

section
variable {q : HomeReq} (ho : ((s.dirOf unit).heard sender.id).open_ = some (q, .fwdWait))
include ho

theorem execRspi_asked (hm : s.mayRespond sender.id unit 1 = true) : exec (.rspi sender unit wbp0) s =
    .next (if ((s.dirOf unit).heard sender.id).asks q sender then
        if s.tellsWbp sender.id unit wbp0 then s.setDir { (s.dirOf unit).heard sender.id with open_ := some (q, .fwdWbWait) }
        else s.setDir { ((s.dirOf unit).heard sender.id).wroteBack sender.id with open_ := some (q, .memWait), snooped := none }
      else s.linkFailed) := by
  change execRspi sender unit wbp0 s = _
  simp only [execRspi, hm, ho, Bool.not_true, Bool.false_eq_true, if_false]
  rfl

theorem execRsps_asked (hm : s.mayRespond sender.id unit 2 = true) : exec (.rsps sender unit) s =
    .next (if ((s.dirOf unit).heard sender.id).asks q sender then
        s.setDir { ((s.dirOf unit).heard sender.id).wroteBack sender.id with
          sharers := ((s.dirOf unit).heard sender.id).sharers ++ [sender.id], open_ := some (q, .memWait), snooped := none }
      else s.linkFailed) := by
  change execRsps sender unit s = _
  simp only [execRsps, hm, ho, Bool.not_true, Bool.false_eq_true, if_false]
  rfl

theorem execRspfwd_unasked (hm : s.mayRespond sender.id unit 3 = true) (ha : ((s.dirOf unit).heard sender.id).asks q sender = false) :
    exec (.rspfwd sender unit kept) s = .next s.linkFailed := by
  change execRspfwd sender unit kept s = _
  simp only [execRspfwd, hm, ho, Bool.not_true, Bool.false_eq_true, if_false]
  exact congrArg Host.Outcome.next (if_neg (Bool.eq_false_iff.1 ha))

section
variable (hm : s.mayRespond sender.id unit 3 = true) (ha : ((s.dirOf unit).heard sender.id).asks q sender = true) (hq : q.agent ≠ 0)
include hm ha hq

theorem execRspfwd_uncached (h4 : q.opc = 4) : exec (.rspfwd sender unit kept) s = .next (s.homeClose unit) := by
  change execRspfwd sender unit kept s = _
  simp only [execRspfwd, hm, ho, Bool.not_true, Bool.false_eq_true, if_false, hq, h4]
  exact congrArg Host.Outcome.next (if_pos ha)

theorem execRspfwd_shared (h0 : q.opc = 0) (hs : sender.id = 0) (hr : (s.dirOf unit).resp = some (3, 2)) :
    exec (.rspfwd sender unit kept) s = .next (s.setDir { (s.dirOf unit).heard sender.id with
      owner := some 0, sharers := (((s.dirOf unit).heard sender.id).sharers ++ [q.agent]).dedup, open_ := some (q, .gntWait), snooped := none }) := by
  change execRspfwd sender unit kept s = _
  simp only [execRspfwd, hm, ho, Bool.not_true, Bool.false_eq_true, if_false, hq, h0, hr, if_pos hs]
  refine congrArg Host.Outcome.next ((if_pos ha).trans ?_)
  simp [hs]

theorem execRspfwd_taken (h1 : q.opc = 1) : exec (.rspfwd sender unit kept) s = .next ((s.takenAway unit).setDir
    { (s.dirOf unit).heard sender.id with owner := some q.agent, sharers := [], open_ := some (q, .gntWait), snooped := none }) := by
  change execRspfwd sender unit kept s = _
  simp only [execRspfwd, hm, ho, Bool.not_true, Bool.false_eq_true, if_false, hq, h1]
  refine congrArg Host.Outcome.next ((if_pos ha).trans ?_)
  rw [State.grantedAway, if_neg hq]

end

end

section
variable (ho : ((s.dirOf unit).heard sender.id).open_ = none)
include ho

theorem execRspi_unexpected (hm : s.mayRespond sender.id unit 1 = true) : exec (.rspi sender unit wbp0) s = .next s.linkFailed := by
  change execRspi sender unit wbp0 s = _
  simp only [execRspi, hm, ho, Bool.not_true, Bool.false_eq_true, if_false]

theorem execRsps_unexpected (hm : s.mayRespond sender.id unit 2 = true) : exec (.rsps sender unit) s = .next s.linkFailed := by
  change execRsps sender unit s = _
  simp only [execRsps, hm, ho, Bool.not_true, Bool.false_eq_true, if_false]

theorem execRspfwd_unexpected (hm : s.mayRespond sender.id unit 3 = true) : exec (.rspfwd sender unit kept) s = .next s.linkFailed := by
  change execRspfwd sender unit kept s = _
  simp only [execRspfwd, hm, ho, Bool.not_true, Bool.false_eq_true, if_false]

end

theorem execGntack_unexpected (ho : (s.dirOf unit).open_ = none) (hm : s.mayRespond sender.id unit 4 = true) (ha : sender.id ≠ 0) :
    exec (.gntack sender unit) s = .next s.linkFailed := by
  change execGntack sender unit s = _
  simp only [execGntack, hm, ho, ha, Bool.not_true, Bool.false_eq_true, if_false]

theorem execGntack_eq {q : HomeReq} (ho : (s.dirOf unit).open_ = some (q, .gntWait)) (hm : s.mayRespond sender.id unit 4 = true) :
    exec (.gntack sender unit) s = .next (if q.agent = sender.id && q.matches sender then s.homeClose unit else s.linkFailed) := by
  change execGntack sender unit s = _
  simp only [execGntack, hm, ho, Bool.not_true, Bool.false_eq_true, if_false]

end

end Sys2Proof.Machine

namespace Sys2Proof.Machine

/-! ### Snoops (R362, R366) -/

theorem L2Line.dirty_iff {l : L2Line} : l.dirty = true ↔ l.state = .m ∨ l.state = .o := by
  simp [L2Line.dirty]

section
variable {s : State} {unit tag requester opc : Nat}

theorem State.snoopable_of_host (h : hostHomed (unit * 64) = true) : s.snoopable opc unit tag requester = true ↔ s.linkUp = true := by
  rw [State.snoopable, h, if_pos rfl]

theorem execSnpinv_idle (h : ¬s.snoopable 0 unit tag 0 = true) : exec (.snpinv unit tag) s = .next s := congrArg Host.Outcome.next (if_neg h)
theorem execSnpfwds_idle (h : ¬s.snoopable 1 unit tag requester = true) : exec (.snpfwds unit tag requester) s = .next s :=
  congrArg Host.Outcome.next (if_pos (by simpa using h))
theorem execSnpfwdx_idle (h : ¬s.snoopable 2 unit tag requester = true) : exec (.snpfwdx unit tag requester) s = .next s :=
  congrArg Host.Outcome.next (if_pos (by simpa using h))

theorem execSnpinv_eq (h : s.snoopable 0 unit tag 0 = true) :
    exec (.snpinv unit tag) s = .next (((s.evictUnit unit).rspI unit tag).takenAway unit) := congrArg Host.Outcome.next (if_pos h)

section
variable (hn : s.l2 unit = none)
include hn

theorem execSnpinv_miss (h : s.snoopable 0 unit tag 0 = true) : exec (.snpinv unit tag) s = .next ((s.rspI unit tag).takenAway unit) := by
  rw [execSnpinv_eq h, State.evictUnit, hn]

theorem execSnpfwds_miss (h : s.snoopable 1 unit tag requester = true) : exec (.snpfwds unit tag requester) s = .next (s.rspI unit tag) := by
  change execSnpfwds unit tag requester s = _
  simp only [execSnpfwds, h, hn, Bool.not_true, Bool.false_eq_true, if_false]

theorem execSnpfwdx_miss (h : s.snoopable 2 unit tag requester = true) :
    exec (.snpfwdx unit tag requester) s = .next ((s.rspI unit tag).takenAway unit) := by
  change execSnpfwdx unit tag requester s = _
  simp only [execSnpfwdx, h, hn, Bool.not_true, Bool.false_eq_true, if_false]

end

section
variable {l : L2Line} (hl : s.l2 unit = some l)
include hl

theorem execSnpinv_hit (h : s.snoopable 0 unit tag 0 = true) : exec (.snpinv unit tag) s =
    .next ((((((if l.dirty then s.writeBack l else s).remember unit).dropLine unit).loseSight unit).rspI unit tag).takenAway unit) := by
  rw [execSnpinv_eq h, State.evictUnit, hl]

theorem execSnpfwds_hit (h : s.snoopable 1 unit tag requester = true) : exec (.snpfwds unit tag requester) s =
    .next (((s.setLine unit (if l.dirty then .o else .s)).say (.dat 0 tag unit requester l.data)).respond 3 tag unit (if l.dirty then 2 else 1)) := by
  change execSnpfwds unit tag requester s = _
  simp only [execSnpfwds, h, hl, Bool.not_true, Bool.false_eq_true, if_false]

theorem execSnpfwdx_hit (h : s.snoopable 2 unit tag requester = true) : exec (.snpfwdx unit tag requester) s =
    .next (((((s.remember unit).dropLine unit).say (.dat (if l.dirty then 2 else 1) tag unit requester l.data)).respond 3 tag unit 0).takenAway unit) := by
  change execSnpfwdx unit tag requester s = _
  simp only [execSnpfwdx, h, hl, Bool.not_true, Bool.false_eq_true, if_false]

end

end

/-! ### Grants, data and completions (R205, R363, R364) -/

section
variable {s : State} {tag : Nat} {data : BitVec 512}

/-- An answer under the tag of no request is a protocol error. -/
theorem exec_answer_unexpected (hr : s.reqOf tag = none) (hu : s.linkUp = true) :
    ∀ i ∈ [Instr.dats tag data, .date tag data, .datm tag data, .datu tag data, .cmp tag], exec i s = .next s.linkFailed := by
  have hx : s.unexpected = s.linkFailed := if_pos hu
  have hgrant (opc : Nat) (st : Moesi) : runGrant s tag opc st data = .next s.linkFailed := by simp only [runGrant, hr, hx]
  have hdatu : execDatu tag data s = .next s.linkFailed := by simp only [execDatu, hr, hx]
  have hcmp : execCmp tag s = .next s.linkFailed := by simp only [execCmp, hr, hx]
  simp only [List.forall_mem_cons, List.not_mem_nil, false_imp_iff, implies_true, and_true]
  exact ⟨hgrant .., hgrant .., hgrant .., hdatu, hcmp⟩

variable {r : LinkReq} (hr : s.reqOf tag = some r)
include hr

theorem State.tag_of_reqOf : r.tag = tag := by
  simpa using List.find?_some hr

theorem State.arriving_far {opc : Nat} (hf : hostHomed (r.unit * 64) = true) (ha : s.answerable tag = true) : s.arriving r opc data = some data := by
  rw [State.arriving, hf, if_pos rfl, State.tag_of_reqOf hr, ha, if_pos rfl]

section
variable {i : Instr} {st : Moesi}

theorem exec_grant_taken {opc : Nat} {got : Unit64}
    (hi : (i, st, opc) ∈ [(Instr.dats tag data, Moesi.s, 0), (.date tag data, .e, 1), (.datm tag data, .m, 2)])
    (ha : s.arriving r opc data = some got) (hk : r.opc = 0 ∨ (r.opc ≤ 2 ∧ st ≠ .s)) :
    exec i s = .next (s.granted r st got (if st = .m then 15 else 0)) := by
  have hb : (r.opc = 0 || (r.opc ≤ 2 && st != .s)) = true := by simpa using hk
  have hrun : runGrant s tag opc st data = .next (s.granted r st got (if st = .m then 15 else 0)) := by
    simp only [runGrant, hr, hb, if_true, ha]
  simp only [List.mem_cons, List.not_mem_nil, or_false, Prod.mk.injEq] at hi
  rcases hi with ⟨rfl, rfl, rfl⟩ | ⟨rfl, rfl, rfl⟩ | ⟨rfl, rfl, rfl⟩ <;> exact hrun

theorem exec_grant_unexpected (hi : (i, st) ∈ [(Instr.dats tag data, Moesi.s), (.date tag data, .e), (.datm tag data, .m)])
    (hu : s.linkUp = true) (hk : 2 < r.opc ∨ (r.opc ≠ 0 ∧ st = .s)) : exec i s = .next s.linkFailed := by
  have hb : (r.opc = 0 || (r.opc ≤ 2 && st != .s)) = false := by
    rcases hk with hk | ⟨h0, rfl⟩
    · simp only [Bool.or_eq_false_iff, Bool.and_eq_false_iff, decide_eq_false_iff_not]
      exact ⟨by omega, .inl (by omega)⟩
    · simp [h0]
  have hrun (opc : Nat) : runGrant s tag opc st data = .next s.linkFailed := by
    simp only [runGrant, hr, hb, Bool.false_eq_true, if_false, State.unexpected, hu, if_true]
  simp only [List.mem_cons, List.not_mem_nil, or_false, Prod.mk.injEq] at hi
  rcases hi with ⟨rfl, rfl⟩ | ⟨rfl, rfl⟩ | ⟨rfl, rfl⟩ <;> exact hrun _

end

theorem execDatu_receives {k seq : Nat} {got : Unit64} (h4 : r.opc = 4) (hs : r.store = some (k, seq)) (ha : s.arriving r 3 data = some got) :
    exec (.datu tag data) s = .next ((s.endReq r).updThread k fun t => t.receive seq r.unit got) := by
  change execDatu tag data s = _
  simp only [execDatu, hr, hs, ha, h4, if_true]

/-- Has the completion of a request come? -/
def State.Completed (s : State) (tag : Nat) (r : LinkReq) : Prop :=
  (hostHomed (r.unit * 64) = true ∧ s.answerable tag = true) ∨ (¬hostHomed (r.unit * 64) = true ∧ r.answer.map (·.1) = some 4)

omit hr in
theorem State.completed_iff :
    (hostHomed (r.unit * 64) && !s.answerable tag || !hostHomed (r.unit * 64) && r.answer.map (·.1) != some 4) = false ↔ s.Completed tag r := by
  cases hf : hostHomed (r.unit * 64) <;> simp [State.Completed, hf]

theorem execCmp_waits (h : ¬s.Completed tag r) : exec (.cmp tag) s = .next s := by
  have hb := Bool.not_eq_false _ ▸ mt State.completed_iff.1 h
  change execCmp tag s = _
  simp only [execCmp, hr]
  exact if_pos hb

section
variable (hd : s.Completed tag r)
include hd

theorem execCmp_upgraded {l : L2Line} (h2 : r.opc = 2) (hl : s.l2 r.unit = some l) : exec (.cmp tag) s = .next (s.granted r .m l.data l.stored) := by
  have hb := State.completed_iff.2 hd
  change execCmp tag s = _
  simp only [execCmp, hr, hb, h2, hl, Bool.false_eq_true, if_false]

theorem execCmp_writtenBack (h3 : r.opc = 3) : exec (.cmp tag) s =
    .next (let u := (if hostHomed (r.unit * 64) then s.setMemUnit r.unit (granuleBytes (r.en.truncate 4)) r.data else s).endReq r
      if r.keep then u.acquireUnit r.unit false { ctx := r.ctx.getD 0 } else u) := by
  have hb := State.completed_iff.2 hd
  change execCmp tag s = _
  simp only [execCmp, hr, hb, h3, Bool.false_eq_true, if_false]

omit hr hd in
theorem State.endReq_reqs : ∀ x ∈ (s.endReq r).link.reqs, x.tag ≠ r.tag := by
  have hl : (s.endReq r).link.reqs = s.link.reqs.filter fun x => x.tag != r.tag := by
    unfold State.endReq
    dsimp only
    split <;> rfl
  intro x hx
  rw [hl] at hx
  simpa using (List.mem_filter.1 hx).2

/-- The stores that a request carried take note of its completion. -/
def State.acked (s : State) (tag : Nat) (r : LinkReq) : State :=
  (r.store.toList ++ r.merged).foldl (fun (s : State) x => s.updThread x.1 fun t =>
    { t with stores := t.stores.filterMap fun p => if p.seq = x.2 then p.unitDone tag r.unit else some p }) s

omit hr hd in
theorem State.acked_rest : (s.acked tag r).link = s.link ∧ (s.acked tag r).mem = s.mem :=
  List.foldlRecOn (motive := fun u : State => u.link = s.link ∧ u.mem = s.mem) _ _ ⟨rfl, rfl⟩ fun _ hu _ _ => hu

/-- A store at the home of the host die is performed: its request leaves, and memory shows its bytes. -/
theorem execCmp_performed (hf : hostHomed (r.unit * 64) = true) (h56 : r.opc = 5 ∨ r.opc = 6) (hm : MemoryCanonical s)
    (hp : ∀ l, s.l2 r.unit = some l → l.past = false) : ∃ u, exec (.cmp tag) s = .next u ∧ (∀ x ∈ u.link.reqs, x.tag ≠ tag) ∧
      ∀ a, u.memByte a = if a / 64 = r.unit ∧ r.en.getLsbD (a % 64) = true then unitByte r.data (a % 64) else s.memByte a := by
  have hb := State.completed_iff.2 hd
  have he : exec (.cmp tag) s = .next (((s.mergeUnit r.unit (onesOf r.en.toNat 64) r.data).endReq r).acked tag r) := by
    rw [hf] at hb
    change execCmp tag s = _
    rcases h56 with h | h
    · simp only [execCmp, hr, hf, hb, h, Bool.false_eq_true, if_false, if_true, State.settlePast_of_fresh hp]
      rfl
    · simp only [execCmp, hr, hf, hb, h, Bool.false_eq_true, if_false, if_true, State.settlePast_of_fresh hp]
      rfl
  refine ⟨_, he, ?_, fun a => ?_⟩
  · rw [State.acked_rest.1, ← State.tag_of_reqOf hr]
    exact State.endReq_reqs
  · rw [← State.memByte_mergeUnit hm]
    exact State.memByte_congr (State.acked_rest.2.trans (endReq_mem _ _)) a

end

section
variable (hlate : 2 ^ 28 ≤ (s.fclock - r.since).toNat)
include hlate

theorem execAcknowledgementTimeout_halts {c : Nat} (hc : r.ctx = some c) :
    exec (.acknowledgementTimeout tag) s = .next (s.raiseHalt c { index := 436, cause := .linkProtocol }) := by
  have hl : decide (answerLimit ≤ (s.fclock - r.since).toNat) = true := decide_eq_true hlate
  change execAcknowledgementTimeout tag s = _
  simp only [execAcknowledgementTimeout, hr, Option.filter, hl, if_true, hc]

end

theorem execAcknowledgementTimeout_idle (h : ¬2 ^ 28 ≤ (s.fclock - r.since).toNat ∨ r.ctx = none) :
    exec (.acknowledgementTimeout tag) s = .next s := by
  change execAcknowledgementTimeout tag s = _
  by_cases hlate : answerLimit ≤ (s.fclock - r.since).toNat
  · have hc : r.ctx = none := h.resolve_left fun hn => hn hlate
    simp only [execAcknowledgementTimeout, hr, Option.filter, decide_eq_true hlate, if_true, hc]
  · simp only [execAcknowledgementTimeout, hr, Option.filter, decide_eq_false hlate, Bool.false_eq_true, if_false]

end

/-! ### Translation (R189, R190, R367, R368) -/

section
variable {s : State} {tag frame : Nat} {present tracked : Bool} {sz perms : BitVec 3} {pol : BitVec 2}

theorem execXlrsp_unexpected (hu : s.linkUp = true) (h : ∀ r ∈ s.xlreqs, r.tag ≠ tag) :
    exec (.xlrsp tag present frame sz perms pol tracked) s = .next s.linkFailed := by
  have hf : s.xlreqs.find? (·.tag == tag) = none := List.find?_eq_none.2 fun r hr => by simpa using h r hr
  change execXlrsp tag present frame sz perms pol tracked s = _
  simp only [execXlrsp, hf, State.unexpected, hu, if_true]

section
variable {r : XlReq} {rest : List XlReq} (hr : s.xlreqs = r :: rest) (ht : r.tag = tag)
include hr ht

theorem State.find_xlreq : s.xlreqs.find? (·.tag == tag) = some r := by
  simp [hr, ht]

theorem execTranslationLinkTimeout_eq : exec (.translationLinkTimeout tag) s =
    .next (if 2 ^ 28 ≤ (s.fclock - r.since).toNat then s.haltAsid r.asid .translationLinkTimeout else s) := by
  change execTranslationLinkTimeout tag s = _
  simp only [execTranslationLinkTimeout, State.find_xlreq hr ht]
  exact congrArg Host.Outcome.next (if_congr decide_eq_true_iff rfl rfl)

theorem execXlrsp_unasked (ha : s.answerable tag = false) : exec (.xlrsp tag present frame sz perms pol tracked) s = .next s := by
  change execXlrsp tag present frame sz perms pol tracked s = _
  simp only [execXlrsp, State.find_xlreq hr ht, ha, Bool.not_false, Bool.true_or, if_true]

section
variable (ha : s.answerable tag = true) (hb : frame / pageBytes sz.toNat * pageBytes sz.toNat + (pageBytes sz.toNat - 1) < 2 ^ 52)
include ha hb

omit hr ht in
theorem State.xlrsp_goesOn :
    (!s.answerable tag || !physOk (frame / pageBytes sz.toNat * pageBytes sz.toNat + (pageBytes sz.toNat - 1))) = false := by
  rw [ha, physOk, decide_eq_true hb]
  rfl

theorem execXlrsp_dead (hd : r.dead = true) :
    exec (.xlrsp tag present frame sz perms pol tracked) s = .next { s with xlreqs := s.xlreqs.filter (·.tag != tag) } := by
  have hg := State.xlrsp_goesOn ha hb
  change execXlrsp tag present frame sz perms pol tracked s = _
  simp only [execXlrsp, State.find_xlreq hr ht, hg, hd, Bool.false_eq_true, if_false, if_true]

variable (hd : r.dead = false)
include hd

/-- The answer to a request whose range has been invalidated is dropped, and the request sent again. -/
theorem execXlrsp_stale (hs : r.stale = true) : exec (.xlrsp tag present frame sz perms pol tracked) s =
    .next (({ s with xlreqs := s.xlreqs.map fun (x : XlReq) => if x.tag = tag then { x with stale := false, since := s.fclock } else x } : State).say
      (.xlReq tag r.asid r.page r.kind)) := by
  have hg := State.xlrsp_goesOn ha hb
  change execXlrsp tag present frame sz perms pol tracked s = _
  simp only [execXlrsp, State.find_xlreq hr ht, hg, hd, hs, Bool.false_eq_true, if_false, if_true]

omit hr ht ha hb hd in
theorem XlReq.renewed {l : List XlReq} {now : DWord} :
    ∀ x ∈ l.map (fun (x : XlReq) => if x.tag = tag then { x with stale := false, since := now } else x), x.tag = tag → x.stale = false ∧ x.since = now := by
  intro x hx htag
  obtain ⟨y, -, rfl⟩ := List.mem_map.1 hx
  by_cases hy : y.tag = tag
  · rw [if_pos hy]
    exact ⟨rfl, rfl⟩
  · rw [if_neg hy] at htag
    exact absurd htag hy

/-- The policy that the two bits of a response give. -/
def pagePolicy (pol : BitVec 2) : Policy :=
  match pol.toNat with
  | 0 => .wb
  | 1 => .wc
  | _ => .uc

/-- What a response fills of the TLB; nothing else of the device changes. -/
theorem execXlrsp_fills (hs : r.stale = false) : ∃ t, exec (.xlrsp tag true frame sz perms pol tracked) s = .next t ∧ t.mem = s.mem ∧
    t.threads = s.threads ∧ (∀ x ∈ t.xlreqs, x.tag ≠ tag) ∧ ∃ e ∈ t.tlb, e.asid = r.asid ∧ e.first = some r.core ∧
      e.base = r.page * 4096 / pageBytes sz.toNat * pageBytes sz.toNat ∧ e.size = pageBytes sz.toNat ∧
      e.frame = frame / pageBytes sz.toNat * pageBytes sz.toNat ∧ e.read = bitAt perms.toNat 0 ∧ e.write = bitAt perms.toNat 1 ∧
      e.exec = bitAt perms.toNat 2 ∧ e.tracked = tracked := by
  have hg := State.xlrsp_goesOn ha hb
  have he : exec (.xlrsp tag true frame sz perms pol tracked) s = .next
      (({ s with xlreqs := s.xlreqs.filter (·.tag != tag), xlwaits := s.xlwaits.filter (·.1 != tag) } : State).fillTlb r
        { asid := r.asid, first := none, group := r.core / 4, base := r.page * 4096 / pageBytes sz.toNat * pageBytes sz.toNat
          size := pageBytes sz.toNat, frame := frame / pageBytes sz.toNat * pageBytes sz.toNat, read := bitAt perms.toNat 0
          write := bitAt perms.toNat 1, exec := bitAt perms.toNat 2, policy := pagePolicy pol, tracked := tracked }) := by
    change execXlrsp tag true frame sz perms pol tracked s = _
    simp only [execXlrsp, State.find_xlreq hr ht, hg, hd, hs, Bool.false_eq_true, if_false, if_true]
    rfl
  refine ⟨_, he, rfl, rfl, fun x hx => by simpa using (List.mem_filter.1 hx).2, _,
    List.mem_append_left _ (List.mem_append_left _ (List.mem_append_right _ List.mem_cons_self)), rfl, rfl, rfl, rfl, rfl, rfl, rfl, rfl, rfl⟩

end

end

/-! ### Invalidations (R190, R368) -/

section
variable {asid : BitVec 16} {base size : Nat}

theorem execXlinv_answered (hu : s.linkUp = true) (hw : s.gaffer.works 1 = false) : exec (.xlinv tag asid base size) s = .next (s.say (.xlInvCmp tag)) := by
  refine congrArg Host.Outcome.next (if_pos ?_)
  rw [hu, hw]
  rfl

theorem rangeMeets_iff {a n : Nat} : rangeMeets base size a n = true ↔ size = 0 ∨ (a < base + size ∧ base < a + n) := by
  simp [rangeMeets]

/-- The translations of the range go, and the invalidation stands until they are out of use. -/
theorem execXlinv_drops (hu : s.linkUp = true) (hw : s.gaffer.works 1 = true) : ∃ t, exec (.xlinv tag asid base size) s = .next t ∧ t.mem = s.mem ∧
    (∀ e, e ∈ t.tlb ↔ e ∈ s.tlb ∧ ¬(e.asid = asid ∧ (size = 0 ∨ (e.base < base + size ∧ base < e.base + e.size)))) ∧
    t.xlinvs = s.xlinvs ++ [{ tag := tag, asid := asid, base := base, size := size }] := by
  have hno : ¬(s.linkUp && !s.gaffer.works 1) = true := by simp [hw]
  refine ⟨_, congrArg Host.Outcome.next ((if_neg hno).trans (if_pos hu)), ?_⟩
  obtain ⟨t, e, c, x, r, h⟩ := State.marked_dropConfigs { s with
    tlb := s.tlb.filter fun e => !(e.asid == asid && rangeMeets base size e.base e.size)
    xlreqs := s.xlreqs.map fun (r : XlReq) => if r.asid == asid && rangeMeets base size (r.page * 4096) 4096 then { r with stale := true } else r
    xlinvs := s.xlinvs ++ [({ tag := tag, asid := asid, base := base, size := size } : XlInvOp)] }
    fun _ m => (s.ctx m.ctx).asid == asid && m.vpages.any fun p => rangeMeets base size (p * 4096) 4096
  rw [h]
  refine ⟨rfl, fun e => ?_, rfl⟩
  rw [List.mem_filter, Bool.not_eq_true', ← Bool.not_eq_true, Bool.and_eq_true, beq_iff_eq, rangeMeets_iff]

theorem execXlinvcmp_none (h : ∀ x ∈ s.xlinvs, x.tag ≠ tag) : exec (.xlinvcmp tag) s = .next s := by
  have hf : s.xlinvs.find? (·.tag == tag) = none := List.find?_eq_none.2 fun x hx => by simpa using h x hx
  change execXlinvcmp tag s = _
  simp only [execXlinvcmp, hf]

theorem execXlinvcmp_eq {x : XlInvOp} {rest : List XlInvOp} (hx : s.xlinvs = x :: rest) (ht : x.tag = tag) : exec (.xlinvcmp tag) s =
    .next (if s.rangeBusy x.asid x.base x.size then s
      else ({ s with xlinvs := s.xlinvs.filter (·.tag != tag) } : State).say (.xlInvCmp tag)) := by
  have hf : s.xlinvs.find? (·.tag == tag) = some x := by simp [hx, ht]
  change execXlinvcmp tag s = _
  simp only [execXlinvcmp, hf]

end

end

end Sys2Proof.Machine

namespace Sys2Proof.Machine

/-! ### Headers (R361) -/

/-- The fields of a header, side by side, fill no more than its 128 bits. -/
theorem headerSlot_toNat (cls opc aux asid tag addr : Nat) : (headerSlot cls opc aux asid tag addr).toNat =
    cls % 8 + opc % 32 * 2 ^ 3 + aux % 2 ^ 16 * 2 ^ 16 + asid % 2 ^ 16 * 2 ^ 32 + tag % 2 ^ 16 * 2 ^ 48 + addr % 2 ^ 46 * 2 ^ 82 := by
  rw [headerSlot, BitVec.toNat_ofNat]
  refine Nat.mod_eq_of_lt ?_
  omega

theorem headerSlot_fields (cls opc aux asid tag addr : Nat) : let h := (headerSlot cls opc aux asid tag addr).toNat
    hdCls h = cls % 8 ∧ hdOpc h = opc % 32 ∧ hdAux h = aux % 2 ^ 16 ∧ hdAsid h = asid % 2 ^ 16 ∧ hdTag h = tag % 2 ^ 16 ∧ hdAddr h = addr % 2 ^ 46 := by
  dsimp only
  rw [headerSlot_toNat]
  simp only [hdCls, hdOpc, hdAux, hdAsid, hdTag, hdAddr, slice]
  omega

theorem slotCount_le (h : Nat) : slotCount h ≤ 6 := by
  unfold slotCount
  split <;> (try split) <;> omega

/-! ### Flits (R360 to R362) -/

section
variable {s : State} {recovered : Bool} {h : BitVec 128} {ds : List (BitVec 128)}

theorem execFlit_idle {crcOk : Bool} (hi : s.linkUp = false ∨ (crcOk = false ∧ recovered = true)) :
    exec (.flit crcOk recovered (h :: ds)) s = .next s := by
  change execFlit crcOk recovered (h :: ds) s = _
  unfold execFlit
  rcases hi with hu | ⟨rfl, rfl⟩
  · rw [hu]
    rfl
  · cases s.linkUp <;> rfl

section
variable (hu : s.linkUp = true)
include hu

theorem execFlit_fails : exec (.flit false false (h :: ds)) s = .next { s.linkFailed.daily 8 0 with
    link := { (s.linkFailed.daily 8 0).link with training := true, trainSince := s.fclock, rx := [] } } := by
  change execFlit false false (h :: ds) s = _
  unfold execFlit
  rw [hu]
  rfl

variable (hrx : s.link.rx = [])
include hrx

theorem execFlit_eq : exec (.flit true recovered (h :: ds)) s = ({ s with link := { s.link with rx := h :: ds.take 14 } } : State).deliverAll 20 := by
  change execFlit true recovered (h :: ds) s = _
  unfold execFlit
  rw [hu, hrx]
  rfl

omit hu in
theorem State.emptied_rx : ({ s with link := { s.link with rx := [] } } : State) = s := by
  rw [← hrx]

theorem execFlit_undefined (hd : headerDefined h.toNat = false) : exec (.flit true recovered (h :: ds)) s = .next s.linkFailed := by
  rw [execFlit_eq hu hrx]
  unfold State.deliverAll
  dsimp only
  rw [hd, State.emptied_rx hrx]
  rfl

theorem execFlit_partial (hd : headerDefined h.toNat = true) (hl : ds.length + 1 < slotCount h.toNat) :
    exec (.flit true recovered (h :: ds)) s = .next { s with link := { s.link with rx := h :: ds } } := by
  have hle := slotCount_le h.toNat
  have htake : ds.take 14 = ds := List.take_of_length_le (by omega)
  rw [execFlit_eq hu hrx, htake]
  unfold State.deliverAll
  dsimp only
  rw [hd, if_neg (by decide), if_pos hl]

omit hu hrx in
theorem State.deliverAll_empty (hrx : s.link.rx = []) (n : Nat) : s.deliverAll n = .next s := by
  cases n with
  | zero => rfl
  | succ n => rw [State.deliverAll, hrx]

theorem execFlit_whole {u : State} (hd : headerDefined h.toNat = true) (hl : ds.length + 1 = slotCount h.toNat)
    (hdel : s.deliver h.toNat ds = .next u) (hux : u.link.rx = []) : exec (.flit true recovered (h :: ds)) s = .next u := by
  have hle := slotCount_le h.toNat
  have htake : ds.take 14 = ds := List.take_of_length_le (by omega)
  have hall : ds.take (slotCount h.toNat - 1) = ds := List.take_of_length_le (by omega)
  have hnone : ds.drop (slotCount h.toNat - 1) = [] := List.drop_of_length_le (by omega)
  rw [execFlit_eq hu hrx, htake]
  unfold State.deliverAll
  dsimp only
  rw [hd, if_neg (by decide), if_neg (by omega), hall, hnone, State.emptied_rx hrx, hdel]
  exact State.deliverAll_empty hux _

end

/-! ### Training (R360) -/

theorem State.linkFailed_daily {event data bits : Nat} : (s.linkFailed.daily event data bits).contexts = s.linkFailed.contexts := by
  obtain ⟨m, q, h, d, out, hd⟩ := s.linkFailed.daily_eq event data bits
  rw [hd]

variable {working : BitVec 16}

theorem execLinkTraining_idle (ht : s.link.training = false) : exec (.linkTraining working) s = .next s :=
  congrArg Host.Outcome.next (if_pos (by rw [ht]; rfl))

theorem execLinkTraining_ends (ht : s.link.training = true) : ∃ t, exec (.linkTraining working) s = .next t ∧ t.link.modules = working ∧
    t.link.training = false ∧ (8 ≤ popCount working.toNat 16 → t.link.up = true ∧ t.gaffer = s.gaffer) ∧
    (popCount working.toNat 16 < 8 → t.link.up = false ∧ t.gaffer.ready = 0 ∧ t.gaffer.grp = 0) := by
  have hno : ¬(!s.link.training) = true := by simp [ht]
  refine ⟨_, congrArg Host.Outcome.next (if_neg hno), ?_⟩
  by_cases h8 : 8 ≤ popCount working.toNat 16
  · rw [decide_eq_true h8, if_pos rfl]
    exact ⟨rfl, rfl, fun _ => ⟨rfl, rfl⟩, fun hlt => absurd h8 (Nat.not_le.2 hlt)⟩
  · rw [decide_eq_false h8, if_neg Bool.false_ne_true]
    exact ⟨rfl, rfl, fun hge => absurd hge h8, fun _ => ⟨rfl, rfl, rfl⟩⟩

theorem execRetrainTimeout_idle (h : ¬(s.link.training = true ∧ 2 ^ 24 ≤ (s.fclock - s.link.trainSince).toNat)) :
    exec .retrainTimeout s = .next s := by
  refine congrArg Host.Outcome.next (if_neg fun hc => h ?_)
  rwa [Bool.and_eq_true, decide_eq_true_eq] at hc

theorem execRetrainTimeout_fails (h : s.link.training = true ∧ 2 ^ 24 ≤ (s.fclock - s.link.trainSince).toNat) :
    exec .retrainTimeout s =
      .next { s.linkFailed.daily 8 0 with link := { (s.linkFailed.daily 8 0).link with trainSince := s.fclock } } := by
  refine congrArg Host.Outcome.next (if_pos ?_)
  rwa [Bool.and_eq_true, decide_eq_true_eq]

/-! ### Present (R369) -/

variable {tag ctx plane : Nat} {surface : Surface}

theorem execPresentcmp_eq (ht : tag ∈ s.link.presents) : exec (.presentcmp tag) s =
    .next (if !s.answerable tag then s else { s with link := { s.link with presents := s.link.presents.filter (· != tag) } }) :=
  congrArg Host.Outcome.next (if_pos (List.contains_iff_mem.2 ht))

theorem execPresentcmp_unexpected (hu : s.linkUp = true) (ht : tag ∉ s.link.presents) : exec (.presentcmp tag) s = .next s.linkFailed :=
  congrArg Host.Outcome.next ((if_neg (mt List.contains_iff_mem.1 ht)).trans (if_pos hu))

/-- May a surface of a context be presented? -/
def State.MayPresent (s : State) (ctx : Nat) (f : Surface) : Prop :=
  (s.ctx ctx).live = true ∧ (s.ctx ctx).released = true ∧ s.gaffer.works 2 = true ∧ s.surfaceBusy ctx f = false

theorem State.mayPresent_iff : ((s.ctx ctx).live && (s.ctx ctx).released && s.gaffer.works 2 && !s.surfaceBusy ctx surface) = true ↔
    s.MayPresent ctx surface := by
  simp only [State.MayPresent, Bool.and_eq_true, Bool.not_eq_true', and_assoc]

theorem execPresent_presents (h : s.MayPresent ctx surface) : exec (.present ctx surface plane) s =
    .next (({ s with link := { s.link with nextTag := s.freeTag + 1, presents := s.link.presents ++ [s.freeTag] } } : State).say
      (.present s.freeTag surface.addr plane)) := congrArg Host.Outcome.next (if_pos (State.mayPresent_iff.2 h))

theorem execPresent_idle (h : ¬s.MayPresent ctx surface) : exec (.present ctx surface plane) s = .next s :=
  congrArg Host.Outcome.next (if_neg (mt State.mayPresent_iff.1 h))

end

end Sys2Proof.Machine

namespace Sys2Proof.Machine

/-- The part of O48 on requests that arrive at the home (R365). -/
theorem linkMessages_requests (s : State) (agent tag unit : Nat) (en : BitVec 64) (data : BitVec 512) (op : BitVec 4) (cmp new : BitVec 128)
    (gr : BitVec 4) (i : Instr) (q : HomeReq) (hi : AsksHome agent tag unit en data op cmp new gr i q) :
    let d := s.dirOf unit
    let may := s.mayArrive agent tag unit q.opc = true
    (agent ≠ 0 → (may ↔ hostHomed (unit * 64) = false ∧ unit * 64 < 2 ^ 52 ∧ s.linkUp = true) ∧ s.homeReq q = q) ∧
    (¬may → exec i s = .next s) ∧ (may → d.open_ = none → exec i s = .next ((s.homeServe d (s.homeReq q)).taken agent)) ∧
    (∀ o, may → d.open_ = some (o, .memWait) → exec i s = .next ((s.setDir { d with waiting := d.waiting ++ [s.homeReq q] }).taken agent)) ∧
    (may → d.open_ = none → d.owner = none → d.sharers = [] →
      (q.opc = 0 ∨ q.opc = 1 ∨ q.opc = 4 → exec i s = .next ((s.setDir { d with open_ := some (s.homeReq q, .memWait) }).taken agent)) ∧
      (q.opc = 2 → exec i s = .next ((s.setDir { d with open_ := some ({ s.homeReq q with opc := 1 }, .memWait) }).taken agent)) ∧
      (q.opc = 3 → exec i s = .next (((s.homeEffect unit (s.homeReq q)).setDir (d.wroteBack agent)).taken agent)) ∧
      (5 ≤ q.opc → exec i s = .next (((s.homeEffect unit (s.homeReq q)).setDir d).taken agent))) ∧
    (agent ≠ 0 → MemoryCanonical s → (∀ l, s.l2 unit = some l → l.past = false) → q.opc = 5 ∨ q.opc = 6 → let t := s.homeEffect unit q
      t.link.out = s.link.out ++ [.rsp 0 tag unit 0] ∧
      ∀ a, t.memByte a = if a / 64 = unit ∧ en.getLsbD (a % 64) = true then unitByte data (a % 64) else s.memByte a) := by
  obtain ⟨ha, ht, hdata⟩ := hi.sender
  obtain ⟨hopc, hagent⟩ := s.homeReq_kind (q := q)
  have hunit := s.dirOf_unit (unit := unit)
  refine ⟨fun hf => ⟨State.mayArrive_of_far hf, State.homeReq_of_far (ha ▸ hf)⟩, exec_homeRequest_refused hi, exec_homeRequest_served hi,
    fun o => exec_homeRequest_waits hi, fun hm ho how hsh => ?_, fun hf hc hp hq => ?_⟩
  · rw [exec_homeRequest_served hi hm ho]
    refine ⟨fun h => ?_, fun h => ?_, fun h => ?_, fun h => ?_⟩
    · rw [State.homeServe_fetches how hsh (by rwa [hopc])]
    · rw [State.homeServe_upg how hsh (by rwa [hopc])]
    · rw [State.homeServe_wbm (by rwa [hopc]), hunit, hagent, ha]
    · rw [State.homeServe_uncached how hsh (by rwa [hopc]), hunit]
  · obtain ⟨hen, hd⟩ := hdata hq
    rw [State.homeEffect_written (ha ▸ hf) hq hp, ht, hen, hd]
    refine ⟨?_, State.memByte_mergeUnit hc en data⟩
    rw [State.say, State.mergeUnit_link]

/-- Settles O48: message by message, by the transaction that is open and what the device holds; each part through the lemmas on its messages. -/
theorem linkMessages : Obligations.LinkMessages := by
  unfold Obligations.LinkMessages
  refine ⟨linkMessages_requests, fun s sender unit wbp0 kept => ?_, fun s unit tag requester => ?_, fun s tag data => ?_,
    fun s tag frame base size present tracked sz perms pol asid => ?_, headerSlot_fields,
    fun s crcOk recovered surface h ds working ctx plane tag => ?_⟩
  · intro d0 agent d may wbp
    refine ⟨fun hf => ⟨if_neg hf, fun opc => ?_⟩, execRspi_idle, execRsps_idle, execRspfwd_idle, execGntack_idle,
      fun ho => ⟨?_, execRspi_unexpected ho, execRsps_unexpected ho, execRspfwd_unexpected ho, ?_⟩, fun q ho => ?_, fun q ho hm => ?_, fun q ho => ?_⟩
    · exact iff_of_eq (congrArg (· = true) (if_neg hf))
    · exact execMemoryData_idle (Directory.heard_open d0 agent ▸ ho)
    · exact execGntack_unexpected (Directory.heard_open d0 agent ▸ ho)
    · rw [execMemoryData_eq ho]
      exact ⟨fun h4 => by rw [if_neg h4], fun h4 => by rw [if_pos h4]⟩
    · intro mine
      have hb : (decide (q.agent = sender.id) && q.matches sender) = true ↔ mine := by
        rw [Bool.and_eq_true, decide_eq_true_eq, HomeReq.matches_iff]
      rw [execGntack_eq (Directory.heard_open d0 agent ▸ ho) hm]
      exact ⟨fun h => by rw [if_pos (hb.2 h)], fun h => by rw [if_neg (mt hb.1 h)]⟩
    · intro asked
      have hb : d.asks q sender = true ↔ asked := Directory.asks_iff
      refine ⟨fun hno => ?_, fun hyes => ?_⟩
      · have hf : d.asks q sender = false := Bool.eq_false_iff.2 (mt hb.1 hno)
        refine ⟨fun hm => ?_, fun hm => ?_, fun hm => execRspfwd_unasked ho hm hf⟩
        · rw [execRspi_asked ho hm, if_neg (mt hb.1 hno)]
        · rw [execRsps_asked ho hm, if_neg (mt hb.1 hno)]
      · have ha := hb.2 hyes
        refine ⟨fun hm hw => ?_, fun hm hw => ?_, fun hm => ?_, fun hm hq => execRspfwd_uncached ho hm ha hq,
          fun hm hs hr hq h0 => execRspfwd_shared ho hm ha hq h0 hs hr, fun hm hq => execRspfwd_taken ho hm ha hq⟩
        · rw [execRspi_asked ho hm, if_pos ha]
          exact congrArg Host.Outcome.next (if_pos hw)
        · rw [execRspi_asked ho hm, if_pos ha]
          exact congrArg Host.Outcome.next (if_neg (Bool.eq_false_iff.1 hw))
        · rw [execRsps_asked ho hm, if_pos ha]
  · intro answer none_ may
    refine ⟨fun hf opc => State.snoopable_of_host hf, fun i opc hi => ?_, fun l hl => ?_⟩
    · simp only [List.mem_cons, List.not_mem_nil, or_false, Prod.mk.injEq] at hi
      rcases hi with ⟨rfl, rfl⟩ | ⟨rfl, rfl⟩ | ⟨rfl, rfl⟩
      · exact ⟨execSnpinv_idle, fun hm hn => execSnpinv_miss hn hm⟩
      · exact ⟨execSnpfwds_idle, fun hm hn => execSnpfwds_miss hn hm⟩
      · exact ⟨execSnpfwdx_idle, fun hm hn => execSnpfwdx_miss hn hm⟩
    · intro dirty out
      have hd : l.dirty = true ↔ dirty := L2Line.dirty_iff
      refine ⟨fun hno => ?_, fun hyes => ?_⟩
      · have hb : l.dirty = false := Bool.eq_false_iff.2 (mt hd.1 hno)
        refine ⟨fun hm => ?_, fun hm => ?_, fun hm => ?_⟩
        · exact (execSnpinv_hit hl hm).trans (by rw [hb]; rfl)
        · exact (execSnpfwds_hit hl hm).trans (by rw [hb]; rfl)
        · exact (execSnpfwdx_hit hl hm).trans (by rw [hb]; rfl)
      · have hb := hd.2 hyes
        refine ⟨fun hm => ?_, fun hm => ?_, fun hm => ?_⟩
        · exact (execSnpinv_hit hl hm).trans (by rw [hb]; rfl)
        · exact (execSnpfwds_hit hl hm).trans (by rw [hb]; rfl)
        · exact (execSnpfwdx_hit hl hm).trans (by rw [hb]; rfl)
  · refine ⟨exec_answer_unexpected, fun r hr => ?_⟩
    intro far done
    exact ⟨fun hf ha opc => State.arriving_far hr hf ha, fun i st opc got => exec_grant_taken hr, fun i st => exec_grant_unexpected hr,
      fun l hd => execCmp_upgraded hr hd, execCmp_writtenBack hr, fun hd hf h56 hm hp => execCmp_performed hr hd hf h56 hm hp, execCmp_waits hr,
      fun k seq got => execDatu_receives hr, fun c hl => execAcknowledgementTimeout_halts hr hl, execAcknowledgementTimeout_idle hr⟩
  · refine ⟨execXlrsp_unexpected, fun r rest hr ht => ?_, execXlinv_answered, execXlinv_drops, execXlinvcmp_none, fun x rest hx ht => ?_⟩
    · intro n late
      refine ⟨fun hl => ?_, fun hl => ?_, execXlrsp_unasked hr ht, execXlrsp_dead hr ht, fun ha hb hd =>
        ⟨fun hs => ⟨_, execXlrsp_stale hr ht ha hb hd hs, rfl, rfl, rfl, XlReq.renewed⟩, execXlrsp_fills hr ht ha hb hd⟩⟩
      · rw [execTranslationLinkTimeout_eq hr ht, if_pos hl]
      · rw [execTranslationLinkTimeout_eq hr ht, if_neg hl]
    · rw [execXlinvcmp_eq hx ht]
      exact ⟨fun hb => by rw [hb]; rfl, fun hb => by rw [hb]; rfl⟩
  · refine ⟨execFlit_idle, execFlit_undefined, execFlit_partial, fun u hu hrx hd hl => execFlit_whole hu hrx hd hl,
      fun hu => ⟨_, execFlit_fails hu, rfl, rfl, State.linkFailed_daily⟩, execLinkTraining_idle, execLinkTraining_ends,
      ⟨execRetrainTimeout_idle, fun hl => ⟨_, execRetrainTimeout_fails hl, State.linkFailed_daily, rfl⟩⟩, fun ht ha => ?_, fun ha ht => ?_,
      execPresentcmp_unexpected, execPresent_presents, execPresent_idle⟩
    · rw [execPresentcmp_eq ht, ha]
      rfl
    · rw [execPresentcmp_eq ht, ha]
      rfl

end Sys2Proof.Machine
